-- ==== Sys2Proof/Word.lean ====
section
/-! DEFINITION. The word types of the block and its unit numbers (R5, R24, Table 1.7). -/

namespace Sys2Proof

abbrev Byte := BitVec 8
abbrev W16 := BitVec 16
abbrev W32 := BitVec 32
abbrev W64 := BitVec 64

/-- Unit numbers of Table 1.7 (R24). A number outside a table's range names no unit, so each is bounded by its type. -/
abbrev CoreNo := Fin 192
/-- Residency slot of a group on its core (R145). -/
abbrev SlotNo := Fin 64
/-- A quad of a core (R5). -/
abbrev QuadNo := Fin 2
/-- Optical port (R16). -/
abbrev PortNo := Fin 16
/-- HBM stack (R15). -/
abbrev StackNo := Fin 12
/-- Compute die. -/
abbrev DieNo := Fin 4
/-- Link die. -/
abbrev LinkDieNo := Fin 2
/-- Host port (R306). -/
abbrev HostPortNo := Fin 4
/-- A function by its FUNC code: host port in [11:10], 0 for the PF or the VF number in [9:0] (Table 14.1). -/
abbrev FnNo := Fin 4096
/-- Stall ID (R341). -/
abbrev StallNo := Fin 4096
/-- Global ring number (R309, R352). -/
abbrev RingNo := Fin 65536
/-- Update engine and cache slice (R229). -/
abbrev EngineNo := Fin 64

/-- Symbols in error of a codeword that a command reads (R200): data byte i is symbol i, check symbol c_j is 32 + j; and what was XORed in. -/
abbrev SymErrs := List (Fin 36 × Byte)

end Sys2Proof
end

