-- ==== Sys2Proof/Syntax.lean ====
section
/-! DEFINITION. The commands the block takes: one constructor of `Instr` per row of spec/opcode_table.json, with the
operands the row's rule needs. What comes from outside the block (data a host returns, the contents of a flit, a measured
temperature, the verdict of an algorithm that an external standard defines) is an operand. -/

namespace Sys2Proof

/-- How a read or write of host memory can fail (R336, event 0x0103). -/
inductive HostFail where
  | untranslatable
  | errorCompletion
  | ideFailure
  deriving DecidableEq, Repr

/-- What a host answers to a read of bytes. -/
inductive HostBytes where
  | bytes (l : List Byte)
  | fail (c : HostFail)
  deriving DecidableEq, Repr

/-- An access of the host to a BAR (R308, R317): a write or a read of so many bytes in the kick aperture, or an AtomicOp to either BAR. -/
inductive BarAccess where
  | write (size : Nat)
  | read (size : Nat)
  | atomicOp
  deriving DecidableEq, Repr

/-- What the host took of a completion: the record and its interrupt, not the record, or the record but not the interrupt (R336). -/
inductive Delivery where
  | all
  | noRecord
  | noInterrupt
  deriving DecidableEq, Repr

/-- The half of a 64-bit register that an access names (R456). -/
inductive RegPart where
  | whole
  | low
  | high
  deriving DecidableEq, Repr

/-- A String fabric packet (R263): the transaction header of Table 11.10 and the payload. -/
structure Pkt where
  w0 : W64
  w1 : W64
  w2 : W64
  w3 : W64
  data : List Byte := []
  poisoned : Bool := false
  deriving DecidableEq, Repr

/-- A flit as a receiver sees it (R249, R250, R253, R270): header, body, CRC, the symbols in error of each codeword that it touches, whether its
GCM tag verifies, and whether it verifies under the receiver's old key. -/
structure Flit where
  hdr : W32
  body : List Byte
  crc : W32
  errs : List Nat := []
  tagOk : Bool := true
  oldKey : Bool := false
  deriving DecidableEq, Repr

/-- A flow of a plan's flow table (R252, R259). -/
structure FlowEnt where
  dst : BitVec 20 := 0
  stall : BitVec 12 := 0
  coll : W16 := 0
  deriving DecidableEq, Repr

/-- The registers of Table 16.6, the tuning registers (R459), with the two route tables as lists of (destination, port)
for the destinations that a port reaches (R269; 31, unreachable, for every other). -/
structure TunRegs where
  lbPart : W32 := 0xE0603820
  bridge : W32 := 0x31
  fabCtl : List (Nat × W32) := []
  fabId : W32 := 0xFFFFF
  strCtl : W32 := 0x8001FFFF
  strWire : W32 := 0
  strFretLen : W32 := 1
  memCfg : W32 := 0x000C1800
  pinLease : W32 := 0x00100000
  timer : W32 := 0x200F4240
  mtxCheck : W32 := 0x2281E002
  feat : W32 := 0
  portCfg : W32 := 0
  vfTotal : List (Nat × W32) := [(0, 0x3FC)]
  pwrCap : W32 := 0x960
  pwrBrake : W32 := 0x80000100
  secCtl : W32 := 0
  route0 : List (Nat × Nat) := []
  route1 : List (Nat × Nat) := []
  deriving DecidableEq, Repr

/-- What a window holds for one output at the end of a pass (R106, R107): a special value, or its sign, its 56-bit magnitude and its
alignment a, the least significant bit weighing 2^(a − 50). -/
inductive WinSum where
  | nan
  | inf (neg : Bool)
  | fin (neg : Bool) (mag : BitVec 56) (a : Int)
  deriving DecidableEq, Repr

/-- A defect of an array: what its window ends with for output (m, n), in the owner's array or in the shadow array (R384). -/
structure SumErr where
  shadow : Bool
  m : Nat
  n : Nat
  sum : WinSum
  deriving DecidableEq, Repr

/-- A record of a tuning image's body (R399) as it stands in the image: its bytes, header and data; or, for a record of many equal bytes such as a route
table, its 8 header bytes, how many data bytes follow, the byte that most of them are, and the others by place. -/
inductive TunRec where
  | bytes (l : List Byte)
  | fill (hdr : List Byte) (n : Nat) (byte : Byte) (cells : List (Nat × Byte))
  deriving DecidableEq, Repr

/-- A tuning image (R398, R399): the 64 bytes of its header, the records of its body in their order, the verdicts of its two signatures
under the key pair its header names, and the SHA-384 digest of header and body. -/
structure TunImg where
  hdr : List Byte
  recs : List TunRec
  rsaOk : Bool
  slhOk : Bool
  digest : BitVec 384
  deriving DecidableEq, Repr

/-- A firmware image (R425): the 64 bytes of its header, its body, its two signatures, and what their verification under the vendor keys
comes to (RSA-PSS and SLH-DSA are external standards: log entry 110). -/
structure FwImg where
  hdr : List Byte
  body : List Byte := []
  rsaSig : List Byte := List.replicate 384 0
  slhSig : List Byte := List.replicate 16224 0
  rsaOk : Bool
  slhOk : Bool
  deriving DecidableEq, Repr

/-- An IDE_KM request about one sub-stream of a direction of a stream (R435, PCIe IDE_KM): a key is programmed into a set, the set goes into use, or the
sub-stream stops. `set` is K1, `rx` the receive direction, `sub` posted, non-posted or completion. -/
inductive IdeKm where
  | prog (set rx : Bool) (sub : Fin 3) (key : BitVec 256)
  | go (set rx : Bool) (sub : Fin 3)
  | stop (rx : Bool) (sub : Fin 3)
  deriving DecidableEq, Repr

/-- A record of KEY_ADD or KEY_REVOKE (R431): its signed bytes, the 8-byte prefix of its signature block, and the verdicts of the two signatures
under the key pair of the slot that byte 1 of the prefix names. -/
structure KeyRec where
  body : List Byte
  pre : List Byte
  rsaOk : Bool
  slhOk : Bool
  deriving DecidableEq, Repr

/-- A debug token (R440): its 64 signed bytes and the verdicts of its signatures under the keys of `signer`; none means the vendor keys. -/
structure DebugTok where
  body : List Byte
  signer : Option (Fin 4)
  rsaOk : Bool
  slhOk : Bool
  deriving DecidableEq, Repr

/-- A scan of the test access port (R439, R473): its instruction, and the bits shifted in. -/
inductive TapScan where
  | idcode
  | bypass (tdi : List Bool)
  | other (ir : Nat) (tdi : List Bool)
  deriving DecidableEq, Repr

/-- What a fetch from a host brings to an operation that reads an image or record there. -/
inductive HostGot (α : Type) where
  | got (a : α)
  | fail
  deriving DecidableEq, Repr

/-- The two ends of a firmware write (R427, R463): the image is taken and verified, and the write to the flash ends. -/
inductive FwStep where
  | start (img : HostGot FwImg)
  | finish (flashOk : Bool)
  deriving DecidableEq, Repr

/-- What reaches the debug logic: a token, which a function's host memory holds (R440), or a scan of the TAP (log 148). -/
inductive DebugReq where
  | token (t : HostGot DebugTok)
  | tap (r : TapScan)
  deriving DecidableEq, Repr

/-- The path of a management message (R450, R451). -/
inductive MgmtPath where
  | smbus (addr : BitVec 7)
  | i3c (addr : BitVec 7)
  | vdm (p : HostPortNo)
  deriving DecidableEq, Repr

/-- A request of MCTP control, or on I3C the assignment of the endpoint's dynamic address (R450). -/
inductive MctpReq where
  | getEid
  | setEid (eid : Byte)
  | setAddr (addr : BitVec 7)
  deriving DecidableEq, Repr

/-- A request of PLDM platform monitoring (R451): a sensor's reading, or whether this bus owner is to get platform event messages. -/
inductive PlatformReq where
  | sensor (id : Byte)
  | events (on : Bool)
  deriving DecidableEq, Repr

/-- The connection of an SPDM message (R436). -/
inductive SpdmConn where
  | doe (f : FnNo)
  | mctp
  deriving DecidableEq, Repr

/-- The standard SPDM requests the block answers (R436). -/
inductive SpdmReq where
  | version
  | capabilities
  | algorithms
  | digests
  | certificate (slot : Byte) (off len : W16)
  | challenge (slot : Byte)
  | measurements (idx : Byte) (signed : Bool)
  | keyExchange
  | finish
  | keyUpdate
  | endSession
  | other (code : Byte)
  deriving DecidableEq, Repr

/-- A part with a temperature sensor (R446). -/
inductive ThermUnit where
  | compute (d : DieNo)
  | link (l : LinkDieNo)
  | stack (k : StackNo)
  | optic (e : PortNo)
  deriving DecidableEq, Repr

/-- The conditions of R219 in operation, in the order of its list (2 to 5; 1 is met at boot). -/
inductive StackCause where
  | phy
  | linkDrop
  | silent
  | uncorrectable
  | secondPin
  deriving DecidableEq, Repr

/-- What power-on or a device reset finds (R417, R418): the SHA-384 digests of the two vendor keys that the factory layer holds
and the verdicts of its two signatures under them (R424), of each die's self-test (compute dies 0 to
3, link dies 0 and 1), of each stack's PHY training and of each optical engine. -/
structure BootIn where
  rsaKey : BitVec 384 := 0
  slhKey : BitVec 384 := 0
  rsaOk : Bool := true
  slhOk : Bool := true
  diesOk : BitVec 6
  stacksOk : BitVec 12
  enginesOk : BitVec 16 := 0xFFFF
  deriving DecidableEq, Repr

/-- One measurement of the slow loop (R443): power per die and of everything else, in W, and energy per die in µJ. -/
structure PowerIn where
  pDie : List Nat
  pOther : Nat
  energy : List Nat
  deriving DecidableEq, Repr

/-- How a fetch of a golden block ended (R207, R208). -/
inductive FetchEnd where
  | data (l : List Byte)
  | unreachable
  | error
  deriving DecidableEq, Repr

/-- Units of a memory in error as a command reads them, by number, with their symbols in error (R199 to R201). -/
abbrev UnitErrs := List (Nat × SymErrs)

/-- The commands: one constructor per row of spec/opcode_table.json, in the table's order. -/
inductive Instr where
  /-- WIRE_EDGE (R30). -/
  | wireEdge (off : Int) (per : Nat)
  /-- WIRE_SOURCE_TIMEOUT (R35). -/
  | wireSourceTimeout
  /-- FABRIC_SOURCE_TIMEOUT (R35). -/
  | fabricSourceTimeout (p : PortNo)
  /-- STRING_BOUNDARY (R31). -/
  | stringBoundary
  /-- HOLDOVER_EXPIRY (R36). -/
  | holdoverExpiry
  /-- STRING_LOST_STOP (R38). -/
  | stringLostStop
  /-- STR_COUNT_LOAD_WRITE (R41). -/
  | strCountLoadWrite (f : FnNo) (part : RegPart) (v : W64)
  /-- PHASE_SEND (R269). -/
  | phaseSend (txOff : List W32)
  /-- PHASE (R269). -/
  | phase (p : PortNo) (count : BitVec 48) (strat : BitVec 4) (len : BitVec 2) (txOff : W32) (rxAt : W32)
  /-- LASER_POWER_SAMPLE (R18). -/
  | laserPowerSample (e : PortNo) (w0 : Int) (w1 : Int)
  /-- MXI (R157). -/
  | mxi (c : CoreNo) (g : SlotNo) (w : W64)
  /-- HELD_ISSUE_RETRY (R158). -/
  | heldIssueRetry (c : CoreNo) (g : SlotNo)
  /-- PASS_START (R91). -/
  | passStart (c : CoreNo) (q : QuadNo) (bad : Bool)
  /-- PASS_END (R117). -/
  | passEnd (c : CoreNo) (k : Fin 64) (bad : Bool) (us : UnitErrs) (errs : List SumErr)
  /-- PASS_COMPLETE (R90). -/
  | passComplete (c : CoreNo) (k : Fin 64)
  /-- NOP (R151). -/
  | nop (c : CoreNo) (g : SlotNo) (w : W64)
  /-- IADD (R151). -/
  | iadd (c : CoreNo) (g : SlotNo) (w : W64) (bad : Bool)
  /-- IADDI (R151). -/
  | iaddi (c : CoreNo) (g : SlotNo) (w : W64) (bad : Bool)
  /-- ISUB (R151). -/
  | isub (c : CoreNo) (g : SlotNo) (w : W64) (bad : Bool)
  /-- IMUL (R151). -/
  | imul (c : CoreNo) (g : SlotNo) (w : W64) (bad : Bool)
  /-- IMAD (R151). -/
  | imad (c : CoreNo) (g : SlotNo) (w : W64) (bad : Bool)
  /-- IDIV (R152). -/
  | idiv (c : CoreNo) (g : SlotNo) (w : W64)
  /-- IMINMAX (R151). -/
  | iminmax (c : CoreNo) (g : SlotNo) (w : W64)
  /-- LOP (R151). -/
  | lop (c : CoreNo) (g : SlotNo) (w : W64)
  /-- LOPI (R151). -/
  | lopi (c : CoreNo) (g : SlotNo) (w : W64)
  /-- SHF (R151). -/
  | shf (c : CoreNo) (g : SlotNo) (w : W64)
  /-- BITS (R151). -/
  | bits (c : CoreNo) (g : SlotNo) (w : W64)
  /-- MOVI (R151). -/
  | movi (c : CoreNo) (g : SlotNo) (w : W64)
  /-- MOV (R151). -/
  | mov (c : CoreNo) (g : SlotNo) (w : W64)
  /-- SEL (R151). -/
  | sel (c : CoreNo) (g : SlotNo) (w : W64)
  /-- FADD (R152). -/
  | fadd (c : CoreNo) (g : SlotNo) (w : W64)
  /-- FMUL (R152). -/
  | fmul (c : CoreNo) (g : SlotNo) (w : W64)
  /-- FFMA (R152). -/
  | ffma (c : CoreNo) (g : SlotNo) (w : W64)
  /-- FADDI (R151). -/
  | faddi (c : CoreNo) (g : SlotNo) (w : W64)
  /-- FMULI (R151). -/
  | fmuli (c : CoreNo) (g : SlotNo) (w : W64)
  /-- FMINMAX (R152). -/
  | fminmax (c : CoreNo) (g : SlotNo) (w : W64)
  /-- XFN (R152). -/
  | xfn (c : CoreNo) (g : SlotNo) (w : W64)
  /-- FDIV (R152). -/
  | fdiv (c : CoreNo) (g : SlotNo) (w : W64)
  /-- HOP2 (R152). -/
  | hop2 (c : CoreNo) (g : SlotNo) (w : W64)
  /-- CVT (R153). -/
  | cvt (c : CoreNo) (g : SlotNo) (w : W64)
  /-- RNG (R153). -/
  | rng (c : CoreNo) (g : SlotNo) (w : W64)
  /-- SHFL (R152). -/
  | shfl (c : CoreNo) (g : SlotNo) (w : W64)
  /-- VOTE (R151). -/
  | vote (c : CoreNo) (g : SlotNo) (w : W64)
  /-- ICMP (R151). -/
  | icmp (c : CoreNo) (g : SlotNo) (w : W64)
  /-- FCMP (R151). -/
  | fcmp (c : CoreNo) (g : SlotNo) (w : W64)
  /-- PCOMB (R151). -/
  | pcomb (c : CoreNo) (g : SlotNo) (w : W64)
  /-- LDL (R161). -/
  | ldl (c : CoreNo) (g : SlotNo) (w : W64) (bad : Bool) (errs : SymErrs)
  /-- STL (R161). -/
  | stl (c : CoreNo) (g : SlotNo) (w : W64) (bad : Bool)
  /-- LDG (R163). -/
  | ldg (c : CoreNo) (g : SlotNo) (w : W64) (bad : Bool)
  /-- GLOBAL_LOAD_RETURN (R163). -/
  | globalLoadReturn (c : CoreNo) (k : Nat) (errs : SymErrs)
  /-- STG (R163). -/
  | stg (c : CoreNo) (g : SlotNo) (w : W64) (bad : Bool)
  /-- FENCE (R164). -/
  | fence (c : CoreNo) (g : SlotNo) (w : W64)
  /-- NCINV (R163). -/
  | ncinv (c : CoreNo) (g : SlotNo) (w : W64)
  /-- PREF (R163). -/
  | pref (c : CoreNo) (g : SlotNo) (w : W64) (bad : Bool) (us : UnitErrs)
  /-- ATOMG (R166). -/
  | atomg (c : CoreNo) (g : SlotNo) (w : W64) (bad : Bool) (res : Fin 3) (us : UnitErrs)
  /-- REDG (R166). -/
  | redg (c : CoreNo) (g : SlotNo) (w : W64) (bad : Bool) (res : Fin 3) (us : UnitErrs)
  /-- ATOML (R166). -/
  | atoml (c : CoreNo) (g : SlotNo) (w : W64) (bad : Bool)
  /-- BRA (R154). -/
  | bra (c : CoreNo) (g : SlotNo) (w : W64)
  /-- BRX (R155). -/
  | brx (c : CoreNo) (g : SlotNo) (w : W64)
  /-- CALL (R151). -/
  | call (c : CoreNo) (g : SlotNo) (w : W64)
  /-- EXIT (R156). -/
  | exit (c : CoreNo) (g : SlotNo) (w : W64)
  /-- BAR (R160). -/
  | bar (c : CoreNo) (g : SlotNo) (w : W64)
  /-- TRAP (R151). -/
  | trap (c : CoreNo) (g : SlotNo) (w : W64)
  /-- YIELD (R151). -/
  | yield (c : CoreNo) (g : SlotNo) (w : W64)
  /-- VXI (R157). -/
  | vxi (c : CoreNo) (g : SlotNo) (w : W64)
  /-- CXI (R157). -/
  | cxi (c : CoreNo) (g : SlotNo) (w : W64)
  /-- TWAIT (R159). -/
  | twait (c : CoreNo) (g : SlotNo) (w : W64)
  /-- TREAD (R151). -/
  | tread (c : CoreNo) (g : SlotNo) (w : W64)
  /-- SREG (R148). -/
  | sreg (c : CoreNo) (g : SlotNo) (w : W64)
  /-- BLOCK_START (R145). -/
  | blockStart (c : CoreNo) (b : Nat)
  /-- CONTEXT_KILL_DONE (R169). -/
  | contextKillDone (c : CoreNo)
  /-- WATCHDOG_EXPIRED (R171). `hw`: a fault of the hardware kept its groups from retiring (R393). -/
  | watchdogExpired (c : CoreNo) (hw : Bool)
  /-- CONTEXT_END (R156). -/
  | contextEnd (c : CoreNo)
  /-- VEC_CVT (R182). -/
  | vecCvt (c : CoreNo) (us : UnitErrs)
  /-- VEC_ADD (R179). -/
  | vecAdd (c : CoreNo) (us : UnitErrs)
  /-- VEC_MUL (R179). -/
  | vecMul (c : CoreNo) (us : UnitErrs)
  /-- VEC_FMA (R179). -/
  | vecFma (c : CoreNo) (us : UnitErrs)
  /-- VEC_MIN (R179). -/
  | vecMin (c : CoreNo) (us : UnitErrs)
  /-- VEC_MAX (R179). -/
  | vecMax (c : CoreNo) (us : UnitErrs)
  /-- VEC_CMP (R183). -/
  | vecCmp (c : CoreNo) (us : UnitErrs)
  /-- VEC_SEL (R179). -/
  | vecSel (c : CoreNo) (us : UnitErrs)
  /-- VEC_RED (R181). -/
  | vecRed (c : CoreNo) (us : UnitErrs)
  /-- VECTOR_DESC_COMPLETE (R174). -/
  | vectorDescComplete (c : CoreNo)
  /-- PATROL_READ (R203). -/
  | patrolRead (k : StackNo) (off : Nat) (errs : SymErrs)
  /-- STACK_FAIL (R219). -/
  | stackFail (k : StackNo) (cause : StackCause)
  /-- HBM_THERMAL_SAMPLE (R211). -/
  | hbmThermalSample (k : StackNo) (t : Int)
  /-- REFILL_START (R207). -/
  | refillStart
  /-- REFILL_FETCH_DONE (R207). -/
  | refillFetchDone (b : Nat) (r : FetchEnd)
  /-- HELD_READ_TIMEOUT (R207). -/
  | heldReadTimeout (k : Nat)
  /-- PIN_LEASE_EXPIRY (R390). -/
  | pinLeaseExpiry (st : StallNo) (base : Nat)
  /-- OPEN (R214). -/
  | open_ (r : RingNo)
  /-- CLOSE (R216). -/
  | close (r : RingNo)
  /-- CLOSE_ADD_BACK_DONE (R216). -/
  | closeAddBackDone (st : StallNo)
  /-- NORM (R236). -/
  | norm (r : RingNo)
  /-- NORM_DONE (R236). -/
  | normDone (st : StallNo) (us : UnitErrs)
  /-- APPLY (R240). -/
  | apply (r : RingNo)
  /-- APPLY_HOLD_DRAINED (R240). -/
  | applyHoldDrained (st : StallNo)
  /-- APPLY_GATE_OPEN (R240). -/
  | applyGateOpen (st : StallNo)
  /-- UPDATE_ENGINE_LINE (R240). -/
  | updateEngineLine (st : StallNo) (e : EngineNo) (us : UnitErrs)
  /-- APPLY_COMMIT_DONE (R240). -/
  | applyCommitDone (st : StallNo)
  /-- GATE_TIMEOUT (R241). -/
  | gateTimeout (st : StallNo)
  /-- EMIT (R238). -/
  | emit (r : RingNo)
  /-- EMIT_DONE (R238). -/
  | emitDone (st : StallNo)
  /-- ABANDON (R243). -/
  | abandon (r : RingNo)
  /-- PIPELINE_CHOOSE (R227). -/
  | pipelineChoose (st : StallNo) (pipe : Fin 16)
  /-- FLIT_RECEIVE (R253). -/
  | flitReceive (p : PortNo) (x : Flit)
  /-- NAK_RESEND_TIMEOUT (R253). -/
  | nakResendTimeout (p : PortNo)
  /-- FLIT_SLOT_TRANSMIT (R260). -/
  | flitSlotTransmit (p : PortNo)
  /-- NAK (R254). -/
  | nak (p : PortNo) (seq : BitVec 12)
  /-- CREDIT (R256). -/
  | credit (p : PortNo) (c0 : W16) (c1 : W16) (c2 : W16) (c3 : W16)
  /-- TRAIN (R271). -/
  | train (p : PortNo) (id : BitVec 20) (kind : Byte) (len : Byte) (enc : Bool) (c0 : W16) (c1 : W16) (c2 : W16) (c3 : W16) (lat : W16)
  /-- DELAY_REQ (R269). -/
  | delayReq (p : PortNo) (idx : Fin 16) (t1 : W32) (t2 : W32) (t3 : W32)
  /-- DELAY_RSP (R269). -/
  | delayRsp (p : PortNo) (idx : Fin 16) (t1 : W32) (t2 : W32) (t3 : W32) (t4 : W32)
  /-- DELAY_MEASURE_START (R269). -/
  | delayMeasureStart (p : PortNo) (ts : List W32)
  /-- PLAN_ENTRIES (R252). -/
  | planEntries (p : PortNo) (tag : W16) (first : Byte) (count : Byte) (es : List W16)
  /-- FLOW_ENTRIES (R252). -/
  | flowEntries (p : PortNo) (tag : W16) (first : Byte) (count : Byte) (es : List FlowEnt)
  /-- PLAN_SEND (R262). -/
  | planSend (p : PortNo) (tag : W16) (es : List (Nat × W16)) (fs : List (Nat × FlowEnt)) (at_ : W64)
  /-- PLAN_ACK (R262). -/
  | planAck (p : PortNo) (ctype : Byte) (tag : W16)
  /-- PLAN_NAK (R262). -/
  | planNak (p : PortNo) (ctype : Byte) (tag : W16) (first : Byte) (why : Byte)
  /-- SWITCH (R262). -/
  | switch (p : PortNo) (tag : W16) (at_ : W64)
  /-- SWITCH_WITHDRAW (R262). -/
  | switchWithdraw (p : PortNo)
  /-- PLAN_SWITCH (R262). -/
  | planSwitch (p : PortNo)
  /-- KEY_NONCE (R433). -/
  | keyNonce (p : PortNo) (n : BitVec 256)
  /-- KEY_CONFIRMATION (R433). -/
  | keyConfirmation (p : PortNo) (ok : Bool)
  /-- DOWN (R257). -/
  | down (p : PortNo) (why : Byte)
  /-- LATE_ACK (R255). -/
  | lateAck (p : PortNo)
  /-- LATE_ACK_LIMIT (R255). -/
  | lateAckLimit (p : PortNo)
  /-- REPLAY_LIMIT (R257). -/
  | replayLimit (p : PortNo)
  /-- FEC_LIMIT (R257). -/
  | fecLimit (p : PortNo) (bad : Nat) (total : Nat)
  /-- TAG_FAILURE_LIMIT (R270). -/
  | tagFailureLimit (p : PortNo)
  /-- SILENT_TIMEOUT (R257). -/
  | silentTimeout (p : PortNo)
  /-- REKEY (R270). -/
  | rekey (p : PortNo)
  /-- RETRAIN_BACKOFF_EXPIRY (R258). -/
  | retrainBackoffExpiry (p : PortNo)
  /-- TRAINING_STEP_TIMEOUT (R271). -/
  | trainingStepTimeout (p : PortNo) (step : Fin 10) (chan : Option (Fin 16))
  /-- LINK_UP (R271). -/
  | linkUp (p : PortNo)
  /-- RETRAIN (R273). -/
  | retrain (f : FnNo) (p : PortNo)
  /-- PUT (R264). -/
  | put (p : PortNo) (x : Pkt)
  /-- GET_REQ (R264). -/
  | getReq (p : PortNo) (x : Pkt) (us : UnitErrs)
  /-- REDUCE_PUT (R264). -/
  | reducePut (p : PortNo) (x : Pkt) (res : Fin 3)
  /-- PERMUTE_PACKET (R264). -/
  | permutePacket (p : PortNo) (x : Pkt)
  /-- GET_RSP (R266). -/
  | getRsp (p : PortNo) (x : Pkt)
  /-- PUT_DONE (R266). -/
  | putDone (p : PortNo) (x : Pkt)
  /-- COLLECTIVE_PACKET_RECEIVE (R287). -/
  | collectivePacketReceive (p : PortNo) (x : Pkt) (res : Fin 3)
  /-- SEGMENT_FORWARD (R282). -/
  | segmentForward (st : StallNo) (coll : W16) (shard : Nat) (off : Nat) (errs : SymErrs) (res : Fin 3)
  /-- PASS (R295). -/
  | pass (p : PortNo) (x : Pkt) (us : UnitErrs) (res : Fin 3)
  /-- STEP_PASS (R299). -/
  | stepPass (p : PortNo) (x : Pkt)
  /-- RETRACT (R298). -/
  | retract (p : PortNo) (x : Pkt)
  /-- LEAVE (R301). -/
  | leave (p : PortNo) (x : Pkt)
  /-- SEAL_QUERY (R292). -/
  | sealQuery (p : PortNo) (x : Pkt) (errs : SymErrs)
  /-- SEAL_NONE (R292). -/
  | sealNone (p : PortNo) (x : Pkt)
  /-- SEAL_QUERY_TIMEOUT (R292). -/
  | sealQueryTimeout (st : StallNo) (coll : W16)
  /-- ALL_REDUCE (R282). -/
  | allReduce (r : RingNo)
  /-- REDUCE_SCATTER (R282). -/
  | reduceScatter (r : RingNo)
  /-- ALL_GATHER (R282). -/
  | allGather (r : RingNo)
  /-- BROADCAST (R282). -/
  | broadcast (r : RingNo)
  /-- ALL_TO_ALL (R285). -/
  | allToAll (r : RingNo)
  /-- PERMUTE (R290). -/
  | permute (r : RingNo)
  /-- STEPSET (R299). -/
  | stepset (r : RingNo)
  /-- COLLECTIVE_START (R286). -/
  | collectiveStart (st : StallNo) (coll : W16)
  /-- PASS_SEND (R294). -/
  | passSend (st : StallNo) (coll : W16) (us : UnitErrs) (res : Fin 3)
  /-- STEP_PASS_SEND (R299). -/
  | stepPassSend (st : StallNo)
  /-- STEP_PASS_RESEND (R391). -/
  | stepPassResend (st : StallNo)
  /-- PERMUTE_COMMIT (R290). -/
  | permuteCommit (st : StallNo) (coll : W16) (us : UnitErrs)
  /-- COLLECTIVE_COMPLETE (R295). -/
  | collectiveComplete (st : StallNo) (coll : W16) (us : UnitErrs) (res : Fin 3)
  /-- COLLECTIVE_DEADLINE (R300). -/
  | collectiveDeadline (st : StallNo) (coll : W16)
  /-- RETRACTED_COLLECTIVE_END (R298). -/
  | retractedCollectiveEnd (st : StallNo) (coll : W16)
  /-- LEAVE_END (R301). -/
  | leaveEnd (st : StallNo) (coll : W16)
  /-- KICK (R317). -/
  | kick (f : FnNo) (acc : BarAccess) (v : W32) (via : Option (Fin 32))
  /-- DOORBELL_SCAN (R319). -/
  | doorbellScan (f : FnNo) (page : Byte) (r : HostBytes)
  /-- DOORBELL_READ (R315). -/
  | doorbellRead (r : RingNo) (x : HostBytes)
  /-- DESCRIPTOR_READ (R316). -/
  | descriptorRead (r : RingNo) (x : HostBytes)
  /-- SEQ_REREAD (R316). -/
  | seqReread (r : RingNo) (x : HostBytes)
  /-- KERNEL_LAUNCH (R321). -/
  | kernelLaunch (r : RingNo)
  /-- COPY (R322). -/
  | copy (r : RingNo) (x : HostBytes) (us : UnitErrs)
  /-- ACCUM_COPY (R322). -/
  | accumCopy (r : RingNo) (x : HostBytes) (res : Fin 3) (us : UnitErrs)
  /-- FILL (R322). -/
  | fill (r : RingNo) (x : HostBytes)
  /-- VECTOR_STREAM (R323). -/
  | vectorStream (r : RingNo)
  /-- MATRIX_STREAM (R323). -/
  | matrixStream (r : RingNo)
  /-- STREAM_ENTRIES_DONE (R323). -/
  | streamEntriesDone (c : CoreNo)
  /-- FENCE_DESC (R324). -/
  | fenceDesc (r : RingNo)
  /-- SIGNAL (R324). -/
  | signal (r : RingNo)
  /-- WAIT (R324). -/
  | wait (r : RingNo)
  /-- EVENT_WAIT_SATISFIED (R324). -/
  | eventWaitSatisfied (r : RingNo)
  /-- WAIT_TIME (R324). -/
  | waitTime (r : RingNo)
  /-- WAIT_TIME_REACHED (R324). -/
  | waitTimeReached (r : RingNo)
  /-- EVENT_WAIT_TIMEOUT (R324). -/
  | eventWaitTimeout (r : RingNo)
  /-- TALLY_READ (R325). -/
  | tallyRead (r : RingNo) (x : HostBytes)
  /-- COMPLETION_RECORD (R329). -/
  | completionRecord (r : RingNo) (d : Delivery)
  /-- COALESCE_TIMEOUT (R334). -/
  | coalesceTimeout (r : RingNo) (delivered : Bool)
  /-- RING_CREATE (R310). -/
  | ringCreate (f : FnNo) (v : W32)
  /-- RING_STOP (R311). -/
  | ringStop (f : FnNo) (v : W32)
  /-- RING_STOP_DONE (R311). -/
  | ringStopDone (r : RingNo)
  /-- RING_RESUME (R311). -/
  | ringResume (f : FnNo) (v : W32)
  /-- RING_DESTROY (R311). -/
  | ringDestroy (f : FnNo) (v : W32)
  /-- FLR (R338). -/
  | flr (f : FnNo)
  /-- PERST (R472). -/
  | perst (p : HostPortNo)
  /-- HOST_PORT_LEAVES_L0 (R338). -/
  | hostPortLeavesL0 (p : HostPortNo) (ltssm : W64)
  /-- ATS_INVALIDATE (R308). -/
  | atsInvalidate (f : FnNo) (itag : Byte)
  /-- IDE_KM (R435). -/
  | ideKm (f : FnNo) (stream : Fin 32) (m : IdeKm) (ok : Bool)
  /-- IDE_INTEGRITY_FAILURE (R435). -/
  | ideIntegrityFailure (p : HostPortNo) (stream : Fin 32) (f : FnNo)
  /-- SPDM_REQUEST (R436). -/
  | spdmRequest (conn : SpdmConn) (q : SpdmReq)
  /-- SET_FABRIC_KEY (R434). -/
  | setFabricKey (conn : SpdmConn) (ours : Bool) (key : BitVec 256)
  /-- PQ_SIGN (R437). -/
  | pqSign (conn : SpdmConn) (ours : Bool)
  /-- GET_PQ_CERT (R437). -/
  | getPqCert (conn : SpdmConn) (ours : Bool) (off : W32) (len : W32)
  /-- LOCK_INTERFACE (R438). -/
  | lockInterface (f : FnNo) (stream : Fin 32)
  /-- START_INTERFACE (R438). -/
  | startInterface (f : FnNo)
  /-- STOP_INTERFACE (R438). -/
  | stopInterface (f : FnNo)
  /-- GET_INTERFACE_REPORT (R438). -/
  | getInterfaceReport (f : FnNo)
  /-- TDI_UNLOCK_DONE (R438). -/
  | tdiUnlockDone (f : FnNo)
  /-- STALL_CREATE (R342). -/
  | stallCreate (f : FnNo) (v : W32)
  /-- STALL_RESET (R366). -/
  | stallReset (f : FnNo) (v : W32)
  /-- STALL_RESET_DONE (R366). -/
  | stallResetDone (st : StallNo)
  /-- STALL_DESTROY (R367). -/
  | stallDestroy (f : FnNo) (v : W32)
  /-- ASSIGN (R344). -/
  | assign (f : FnNo) (v : W32)
  /-- INVAL (R348). -/
  | inval (f : FnNo) (v : W32)
  /-- SET_SHARE (R354). -/
  | setShare (f : FnNo) (v : W32)
  /-- SHARE (R362). -/
  | share (f : FnNo) (v : W32)
  /-- UNSHARE (R362). -/
  | unshare (f : FnNo) (v : W32)
  /-- FN_QUOTA (R352). -/
  | fnQuota (f : FnNo) (v : W32)
  /-- SET_RKEY (R351). -/
  | setRkey (f : FnNo) (v : W32)
  /-- GOLDEN_ADD (R363). -/
  | goldenAdd (f : FnNo) (v : W32)
  /-- GOLDEN_REMOVE (R363). -/
  | goldenRemove (f : FnNo) (v : W32)
  /-- SHARE_OFFER (R362). -/
  | shareOffer (f : FnNo) (v : W32)
  /-- SHARE_WITHDRAW (R362). -/
  | shareWithdraw (f : FnNo) (v : W32)
  /-- QUANTUM_END (R357). -/
  | quantumEnd (c : CoreNo)
  /-- CORE_GRANT (R357). -/
  | coreGrant
  /-- CONTEXT_SAVE (R358). -/
  | contextSave (c : CoreNo) (bad : Bool)
  /-- CONTEXT_RESTORE (R360). -/
  | contextRestore (c : CoreNo) (intact : Bool) (bad : Bool)
  /-- WINDOW_CLOSE (R377). -/
  | windowClose (st : StallNo)
  /-- LDG_CTL_WRITE (R374). -/
  | ldgCtlWrite (f : FnNo) (fn : Bool) (v : W32)
  /-- LDG_BASE_WRITE (R374). -/
  | ldgBaseWrite (f : FnNo) (fn : Bool) (part : RegPart) (v : W64)
  /-- RUN (R387). -/
  | run (f : FnNo) (v : W32)
  /-- FIELD_TEST_DONE (R387). -/
  | fieldTestDone (failed : W16)
  /-- CANCEL (R387). -/
  | cancel (f : FnNo) (v : W32)
  /-- FENCE_UNIT (R388). -/
  | fenceUnit (f : FnNo) (v : W32)
  /-- FENCE_TAKE_EFFECT (R388). -/
  | fenceTakeEffect
  /-- PLAN_ENTRY_LEASE_EXPIRY (R390). -/
  | planEntryLeaseExpiry (p : PortNo) (flow : Byte)
  /-- WINDOW_LEASE_EXPIRY (R390). -/
  | windowLeaseExpiry (st : StallNo) (win : Byte)
  /-- HELD_GET_LEASE_EXPIRY (R390). -/
  | heldGetLeaseExpiry (st : StallNo)
  /-- STAGE (R408). -/
  | stage (f : FnNo) (img : HostGot TunImg)
  /-- STAGE_DONE (R408). -/
  | stageDone (flashOk : Bool)
  /-- APPLY_LIVE (R409). -/
  | applyLive (f : FnNo)
  /-- TUNING_PREPARE_DONE (R409). -/
  | tuningPrepareDone (ok : Bool)
  /-- TUNING_SWITCH (R409). -/
  | tuningSwitch (bad : Option (Fin 32))
  /-- Q_POINT (R410). -/
  | qPoint (st : StallNo) (ok : Bool)
  /-- Q_LIMIT_EXPIRY (R410). -/
  | qLimitExpiry (st : StallNo) (ok : Bool)
  /-- TUNING_COMMIT (R409). -/
  | tuningCommit (flashOk : Bool)
  /-- TUNING_REVERT (R412). -/
  | tuningRevert (bad : Option (Fin 32))
  /-- APPLY_AT_RESET (R414). -/
  | applyAtReset (f : FnNo)
  /-- ROLLBACK (R414). -/
  | rollback (f : FnNo)
  /-- DISCARD (R414). -/
  | discard (f : FnNo)
  /-- CAPTURE (R415). -/
  | capture (f : FnNo)
  /-- RESET_DEVICE (R419). -/
  | resetDevice (f : FnNo) (b : BootIn)
  /-- UNSEALED_FIELD_APPLY (R415). -/
  | unsealedFieldApply
  /-- POWER_ON (R417). -/
  | powerOn (b : BootIn)
  /-- BOOT_READY (R417). -/
  | bootReady
  /-- BOOT_TIMEOUT (R417). -/
  | bootTimeout (b : BootIn)
  /-- POWER_DOWN (R470). -/
  | powerDown
  /-- CORE_RAIL_REMOVE (R470). -/
  | coreRailRemove
  /-- FW_WRITE (R427). -/
  | fwWrite (f : FnNo) (x : FwStep)
  /-- COMMIT_SVN (R428). -/
  | commitSvn (f : FnNo)
  /-- NONCE (R431). -/
  | nonce (f : FnNo)
  /-- KEY_ADD (R431). -/
  | keyAdd (f : FnNo) (k : HostGot KeyRec)
  /-- KEY_REVOKE (R431). -/
  | keyRevoke (f : FnNo) (k : HostGot KeyRec)
  /-- DEBUG_UNLOCK (R440). -/
  | debugUnlock (f : FnNo) (t : DebugReq)
  /-- SLOW_POWER_LOOP (R443). -/
  | slowPowerLoop (x : PowerIn)
  /-- PWR_CAP_OVR_WRITE (R442). -/
  | pwrCapOvrWrite (src : MgmtPath ⊕ FnNo) (v : W32)
  /-- DROOP (R444). -/
  | droop (d : DieNo)
  /-- DROOP_HOLD_EXPIRY (R444). -/
  | droopHoldExpiry (d : DieNo)
  /-- PWRBRAKE_ASSERT (R445). -/
  | pwrbrakeAssert
  /-- BRAKE_RELEASE (R445). -/
  | brakeRelease
  /-- BRAKE_RAMP_FRET (R445). -/
  | brakeRampFret
  /-- THERMAL_SAMPLE (R446). -/
  | thermalSample (u : ThermUnit) (t : Int)
  /-- MCTP_CONTROL (R450). -/
  | mctpControl (path : MgmtPath) (q : MctpReq)
  /-- PLDM_BASE_DISCOVERY (R451). -/
  | pldmBaseDiscovery (path : MgmtPath)
  /-- PLDM_GET_SENSOR (R451). -/
  | pldmGetSensor (path : MgmtPath) (q : PlatformReq)
  /-- DEVICE_RESET_EFFECTER (R451). -/
  | deviceResetEffecter (path : MgmtPath) (b : BootIn)
  /-- PLDM_FW_UPDATE (R451). -/
  | pldmFwUpdate (path : MgmtPath) (x : FwStep)
  /-- LEDGER_READ (R451). -/
  | ledgerRead (path : MgmtPath) (seq : W32)
  /-- REGISTER_WRITE (R9). -/
  | registerWrite (f : FnNo) (off : Nat) (size : Nat) (v : W64) (via : Option (Fin 32))
  /-- LOW_HALF_READ_LATCH (R456). -/
  | lowHalfReadLatch (f : FnNo) (off size : Nat) (via : Option (Fin 32))
  /-- DOORBELL_CONFIG_WRITE (R460). -/
  | doorbellConfigWrite (f : FnNo) (off : Nat) (size : Nat) (v : W64)
  /-- TUN_OP (R451). -/
  | tunOp (path : MgmtPath) (op : BitVec 4) (b : BootIn)
  /-- PERST_DEASSERT (R472). -/
  | perstDeassert (p : HostPortNo)
  /-- HOST_PORT_REACHES_L0 (R308). -/
  | hostPortReachesL0 (p : HostPortNo) (flitMode : Bool) (ltssm : W64)
  /-- VF_ENABLE (R307). -/
  | vfEnable (p : HostPortNo) (n : BitVec 10)
  /-- PWRBRAKE_DEASSERT (R445). -/
  | pwrbrakeDeassert
  /-- DROOP_SUPPLY_RECOVERY (R444). -/
  | droopSupplyRecovery (d : DieNo)
  /-- OLD_KEY_ACCEPT_EXPIRY (R433). -/
  | oldKeyAcceptExpiry (p : PortNo)
  deriving DecidableEq, Repr

end Sys2Proof
end

