-- ==== Sys2Proof/Machine/Tbl.lean ====
section
/-! DEFINITION. Sparse tables: a list of (key, value) pairs in ONE canonical form, keys strictly rising and no
value equal to what an unlisted key reads as. Memories and unit tables of the block are held in this form, so
that equal tables are equal data. -/

namespace Sys2Proof

/-- A sparse table from unit numbers or addresses to values. -/
abbrev Tbl (α : Type) := List (Nat × α)

/-- What key `k` holds: the listed value, or the default `d` where the key is not listed. -/
def tget {α : Type} (d : α) : List (Nat × α) → Nat → α
  | [], _ => d
  | (k', v) :: t, k => if k = k' then v else if k < k' then d else tget d t k

/-- Key `k` set to `v`; setting the default removes the entry. -/
def tset {α : Type} [DecidableEq α] (d : α) : List (Nat × α) → Nat → α → List (Nat × α)
  | [], k, v => if v = d then [] else [(k, v)]
  | (k', v') :: t, k, v =>
    if k = k' then (if v = d then t else (k', v) :: t)
    else if k < k' then (if v = d then (k', v') :: t else (k, v) :: (k', v') :: t)
    else (k', v') :: tset d t k v

/-- Every key of the table is at least `lo`, keys rise strictly, and no value is the default. -/
def twfFrom {α : Type} [DecidableEq α] (d : α) (lo : Nat) : List (Nat × α) → Bool
  | [] => true
  | (k, v) :: t => decide (lo ≤ k) && decide (v ≠ d) && twfFrom d (k + 1) t

/-- The canonical form of a table. -/
def twf {α : Type} [DecidableEq α] (d : α) (m : List (Nat × α)) : Bool := twfFrom d 0 m

/-- Key `k` changed by `f`. -/
def tmod {α : Type} [DecidableEq α] (d : α) (m : List (Nat × α)) (k : Nat) (f : α → α) : List (Nat × α) :=
  tset d m k (f (tget d m k))

/-- The entry with key `k` of an association list in any order, the first where there are several. -/
def afind? {α : Type} : List (Nat × α) → Nat → Option α
  | [], _ => none
  | (k', v) :: t, k => if k = k' then some v else afind? t k

/-- Every value mapped, values that become the default removed. -/
def tmapv {α : Type} [DecidableEq α] (d : α) (f : Nat → α → α) : List (Nat × α) → List (Nat × α)
  | [] => []
  | (k, v) :: t => if f k v = d then tmapv d f t else (k, f k v) :: tmapv d f t

/-- The entries with a key below `lo` or at or above `hi`: the keys from `lo` on, up to `hi`, read as the default. -/
def tclear {α : Type} (lo hi : Nat) (m : List (Nat × α)) : List (Nat × α) :=
  m.filter fun e => decide (e.1 < lo) || decide (hi ≤ e.1)

/-- Consecutive keys from `k` set to the values of the list. -/
def tsetMany {α : Type} [DecidableEq α] (d : α) (m : List (Nat × α)) (k : Nat) : List α → List (Nat × α)
  | [] => m
  | v :: vs => tsetMany d (tset d m k v) (k + 1) vs

/-- The values of `n` consecutive keys from `k`. -/
def tgetMany {α : Type} (d : α) (m : List (Nat × α)) (k : Nat) : Nat → List α
  | 0 => []
  | n + 1 => tget d m k :: tgetMany d m (k + 1) n

end Sys2Proof
end

