-- ==== Sys2Proof/Machine/Bits.lean ====
section
/-! DEFINITION. Bit fields, byte order (R6: least significant byte first) and the codes the spec defines over bytes:
CRC-32C (R250), the CRC-64 of shard seals (R291) and RS(36,32) over GF(2^8) (R199). -/

namespace Sys2Proof

/-- Field [hi:lo] of a word, as a number. -/
def fld {w : Nat} (v : BitVec w) (hi lo : Nat) : Nat := (v.toNat >>> lo) % 2 ^ (hi + 1 - lo)

/-- Bit `i` of a word. -/
def bitAt {w : Nat} (v : BitVec w) (i : Nat) : Bool := v.toNat.testBit i

/-- The word with field [hi:lo] replaced by `x` (cut to the field). -/
def setFld {w : Nat} (v : BitVec w) (hi lo x : Nat) : BitVec w :=
  BitVec.ofNat w (v.toNat - fld v hi lo * 2 ^ lo + (x % 2 ^ (hi + 1 - lo)) * 2 ^ lo)

/-- A number read as a two's complement number of `w` bits. -/
def sext (w n : Nat) : Int :=
  let m := n % 2 ^ w
  if m < 2 ^ (w - 1) then (m : Int) else (m : Int) - (2 ^ w : Nat)

/-- The `n` bytes of a number, least significant first (R6). -/
def toBytes : Nat → Nat → List Byte
  | 0, _ => []
  | n + 1, v => BitVec.ofNat 8 v :: toBytes n (v / 256)

/-- The number whose bytes, least significant first, are the list (R6). -/
def ofBytes : List Byte → Nat
  | [] => 0
  | b :: t => b.toNat + 256 * ofBytes t

/-- The value of a byte field of a record: `n` bytes from offset `o`. -/
def recFld (r : List Byte) (o n : Nat) : Nat := ofBytes ((r.drop o).take n)

/-- The 64-bit words of a byte string, least significant byte first (R6). -/
def bytesWords (l : List Byte) : List W64 := (List.range (l.length / 8)).map fun i => BitVec.ofNat 64 (recFld l (8 * i) 8)

/-- ⌈a / b⌉. -/
def cdiv (a b : Nat) : Nat := (a + b - 1) / b

/-- a rounded up to a multiple of b. -/
def roundUp (a b : Nat) : Nat := cdiv a b * b

/-- Bit test over a mask held as a number. -/
def maskBit (m i : Nat) : Bool := m.testBit i

/-- The indices below `n` whose bit is set in `m`, in ascending order. -/
def maskList (n m : Nat) : List Nat := (List.range n).filter fun i => m.testBit i

/-- The mask with exactly the bits of the list set. -/
def maskOf (l : List Nat) : Nat := l.foldl (fun a i => a ||| 2 ^ i) 0

def allOnes32 : Nat := 0xFFFFFFFF

/-- The number of set bits among the low `n`. -/
def popCount (n m : Nat) : Nat := (maskList n m).length

/-- One byte into a reflected CRC-32C register (polynomial 0x1EDC_6F41, reflected 0x82F6_3B78). -/
def crc32cByte (c : Nat) (b : Byte) : Nat :=
  (List.range 8).foldl (fun c _ => if c % 2 = 1 then (c / 2) ^^^ 0x82F63B78 else c / 2) (c ^^^ b.toNat)

/-- CRC-32C of a byte string: initial value and final XOR 0xFFFF_FFFF (R250, Table 11.2). -/
def crc32c (l : List Byte) : Nat := (l.foldl crc32cByte allOnes32) ^^^ allOnes32

/-- One byte into the CRC-64 register of R291: ECMA-182 polynomial, no reflection. -/
def crc64Byte (c : Nat) (b : Byte) : Nat :=
  (List.range 8).foldl
    (fun c _ => if c ≥ 2 ^ 63 then ((c * 2) % 2 ^ 64) ^^^ 0x42F0E1EBA9EA3693 else (c * 2) % 2 ^ 64)
    (c ^^^ (b.toNat * 2 ^ 56))

/-- The seal of a shard (R291): initial value 0, no final XOR. -/
def crc64 (l : List Byte) : Nat := l.foldl crc64Byte 0

/-- Multiplication by α = 0x02 in GF(2^8) with x^8 + x^4 + x^3 + x^2 + 1 (R199). -/
def gfX (a : Nat) : Nat := if a ≥ 128 then ((a * 2) % 256) ^^^ 0x1D else a * 2

/-- Product in GF(2^8) (R199). -/
def gfMul (a b : Nat) : Nat :=
  ((List.range 8).foldl (fun (s : Nat × Nat) i => (if b.testBit i then s.1 ^^^ s.2 else s.1, gfX s.2)) (0, a)).1

/-- The four check symbols c0..c3 of a 32-byte unit (R199): the remainder of D(x)·x^4 by
g(x) = (x+1)(x+α)(x+α²)(x+α³), the coefficient of x^3 first. -/
def rsCheck (data : List Byte) : List Nat :=
  let mulLin (p : List Nat) (r : Nat) : List Nat :=
    List.zipWith (· ^^^ ·) (p ++ [0]) (0 :: p.map (gfMul r))
  let g := mulLin (mulLin (mulLin (mulLin [1] 1) 2) 4) 8
  let g' := g.drop 1
  data.foldl (fun r b =>
    let fb := b.toNat ^^^ r.headD 0
    List.zipWith (· ^^^ ·) (r.drop 1 ++ [0]) (g'.map (gfMul fb))) [0, 0, 0, 0]

/-- What turns the check symbols of a valid codeword into those of a poisoned unit (R201). -/
def rsPoison : List Byte := [0x5A, 0x5A, 0x5A, 0x5A]

/-- The symbols in error of a codeword, and what was XORed into each: data byte i is symbol i, check symbol c_j is symbol 32 + j (R200). -/
def symTable (l : List (Fin 36 × Byte)) : Tbl Byte := l.foldl (fun t e => tset 0 t e.1 (tget 0 t e.1 ^^^ e.2)) []

/-- The syndrome that an error pattern leaves: the remainder of its polynomial by g(x), which a valid codeword does not change (R199). -/
def rsSyndrome (t : Tbl Byte) : List Nat :=
  List.zipWith (· ^^^ ·) (rsCheck (tgetMany 0 t 0 32)) ((tgetMany 0 t 32 4).map (·.toNat))

/-- The outcomes of Table 9.4. -/
inductive Decoded where
  | good
  | corrected (sym : Nat)
  | uncorrectable
  | noPromise
  | poison
  deriving DecidableEq, Repr

/-- Decoding a codeword with an error pattern (Table 9.4). -/
def decodeSyms (t : Tbl Byte) : Decoded :=
  match t with
  | [] => .good
  | [(i, _)] => .corrected i
  | t => if rsSyndrome t = rsPoison.map (·.toNat) then .poison else if t.length ≤ 3 then .uncorrectable else .noPromise

end Sys2Proof
end

