-- ==== Sys2Proof/Machine/Num.lean ====
section
/-! DEFINITION. The ten number formats and their conversions (R47 to R73): exact values, one rounding, the overflow
rule, the special cases, and the FP32 arithmetic of R152. Values are exact rationals; a code is a number whose bits
are the element's bits. -/

namespace Sys2Proof

/-- What a code stands for: NaN (no payload, no sign: R50), an infinity, or a finite value with the sign of its zero kept
(R60): `mag` is the magnitude. -/
inductive FV where
  | nan
  | inf (neg : Bool)
  | fin (neg : Bool) (mag : Rat)
  deriving DecidableEq, Repr

def pow2 (e : Int) : Rat := if 0 ≤ e then ((2 ^ e.toNat : Nat) : Rat) else 1 / ((2 ^ (-e).toNat : Nat) : Rat)

/-- ⌊log2 q⌋ for q > 0. -/
def flog2 (q : Rat) : Int :=
  let e : Int := (Nat.log2 q.num.toNat : Int) - (Nat.log2 q.den : Int)
  if q < pow2 e then e - 1 else if pow2 (e + 1) ≤ q then e + 1 else e

def ratFloor (q : Rat) : Int := q.num / (q.den : Int)

def ratCeil (q : Rat) : Int := - ratFloor (-q)

def ratAbs (q : Rat) : Rat := if q < 0 then -q else q

/-- The signed value of a finite one, 0 otherwise. -/
def FV.toRat : FV → Rat
  | .fin true m => -m
  | .fin false m => m
  | _ => 0

def FV.isNan : FV → Bool
  | .nan => true
  | _ => false

def FV.isInf : FV → Bool
  | .inf _ => true
  | _ => false

def FV.isFin : FV → Bool
  | .fin _ _ => true
  | _ => false

def FV.neg : FV → Bool
  | .inf s => s
  | .fin s _ => s
  | .nan => false

def FV.isZero : FV → Bool
  | .fin _ m => m == 0
  | _ => false

/-- A rational as a finite value; zero takes the sign `z`. -/
def FV.ofRat (q : Rat) (z : Bool := false) : FV :=
  if q = 0 then .fin z 0 else if q < 0 then .fin true (-q) else .fin false q

def FV.negate : FV → FV
  | .nan => .nan
  | .inf s => .inf (!s)
  | .fin s m => .fin (!s) m

def FV.abs : FV → FV
  | .nan => .nan
  | .inf _ => .inf false
  | .fin _ m => .fin false m

/-- How a format uses its highest exponent field (Table 3.2). -/
inductive FKind where
  | ieee   -- infinity at M = 0, NaN otherwise
  | e4m3   -- NaN at all ones only, no infinity (R49)
  | none   -- neither (E2M1, R51)
  deriving DecidableEq, Repr

/-- A floating-point element format (Table 3.2). -/
structure FFmt where
  eb : Nat
  mb : Nat
  bias : Nat
  kind : FKind
  /-- FP32: subnormals are flushed on input and on output (R59). -/
  flush : Bool
  deriving DecidableEq, Repr

def fp32 : FFmt := ⟨8, 23, 127, .ieee, true⟩
def bf16 : FFmt := ⟨8, 7, 127, .ieee, false⟩
def fp16 : FFmt := ⟨5, 10, 15, .ieee, false⟩
def e4m3 : FFmt := ⟨4, 3, 7, .e4m3, false⟩
def e5m2 : FFmt := ⟨5, 2, 15, .ieee, false⟩
def e2m1 : FFmt := ⟨2, 1, 1, .none, false⟩

def FFmt.bits (f : FFmt) : Nat := 1 + f.eb + f.mb

/-- The canonical NaN the W7 writes (Table 3.2); E2M1 has none, and a NaN's element code there is 0 (R137, R72). -/
def FFmt.nanCode (f : FFmt) : Nat :=
  match f.kind with
  | .ieee => (2 ^ f.eb - 1) * 2 ^ f.mb + (if f.mb = 2 then 2 else 2 ^ (f.mb - 1))
  | .e4m3 => 0x7F
  | .none => 0

/-- The code of the largest finite magnitude, sign 0. -/
def FFmt.maxCode (f : FFmt) : Nat :=
  match f.kind with
  | .ieee => (2 ^ f.eb - 1) * 2 ^ f.mb - 1
  | .e4m3 => 0x7E
  | .none => 2 ^ (f.eb + f.mb) - 1

/-- The magnitude of a code without its sign bit, specials aside (R48). -/
def FFmt.mag (f : FFmt) (c : Nat) : Rat :=
  let e := c / 2 ^ f.mb % 2 ^ f.eb
  let m := c % 2 ^ f.mb
  if e = 0 then (m : Rat) * pow2 (1 - (f.bias : Int) - f.mb)
  else ((2 ^ f.mb + m : Nat) : Rat) * pow2 ((e : Int) - f.bias - f.mb)

def FFmt.maxMag (f : FFmt) : Rat := f.mag f.maxCode

/-- What a code of the format stands for (R48 to R51); FP32 subnormals read as zero (R59). -/
def FFmt.decode (f : FFmt) (code : Nat) : FV :=
  let s := code.testBit (f.eb + f.mb)
  let e := code / 2 ^ f.mb % 2 ^ f.eb
  let m := code % 2 ^ f.mb
  match f.kind with
  | .ieee =>
    if e = 2 ^ f.eb - 1 then (if m = 0 then .inf s else .nan)
    else if f.flush && e = 0 then .fin s 0 else .fin s (f.mag code)
  | .e4m3 => if e = 15 ∧ m = 7 then .nan else .fin s (f.mag code)
  | .none => .fin s (f.mag code)

/-- Rounding mode: nearest even (R62), or stochastic with the element's 16-bit ρ (R63). -/
inductive RMode where
  | rne
  | stoch (rho : Nat)
  deriving DecidableEq, Repr

/-- A number of units u ≥ 0 rounded to an integer by the mode (R62, R63). -/
def roundUnits (u : Rat) (r : RMode) : Nat :=
  let n := (ratFloor u).toNat
  let f := u - (n : Rat)
  match r with
  | .rne => if (1 : Rat) / 2 < f then n + 1 else if f = 1 / 2 then (if n % 2 = 1 then n + 1 else n) else n
  | .stoch rho => if (rho : Int) < ratFloor (f * 65536) then n + 1 else n

/-- A code with the counts of R71 its conversion adds: clip and NaN. -/
structure Enc where
  code : Nat
  clip : Nat := 0
  nan : Nat := 0
  deriving DecidableEq, Repr

def FFmt.signBit (f : FFmt) (s : Bool) : Nat := if s then 2 ^ (f.eb + f.mb) else 0

/-- The code of a magnitude that the format represents exactly. -/
def FFmt.pack (f : FFmt) (s : Bool) (r : Rat) : Nat :=
  if r = 0 then f.signBit s
  else
    let e := flog2 r
    if e < 1 - (f.bias : Int) then f.signBit s + (ratFloor (r / pow2 (1 - (f.bias : Int) - f.mb))).toNat
    else f.signBit s + (e + f.bias).toNat * 2 ^ f.mb + ((ratFloor (r / pow2 (e - f.mb))).toNat - 2 ^ f.mb)

/-- The magnitude at or above which an out-of-range value becomes an infinity where infinities are written:
max + ½ ulp(max) (R70). -/
def FFmt.infAt (f : FFmt) : Rat := f.maxMag + pow2 (flog2 f.maxMag - f.mb - 1)

/-- A finite magnitude rounded onto the format's grid, in range (R61); FP32 flushes what ends below 2^-126 (R59). Below 2^-126 the rounding before the
flush is on the grid of subnormals, steps of 2^-149 (DESIGN CHOICE, log entry 134: R59 says only "after rounding"). -/
def FFmt.roundMag (f : FFmt) (m : Rat) (r : RMode) : Rat :=
  if m = 0 then 0
  else
    let q := pow2 (max (flog2 m) (1 - (f.bias : Int)) - f.mb)
    let v := (roundUnits (m / q) r : Rat) * q
    if f.flush && decide (v < pow2 (-126)) then 0 else v

/-- One conversion of an exact value into a floating-point format (R61 to R63, R70 to R72). `ovf` is the overflow bit of
R70 for E5M2, FP16 and BF16; FP32 always rounds to nearest even and always overflows to infinity. -/
def FFmt.encode (f : FFmt) (ovf : Bool) (r : RMode) (v : FV) : Enc :=
  match v with
  | .nan => ⟨f.nanCode, 0, 1⟩
  | .inf s =>
    match f.kind with
    | .ieee => ⟨f.signBit s + (2 ^ f.eb - 1) * 2 ^ f.mb, 0, 0⟩
    | _ => ⟨f.signBit s + f.maxCode, 1, 0⟩
  | .fin s m =>
    if f.maxMag < m then
      if (f.flush || ovf) && f.kind = .ieee && decide (f.infAt ≤ m) then
        ⟨f.signBit s + (2 ^ f.eb - 1) * 2 ^ f.mb, 1, 0⟩
      else ⟨f.signBit s + f.maxCode, 1, 0⟩
    else ⟨f.pack s (f.roundMag m (if f.flush then .rne else r)), 0, 0⟩

/-- The value the format keeps of an exact one: rounded to nearest even, with SAT where the format has the choice. -/
def FFmt.round (f : FFmt) (v : FV) : FV := f.decode (f.encode false .rne v).code

/-- A signed integer code of `w` bits from the rounded quotient, bounded to ±`bound` (R61); `v` is already divided by
the line scale. -/
def intEncode (w : Nat) (bound : Nat) (r : RMode) (v : FV) : Enc :=
  let put (s : Bool) (n : Nat) : Nat := if s then (2 ^ w - n) % 2 ^ w else n
  match v with
  | .nan => ⟨0, 0, 1⟩
  | .inf s => ⟨put s bound, 1, 0⟩
  | .fin s m => if (bound : Rat) < m then ⟨put s bound, 1, 0⟩ else ⟨put s (roundUnits m r), 0, 0⟩

/-- x ÷ σ for an integer target, with the special cases R61 lists. An out-of-range case is given as an infinity of its sign,
which `intEncode` bounds and counts. -/
def lineDiv (x σ : FV) : FV :=
  match x, σ with
  | .nan, _ => .nan
  | _, .nan => .nan
  | .inf _, .inf _ => .nan
  | .fin _ _, .inf _ => .fin false 0
  | .inf s, .fin t _ => .inf (s != t)
  | .fin s m, .fin t n =>
    if n = 0 then (if m = 0 then .fin false 0 else .inf (s != t)) else .fin (s != t) (m / n)

/-- Exact sum; opposite infinities give NaN; an exact zero is +0 unless both terms are −0. -/
def fvAdd (a b : FV) : FV :=
  match a, b with
  | .nan, _ => .nan
  | _, .nan => .nan
  | .inf s, .inf t => if s = t then .inf s else .nan
  | .inf s, .fin _ _ => .inf s
  | .fin _ _, .inf s => .inf s
  | .fin s m, .fin t n =>
    if m = 0 ∧ n = 0 then .fin (s && t) 0
    else FV.ofRat ((FV.fin s m).toRat + (FV.fin t n).toRat)

/-- Exact product; ∞ × 0 gives NaN. -/
def fvMul (a b : FV) : FV :=
  match a, b with
  | .nan, _ => .nan
  | _, .nan => .nan
  | .inf s, .inf t => .inf (s != t)
  | .inf s, .fin t n => if n = 0 then .nan else .inf (s != t)
  | .fin s m, .inf t => if m = 0 then .nan else .inf (s != t)
  | .fin s m, .fin t n => .fin (s != t) (m * n)

/-- Exact quotient; 0/0 and ∞/∞ give NaN, a nonzero finite value over zero an infinity. -/
def fvDiv (a b : FV) : FV :=
  match a, b with
  | .nan, _ => .nan
  | _, .nan => .nan
  | .inf _, .inf _ => .nan
  | .inf s, .fin t _ => .inf (s != t)
  | .fin s _, .inf t => .fin (s != t) 0
  | .fin s m, .fin t n =>
    if n = 0 then (if m = 0 then .nan else .inf (s != t)) else .fin (s != t) (m / n)

/-- Order key of a non-NaN value: −∞ below finite values below +∞. -/
def fvLt (a b : FV) : Bool :=
  match a, b with
  | .nan, _ => false
  | _, .nan => false
  | .inf s, .inf t => s && !t
  | .inf s, .fin _ _ => s
  | .fin _ _, .inf t => !t
  | .fin _ _, .fin _ _ => decide (a.toRat < b.toRat)

/-- Equality as numbers: −0 equals +0, NaN equals nothing. -/
def fvEq (a b : FV) : Bool :=
  match a, b with
  | .inf s, .inf t => s == t
  | .fin _ _, .fin _ _ => decide (a.toRat = b.toRat)
  | _, _ => false

/-- FMINMAX (R152): the non-NaN operand when exactly one is NaN; −0 below +0. -/
def fvMin (a b : FV) : FV :=
  match a, b with
  | .nan, x => x
  | x, .nan => x
  | x, y => if fvEq x y then (if x.neg then x else y) else if fvLt x y then x else y

def fvMax (a b : FV) : FV :=
  match a, b with
  | .nan, x => x
  | x, .nan => x
  | x, y => if fvEq x y then (if x.neg then y else x) else if fvLt x y then y else x

def f32 (c : Nat) : FV := fp32.decode (c % 2 ^ 32)

/-- An exact value as the FP32 code that the W7 writes for it. -/
def toF32 (v : FV) : Nat := (fp32.encode true .rne v).code

def f32Add (a b : Nat) : Nat := toF32 (fvAdd (f32 a) (f32 b))
def f32Sub (a b : Nat) : Nat := toF32 (fvAdd (f32 a) (f32 b).negate)
def f32Mul (a b : Nat) : Nat := toF32 (fvMul (f32 a) (f32 b))
def f32Fma (a b c : Nat) : Nat := toF32 (fvAdd (fvMul (f32 a) (f32 b)) (f32 c))
def f32Div (a b : Nat) : Nat := toF32 (fvDiv (f32 a) (f32 b))
def f32Min (a b : Nat) : Nat := toF32 (fvMin (f32 a) (f32 b))
def f32Max (a b : Nat) : Nat := toF32 (fvMax (f32 a) (f32 b))
def f32One : Nat := 0x3F800000

/-- The correctly rounded square root in FP32 (R152); of a negative nonzero number NaN; ±0 keeps its sign. -/
def f32Sqrt (a : Nat) : Nat :=
  match f32 a with
  | .nan => fp32.nanCode
  | .inf s => if s then fp32.nanCode else toF32 (.inf false)
  | .fin s m =>
    if m = 0 then toF32 (.fin s 0)
    else if s then fp32.nanCode
    else
      let e := flog2 m / 2
      let u := pow2 (e - 23)
      let x := m / (u * u)
      let n := Nat.sqrt (ratFloor x).toNat
      let up := decide (((n : Rat) + 1 / 2) * ((n : Rat) + 1 / 2) < x)
      toF32 (.fin false (((if up then n + 1 else n : Nat) : Rat) * u))

/-- One 16-bit half operation in BF16 or FP16: exact, one rounding, SAT (R152, R212). -/
def halfRound (f : FFmt) (v : FV) : Nat := (f.encode false .rne v).code

def bf16Add (a b : Nat) : Nat := halfRound bf16 (fvAdd (bf16.decode a) (bf16.decode b))

/-- add.bf16x2: each half by itself (R212). -/
def bf16x2Add (a b : Nat) : Nat :=
  bf16Add (a % 65536) (b % 65536) + 65536 * bf16Add (a / 65536 % 65536) (b / 65536 % 65536)

/-- UE5M3 (R52). `none` is the invalid code 0xFF. -/
def ue5m3 (c : Nat) : Option Rat :=
  let e := c / 8 % 32
  let m := c % 8
  if c % 256 = 0xFF then none
  else if e = 0 then some ((m : Rat) * pow2 (-17))
  else some (((8 + m : Nat) : Rat) * pow2 ((e : Int) - 18))

/-- An element of a block-scaled tensor: s × e; an invalid scale makes NaN, and so does an element that is NaN itself
(R52, R55). -/
def scaled (sc : Nat) (v : FV) : FV :=
  match ue5m3 sc, v with
  | none, _ => .nan
  | some _, .nan => .nan
  | some s, .inf t => if s = 0 then .fin t 0 else .inf t
  | some s, .fin t m => .fin t (s * m)

/-- A T2 code (R57); 0b10 decodes as 0. -/
def t2Val (c : Nat) : FV :=
  if c % 4 = 1 then .fin false 1 else if c % 4 = 3 then .fin true 1 else .fin false 0

/-- A B4R element: e + r·2^-3 when its block is flagged (R56), before the scale. A zero element keeps its sign (R60). -/
def b4rVal (e r : Nat) (flag : Bool) : FV :=
  let ev := e2m1.decode e
  if flag then FV.ofRat (ev.toRat + (e2m1.decode r).toRat / 8) (ev.isZero && ev.neg) else ev

/-- One Philox-4×32 round (R64). -/
def philoxRound (k0 k1 : Nat) (c : Nat × Nat × Nat × Nat) : Nat × Nat × Nat × Nat :=
  let p0 := 0xD2511F53 * c.1
  let p1 := 0xCD9E8D57 * c.2.2.1
  ((p1 / 2 ^ 32) ^^^ c.2.1 ^^^ k0, p1 % 2 ^ 32, (p0 / 2 ^ 32) ^^^ c.2.2.2 ^^^ k1, p0 % 2 ^ 32)

/-- Philox-4×32 with 10 rounds (R64). -/
def philox (k0 k1 : Nat) (c : Nat × Nat × Nat × Nat) : Nat × Nat × Nat × Nat :=
  (List.range 10).foldl
    (fun c i => philoxRound ((k0 + i * 0x9E3779B9) % 2 ^ 32) ((k1 + i * 0xBB67AE85) % 2 ^ 32) c) c

/-- ρ of element `i` (R64): key, tensor seed, purpose. -/
def rhoOf (key : Nat) (seed purpose i : Nat) : Nat :=
  let q := i / 8
  let j := i % 8
  let y := philox (key % 2 ^ 32) (key / 2 ^ 32 % 2 ^ 32) (q % 2 ^ 32, q / 2 ^ 32 % 2 ^ 32, seed % 2 ^ 32, purpose % 2 ^ 32)
  let w := match j / 2 with
    | 0 => y.1
    | 1 => y.2.1
    | 2 => y.2.2.1
    | _ => y.2.2.2
  if j % 2 = 0 then w % 65536 else w / 65536 % 65536

/-- The mode of an element's rounding: RND of its descriptor (R63). -/
def rmodeOf (stoch : Bool) (key seed purpose i : Nat) : RMode :=
  if stoch then .stoch (rhoOf key seed purpose i) else .rne

/-- k of an E8M0 code, and of the UE5M3 scale that an MX read gives with the factor 2^k' left for the elements
(R68): the scale code and that factor's exponent. -/
def mxReadScale (x : Nat) : Nat × Int :=
  let k : Int := (x : Int) - 127
  if x % 256 = 0xFF then (0xFF, 0)
  else if k > 16 then (0xF8, k - 16)
  else if k ≥ -14 then ((k + 15).toNat * 8, 0)
  else if k = -15 then (0x04, 0)
  else if k = -16 then (0x02, 0)
  else if k = -17 then (0x01, 0)
  else (0x01, k + 17)

/-- ⌈log2 s⌉ of a nonzero valid UE5M3 scale (R69). -/
def mxWriteK (c : Nat) : Int :=
  let e := c / 8 % 32
  let m := c % 8
  if e = 0 then (if m ≤ 1 then 0 else (Nat.log2 (m - 1) : Int) + 1) - 17
  else if m = 0 then (e : Int) - 15 else (e : Int) - 14

end Sys2Proof
end

