-- ==== Sys2Proof/Machine/Flags.lean ====
section
/-! DEFINITION. What the compare and predicate instructions compute (Table 7.3): the conditions of ICMP and FCMP, PCOMB
and VOTE. Predicates are the only flags a lane has (R147). -/

namespace Sys2Proof.Machine

/-- The condition MOD[2:0] of two ordered values, from "equal" and "less": eq, ne, lt, le, gt, ge. -/
def condOf (m : Nat) (eq lt : Bool) : Bool :=
  match m % 8 with
  | 0 => eq
  | 1 => !eq
  | 2 => lt
  | 3 => lt || eq
  | 4 => !lt && !eq
  | _ => !lt

/-- ICMP: MOD[3] 1 compares unsigned. -/
def icmpFlag (m a b : Nat) : Bool :=
  if m / 8 = 1 then condOf m (a == b) (decide (a < b))
  else condOf m (a == b) (decide (sext 32 a < sext 32 b))

/-- FCMP: as ICMP on FP32, −0 equal to +0; with a NaN, MOD[3] is the result. -/
def fcmpFlag (m a b : Nat) : Bool :=
  if (f32 a).isNan || (f32 b).isNan then decide (m / 8 = 1)
  else condOf m (fvEq (f32 a) (f32 b)) (fvLt (f32 a) (f32 b))

/-- PCOMB: and, or, xor, and not. -/
def pcombFlag (m : Nat) (a b : Bool) : Bool :=
  match m with
  | 0 => a && b
  | 1 => a || b
  | 2 => a != b
  | _ => a && !b

/-- VOTE over the executing lanes: MOD 0 all, 1 any. -/
def voteFlag (m : Nat) (ps : List Bool) : Bool := if m = 0 then ps.all id else ps.any id

end Sys2Proof.Machine
end

