-- ==== Sys2Proof/Config.lean ====
section
/-! DEFINITION. What the spec leaves open (the free values, constants with no body: nothing can be proved of their
values) and the constants that one HDV-W7T fixes. A free value that must be fresh is applied to the counter `rnd` of
State, which the step reads and advances. -/

namespace Sys2Proof.Config

/-- A register of a group that nothing has written (R147): group serial number, lane, register. -/
opaque undefReg : Nat → Nat → Nat → W32

/-- A predicate of a group that nothing has written (R147): group serial number, lane, predicate. -/
opaque undefPred : Nat → Nat → Nat → Bool

/-- What SHFL receives from a lane that has exited (R152): counter, lane. -/
opaque shflUndef : Nat → Nat → W32

/-- XFN's result where the spec bounds it but does not state it (R152): MOD and the operand's code. -/
opaque xfn : Nat → W32 → W32

/-- The random source of the security complex (R350, R351, R382, R383, R431): the n-th draw. -/
opaque random : Nat → W64

/-- A byte whose contents the spec leaves undefined: counter, address. -/
opaque undefByte : Nat → Nat → Byte

/-- A 32-bit value that the spec leaves undefined or does not state: counter, index. -/
opaque undefWord : Nat → Nat → W32

/-- The element code in a block written with scale 0xFF (R72 states the scale only): position. -/
opaque nanBlockCode : Nat → BitVec 4

/-- What reading a unit with four or more symbols in error does (R201: "the W7 makes no promise"): counter.
0 detected, 1 miscorrected or undetected. -/
opaque manyErrors : Nat → BitVec 1

/-- A byte of a line's ciphertext decrypted under another key than it was written under (R217, R218; AES-256-XTS is an external standard):
the device reset since which keys are counted (R419), the key it was written under, the key it is read under, the tweak (DPA / 128), the 128
plaintext bytes written, the byte's place. -/
opaque foreignByte : Nat → Nat → Nat → Nat → List Byte → Nat → Byte

/-- The set of a line within its home slice; the set hash is not published (R196): the line, DPA / 128. -/
opaque cacheSet : Nat → Nat

/-- What a hard pin makes of the symbol it carries in a unit (R202): counter, unit, pin; 0 where the data agrees with the stuck value. -/
opaque stuckBits : Nat → Nat → Nat → Byte

/-- Which array, pass or place the W7 picks where it draws at random (R382): counter, bound. -/
opaque pick : Nat → Nat → Nat

/-- The core supply of a die in mV, sampled for a ledger entry (R370); no command carries it: counter, die. -/
opaque supplyMv : Nat → Nat → W16

/-- How the host takes a write of a ledger entry (R375), which no command carries: 0 taken, 1 untranslatable, 2 error completion,
3 IDE failure (Table 15.4): counter, function. -/
opaque ledgerRefused : Nat → Nat → BitVec 2

/-- How many core cycles passed since the last read of CYCLES on a core (Table 7.2): counter. -/
opaque cyclesPassed : Nat → Nat

/-- The bytes of instructions that a core fetched at the memory-side cache since it was last asked (R365); the spec fixes no prefetch: counter. -/
opaque fetchBytes : Nat → Nat

/-- The ciphertext and tag bytes of a flit body (R270; AES-256-GCM is an external standard): key, salt and count of the nonce, the additional
authenticated data, the plaintext, position. -/
opaque linkCipher : BitVec 256 → W32 → Nat → W32 → List Byte → Nat → Byte

/-- The plaintext bytes of a received flit body, in the same way. -/
opaque linkPlain : BitVec 256 → W32 → Nat → W32 → List Byte → Nat → Byte

/-- The 36 bytes of a direction's key and salt (R433; HKDF with SHA-384 is an external standard), from the FMK, the two nonces, that of the lower
fabric ID first, and the IDs of the sending and the receiving end. -/
opaque linkKey : BitVec 256 → BitVec 256 → BitVec 256 → Nat → Nat → BitVec 288

/-- The confirmation MAC of a KEY exchange (R433; HMAC-SHA-384 and HKDF are external standards): FMK, own nonce, partner's
nonce, own ID and partner's ID, position. -/
opaque keyMac : BitVec 256 → BitVec 256 → BitVec 256 → Nat → Nat → Nat → Byte

/-- The order in which memory-side adders combine the terms of a sum that NORM forms (R236): counter, term; the terms are added by
rising key. -/
opaque sumOrder : Nat → Nat → Nat

/-- What the TAP answers to an instruction beyond BYPASS and IDCODE at debug level 2: the spec gives no data. By draw and bit. -/
opaque tapBit : Nat → Nat → Bool

/-- Where a member's DST takes the piece that this member sends it in an ALL_TO_ALL (R286): the spec gives the sender no table that says so. By stall,
collective number and member; log entry 56. -/
opaque peerOffset : Nat → Nat → Nat → Nat

/-- SHA-384 of a byte string or record that the model names by numbers (an external standard): what is hashed. -/
opaque sha384 : List Nat → BitVec 384

/-- Byte of the output of HMAC_DRBG with SHA-384 seeded with a CDI (R429; an external standard): CDI, position. -/
opaque drbg : BitVec 384 → Nat → Byte

/-- The SLH-DSA-SHA2-192s public key of 72 seed bytes (R429; FIPS 205). -/
opaque slhKeyGen : List Byte → BitVec 384

/-- The RSA-3072 modulus that FIPS 186-5 B.3.3 makes of the DRBG output of a CDI from a position on (R429). -/
opaque rsaKeyGen : BitVec 384 → Nat → BitVec 3072

/-- The DER SubjectPublicKeyInfo of an RSA-3072 public key with exponent 65,537 (R430; RFC 8017), by modulus. -/
opaque rsaSpki : BitVec 3072 → List Nat

/-- The RSA-PSS and SLH-DSA signatures of a message under the key pair of a CDI (R429, R437; external standards): CDI, what is signed, as its kind and
fields. -/
opaque rsaSign : BitVec 384 → String → List Nat → Nat
opaque slhSign : BitVec 384 → String → List Nat → Nat

/-- HMAC-SHA-384 (R429; an external standard): key, message by numbers. -/
opaque hmac384 : BitVec 384 → List Nat → BitVec 384

/-- What the slow power loop measures where it fires at a step of String time, with no command that carries it (R43, R443): counter, and the
place in the list of the six dies, the rest of the package and the six energies. -/
opaque powerSample : Nat → Nat → Nat

/-- Cycles for which a port had held a flit for credit when it sends an idle one (FAB_PORTn_CRSTALL): counter. -/
opaque creditStall : Nat → Nat

/-- Polnik's choices where the spec leaves the length of time or the order open are the commands' own. Frequency of the core
clock. -/
def clockMHz : Nat := 1000

/-- Local memory per core (R161). -/
def localBytes : Nat := 0x300000

/-- Rings of the device (R309). -/
def numRings : Nat := 65536

/-- Depth of the kick queue (R318). -/
def kickDepth : Nat := 4096

/-- The TAP's IDCODE and the management endpoint's address (R473). -/
def idcode : BitVec 32 := 0xB0070A5B
def mgmtAddr : BitVec 7 := 0x4E

/-- Entries of the pass and vector queues (R91, R174). -/
def queueDepth : Nat := 8

/-- Token counter limit (R90). -/
def tokenMax : Nat := 255

/-- Worst-case pass time in cycles (R96). -/
def passLimit : Nat := 4200

/-- Near-cache lines per core: 256 KiB of 128-byte lines (R163). -/
def nearLines : Nat := 2048

/-- Entries of the internal ledger buffer (R374). -/
def bufferEntries : Nat := 256

/-- Collectives the device runs at once (R280). -/
def maxCollectives : Nat := 4096

end Sys2Proof.Config
end

