-- ==== Sys2Proof/Machine/State.lean ====
section
/-! DEFINITION. The state of the block: every register, queue, buffer, counter, mode and pin that the spec names, as
plain data, and the queue of waiting commands. `State.reset` is the machine right after reset. -/

namespace Sys2Proof.Machine

/-- Why a step can stop with a fault. No command of this block stops with a fault: every event has a next state.
The one constructor is not raised by any meaning (safe: nothing is claimed of it). -/
inductive Fault where
  /-- Raised by no meaning of this model. Safe. -/
  | none
  deriving DecidableEq, Repr

/-- Why a step can refuse a command. -/
inductive Refusal where
  /-- Raised by an arm of `exec` whose command has no meaning yet. Safe: nothing is claimed of it. -/
  | notModelled (mnemonic : String)
  deriving DecidableEq, Repr

/-! ### String time (02) -/

/-- The states of Table 2.2. -/
inductive StrState where
  | free
  | acquiring
  | locked
  | holdover
  | lost
  deriving DecidableEq, Repr

/-- A source of String time (R31). -/
inductive StrSrc where
  | none
  | wire
  | port (p : Nat)
  deriving DecidableEq, Repr

/-- Acquisition of the wire (R30): edges counted in a row, edges since the count of 64 began, counted edges in a row whose periods are
within ±100 ppm. `off` is the phase of the last counted edge: the source's String time less the device's, to the nearest String, in 1/64 ns
(log entry 125). -/
structure WireAcq where
  count : Nat := 0
  edges : Nat := 0
  good : Nat := 0
  acquired : Bool := false
  off : Int := 0
  deriving DecidableEq, Repr

/-- What the last valid phase frame of a port carried (R31, R33, R269). `off` is the source's String time less the
device's, in 1/64 ns; `at_` when it arrived, in elapsed sub-frets. -/
structure PhaseSrc where
  valid : Bool := false
  count : Nat := 0
  stratum : Nat := 15
  consecutive : Nat := 0
  excluded : Bool := false
  off : Int := 0
  at_ : Nat := 0
  deriving DecidableEq, Repr

/-- The String time unit. `time` is String time in sub-frets; `base` is String time less the clock that items due at a
time run on, so that an item keeps its remaining duration when String time is loaded or steps (R39, R41, R43); `skip` is String time less
the sub-frets that have passed, which loads and steps do not touch; `stepped` is the String time at which the last step landed, `phaseSent` the
String after that in which PHASE was last sent (R269). -/
structure Str where
  time : Nat := 0
  base : Int := 0
  skip : Int := 0
  stepped : Option Nat := none
  phaseSent : Nat := 0
  st : StrState := .free
  source : StrSrc := .none
  srcStratum : Nat := 15
  lostSeen : Bool := false
  straySeen : Bool := false
  strays : Nat := 0
  holdoverUsed : Nat := 0
  ctlUsed : W32 := 0x8001FFFF
  wireUsed : W32 := 0
  loadLow : W32 := 0
  load : Option (BitVec 48) := none
  acq : WireAcq := {}
  fab : Tbl PhaseSrc := []
  slew : Int := 0
  everLocked : Bool := false
  acceptFrom : Nat := 0
  lostStop : Option Nat := none
  wireEdgeAt : Nat := 0
  deriving DecidableEq, Repr

/-! ### Contexts, groups and cores (04 to 08) -/

/-- An entry of a path stack (R154). -/
structure PathEnt where
  pc : Nat
  mask : Nat
  rpc : Option Nat := none
  deriving DecidableEq, Repr

/-- An issue that a group holds (R158) or a queue holds: the instruction's descriptor address and its words. -/
structure Desc where
  addr : Nat := 0
  words : List W64 := []
  rdo : List W64 := []
  deriving DecidableEq, Repr

/-- Why a group is held (R158 to R160, R164). -/
inductive Held where
  | no
  | barrier (b : Nat)
  | token (t limit : Nat)
  | mxi (d : Desc)
  | vxi (d : Desc)
  | cxi (d : Desc)
  deriving DecidableEq, Repr

/-- A resident group (R144 to R147, R154, R159). Registers and predicates that nothing has written are not listed: they
read as free values. `pend` lists the registers awaiting a load. -/
structure Group where
  serial : Nat := 0
  block : Nat := 0
  idx : Nat := 0
  paths : List PathEnt := []
  exited : Nat := 0
  regs : Tbl (Option W32) := []
  preds : Tbl (Option Bool) := []
  tokens : Tbl Nat := []
  held : Held := .no
  yielded : Bool := false
  deriving DecidableEq, Repr

/-- A block resident on a core (R144, R145, R160). -/
structure Block where
  ctx : Nat := 0
  index : Nat := 0
  slots : List Nat := []
  deriving DecidableEq, Repr

/-- A global load in flight (R163, R172): its group, destination, MOD, and each lane with its virtual and physical
address; `held` while a refill holds it (R207). -/
structure Load where
  slot : Nat
  serial : Nat
  d : Nat
  pc : Nat
  mode : Nat
  act : Nat
  lanes : List (Nat × Nat × Nat)
  held : Bool := false
  deriving DecidableEq, Repr

/-- An accumulator pair (R103). -/
structure Pair where
  hi : W32 := 0
  lo : W32 := 0
  deriving DecidableEq, Repr

/-- A quadrant state (R121). -/
structure Quad where
  ns : Nat := 0
  live : Bool := false
  seg : Nat := 0
  chain : Nat := 0
  deriving DecidableEq, Repr

/-- The phase of a pass (R90, R91, R117). -/
inductive PassPhase where
  | queued
  | streaming
  | ended
  deriving DecidableEq, Repr

/-- A pass in a quad's queue or started (R89 to R91): the PC and active mask of the instruction that issued it (R168, R170) and the ranges of
local memory that its read-out writes (R133). `selected` are the arrays whose samplers chose it (R382), `shadow` gives each of them that has one its
shadow array, by the device's numbers, from when the shadow pass is in that array's queue (R383). -/
structure Pass where
  id : Nat := 0
  slot : Nat := 0
  serial : Nat := 0
  quad : Nat := 0
  desc : Desc := {}
  phase : PassPhase := .queued
  selected : List Nat := []
  shadow : List (Nat × Nat) := []
  rkey : Nat := 0
  counts : List Nat := [0, 0, 0, 0]
  pc : Nat := 0
  mask : Nat := 0
  dest : List (Nat × Nat) := []
  deriving DecidableEq, Repr

/-- A vector descriptor in the queue (R174): `done` once it has executed, and then `counts`, `amax` and `elems` are what it leaves for its
completion. One that stopped at a chunk boundary (R190) has `next`, its next chunk, not 0, and `run`, its running RED values by lane. `pc`, `mask` and
`dest` are as for a pass. -/
structure VJob where
  slot : Nat := 0
  serial : Nat := 0
  desc : Desc := {}
  done : Bool := false
  rkey : Nat := 0
  counts : List Nat := [0, 0, 0, 0]
  amax : Nat := 0
  elems : Nat := 0
  next : Nat := 0
  run : List (Option FV) := []
  pc : Nat := 0
  mask : Nat := 0
  dest : List (Nat × Nat) := []
  deriving DecidableEq, Repr

/-- A cell of an array (R79, R84): the codes in its weight register and in its shadow weight register, and the codes of the entries of its
row buffer, the latest last. -/
structure Cell where
  weight : List Nat := []
  next : List Nat := []
  rows : List (List Nat) := []
  deriving DecidableEq, Repr

/-- The sampler of an array (R382): the length of its run, passes left in it and the chosen place. -/
structure Sampler where
  len : Nat := 0
  left : Nat := 0
  chosen : Nat := 0
  deriving DecidableEq, Repr

/-- The saved image of one core of a context (R359): everything Table 14.6 lists. -/
structure CoreImg where
  core : Nat
  base : Nat := 0
  mem : List Host.Cell := []
  poison : List Nat := []
  groups : Tbl Group := []
  blocks : Tbl Block := []
  acc : Tbl Pair := []
  quads : Tbl Quad := []
  passes : List Pass := []
  vq : List VJob := []
  cycles : Nat := 0
  hits : List Nat := []
  deriving DecidableEq, Repr

/-- A core: which context it holds, its local memory, near cache, accumulators, queues and groups. `wide` is the base of its context's wide buffer,
0 for none, and `hits` the pairs of that region, counted from its base, that software has written (R119). `counted` of its `cycles` are in the stall's tally. -/
structure Core where
  ctx : Option Nat := none
  reserved : Option Nat := none
  mem : List Host.Cell := []
  poison : List Nat := []
  near : Tbl (List Byte) := []
  acc : Tbl Pair := []
  quads : Tbl Quad := []
  cells : Tbl Cell := []
  passes : List Pass := []
  vq : List VJob := []
  groups : Tbl Group := []
  blocks : Tbl Block := []
  loads : List Load := []
  cycles : Nat := 0
  counted : Nat := 0
  lastRetire : Nat := 0
  samplers : Tbl Sampler := []
  wide : Nat := 0
  hits : List Nat := []
  deriving DecidableEq, Repr

/-- What kind of context (R144, R323). -/
inductive CtxKind where
  | kernel
  | vecStream
  | mtxStream
  | test
  deriving DecidableEq, Repr

/-- TYPE of the descriptor that created a context (Table 13.8). -/
def CtxKind.type : CtxKind → Nat
  | .kernel => 1
  | .vecStream => 3
  | .mtxStream => 4
  | .test => 0

/-- Where a context stands. -/
inductive CtxState where
  | waiting
  | running
  | saving
  | saved
  | killing
  deriving DecidableEq, Repr

/-- The first fault of a context (R170). `src`: the row of Table 15.13 that poison it consumed counts under. -/
structure CtxFault where
  cause : Nat
  pc : Nat := 0
  mask : Nat := 0
  slot : Nat := 0
  arg2 : Nat := 0
  core : Nat := 0
  opc : Nat := 0
  array : Option Nat := none
  level : Nat := 0
  owner : Option Nat := none
  more : Nat := 0
  src : Nat := 1
  deriving DecidableEq, Repr

/-- A context (R144). -/
structure Ctx where
  kind : CtxKind := .kernel
  st : CtxState := .waiting
  stall : Nat := 0
  ring : Nat := 0
  num : W32 := 0
  cores : List Nat := []
  nreg : Nat := 8
  ngrp : Nat := 1
  gx : Nat := 1
  gy : Nat := 1
  gz : Nat := 1
  entry : Nat := 0
  argAddr : Nat := 0
  wide : Nat := 0
  placed : List Nat := []
  boundExt : Bool := false
  boundSeen : Bool := false
  mismatch : Bool := false
  clips : Nat := 0
  nans : Nat := 0
  fault : Option CtxFault := none
  status : Option Nat := none
  start : Nat := 0
  quantum : Nat := 0
  heldSince : Option Nat := none
  images : List CoreImg := []
  rkey : Nat := 0
  store : List W64 := []
  entriesLeft : List Desc := []
  copyHeld : List Nat := []
  deriving DecidableEq, Repr

/-! ### Device memory (09) -/

/-- The states of a stack (Table 9.11). -/
inductive StackState where
  | healthy
  | degraded
  | failed
  deriving DecidableEq, Repr

/-- A stack (R201, R202, R211, R219): its state, thermal step, correctable count, uncorrectable units in the String, hard
pins as (pseudo-channel, pin), and its temperature. -/
structure Stack where
  st : StackState := .healthy
  therm : Nat := 0
  ce : Nat := 0
  unc : Nat := 0
  uncString : Nat := 0
  hard : List (Nat × Nat) := []
  temp : Int := 0
  deriving DecidableEq, Repr

/-- Who waits for a read held for a refill (R207): a load of a core by its mark, an instruction of a group (its fetch, its atomic or a
page-table walk) with its opcode, a descriptor, a peer's get that arrived on a port, an engine that reads for a stall, the copy with which a core's
context starts, or an operation of STL_FN_CMD. -/
inductive Reader where
  | load (core : Nat) (mark : Nat)
  | thread (core : Nat) (serial : Nat) (slot : Nat) (opc : Nat)
  | desc (r : Nat) (n : W32)
  | get (port : Nat) (x : Pkt)
  | engine (st : Nat)
  | start (core : Nat)
  | fn (f : Nat)
  deriving DecidableEq, Repr

/-- A refill of a golden block (R207 to R209); `trigger` is the read that started it, none where the patrol did (R203). -/
structure Refill where
  block : Nat
  running : Bool := false
  start : Nat := 0
  trigger : Option Reader := none
  deriving DecidableEq, Repr

/-- A read held for a refill (R207): the poisoned unit, since when, and who waits. -/
structure HeldRead where
  unit : Nat
  since : Nat := 0
  who : Reader
  deriving DecidableEq, Repr

/-- What a home slice holds of a line (R196, R198). -/
inductive CLine where
  | absent
  | clean
  | dirty
  deriving DecidableEq, Repr

/-- A line pinned for an open region (R215): the region's stall and base and the partial values of its 32 words (none where the line is
not pinned); `bad`: the partials decoded as uncorrectable (R216). -/
structure Pinned where
  stall : Nat := 0
  base : Nat := 0
  parts : List W32 := []
  bad : Bool := false
  deriving DecidableEq, Repr

/-- The home slices (R196 to R198, R202, R204, R215), by line, DPA / 128: which lines they hold, the pinned ones with their order of use (the
least recently used first), by unit the symbol, plus one, that the last read of the unit corrected, and by unit of a line that is not pinned what
became of HBM's own copy: 1 poisoned, 2 undefined. -/
structure Slices where
  lines : Tbl CLine := []
  pins : Tbl Pinned := []
  order : List Nat := []
  fixed : Tbl Nat := []
  under : Tbl Nat := []
  deriving DecidableEq, Repr

/-- An open accumulation region (R214 to R216). `added` lists the lines, by DPA / 128, that were added back, `lost` the loss that R216
records, `last` when it was last accumulated into. -/
structure Region where
  base : Nat := 0
  len : Nat := 0
  zero : Bool := false
  added : List Nat := []
  lost : Bool := false
  last : Nat := 0
  closing : Bool := false
  deriving DecidableEq, Repr

/-- A write of an engine that waits for a refill (R209): its stall, and the bytes at a DPA, or where `acc` the FP32 words added into an open region
at a virtual address. -/
structure Delayed where
  stall : Nat
  at_ : Nat
  bytes : List Byte
  acc : Bool := false
  deriving DecidableEq, Repr

/-- Device memory: bytes as plaintext under their block's key, poisoned units, the owner table, the key each block was
last written under, stacks, refills, held reads, and the packets on VC 2, with their ports, that wait for a refill or behind a held packet of
their source (R209, R265), in order of arrival; `delayed` holds the writes of engines that wait for a refill, `addDue` the pinned lines whose add-back
does, with its OPER, and `late` the units at which an engine's read was held for 200 µs (R207). -/
structure Mem where
  cells : List Host.Cell := []
  poison : List Nat := []
  owner : Tbl W16 := []
  blkKey : Tbl Nat := []
  stks : Tbl Stack := []
  mapStks : List Nat := [0, 1, 2, 3, 4, 5, 6, 7, 8, 9, 10, 11]
  refills : List Refill := []
  held : List HeldRead := []
  waiting : List (Nat × Pkt) := []
  delayed : List Delayed := []
  addDue : List (Nat × Nat) := []
  late : List (Nat × Reader) := []
  deriving DecidableEq, Repr

/-! ### Rings (13) -/

/-- The states of a ring (Table 13.4). -/
inductive RingState where
  | free
  | running
  | stopped
  | cancelling
  deriving DecidableEq, Repr

/-- Where a submitted descriptor stands (R316, R326, R329). -/
inductive DPhase where
  | submitted
  | reread
  | ready
  | running
  | done
  deriving DecidableEq, Repr

/-- A submitted descriptor: number, words, phase, status and record flags, and the clock when it was read or dispatched. -/
structure RDesc where
  num : W32
  words : List W64 := []
  ph : DPhase := .submitted
  status : Nat := 0
  flags : Nat := 0
  since : Nat := 0
  aux : Nat := 0
  deriving DecidableEq, Repr

/-- A ring: state, the context of Table 13.3, its numbers and its submitted descriptors in number order. `next` is the number after
the last submitted one, `failed` the descriptor after which nothing dispatches (R337). -/
structure Ring where
  st : RingState := .free
  func : Nat := 0
  local_ : Nat := 0
  sqBase : W64 := 0
  cqBase : W64 := 0
  start : W32 := 0
  gen : W16 := 0
  stall : Nat := 0
  pasid : W32 := 0
  log2 : Nat := 6
  cls : Nat := 0
  pipe : Nat := 0
  prio : Nat := 0
  bwLag : Nat := 0
  roData : Bool := false
  irqEn : Bool := false
  coalesce : Bool := false
  vector : Nat := 0
  coalCount : Nat := 1
  coalFrets : Nat := 1
  next : W32 := 0
  ds : List RDesc := []
  stopping : Bool := false
  failed : Option W32 := none
  coalN : Nat := 0
  coalFirst : Option Nat := none
  summary : Bool := false
  deriving DecidableEq, Repr

/-- The registers of a ledger (R374). `firstDone` says that the internal buffer has been written to it since it was last reset or
failed. -/
structure LedgerRegs where
  ctl : W32 := 0x03200000
  overflow : Bool := false
  alert : Bool := false
  writeFail : Bool := false
  base : W64 := 0
  prod : W32 := 0
  cons : W32 := 0
  dropped : W32 := 0
  firstDone : Bool := false
  deriving DecidableEq, Repr

/-- The TDI states (Table 17.5). -/
inductive TdiState where
  | unlocked
  | locked
  | run
  | error
  deriving DecidableEq, Repr

/-- Which operation a half-wide command register names last (BUSY, RESULT, its argument field). -/
structure CmdReg where
  busy : Bool := false
  result : Nat := 0
  arg : Nat := 0
  deriving DecidableEq, Repr

/-- An entry of a function's MSI-X table (R334, Table 19.1), as the PCIe specification lays it out: message address, message data and vector
control, whose bit 0 is the mask, set at reset (log 144). -/
structure MsixEnt where
  addr : W64 := 0
  data : W32 := 0
  ctl : W32 := 1
  deriving DecidableEq, Repr

/-- What a function has: its registers of scope function, its quota of rings, its TDI and SPDM state. `stlHeld`: the operation of STL_FN_CMD in
progress, which waits for a held read (R207). `latch`: the high halves that reads of low halves latched, by register (R456). -/
structure Fn where
  kickOnly : Bool := false
  dbBase : W64 := 0
  dbPasid : W32 := 0
  ringCtx : List W64 := [0, 0, 0, 0, 0, 0, 0, 0]
  ringCmd : CmdReg := {}
  ringCount : W32 := 0
  led : LedgerRegs := {}
  stl : CmdReg := {}
  stlArg : W64 := 0
  stlHeld : Option Nat := none
  quotaBase : Nat := 0
  quotaCount : Nat := 0
  tdi : TdiState := .unlocked
  tdiStream : Nat := 0
  tdiBusy : Bool := false
  tdiBlocks : List Nat := []
  latch : List (Nat × W32) := []
  insecure : List Nat := []
  msix : Tbl MsixEnt := []
  pba : List Nat := []
  deriving DecidableEq, Repr

/-! ### Stalls (14, 15) -/

/-- The states of a stall (R341). -/
inductive StallState where
  | free
  | active
  | resetting
  | destroying
  deriving DecidableEq, Repr

/-- What SET_SHARE sets (Table 14.2), waiting for the next fret boundary. -/
structure NewShare where
  weight : Nat
  maxCtx : Nat
  quantum : Nat
  lbShare : Nat
  planShare : Nat
  due : Nat
  deriving DecidableEq, Repr

/-- A registered golden source (Table 14.7). -/
structure Golden where
  base : Nat
  blocks : List Nat
  kind : Nat
  src : W64 := 0
  pasid : W32 := 0
  peer : Nat := 0
  peerStall : Nat := 0
  peerWin : Nat := 0
  digest : Nat := 0
  deriving DecidableEq, Repr

/-- The state of a pipeline (R227, R228). -/
structure Pipe where
  full : Bool := false
  turnBx : Bool := false
  chosen : Option Nat := none
  deriving DecidableEq, Repr

/-- The operations of an update descriptor (Table 10.3) that run over time. -/
inductive UpdOp where
  | close
  | norm
  | apply
  | emit
  deriving DecidableEq, Repr

/-- The phases of R240. -/
inductive UpdPhase where
  | drain
  | gate
  | work
  deriving DecidableEq, Repr

/-- The update descriptor that a stall runs (R229, R240): `start` is when its hold began, `f` the clipping factor of R237, `hyp` the
hyperparameters, `hwm` the lines each engine has done of an EMIT, `rkey` the rounding key at dispatch (R65), `counts` what its
conversions counted. -/
structure UpdJob where
  op : UpdOp
  ring : Nat
  num : W32
  words : List W64
  ph : UpdPhase := .drain
  start : Nat := 0
  f : W32 := 0
  hyp : List W32 := []
  hwm : Tbl Nat := []
  rkey : Nat := 0
  counts : List Nat := [0, 0, 0, 0]
  deriving DecidableEq, Repr

/-- The record of a step (R298, R299, R377 to R379, R391). -/
structure Step where
  step : Nat
  attempt : Nat := 0
  open_ : Bool := false
  epochs : List Nat := []
  passFrom : List (Nat × Nat) := []
  sent : Bool := false
  committed : Option Nat := none
  resent : Option Nat := none
  deriving DecidableEq, Repr

/-- The lease of a window (Table 15.8, kind 4): its EXPIRY as read, the clock it was converted to when String time was loaded or stepped, and
whether its event was written. -/
structure WinLease where
  raw : Nat := 0
  due : Option Nat := none
  told : Bool := false
  deriving DecidableEq, Repr

/-- A stall: the context of Table 14.1, keys, shares, tallies, checks, steps, regions and updates. `resetCmd` says that the reset in
progress was commanded by STL_CMD; `qTimer` and `qCheck` are the Q fields in effect, `qCheckNew` the MTX_CHECK value loaded at the Q point
and used from the next window close, `closeDue` the clock of the next window close, `winLeases` what is known of window leases by window, `lastQEnd` the clock of its last quantum end. -/
structure Stall where
  st : StallState := .free
  ptRoot : Nat := 0
  saveBase : Nat := 0
  coreMask : BitVec 192 := 0
  func : Nat := 0
  weight : Nat := 1
  maxCtx : Nat := 1
  quantum : Nat := 1
  lbShare : Nat := 0
  planShare : Nat := 0
  near : Nat := 0
  winTable : Nat := 0
  newShare : Option NewShare := none
  memKey : Nat := 0
  rkey : W64 := 0
  used : Nat := 0
  tally : Tbl Nat := []
  epoch : Nat := 1
  failedEps : List Nat := []
  tainted : Bool := false
  fraction : Nat := 0
  qTimer : W32 := 0x200F4240
  qCheck : W32 := 0x2281E002
  qCheckNew : W32 := 0x2281E002
  qDone : Bool := true
  qHold : Bool := false
  closeDue : Nat := 0
  winLeases : Tbl WinLease := []
  lastQEnd : Option Nat := none
  stepSet : Option (Nat × List (Nat × Nat)) := none
  steps : List Step := []
  regions : List Region := []
  hold : Bool := false
  partial_ : Bool := false
  upd : Option UpdJob := none
  pipes : Tbl Pipe := []
  golden : List Golden := []
  lbHeld : Nat := 0
  heldGets : List (Nat × Pkt × Nat) := []
  resetCmd : Bool := false
  plansDue : Option Nat := none
  deriving DecidableEq, Repr

/-! ### The String fabric (11) and collectives (12) -/

/-- The states of a port (Table 11.17). -/
inductive PortState where
  | down
  | training
  | up
  | wait
  | held
  deriving DecidableEq, Repr

/-- A sequenced flit in the replay buffer (R254): as it was sent, when, whether LATE_ACK was raised for it, and how often it was
resent. -/
structure Sent where
  seq : Nat
  hdr : W32
  body : List Byte := []
  at_ : Nat := 0
  late : Bool := false
  resends : Nat := 0
  deriving DecidableEq, Repr

/-- A flit's content waiting to be sent: KIND, VC, flow (VC 1) and body; `cont`: it goes on with a packet. -/
structure TxItem where
  kind : Nat
  vc : Nat
  flow : Nat := 0
  cont : Bool := false
  body : List Byte := []
  deriving DecidableEq, Repr

/-- A fret plan (R259): 256 entries (not listed: 0b00) and its flow table. -/
structure Plan where
  entries : Tbl W16 := []
  flows : Tbl (Option FlowEnt) := []
  deriving DecidableEq, Repr

/-- A SWITCH in progress (R262): tag, boundary, whether acknowledged, whether the device sent it. -/
structure SwitchReq where
  tag : W16
  at_ : Nat
  acked : Bool := false
  own : Bool := true
  sent : Bool := true
  deriving DecidableEq, Repr

/-- A lease on a flow's plan entries (Table 15.8, kind 2). -/
structure FlowLease where
  flow : Nat
  due : Nat
  deriving DecidableEq, Repr

/-- The key and salt of one direction of a link (R270, R432). -/
structure LinkKey where
  key : BitVec 256 := 0
  salt : W32 := 0
  deriving DecidableEq, Repr

/-- Link training and link keys of a port (R269 to R271, R433). `step` is that of Table 11.13, 2 standing for steps 2 to 4, whose ends no command
tells; `began` when it began, `good` the flits in a row with a good CRC, `trainIn` that the partner's TRAIN has passed its checks, `trip` the round
trip measured at training; `fmk` is the FMK of the exchange in progress, taken as it begins (R434), `oldRx` the receiver's old key, its count and when
it ends. -/
structure Link where
  step : Nat := 0
  began : Nat := 0
  good : Nat := 0
  trainIn : Bool := false
  trip : Nat := 0
  trained : Bool := false
  partnerId : Nat := 0
  samples : List (Nat × Int) := []
  measured : Option Nat := none
  delayIdx : Nat := 0
  nonceOwn : Option (BitVec 256) := none
  nonceIn : Option (BitVec 256) := none
  fmk : Option (BitVec 256) := none
  keyTx : LinkKey := {}
  keyRx : LinkKey := {}
  started : Option Nat := none
  oldRx : Option (LinkKey × Nat × Nat) := none
  confSent : Bool := false
  confIn : Bool := false
  txCount : Nat := 0
  rxCount : Nat := 0
  waitUntil : Nat := 0
  deriving DecidableEq, Repr

/-- The transmit side of the PHY (R249): bits cut into no symbol yet, the channel that takes the next symbol, and by channel the last 58 scrambled
bits and the symbols of the open codeword, the last first; `words`: codewords of each channel since the last alignment codeword. -/
structure Pcs where
  pend : Nat := 0
  pendN : Nat := 0
  chan : Nat := 0
  scr : Tbl Nat := []
  syms : Tbl (List Nat) := []
  words : Nat := 0
  deriving DecidableEq, Repr

/-- An optical port. `cnt` holds the counters of Table 19.2 by c. -/
structure Port where
  st : PortState := .down
  reason : Nat := 0
  partner : Nat := 0
  activePlan : Nat := 0
  downSeen : Bool := false
  fails : Nat := 0
  delay : Nat := 0
  cnt : Tbl Nat := []
  txSeq : Nat := 0
  rxSeq : Nat := 0
  replay : List Sent := []
  resend : List Sent := []
  nakOut : Bool := false
  nakAt : Nat := 0
  rxAt : Nat := 0
  credits : Tbl Nat := []
  owed : Tbl Nat := []
  txq : List TxItem := []
  lateAcks : Nat := 0
  lateString : Nat := 0
  tagFails : Nat := 0
  tagString : Nat := 0
  fretNo : Nat := 0
  slots : Nat := 0
  slots0 : Nat := 0
  slots1 : Nat := 0
  plans : List Plan := [{}, {}]
  sw : Option SwitchReq := none
  planTags : List (Nat × Bool) := []
  leases : List FlowLease := []
  link : Link := {}
  pcs : Pcs := {}
  throttled : Bool := false
  deriving DecidableEq, Repr

/-- An outstanding best-effort transaction of the device (R258, R266), by its tag. -/
structure BestEffort where
  tag : Nat
  port : Nat
  block : Nat := 0
  got : List Byte := []
  deriving DecidableEq, Repr

/-- Where a collective stands. -/
inductive CollPhase where
  | waiting
  | sending
  deriving DecidableEq, Repr

/-- What a segment that a collective holds is (R282, R290, R295): a partial sum that awaits this member's values, delivered data to
forward, a permute's staged piece, or a result held for PASS. -/
inductive SegKind where
  | partialSum
  | deliver
  | staged
  | provisional
  deriving DecidableEq, Repr

/-- Data that a collective holds in its reservation. `shard` is the shard or the sending member, `off` the first element of the
shard (bytes of DST for staged pieces), `bytes` FP32 or DFMT words, `bad` its poisoned units, the first being 0 (R204). -/
structure Seg where
  kind : SegKind
  shard : Nat
  off : Nat
  bytes : List Byte := []
  bad : List Nat := []
  deriving DecidableEq, Repr

/-- A SEAL_QUERY in progress (R292): the shard, how many members were asked, since when, and what one of them sends. -/
structure SealQ where
  shard : Nat
  asked : Nat := 1
  since : Nat
  got : List Byte := []
  deriving DecidableEq, Repr

/-- The issue that an issue-form collective belongs to (R278): its group and context, RES_ADDR and token counter. -/
structure Issue where
  core : Nat
  slot : Nat
  serial : Nat
  ctx : Nat
  res : Nat
  token : Nat
  deriving DecidableEq, Repr

/-- A direct operation's piece (R285, R289): the other member, its bytes, and its offsets in SRC and in the receiver's DST. -/
structure Piece where
  member : Nat
  bytes : Nat
  srcOff : Nat := 0
  dstOff : Nat := 0
  deriving DecidableEq, Repr

/-- A collective (R278 to R303). `landed` counts what has landed: elements by shard and pass of a ring operation, bytes by member
of a direct one; `sent` lists the segments that have been sent as (kind, shard, off), and `sentN` their elements or bytes; `written` the ranges of DST
that it has written (R300). -/
structure Coll where
  id : Nat
  stall : Nat
  num : Nat
  words : List W64
  ring : Option (Nat × W32) := none
  issue : Option Issue := none
  members : List (Nat × Nat) := []
  me : Nat := 0
  nstripe : Nat := 0
  routes : List (Nat × Nat × Nat) := []
  extents : List (Nat × Nat) := []
  sends : List Piece := []
  recvs : List Piece := []
  ph : CollPhase := .waiting
  attempt : Nat := 0
  start : Nat := 0
  deadline : Nat := 0
  lb : Nat := 0
  segs : List Seg := []
  landed : Tbl Nat := []
  sent : List (Nat × Nat × Nat) := []
  sentN : Nat := 0
  written : List (Nat × Nat) := []
  passFrom : List Nat := []
  passSent : Bool := false
  epochs : List Nat := []
  sealQ : Option SealQ := none
  sealBad : List Nat := []
  sealOk : List Nat := []
  result : Option (Nat × Nat) := none
  endWith : Option (Nat × Nat) := none
  lost : Bool := false
  fenced : List Nat := []
  deriving DecidableEq, Repr

/-- A shard kept for seal repair (R292); `base` is its first byte in the whole tensor, `bad` its poisoned units. -/
structure Kept where
  stall : Nat
  coll : Nat
  members : List (Nat × Nat) := []
  shard : Nat
  step : W32
  base : Nat := 0
  bytes : List Byte
  bad : List Nat := []
  deriving DecidableEq, Repr

/-- A seal store (R292): the part of the reservation beyond the minimum of a record gather of a collective, held for a step. -/
structure SealStore where
  stall : Nat
  coll : Nat
  step : Nat
  size : Nat
  deriving DecidableEq, Repr

/-! ### The ledger (15) -/

/-- A ledger entry (Table 15.1). -/
structure Entry where
  time : Nat
  seq : W32
  event : Nat
  severity : Nat
  local_ : Bool
  count : Nat := 0
  kind : Nat
  unit : Nat
  stall : Option Nat
  temp : Int
  volt : Nat := 0
  oper : Nat := 0
  arg0 : Nat := 0
  arg1 : Nat := 0
  arg2 : Nat := 0
  arg3 : Nat := 0
  deriving DecidableEq, Repr

/-- A field test in progress (R387); `ctx` is its context where it takes cores. -/
structure FieldTest where
  kind : Nat
  number : Nat
  families : Nat
  passes : Nat
  autoFence : Bool
  ctx : Option Nat := none
  deriving DecidableEq, Repr

/-- The ledger: the number of the next entry, the operator ledger, the internal buffer, field tests and fencing. -/
structure Ledger where
  seq : W32 := 0
  op : LedgerRegs := {}
  buf : List Entry := []
  testCmd : CmdReg := {}
  testAuto : Bool := false
  testKind : Nat := 0
  testArg : W64 := 0
  testFail : W16 := 0
  test : Option FieldTest := none
  fences : List (Nat × Nat × Nat) := []
  arrFenced : List Nat := []
  coreFenced : List Nat := []
  deriving DecidableEq, Repr

/-- What the health record holds (R389). -/
structure Health where
  arrays : List Nat := []
  cores : List Nat := []
  stks : Tbl Nat := []
  hard : List (Nat × Nat × Nat) := []
  engines : List Nat := []
  fatal : List Entry := []
  counts : Tbl Nat := []
  deriving DecidableEq, Repr

/-! ### Tunings, start-up and security (16, 17) -/

/-- What a slot directory copy says (Table 16.2). -/
structure Dir where
  gen : W32 := 0
  cur : Option (Fin 3) := none
  prev : Option (Fin 3) := none
  pend : Option (Fin 3) := none
  pendState : Nat := 0
  curNum : W32 := 0
  prevNum : W32 := 0
  pendNum : W32 := 0
  deriving DecidableEq, Repr

/-- A firmware bank (R425): its image, if any, and STATE. -/
structure Bank where
  img : Option FwImg := none
  state : Byte := 0xFF
  deriving DecidableEq, Repr

/-- The factory layer (Table 16.1, R396, R424): boot block, factory firmware, factory tuning, field-test signatures, the vendor's public keys, the
layer's two signatures and the DeviceID certificates. The bytes are Haldavo's. -/
structure FactoryLayer where
  bootBlock : List Byte := []
  firmware : List Byte := []
  tuning : List Byte := []
  fieldTests : List Byte := []
  vendorKeys : List Byte := []
  sigs : List Byte := []
  certs : List Byte := []
  deriving DecidableEq, Repr

/-- The parts of the NV image (Table 16.1). -/
inductive NvPart where
  | factory
  | bank (i : Fin 2)
  | slot (i : Fin 3)
  | dir (i : Fin 2)
  | health (i : Fin 2)
  | reserved
  deriving DecidableEq, Repr

/-- The offset and the size of a part (Table 16.1). -/
def NvPart.place : NvPart → Nat × Nat
  | .factory => (0, 0x1000000)
  | .bank i => (0x1000000 + 0x1000000 * i.val, 0x1000000)
  | .slot i => (0x3000000 + 0x400000 * i.val, 0x400000)
  | .dir i => (0x3C00000 + 0x10000 * i.val, 0x10000)
  | .health i => (0x3C20000 + 0x40000 * i.val, 0x40000)
  | .reserved => (0x3CA0000, 0x360000)

/-- The NV image (Table 16.1) and the fuses (Table 17.1). `health` is the newest of the two copies of the health record, in copy `healthIdx`, and
`healthOld` the other (R389). The reserved part is left erased and holds nothing. -/
structure Nv where
  slots : List (Option TunImg) := [none, none, none]
  dirs : List (List Byte) := [[], []]
  banks : List Bank := [{}, {}]
  health : Health := {}
  healthOld : Health := {}
  healthIdx : Fin 2 := 0
  floor : Nat := 0
  uds : BitVec 384 := 0
  vendorRsa : BitVec 384 := 0
  vendorSlh : BitVec 384 := 0
  slotProg : BitVec 4 := 0
  slotRev : BitVec 4 := 0
  keys : Tbl (BitVec 3072 × BitVec 384) := []
  production : Bool := false
  factory : FactoryLayer := {}
  deriving DecidableEq, Repr

/-- The phases of a tuning change (R409, R412). -/
inductive ChangePhase where
  | preparing
  | ready
  | mixed
  | rollingBack
  deriving DecidableEq, Repr

/-- A tuning change in progress (R409 to R414): `at_` is the clock of the switch or of the next revert (none: the first fret boundary after
the prepare), `switched` the clock from which Q points count, `lastQ` the String time of the last one, `exchange` a live ROLLBACK, `lDone`
that every L group runs the old values again, `stuck` that a revert failed. -/
structure Change where
  ph : ChangePhase
  oldNum : W32
  newNum : W32
  old : TunRegs
  new : TunRegs
  newDigest : BitVec 384 := 0
  at_ : Option Nat
  qLimit : Nat
  switched : Option Nat := none
  exchange : Bool := false
  viaMgmt : Bool := false
  lastQ : Nat := 0
  failPhase : Nat := 0
  failArg : Nat := 0
  lDone : Bool := false
  stuck : Bool := false
  deriving DecidableEq, Repr

/-- The boot states (Table 16.10). -/
inductive BootState where
  | booting
  | ready
  | stopped
  deriving DecidableEq, Repr

/-- The tuning: register values as read, values in effect, TUN registers, the tuning being staged and the change in progress. `dirty`: RWL
fields were written on an unsealed device and take effect at the clock `dirtyAt`; `noHost`: link die 0 failed its self-test, so no host port trains (R418). -/
structure Tun where
  regs : TunRegs := {}
  live : TunRegs := {}
  boot : BootState := .booting
  sealed_ : Bool := false
  source : Nat := 0
  bootCause : Nat := 0
  cmd : CmdReg := {}
  valCheck : Nat := 0
  valRecord : BitVec 24 := 0xFFFFFF
  arg0 : W64 := 0
  arg1 : W64 := 0
  applyCtl : W64 := 0
  curNum : W32 := 0
  curDigest : BitVec 384 := 0
  change : Option Change := none
  staging : Option (Fin 3 × TunImg) := none
  dirty : Bool := false
  dirtyAt : Nat := 0
  noHost : Bool := false
  deriving DecidableEq, Repr

/-- An IDE stream of a host port (R432, R435): the keys of its sets K0 and K1 and the set in use, per direction and sub-stream: place 3 times the
direction (1: receive) plus the sub-stream, in `keys` plus 6 for K1. -/
structure IdeStream where
  port : Nat
  stream : Nat
  keys : Tbl (Option (BitVec 256)) := []
  use : Tbl (Option Bool) := []
  deriving DecidableEq, Repr

/-- A key pair of R429: the RSA-3072 modulus and the SLH-DSA public key. -/
structure KeyPair where
  rsa : BitVec 3072 := 0
  slh : BitVec 384 := 0
  deriving DecidableEq, Repr

/-- The security complex (17). `debugNext`: a level-2 token awaits the next device reset. `hand`, `sess` and `signed` go by connection (a function's DOE
mailbox by its number, MCTP as 4096): a key exchange begun, a secured session, and what the last signed response not yet signed by PQ_SIGN signed.
`cdi0`, `cdi1`, the key pairs and the certificates of the Alias are those of R429, `device` the device identity digest (R430), `udsLocked` the lock of
R423. `writing`: the firmware image being written and whether the management endpoint brought it (R427, R463). -/
structure Sec where
  cmd : CmdReg := {}
  bank : Nat := 0
  svn : Nat := 0
  debug : Nat := 0
  debugNext : Bool := false
  fmk : Option (BitVec 256) := none
  nonce : Option (BitVec 256) := none
  signed : List (Nat × String × List Nat) := []
  hand : List Nat := []
  sess : List Nat := []
  ide : List IdeStream := []
  writing : Option (FwImg × Bool) := none
  udsLocked : Bool := false
  cdi0 : BitVec 384 := 0
  cdi1 : BitVec 384 := 0
  deviceId : KeyPair := {}
  aliasId : KeyPair := {}
  aliasCert : List Nat := []
  device : BitVec 128 := 0
  deriving DecidableEq, Repr

/-! ### Package, power and management (01, 18, 20) -/

/-- The phases of the brake (Table 18.1). -/
inductive BrakePhase where
  | idle
  | asserted
  | releasing
  | ramping
  deriving DecidableEq, Repr

/-- Droop of a compute die (R444). -/
inductive DroopPhase where
  | no
  | drooping
  | holding
  deriving DecidableEq, Repr

/-- Power, thermal and management. Stretches are in 1/64; `loopDue` is the clock of the next slow power loop, `droops` the droop events of each die since
the last String boundary. `eid` and `i3cAddr` are what the bus owner and the I3C controller assigned, `eventsTo` the path of the bus owner that enabled
platform event messages. -/
structure Pwr where
  loopDue : Nat := 0
  capOvr : W32 := 0
  pStretch : Nat := 64
  capUnmet : Bool := false
  brakePin : Bool := false
  brake : BrakePhase := .idle
  brakeStretch : Nat := 64
  brakeAt : Nat := 0
  thermStretch : Tbl Nat := []
  droop : Tbl DroopPhase := []
  droopAt : Tbl Nat := []
  droops : Tbl Nat := []
  thermDies : BitVec 4 := 0
  thermLink : BitVec 2 := 0
  devW : Nat := 0
  alertEn : BitVec 5 := 3
  alertSeen : BitVec 5 := 0
  dieTemp : Tbl Int := []
  dieW : Tbl Nat := []
  energy : Tbl W64 := []
  optTemp : Tbl Int := []
  trip : Bool := false
  coreClocks : Bool := true
  selfRefresh : Bool := false
  eid : Option Byte := none
  i3cAddr : Option (BitVec 7) := none
  eventsTo : Option MgmtPath := none
  deriving DecidableEq, Repr

/-- Pins (Table 20.3) and laser inputs (R18), in 0.01 dBm by engine and wavelength. Bit p of `perst` is 1 while PERSTp_N is low. -/
structure Pins where
  pwrok : Bool := false
  perst : BitVec 4 := 0
  thermtrip : Bool := false
  lasers : Tbl Int := []
  deriving DecidableEq, Repr

/-- Host ports (R306 to R308, R318): which are in L0, the VFs enabled by port, the kick queue, by global ring number, the kicks for which a port
withholds credit, by function, and the ring whose turn is next by stall and PRIO (R311). -/
structure Hosts where
  l0 : BitVec 4 := 0
  vfs : Tbl Nat := []
  kicks : List Nat := []
  waitKicks : List (Nat × Nat × W32) := []
  turn : Tbl Nat := []
  deriving DecidableEq, Repr

/-- What the block drives to the outside, in order. -/
inductive Out where
  | hostWrite (func : Nat) (pasid : W32) (addr : Nat) (data : List Byte) (ro : Bool)
  | hostRead (func : Nat) (pasid : W32) (addr : Nat) (len : Nat)
  | hostSwap (func : Nat) (pasid : W32) (addr : Nat)
  | msix (func : Nat) (vector : Nat) (addr : W64) (data : W32)
  | tdo (bits : List Bool)
  | barRead (func : Nat) (data : List Byte)
  | unsupported (func : Nat)
  | ledgerWrite (func : Nat) (addr : Nat) (data : List Byte)
  | flit (port : Nat) (hdr : W32) (body : List Byte) (crc : W32)
  | control (port : Nat) (ctype : Nat) (body : List Byte)
  | codeword (port : Nat) (chan : Nat) (syms : List Nat)
  | regData (func : Nat) (off : Nat) (v : W64)
  | configRetry (func : Nat)
  | cfgDone (func : Nat) (tag : Nat)
  | spdm (conn : SpdmConn) (kind : String) (fields : List Nat)
  | mgmt (path : MgmtPath) (kind : String) (fields : List Int)
  | goldenGet (stall : Nat) (block : Nat)
  | link (hostPort : Nat) (trains : Bool)
  | strOut
  | capture (func : Nat) (addr : W64) (body : List TunRec)
  | bytesTo (func : Nat) (addr : W64) (v : BitVec 256)
  deriving DecidableEq, Repr

/-- The state of the block. `passDue` holds the collectives that ended with SUCCESS before their PASS was sent (R294). `limits` holds, for each event that is written at most once in a span, the String after that of its
last entry and how many occurrences no entry has reported. `stlInval` is the stall and the range, base and bytes (0: the whole space), of an INVAL that
waits for accesses in flight (R348). `keyEra` counts device resets: every stall key is new after one (R419), so a key is a pair of `keyEra` and a
number. -/
structure State where
  pending : List Instr := []
  str : Str := {}
  cores : Tbl Core := []
  ctxs : Tbl (Option Ctx) := []
  nextCtx : Nat := 0
  nextId : Nat := 0
  mem : Mem := {}
  slices : Slices := {}
  stalls : Tbl Stall := []
  nextKey : Nat := 1
  keyEra : Nat := 0
  rings : Tbl Ring := []
  fns : Tbl Fn := []
  stl : CmdReg := {}
  stlInval : Option (Nat × Nat × Nat) := none
  stlCtx : List W64 := [0, 0, 0, 0, 0, 0, 0, 0]
  ports : Tbl Port := []
  best : List BestEffort := []
  colls : List Coll := []
  passDue : List Coll := []
  kept : List Kept := []
  stores : List SealStore := []
  led : Ledger := {}
  mtxShadow : Tbl W32 := []
  tun : Tun := {}
  nv : Nv := {}
  sec : Sec := {}
  pwr : Pwr := {}
  pins : Pins := {}
  hosts : Hosts := {}
  limits : Tbl (Nat × Nat) := []
  out : List Out := []
  rnd : Nat := 0
  deriving DecidableEq, Repr

/-- The block right after reset: registers at the reset values of Table 19.2 and the chapters' tables, TUN_STATUS.BOOT
BOOTING, String time 0 and FREE (R34), no stall, context, ring or collective, device memory zero (R417), every queue empty.
POWER_ON and BOOT_READY run the boot sequence from here. -/
def State.reset : State := {}

end Sys2Proof.Machine
end

