-- ==== Sys2Proof/Machine/Ops.lean ====
section
/-! DEFINITION. The named operations that the meanings share: access to the units of State, String time, the ledger
(R370 to R375), faulting a context (R168 to R170), device memory with translation, owner check, poison and regions
(R191 to R218, R345 to R347), local memory, and the ring and collective operations that other chapters need. -/

namespace Sys2Proof.Machine

/-- What a meaning answers. -/
abbrev Res := Host.Outcome State Fault Refusal

/-! ### Units of State -/

def State.core (s : State) (c : Nat) : Core := tget {} s.cores c
def State.setCore (s : State) (c : Nat) (x : Core) : State := { s with cores := tset {} s.cores c x }
def State.stall (s : State) (n : Nat) : Stall := tget {} s.stalls n
def State.setStall (s : State) (n : Nat) (x : Stall) : State := { s with stalls := tset {} s.stalls n x }
def State.ring (s : State) (r : Nat) : Ring := tget {} s.rings r
def State.setRing (s : State) (r : Nat) (x : Ring) : State := { s with rings := tset {} s.rings r x }
def State.fn (s : State) (f : Nat) : Fn := tget {} s.fns f
def State.setFn (s : State) (f : Nat) (x : Fn) : State := { s with fns := tset {} s.fns f x }
def State.port (s : State) (p : Nat) : Port := tget {} s.ports p
def State.setPort (s : State) (p : Nat) (x : Port) : State := { s with ports := tset {} s.ports p x }
def State.ctx? (s : State) (n : Nat) : Option Ctx := tget none s.ctxs n
def State.setCtx (s : State) (n : Nat) (x : Option Ctx) : State := { s with ctxs := tset none s.ctxs n x }
def State.modCtx (s : State) (n : Nat) (f : Ctx → Ctx) : State := s.setCtx n ((s.ctx? n).map f)
def State.modCore (s : State) (n : Nat) (f : Core → Core) : State := s.setCore n (f (s.core n))
def State.modStall (s : State) (n : Nat) (f : Stall → Stall) : State := s.setStall n (f (s.stall n))
def State.modRing (s : State) (n : Nat) (f : Ring → Ring) : State := s.setRing n (f (s.ring n))
def State.modFn (s : State) (n : Nat) (f : Fn → Fn) : State := s.setFn n (f (s.fn n))
def State.modPort (s : State) (n : Nat) (f : Port → Port) : State := s.setPort n (f (s.port n))

/-- Drive `o` out. -/
def State.drive (s : State) (o : Out) : State := { s with out := s.out ++ [o] }

/-- A fresh number for a free value, and the state with the counter advanced. -/
def State.fresh (s : State) : State := { s with rnd := s.rnd + 1 }

/-- Fold an operation over a list of numbers. -/
def forEach {α : Type} (l : List α) (s : State) (f : α → State → State) : State := l.foldl (fun a x => f x a) s

/-! ### String time (R26, R39, R41 to R43) -/

/-- Sub-frets of a fret and of a String (R26). -/
def subPerFret : Nat := 256
def subPerString : Nat := 65536

/-- The clock that items due at a time run on (R39, R41, R43). -/
def State.clock (s : State) : Nat := ((s.str.time : Int) - s.str.base).toNat

/-- An absolute String time as a value of that clock. -/
def State.clockOf (s : State) (t : Nat) : Nat := ((t : Int) - s.str.base).toNat

/-- The String count, fret and sub-fret of a time (R26). -/
def stringOf (t : Nat) : Nat := t / subPerString
def fretOf (t : Nat) : Nat := t / subPerFret % 256

/-- The unit runs on String time (R39, R40): LOCKED or HOLDOVER. -/
def State.onString (s : State) : Bool := s.str.st == .locked || s.str.st == .holdover

/-- The fret boundary after String time `t`, and the first one at or after it. -/
def nextFret (t : Nat) : Nat := (t / subPerFret + 1) * subPerFret
def fretCeil (t : Nat) : Nat := cdiv t subPerFret * subPerFret

/-- The clock at the next fret boundary. -/
def State.nextFret (s : State) : Nat := s.clockOf (Machine.nextFret s.str.time)

/-- The clock at the first fret boundary at or after clock value `t`: an item due at `t` takes effect there (R39, R44). -/
def State.fretCeil (s : State) (t : Nat) : Nat := s.clockOf (Machine.fretCeil ((t : Int) + s.str.base).toNat)

/-- The sub-frets that have passed: what an absolute duration (R4) is counted on, whatever String time does. -/
def State.elapsed (s : State) : Nat := ((s.str.time : Int) - s.str.skip).toNat

/-- The fret length in ns (Table 2.1). -/
def State.fretNs (s : State) : Nat := 500 * 2 ^ fld s.tun.live.strFretLen 1 0

/-- A duration in ns as sub-frets, rounded up (R4: absolute durations do not scale with the fret length). -/
def State.ns (s : State) (n : Nat) : Nat := cdiv (n * 256) s.fretNs

/-! ### Functions -/

/-- The operator function: the PF of host port OPER_PORT (R340, R406). -/
def State.operFn (s : State) : Nat := fld s.tun.live.feat 1 0 * 1024

def State.isOper (s : State) (f : Nat) : Bool := f == s.operFn

/-- The host ports that BIF provides (Table 13.1); 0b11 acts as 0b00. -/
def bifPorts (r : TunRegs) : List Nat :=
  match fld r.portCfg 1 0 with
  | 1 => [0, 2]
  | 2 => [0, 1, 2, 3]
  | _ => [0]

/-- A function is enabled: the PF of a port that BIF provides, or a VF that the host enabled (R307). -/
def State.fnEnabled (s : State) (f : Nat) : Bool :=
  (bifPorts s.tun.live).contains (f / 1024) && (f % 1024 == 0 || decide (f % 1024 ≤ tget 0 s.hosts.vfs (f / 1024)))

/-- The stalls bound to function `f`, stall 0 among them for the operator function. -/
def State.stallsOf (s : State) (f : Nat) : List Nat :=
  (s.stalls.filter fun e => e.2.func == f && e.2.st != .free).map (·.1)

/-! ### Tallies (R365) -/

def satAdd64 (a b : Nat) : Nat := min (2 ^ 64 - 1) (a + b)

/-- Count `n` in the tally at offset `off` of stall `st` (Table 14.8). -/
def State.tally (s : State) (st off n : Nat) : State :=
  s.modStall st fun x => { x with tally := tmod 0 x.tally off fun a => satAdd64 a n }

/-- The four counts of a descriptor to the stall's quantizer tallies (R143). -/
def State.tallyCounts (s : State) (st : Nat) (cs : List Nat) : State :=
  forEach cs.zipIdx s fun e s => s.tally st (0x48 + 8 * e.2) e.1

/-- The effective shadow fraction of a stall (R381, R405). -/
def State.fractionOf (s : State) (st : Nat) : Nat := if bitAt s.tun.live.timer 28 then (s.stall st).fraction else 0

/-- The shadow fraction that MTX_SHADOWi or MTX_CHECK gives a stall (R381, Table 19.5). -/
def State.fractionSet (s : State) (st : Nat) (qCheck : W32) : Nat :=
  let n := fld (tget 0 s.mtxShadow (st / 8)) (4 * (st % 8) + 3) (4 * (st % 8))
  let f := if 8 ≤ n then n % 8 else fld qCheck 2 0
  min 4 f

/-! ### The ledger (R370 to R375) -/

/-- The die whose temperature a unit's entry carries (R370), as the index of the die registers: 0 to 3 compute, 4 and 5
link; the hottest for the device. -/
def dieOfUnit (kind unit : Nat) : Option Nat :=
  match kind with
  | 0x01 => some (unit % 4)
  | 0x02 => some (4 + unit % 2)
  | 0x03 => some (unit / 48)
  | 0x04 => some (unit / 384)
  | 0x05 => some (unit / 1536)
  | 0x06 => some (unit / 48)
  | 0x07 => some (unit / 16)
  | 0x08 => some (unit / 3)
  | 0x0A => some (4 + unit / 8)
  | 0x0B => some 4
  | 0x0C => some 4
  | 0x0D => some 5
  | 0x0E => some 4
  | 0x0F => some 4
  | _ => none

def hottest (t : Tbl Int) : Int := (List.range 6).foldl (fun a d => max a (tget 0 t d)) (tget 0 t 0)

def State.unitTemp (s : State) (kind unit : Nat) : Int :=
  match dieOfUnit kind unit with
  | some d => tget 0 s.pwr.dieTemp d
  | none => hottest s.pwr.dieTemp

/-- Entries of a ledger ring: 2^LOG2SIZE, 8 to 20, other values act as 12 (Table 15.5). -/
def ledgerSize (ctl : W32) : Nat := 2 ^ (let n := fld ctl 26 22; if 8 ≤ n ∧ n ≤ 20 then n else 12)

/-- What a write of an entry to one ledger does: nothing, it is written, it is dropped because the ring is full, or it fails with a cause
of Table 15.4 (R374, R375). -/
inductive LedgerPut where
  | off
  | written
  | dropped
  | failed (cause : Nat)
  deriving DecidableEq, Repr

/-- The registers of a ledger after a write of an entry; `cause` is that of a host that does not take it, 0 where it does. -/
def ledgerPut (cause : Nat) (r : LedgerRegs) : LedgerRegs × LedgerPut :=
  if ¬ bitAt r.ctl 31 then (r, .off)
  else if ledgerSize r.ctl ≤ (r.prod - r.cons).toNat then
    ({ r with dropped := if r.dropped.toNat = 2 ^ 32 - 1 then r.dropped else r.dropped + 1, overflow := true }, .dropped)
  else if cause ≠ 0 then ({ r with ctl := setFld r.ctl 31 31 0, writeFail := true, firstDone := false }, .failed cause)
  else ({ r with prod := r.prod + 1 }, .written)

/-- The 64 bytes of an entry (Table 15.1, R6). -/
def Entry.bytes (e : Entry) : List Byte :=
  toBytes 8 e.time ++ toBytes 4 e.seq.toNat ++ toBytes 2 e.event ++ toBytes 1 (e.severity + (if e.local_ then 4 else 0)) ++ toBytes 1 e.count ++
    toBytes 4 (e.kind * 2 ^ 24 + e.unit) ++ toBytes 2 (match e.stall with
      | some n => n
      | none => 0x1000) ++ toBytes 2 (e.temp % 65536).toNat ++ toBytes 2 e.volt ++ toBytes 2 e.oper ++ toBytes 4 0 ++
    toBytes 8 e.arg0 ++ toBytes 8 e.arg1 ++ toBytes 8 e.arg2 ++ toBytes 8 e.arg3

/-- The host address of the next entry of a ledger. -/
def LedgerRegs.addr (r : LedgerRegs) : Nat := fld r.base 63 12 * 4096 + 64 * (r.prod.toNat % ledgerSize r.ctl)

/-- Why a ledger write of function `f` fails now: its host port is not in L0, or what the host answers. -/
def State.ledgerCause (s : State) (f : Nat) : Nat :=
  if s.hosts.l0.toNat.testBit (f / 1024) then (Config.ledgerRefused s.rnd f).toNat else 4

/-- A number put into a rising list. -/
def insertSorted (x : Nat) : List Nat → List Nat
  | [] => [x]
  | y :: t => if x = y then y :: t else if x < y then x :: y :: t else y :: insertSorted x t

/-- MSI-X vector `v` of function `f` is sent, or its pending bit is set while it is masked (R334). -/
def State.msix (s : State) (f v : Nat) : State :=
  let e := tget {} (s.fn f).msix v
  if bitAt e.ctl 0 then s.modFn f fun x => { x with pba := insertSorted v x.pba } else s.drive (.msix f v e.addr e.data)

/-- Send entry `e` to the ledger of function `f` (the operator ledger where `op`), with its interrupt (R374). Answers the cause and the
address of a write that failed (R375). -/
def State.ledgerTo (s : State) (op : Bool) (f : Nat) (e : Entry) : State × Option (Nat × Nat) :=
  let r := if op then s.led.op else (s.fn f).led
  let (r', k) := ledgerPut (s.ledgerCause f) r
  let s := if op then { s with rnd := s.rnd + 1, led := { s.led with op := r' } }
    else { s.modFn f (fun x => { x with led := r' }) with rnd := s.rnd + 1 }
  match k with
  | .written =>
    let s := s.drive (.ledgerWrite f r.addr e.bytes)
    (if fld r.ctl 21 20 ≤ e.severity then s.msix f (fld r.ctl 10 0) else s, none)
  | .failed c => (s, some (c, r.addr))
  | _ => (s, none)

/-- The function whose ledger an entry concerns: the one its stall is bound to, or the one that is its unit or owns its
ring (R374). -/
def State.concerns (s : State) (e : Entry) : List Nat :=
  let a := match e.stall with
    | some n => if (s.stall n).st = .free then [] else [(s.stall n).func]
    | none => []
  let b := if e.kind = 0x0F then [e.unit] else if e.kind = 0x0E ∧ (s.ring e.unit).st ≠ .free then [(s.ring e.unit).func] else []
  (a ++ b).dedup

/-- An entry put into the internal buffer. -/
def State.buffered (s : State) (e : Entry) : State :=
  { s with led := { s.led with buf := (s.led.buf ++ [e]).drop (s.led.buf.length + 1 - Config.bufferEntries) } }

/-- Event 0x0107 (R375) with the next SEQ, kept in the internal buffer: ledger of function `f`, the SEQ of the entry not written, the cause and the
address. -/
def State.failEntry (s : State) (f : Nat) (seq : W32) (c : Nat × Nat) : Entry × State :=
  let e : Entry :=
    { time := s.str.time, seq := s.led.seq, event := 0x0107, severity := 2, local_ := !s.onString, kind := 0x0F,
      unit := f, stall := none, temp := s.unitTemp 0x0F f, volt := (Config.supplyMv s.rnd 4).toNat, arg0 := f, arg1 := c.2,
      arg2 := seq.toNat, arg3 := c.1 }
  (e, ({ s with rnd := s.rnd + 1, led := { s.led with seq := s.led.seq + 1 } }).buffered e)

/-- An entry to several ledgers, each the operator's or a function's, with those whose write failed. -/
def State.sendAll (s : State) (ps : List (Bool × Nat)) (e : Entry) : State × List ((Bool × Nat) × Nat × Nat) :=
  ps.foldl (fun (acc : State × List ((Bool × Nat) × Nat × Nat)) p =>
    match acc.1.ledgerTo p.1 p.2 e with
    | (s, some c) => (s, acc.2 ++ [(p, c)])
    | (s, none) => (s, acc.2)) (s, [])

/-- An entry delivered to its ledgers; each whose write fails has its event 0x0107, delivered in the same way to the others and to the function that it
names (R374, R375). A ledger fails once, since that disables it. -/
def State.deliverEntry : Nat → State → List (Bool × Nat) → Entry → State
  | 0, s, ps, e => (s.sendAll ps e).1
  | fuel + 1, s, ps, e =>
    let (s, bad) := s.sendAll ps e
    bad.foldl (fun s b =>
      let (x, s) := s.failEntry b.1.2 e.seq b.2
      s.deliverEntry fuel ((ps ++ [(false, b.1.2)]).dedup.filter fun p => !bad.any fun q => q.1 == p) x) s

/-- The source under which a fatal event counts as an interruption (R393, Table 15.13): HBM, power and thermal, or link dies, Polnik and the
security complex. -/
def fatalSource (event : Nat) : Nat := if event = 0x0504 then 0 else if event = 0x0A05 then 5 else 3

/-- The endpoint answers from 40 ms after power good (R450). -/
def State.mgmtAwake (s : State) : Bool := s.pins.pwrok && decide (s.ns 40000000 ≤ s.elapsed)

/-- Ledger events 0x0A01 to 0x0A05 raise PLDM platform event messages to a bus owner that has enabled them (R451). -/
def State.platformEvent (s : State) (e : Entry) : State :=
  match s.pwr.eventsTo with
  | some path =>
    if s.mgmtAwake ∧ 0x0A01 ≤ e.event ∧ e.event ≤ 0x0A05 then
      s.drive (.mgmt path "PLATFORM_EVENT" [e.event, e.severity, e.unit, e.arg0, e.arg1, e.arg2])
    else s
  | none => s

/-- A write of the health record: to the copy that is not the newest (R389). -/
def State.setHealth (s : State) (h : Health) : State :=
  { s with nv := { s.nv with health := h, healthOld := s.nv.health, healthIdx := 1 - s.nv.healthIdx } }

/-- One entry to every place of R374. A fatal one enters the health record. -/
def State.ledgerEntry (s : State) (e0 : Entry) : State :=
  let volt := (Config.supplyMv s.rnd ((dieOfUnit e0.kind e0.unit).getD 6)).toNat
  let e := { e0 with time := s.str.time, seq := s.led.seq, local_ := !s.onString, temp := s.unitTemp e0.kind e0.unit, volt := volt }
  let op := if e.severity = 3 then { s.led.op with alert := true } else s.led.op
  let h := s.nv.health
  let s := { s with rnd := s.rnd + 1, led := { s.led with seq := s.led.seq + 1, op := op } }
  let s := if e.severity = 3 then
      s.setHealth { h with fatal := (h.fatal ++ [e]).drop (h.fatal.length + 1 - 64), counts := tmod 0 h.counts (fatalSource e.event) (· + 1) }
    else s
  let s := if 2 ≤ e.severity then s.buffered e else s
  let ps := (true, s.operFn) :: (s.concerns e).map fun f => (false, f)
  (s.deliverEntry (ps.length + 1) ps e).platformEvent e

/-- A ledger entry of Table 15.4: event, severity, unit kind and number, stall, OPER and syndrome words. -/
def State.ledger (s : State) (event sev kind unit : Nat) (stall : Option Nat) (a0 : Nat := 0) (a1 : Nat := 0)
    (a2 : Nat := 0) (a3 : Nat := 0) (oper : Nat := 0) (count : Nat := 0) : State :=
  s.ledgerEntry
    { time := 0, seq := 0, event := event, severity := sev, local_ := false, count := count, kind := kind,
      unit := unit, stall := stall, temp := 0, oper := oper, arg0 := a0, arg1 := a1, arg2 := a2, arg3 := a3 }

/-- Count an interruption under its source (R389, R393, Table 15.13). -/
def State.interruption (s : State) (src : Nat) : State :=
  s.setHealth { s.nv.health with counts := tmod 0 s.nv.health.counts src (· + 1) }

/-- A configuration write dropped: event 0x0106 (R9, R456, R460). -/
def State.cfgDropped (s : State) (f off v : Nat) : State := s.ledger 0x0106 0 0x0F f none off v

/-! ### Taint (R379) -/

def State.taint (s : State) (st : Nat) : State := s.modStall st fun x => { x with tainted := true }

/-! ### Local memory (R161, R204, R206) -/

def Core.rd (c : Core) (a n : Nat) : List Byte := tgetMany 0 c.mem a n

/-- The 32-byte units that `n` bytes at `a` touch. -/
def unitsOf (a n : Nat) : List Nat := if n = 0 then [] else (List.range ((a + n - 1) / 32 + 1 - a / 32)).map (· + a / 32)

def anyIn (l m : List Nat) : Bool := l.any m.contains

def Core.poisoned (c : Core) (a n : Nat) : Bool := !c.poison.isEmpty && anyIn (unitsOf a n) c.poison

/-- The pieces of a write, one per 32-byte unit: address and bytes. -/
def unitPieces : Nat → Nat → List Byte → List (Nat × List Byte)
  | 0, _, _ => []
  | fuel + 1, a, bs =>
    if bs.isEmpty then []
    else let k := 32 - a % 32
      (a, bs.take k) :: unitPieces fuel (a + k) (bs.drop k)

/-- The pairs of the wide-buffer region, from its base, that a write of `n` bytes at `a` meets (R116). -/
def widePairs (wide a n : Nat) : List Nat :=
  if wide = 0 ∨ n = 0 ∨ a + n ≤ wide ∨ wide + 0x40000 ≤ a then []
  else let i := (a - wide) / 8
    (List.range ((min (a + n) (wide + 0x40000) - 1 - wide) / 8 + 1 - i)).map (· + i)

/-- A write to local memory: a whole unit clears its poison, a partial write to a poisoned unit is discarded (R206); the
second component lists the addresses of the discarded ones. What it writes of the wide-buffer region is noted (R119). -/
def Core.wr (c : Core) (a : Nat) (bs : List Byte) : Core × List Nat :=
  let c := { c with hits := (widePairs c.wide a bs.length).foldl (fun l i => insertSorted i l) c.hits }
  (unitPieces (bs.length + 1) a bs).foldl (fun (acc : Core × List Nat) pc =>
    let (x, drops) := acc
    if x.poison.contains (pc.1 / 32) then
      if pc.2.length = 32 then
        ({ x with mem := tsetMany 0 x.mem pc.1 pc.2, poison := x.poison.filter (· ≠ pc.1 / 32) }, drops)
      else (x, drops ++ [pc.1])
    else ({ x with mem := tsetMany 0 x.mem pc.1 pc.2 }, drops)) (c, [])

/-- A write to the local memory of core `c`, with event 0x0508 for each discarded part (R206). -/
def State.wrLocal (s : State) (c a : Nat) (bs : List Byte) : State :=
  let (x, drops) := (s.core c).wr a bs
  forEach drops (s.setCore c x) fun d s => s.ledger 0x0508 0 0x03 c none (d / 32 * 32) 2

def State.rdLocal (s : State) (c a n : Nat) : List Byte := (s.core c).rd a n

/-- A 32-bit word of local memory. -/
def Core.w32 (c : Core) (a : Nat) : Nat := ofBytes (c.rd a 4)

/-! ### The address map (R191 to R196) -/

/-- Near-die size per stack in bytes, G (R191). -/
def State.nearG (s : State) : Nat := fld s.tun.live.memCfg 3 0 * 2 ^ 32

/-- I of R192. -/
def State.mapI (s : State) : Nat := s.mem.mapStks.length * (64 * 2 ^ 30 - s.nearG)

/-- The healthy stacks of die d. -/
def State.dieStks (s : State) (d : Nat) : List Nat := s.mem.mapStks.filter fun k => k / 3 == d

def winBase (d : Nat) : Nat := 0x10000000000 + d * 0x4000000000

/-- A DPA lies in a mapped range (Table 9.1). -/
def State.dpaMapped (s : State) (a : Nat) : Bool :=
  decide (a < s.mapI) ||
    (List.range 4).any fun d => decide (winBase d ≤ a) && decide (a < winBase d + (s.dieStks d).length * s.nearG)

/-- A DPA lies in the reserved area (R192). -/
def State.dpaReserved (s : State) (a : Nat) : Bool := decide (s.mapI - 0x40000000 ≤ a) && decide (a < s.mapI)

/-- The stack and the offset of a DPA (R193). -/
def dpaMap (h : List Nat) (a b : Nat) : Nat × Nat :=
  let m := h.length
  let p := a / 4096
  let q := p / m
  let j := (p % m + q % m + q / m % m) % m
  ((h[j]?).getD 0, b + 4096 * q + a % 4096)

def State.dpaStack (s : State) (a : Nat) : Nat × Nat :=
  if a < 0x10000000000 then dpaMap s.mem.mapStks a 0
  else let d := (a - 0x10000000000) / 0x4000000000
    dpaMap (s.dieStks d) (a - winBase d) (64 * 2 ^ 30 - s.nearG)

/-- The home slice of a DPA (R196), as the global slice number. -/
def State.homeSlice (s : State) (a : Nat) : Nat :=
  let (k, o) := s.dpaStack a
  let m := if a < 0x10000000000 then s.mem.mapStks.length else (s.dieStks ((a - 0x10000000000) / 0x4000000000)).length
  let base := if a < 0x10000000000 then a else a - winBase ((a - 0x10000000000) / 0x4000000000)
  let q := base / 4096 / m
  16 * (k / 3) + (((o % 4096) / 128 % 16) ^^^ (q % 16))

/-! ### Owner table, keys and bytes (R195, R217, R218) -/

def State.ownerEnt (s : State) (blk : Nat) : W16 := tget 0 s.mem.owner blk
def State.owner (s : State) (blk : Nat) : Nat := fld (s.ownerEnt blk) 11 0
def State.shared (s : State) (blk : Nat) : Bool := bitAt (s.ownerEnt blk) 12
def State.goldenBit (s : State) (blk : Nat) : Bool := bitAt (s.ownerEnt blk) 13
def State.offered (s : State) (blk : Nat) : Bool := bitAt (s.ownerEnt blk) 14

/-- The key a block is read under: that of its owner (R217). -/
def State.blockKey (s : State) (blk : Nat) : Nat := (s.stall (s.owner blk)).memKey

/-- The blocks of mapped DPA: interleaved range first, then die windows 0 to 3 (R195). -/
def State.winBlocks (s : State) (d : Nat) : Nat := (s.dieStks d).length * s.nearG / 4096

/-- The block that entry `i` of the owner table describes. -/
def State.tableBlk (s : State) (i : Nat) : Option Nat :=
  let n := s.mapI / 4096
  if i < n then some i
  else
    (List.range 4).findSome? fun d =>
      let before := n + ((List.range d).map s.winBlocks).foldl (· + ·) 0
      if before ≤ i ∧ i < before + s.winBlocks d then some (winBase d / 4096 + (i - before)) else none

/-- The block and the byte of its entry that a byte of the reserved area is, where it lies in the owner table (R195). -/
def State.tableByte (s : State) (a : Nat) : Option (Nat × Nat) :=
  if s.dpaReserved a then
    let o := a - (s.mapI - 0x40000000)
    (s.tableBlk (o / 2)).map fun b => (b, o % 2)
  else none

/-- One byte of device memory: of the owner table, the plaintext, or what another key makes of it (R195, R217, R218). -/
def State.byteAt (s : State) (a : Nat) : Byte :=
  match s.tableByte a with
  | some (b, i) => ((toBytes 2 (s.ownerEnt b).toNat)[i]?).getD 0
  | none =>
    if tget 0 s.mem.blkKey (a / 4096) = s.blockKey (a / 4096) then tget 0 s.mem.cells a
    else Config.foreignByte s.keyEra (tget 0 s.mem.blkKey (a / 4096)) (s.blockKey (a / 4096)) (a / 128) (tgetMany 0 s.mem.cells (a / 128 * 128) 128) (a % 128)

def bytesAt (s : State) (a : Nat) : Nat → List Byte
  | 0 => []
  | n + 1 => s.byteAt a :: bytesAt s (a + 1) n

/-- A stack that failed: every unit reads as poisoned, writes are discarded (R219). -/
def State.stackFailed (s : State) (a : Nat) : Bool := (tget {} s.mem.stks (s.dpaStack a).1).st == .failed

/-- A unit (by unit number) reads as poisoned. -/
def State.unitPoisoned (s : State) (u : Nat) : Bool :=
  s.mem.poison.contains u || (s.mem.stks.any (fun e => e.2.st == .failed) && s.stackFailed (32 * u))

def State.memPoisoned (s : State) (a n : Nat) : Bool := (unitsOf a n).any s.unitPoisoned

/-- The first poisoned unit of a range. -/
def State.firstPoison (s : State) (a n : Nat) : Option Nat := (unitsOf a n).find? s.unitPoisoned

/-- Bring a block under its owner's present key before a write to it (R217): what it reads as is what it holds. -/
def State.rekeyBlock (s : State) (blk : Nat) : State :=
  if tget 0 s.mem.blkKey blk = s.blockKey blk then s
  else { s with mem := { s.mem with cells := tsetMany 0 s.mem.cells (4096 * blk) (bytesAt s (4096 * blk) 4096),
                                    blkKey := tset 0 s.mem.blkKey blk (s.blockKey blk) } }

/-- `n` bytes of one block from a DPA on become free values: the spec leaves their contents undefined. Poison stays. -/
def State.freeBytes (s : State) (a n : Nat) : State :=
  let s := s.rekeyBlock (a / 4096)
  { s with mem := { s.mem with cells := tsetMany 0 s.mem.cells a ((List.range n).map fun i => Config.undefByte s.rnd (a + i)) },
           rnd := s.rnd + 1 }

/-- The owner table entry of a block set; bit 15 is reserved and reads 0 (Table 9.2). -/
def State.setOwner (s : State) (blk : Nat) (e : W16) : State := { s with mem := { s.mem with owner := tset 0 s.mem.owner blk (setFld e 15 15 0) } }

/-- Bytes written to the owner table (R195). -/
def State.wrTable (s : State) (a : Nat) (bs : List Byte) : State :=
  forEach bs.zipIdx s fun e s => match s.tableByte (a + e.2) with
    | some (b, i) => s.setOwner b (setFld (s.ownerEnt b) (8 * i + 7) (8 * i) e.1.toNat)
    | none => s

/-! ### The home slices (R196, R198, R215) -/

/-- What the slices hold of a pinned line, and that it is pinned. -/
def State.pin (s : State) (line : Nat) : Pinned := tget {} s.slices.pins line
def Pinned.held (p : Pinned) : Bool := !p.parts.isEmpty

/-- The set of a line, over the device. -/
def State.setOf (s : State) (line : Nat) : Nat := 2048 * s.homeSlice (128 * line) + Config.cacheSet line % 2048

/-- The pseudo-channel of a line of a stack (R194): L + 32 × (q mod 2). -/
def pseudoChannel (off b : Nat) : Nat := off % 4096 / 128 + 32 * ((off - b) / 4096 % 2)

/-- The pseudo-channel that carries the line of a DPA. -/
def State.pcOf (s : State) (a : Nat) : Nat :=
  pseudoChannel (s.dpaStack a).2 (if a < 0x10000000000 then 0 else 64 * 2 ^ 30 - s.nearG)

def State.modStk (s : State) (k : Nat) (f : Stack → Stack) : State := { s with mem := { s.mem with stks := tmod {} s.mem.stks k f } }

/-- The symbol that the last read of a unit corrected, plus one; 0 for none. -/
def State.setFixed (s : State) (u n : Nat) : State := { s with slices := { s.slices with fixed := tset 0 s.slices.fixed u n } }

/-- A unit reads as poisoned: it is so marked. -/
def State.markPoison (s : State) (u : Nat) : State := { s with mem := { s.mem with poison := insertSorted u s.mem.poison } }

/-- A unit's bytes become undefined, and its poison mark is lost: the W7 makes no promise (Table 9.4). -/
def State.garble (s : State) (u : Nat) : State :=
  ({ s with mem := { s.mem with poison := s.mem.poison.filter (· ≠ u) } }).freeBytes (32 * u) 32

/-- The slices hold the line of a unit, not pinned: an access meets their copy and not HBM's (R197). -/
def State.cachedUnit (s : State) (u : Nat) : Bool := tget .absent s.slices.lines (u / 4) != .absent

/-- HBM's copy of a unit is poisoned. -/
def State.hbmPoisoned (s : State) (u : Nat) : Bool := if s.cachedUnit u then tget 0 s.slices.under u == 1 else s.unitPoisoned u

/-- A unit that a read takes from HBM, with no error but what the hard pin of its pseudo-channel makes of its symbol, which is corrected and counted
(R201, R202). -/
def State.readPlain (s : State) (u : Nat) : State :=
  if s.cachedUnit u || s.unitPoisoned u then s
  else
    let k := (s.dpaStack (32 * u)).1
    match (tget {} s.mem.stks k).hard.filter fun h => h.1 == s.pcOf (32 * u) with
    | h :: _ =>
      if Config.stuckBits s.rnd u h.2 = 0 then s.setFixed u 0
      else (s.setFixed u (h.2 + 1)).modStk k fun x => { x with ce := min 0xFFFF (x.ce + 1) }
    | [] => s.setFixed u 0

/-- A line leaves its slice (R198, R204): a dirty one is written back, of a clean one HBM's own copy remains. -/
def State.evict (s : State) (line : Nat) : State :=
  let us := (List.range 4).map (4 * line + ·)
  let x := s.slices
  let s' := { s with slices := { x with lines := tset .absent x.lines line .absent, under := tclear (4 * line) (4 * line + 4) x.under } }
  if tget .absent x.lines line = .clean then
    forEach us s' fun u s => match tget 0 x.under u with
      | 1 => s.markPoison u
      | 2 => s.garble u
      | _ => s
  else s'

/-- A way is made for `line`: where its 16 ways are taken, a line that is not pinned goes, and the spec does not say which. -/
def State.makeWay (s : State) (line : Nat) : State :=
  let x := s.slices
  if x.lines.length + x.pins.length < 16 then s
  else
    let mine := (x.lines.filter fun e => s.setOf e.1 == s.setOf line).map (·.1)
    if mine.length + (x.pins.filter fun e => s.setOf e.1 == s.setOf line).length < 16 then s
    else match mine[Config.pick s.rnd mine.length % mine.length]? with
      | some l => s.evict l
      | none => s

/-- A line allocated on a read (`dirty` false) or a write (R198); a pinned line stays as it is. -/
def State.touch (s : State) (dirty : Bool) (line : Nat) : State :=
  if (s.pin line).held then s
  else
    let was := tget .absent s.slices.lines line
    let s := if was = .absent then (s.makeWay line).fresh else s
    { s with slices := { s.slices with lines := tset .absent s.slices.lines line (if dirty || was == .dirty then .dirty else .clean) } }

/-- Lines that leave the slices without write-back (R218). -/
def State.dropLines (s : State) (line n : Nat) : State :=
  { s with slices := { s.slices with lines := tclear line (line + n) s.slices.lines, under := tclear (4 * line) (4 * (line + n)) s.slices.under } }

/-- The lines that `n` bytes at a DPA touch. -/
def linesOf (a n : Nat) : List Nat := if n = 0 then [] else (List.range ((a + n - 1) / 128 + 1 - a / 128)).map (· + a / 128)

/-- Where a unit lies for the events of R204 and R206: 0 HBM, 1 the memory-side cache. -/
def State.unitPlace (s : State) (u : Nat) : Nat := if tget .absent s.slices.lines (u / 4) = .dirty then 1 else 0

/-- A whole unit written is poisoned no more (R206). -/
def State.clearPoison (s : State) (u : Nat) : State := { s with mem := { s.mem with poison := s.mem.poison.filter (· ≠ u) } }

/-- A write within one 32-byte unit of device memory (R195, R198, R206, R219): one of a part of a unit that misses reads the unit first. -/
def State.wrUnit (s : State) (a : Nat) (bs : List Byte) : State :=
  if s.mem.stks.any (fun e => e.2.st == .failed) && s.stackFailed a then s
  else if s.mem.poison.contains (a / 32) && bs.length ≠ 32 then s.ledger 0x0508 0 0x00 0 none (a / 32 * 32) (s.unitPlace (a / 32))
  else
    let s := ((if bs.length = 32 then s else s.readPlain (a / 32)).clearPoison (a / 32)).touch true (a / 128)
    if (s.tableByte a).isSome then s.wrTable a bs
    else
      let s := s.rekeyBlock (a / 4096)
      { s with mem := { s.mem with cells := tsetMany 0 s.mem.cells a bs } }

/-- A write to device memory by DPA. -/
def State.wrDpa (s : State) (a : Nat) (bs : List Byte) : State :=
  forEach (unitPieces (bs.length + 1) a bs) s fun pc s => s.wrUnit pc.1 pc.2

/-- Poison a unit of device memory where it lies (R204), with event 0x0505. -/
def State.poisonUnit (s : State) (u : Nat) : State :=
  ({ s with mem := { s.mem with poison := insertSorted u s.mem.poison } }).ledger 0x0505 1 0x08 (s.dpaStack (32 * u)).1 none (32 * u) (s.unitPlace u)

/-- The residue check of a slice adder fails at a DPA (R386): event 0x0602; where the repetition fails as well (`twice`), the unit is poisoned and the
stall tainted. `oper` is the OPER of Table 15.1, `op` the operation. -/
def State.sliceResidue (s : State) (st oper op d : Nat) (twice : Bool) : State :=
  let s := s.ledger 0x0602 (if twice then 2 else 1) 0x07 (s.homeSlice d) (some st) (s.homeSlice d) op d (oper := oper)
  if twice then (s.poisonUnit (d / 32)).taint st else s

/-- A whole block written with zeros under the key of its owner (R342, R344, R438): poison is cleared (R206), and its lines leave the slices
without write-back (R218). -/
def State.zeroBlock (s : State) (blk : Nat) : State :=
  let m := { s.mem with cells := tclear (4096 * blk) (4096 * blk + 4096) s.mem.cells, blkKey := tset 0 s.mem.blkKey blk (s.blockKey blk),
                        poison := s.mem.poison.filter fun u => u / 128 ≠ blk }
  { s.dropLines (32 * blk) 32 with mem := m }

/-! ### Translation (R345 to R347) -/

/-- An access that fails: the cause of Table 7.5, the address for the ledger and the page-table level. -/
structure MemErr where
  cause : Nat
  addr : Nat
  level : Nat := 0
  deriving DecidableEq, Repr

/-- The kinds of access the checks tell apart. -/
inductive Acc where
  | read
  | write
  | fetch
  deriving DecidableEq, Repr

def causePage : Nat := 0x06
def causeProt : Nat := 0x07
def causePoison : Nat := 0x11

/-- A page-table entry read by the walker at a DPA: the table block must be stall 0's, a poisoned unit stops the access. -/
def State.pte (s : State) (dva a level : Nat) : Except MemErr W64 :=
  if ¬ s.dpaMapped a then .error ⟨causePage, dva, level⟩
  else if s.owner (a / 4096) ≠ 0 then .error ⟨causePage, dva, level⟩
  else if s.memPoisoned a 8 then .error ⟨causePoison, a, level⟩
  else .ok (BitVec.ofNat 64 (ofBytes (bytesAt s a 8)))

/-- The checks of Table 14.3 on a table entry: the next table's DPA. -/
def tableNext (e : W64) (align : Nat) : Option Nat :=
  let a := fld e 40 8 * 256
  if bitAt e 0 ∧ bitAt e 1 ∧ ¬ bitAt e 2 ∧ ¬ bitAt e 3 ∧ fld e 63 41 = 0 ∧ fld e 7 4 = 0 ∧ a % align = 0 then some a else none

/-- The checks of Table 14.3 on a leaf: page DPA, W and X. -/
def leafPage (e : W64) (align : Nat) : Option (Nat × Bool × Bool) :=
  let a := fld e 40 8 * 256
  if bitAt e 0 ∧ ¬ bitAt e 1 ∧ fld e 63 41 = 0 ∧ fld e 7 4 = 0 ∧ a % align = 0 then some (a, bitAt e 2, bitAt e 3) else none

/-- One upper level of the walk: the entry must point to a table. -/
def State.walkTable (s : State) (dva a level align : Nat) : Except MemErr Nat := do
  let e ← s.pte dva a level
  match tableNext e align with
  | some t => .ok t
  | none => .error ⟨causePage, dva, level⟩

/-- The walk of R346: the DPA of `dva`, W and X, and how many bytes remain in the page. Stall 0, which has no stall
context (R340), sees every DPA at the same DVA (log entry 20). -/
def State.walk (s : State) (st dva : Nat) : Except MemErr (Nat × Bool × Bool × Nat) :=
  if st = 0 then .ok (dva, true, true, 65536 - dva % 65536)
  else do
    let root := (s.stall st).ptRoot
    let t2 ← s.walkTable dva (root + 8 * (dva / 2 ^ 48 % 512)) 3 4096
    let t1 ← s.walkTable dva (t2 + 8 * (dva / 2 ^ 39 % 512)) 2 4096
    let t0 ← s.walkTable dva (t1 + 8 * (dva / 2 ^ 30 % 512)) 1 4096
    let e ← s.pte dva (t0 + 8 * (dva / 2 ^ 21 % 512)) 0
    if bitAt e 1 then
      match tableNext e 256 with
      | some lt => do
        let l ← s.pte dva (lt + 8 * (dva / 2 ^ 16 % 32)) 0
        match leafPage l 65536 with
        | some (a, w, x) => .ok (a + dva % 65536, w, x, 65536 - dva % 65536)
        | none => .error ⟨causePage, dva, 0⟩
      | none => .error ⟨causePage, dva, 0⟩
    else
      match leafPage e 0x200000 with
      | some (a, w, x) => .ok (a + dva % 0x200000, w, x, 0x200000 - dva % 0x200000)
      | none => .error ⟨causePage, dva, 0⟩

/-- The owner check of R345, and the table blocks that a locked TDI records (R438). -/
def State.ownerOk (s : State) (st a : Nat) (k : Acc) : Bool :=
  let b := a / 4096
  (s.owner b == st || (st != 0 && s.shared b && k != .write)) &&
    !(k == .write && s.fns.any fun f => f.2.tdiBlocks.contains b)

/-- Translate one address and check it: the DPA and the bytes that remain in its 4 KiB block. -/
def State.xlate (s : State) (st dva : Nat) (k : Acc) : Except MemErr (Nat × Nat) := do
  if 2 ^ 57 ≤ dva then .error ⟨causePage, dva, 3⟩
  else do
    let (a, w, x, _) ← s.walk st dva
    if ¬ s.dpaMapped a then .error ⟨causePage, dva, 0⟩
    else if (k = .write ∧ ¬ w) ∨ (k = .fetch ∧ ¬ x) then .error ⟨causeProt, dva, 0⟩
    else if s.dpaReserved a ∧ st ≠ 0 then .error ⟨causeProt, dva, 0⟩
    else if ¬ s.ownerOk st a k then .error ⟨causeProt, dva, 0⟩
    else .ok (a, 4096 - a % 4096)

/-- Translate a range: its pieces by DPA and length. -/
def State.xrange (s : State) (st : Nat) (k : Acc) : Nat → Nat → Nat → Except MemErr (List (Nat × Nat))
  | 0, _, _ => .ok []
  | fuel + 1, dva, n =>
    if n = 0 then .ok []
    else do
      let (a, room) ← s.xlate st dva k
      let m := min room n
      let rest ← s.xrange st k fuel (dva + m) (n - m)
      .ok ((a, m) :: rest)

/-- Pieces of `n` bytes at `dva`. -/
def State.pieces (s : State) (st : Nat) (k : Acc) (dva n : Nat) : Except MemErr (List (Nat × Nat)) :=
  s.xrange st k (n / 4096 + 2) dva n

/-! ### Accumulation regions (R214 to R216) -/

/-- The open region of a stall that holds `dva`. -/
def Stall.regionAt (x : Stall) (dva : Nat) : Option Region := x.regions.find? fun r => decide (r.base ≤ dva ∧ dva < r.base + r.len)

def Stall.regionHit (x : Stall) (dva n : Nat) : Bool := x.regions.any fun r => decide (r.base < dva + n ∧ dva < r.base + r.len)

/-- A range lies wholly in one open region. -/
def Stall.regionHolds (x : Stall) (dva n : Nat) : Bool := x.regions.any fun r => decide (r.base ≤ dva ∧ dva + n ≤ r.base + r.len)

/-- The region that a pinned line belongs to. -/
def State.pinRegion (s : State) (p : Pinned) : Region := ((s.stall p.stall).regions.find? fun r => r.base == p.base).getD {}

/-- The pinned lines of a region, by DPA / 128. -/
def State.pinsOf (s : State) (st base : Nat) : List Nat :=
  (s.slices.pins.filter fun e => e.2.stall == st && e.2.base == base).map (·.1)

/-- HBM reads as +0 at a line of a region opened with ZERO until its first add-back (R215). -/
def Region.base0 (r : Region) (line : Nat) : Bool := r.zero && !r.added.contains line

/-- HBM counts as +0 for a read of stall `st` at `dva`, DPA `a`: the line is pinned for a ZERO region, or the address lies in one, and the line
was not added back yet. -/
def State.zeroAt (s : State) (st dva a : Nat) : Bool :=
  ((s.pin (a / 128)).held && (s.pinRegion (s.pin (a / 128))).base0 (a / 128)) ||
    (match (s.stall st).regionAt dva with
      | some r => r.base0 (a / 128)
      | none => false)

/-- A word as a load returns it (R215): RNE(HBM + partial) in a pinned line. -/
def State.wordNow (s : State) (st dva a : Nat) : Nat :=
  let hbm := if s.zeroAt st dva a then 0 else ofBytes (bytesAt s a 4)
  let p := s.pin (a / 128)
  if p.held then f32Add hbm ((p.parts[a % 128 / 4]?).getD 0).toNat else hbm

/-- Bytes of a piece, overlaid with the current values of open regions. -/
def State.pieceBytes (s : State) (st dva a n : Nat) : List Byte :=
  if (s.stall st).regionHit dva n || (linesOf a n).any (fun l => (s.pin l).held) then
    (List.range n).map fun i => ((toBytes 4 (s.wordNow st (dva + i - (dva + i) % 4) (a + i - (a + i) % 4)))[(a + i) % 4]?).getD 0
  else bytesAt s a n

/-- The first unit of a piece whose value a read cannot have (R205): poisoned in HBM where HBM is read, or with its partials lost (R216). -/
def State.readPoison (s : State) (st dva a n : Nat) : Option Nat :=
  (unitsOf a n).find? fun u => (s.pin (u / 4)).bad || (s.unitPoisoned u && !s.zeroAt st (dva - dva % 32 + 32 * (u - a / 32)) (32 * u))

def State.gather (s : State) (st : Nat) : Nat → List (Nat × Nat) → List Byte
  | _, [] => []
  | dva, (a, n) :: t => s.pieceBytes st dva a n ++ s.gather st (dva + n) t

/-- The first unit of a range that a read consumes as poison. -/
def State.poisonIn (s : State) (st : Nat) : Nat → List (Nat × Nat) → Option Nat
  | _, [] => none
  | dva, (a, n) :: t => match s.readPoison st dva a n with
    | some u => some u
    | none => s.poisonIn st (dva + n) t

/-- Read `n` bytes at a device virtual address of stall `st` (R197, R214, R345): the bytes, or the first failure. -/
def State.rdDva (s : State) (st dva n : Nat) (k : Acc := .read) : Except MemErr (List Byte) := do
  let ps ← s.pieces st k dva n
  match s.poisonIn st dva ps with
  | some u => .error ⟨causePoison, 32 * u, 0⟩
  | none => .ok (s.gather st dva ps)

/-- A read that stall `st` has made of `n` bytes: its units decoded, its lines allocated, counted (R198, R201, Table 14.8). -/
def State.didRead (s : State) (st dva n : Nat) : State :=
  match s.pieces st .read dva n with
  | .ok ps =>
    let s := forEach (ps.flatMap fun e => unitsOf e.1 e.2) s fun u s => s.readPlain u
    (forEach (ps.flatMap fun e => linesOf e.1 e.2) s fun l s => s.touch false l).tally st 0x18 n
  | .error _ => s

/-- A block under refill: the owner's writes to it wait (R209). -/
def State.refilling (s : State) (a n : Nat) : Bool :=
  s.mem.refills.any fun r => decide (r.block * 4096 < a + n) && decide (a < r.block * 4096 + 4096)

/-- A write of stall `st`: where its block is under refill it waits, behind those that wait (R209). -/
def State.wrOwn (s : State) (st a : Nat) (bs : List Byte) : State :=
  if s.refilling a bs.length then { s with mem := { s.mem with delayed := s.mem.delayed ++ [{ stall := st, at_ := a, bytes := bs }] } } else s.wrDpa a bs

def State.scatter (s : State) (st : Nat) : List (Nat × Nat) → List Byte → State
  | [], _ => s
  | (a, n) :: t, bs => (s.wrOwn st a (bs.take n)).scatter st t (bs.drop n)

/-- Writes of a stall wait for a refill (R209). -/
def State.delays (s : State) (st : Nat) : Bool := s.mem.delayed.any fun e => e.stall == st

/-- Write bytes at a device virtual address of stall `st`. A store into an open region is refused (R214). -/
def State.wrDva (s : State) (st dva : Nat) (bs : List Byte) : Except MemErr State := do
  let ps ← s.pieces st .write dva bs.length
  if (s.stall st).regionHit dva bs.length then .error ⟨causeProt, dva, 0⟩
  else .ok ((s.scatter st ps bs).tally st 0x20 bs.length)

/-- Pinned ways per set, over all stalls: values above 12 act as 12 (Table 9.10). -/
def State.pinWays (s : State) : Nat := min 12 (fld s.tun.live.memCfg 19 16)

/-- The pinned lines in the set of a line, the least recently used first. -/
def State.pinsInSet (s : State) (line : Nat) : List Nat := s.slices.order.filter fun l => s.setOf l == s.setOf line

/-- A region of a stall as changed. -/
def Stall.setRegion (x : Stall) (r : Region) : Stall := { x with regions := x.regions.map fun q => if q.base = r.base then r else q }

/-- A line unpinned. -/
def State.unpin (s : State) (line : Nat) : State :=
  { s with slices := { s.slices with pins := tset {} s.slices.pins line {}, order := s.slices.order.filter (· ≠ line) } }

/-- One unit of a line in an add-back: a poisoned HBM unit keeps its poison and loses its partials (R216). -/
def State.addBackUnit (s : State) (st oper : Nat) (zero bad : Bool) (a : Nat) (parts : List W32) : State × Bool :=
  if bad then (s.poisonUnit (a / 32), false)
  else if !zero && s.memPoisoned a 32 then (s.ledger 0x0506 2 0x08 (s.dpaStack a).1 (some st) a oper (oper := oper), true)
  else
    let s := if zero then s else s.readPlain (a / 32)
    let old := bytesAt s a 32
    let ws := (List.range 8).map fun i =>
      let h := if zero then 0 else ofBytes ((old.drop (4 * i)).take 4)
      toBytes 4 (f32Add h ((parts[i]?).getD 0).toNat)
    (s.wrDpa a ws.flatten, false)

/-- Add back a pinned line (R215, R216), by DPA and without translation; `oper` names the descriptor TYPE that does it, 0 for none. A line under
refill waits, still pinned (R209). -/
def State.addBack (s : State) (line : Nat) (oper : Nat := 0) : State :=
  if s.refilling (128 * line) 128 then { s with mem := { s.mem with addDue := s.mem.addDue.filter (·.1 ≠ line) ++ [(line, oper)] } }
  else
  let p := s.pin line
  let r := s.pinRegion p
  let z := r.base0 line
  let (s, lost) := (List.range 4).foldl (fun (acc : State × Bool) u =>
    let (s, l) := acc.1.addBackUnit p.stall oper z p.bad (128 * line + 32 * u) (p.parts.drop (8 * u))
    (s, acc.2 || l)) (s.unpin line, false)
  s.modStall p.stall fun x => x.setRegion { r with added := insertSorted line r.added, lost := r.lost || lost || p.bad }

/-- Add back every pinned line of a region. -/
def State.addBackAll (s : State) (st base : Nat) (oper : Nat := 0) : State :=
  forEach (s.pinsOf st base) s fun line s => s.addBack line oper

/-- An open region closed without add-back: its pinned lines go and its contents are undefined (R216). -/
def State.undefRegion (s : State) (st : Nat) (r : Region) : State :=
  let s := forEach (s.pinsOf st r.base) s fun l s => (s.unpin l).freeBytes (128 * l) 128
  forEach (List.range (r.len / 128)) s fun i s =>
    match s.xlate st (r.base + 128 * i) .read with
    | .ok (a, _) => s.freeBytes a 128
    | .error _ => s

/-- A line pinned for a region with every partial at +0 (R215): where the set has no pinned way left, its least recently used pinned line is
added back first. -/
def State.pinLine (s : State) (st base line : Nat) : State :=
  let s := if s.slices.order.length < s.pinWays ∨ (s.pinsInSet line).length < s.pinWays then s
    else match s.pinsInSet line with
      | l :: _ => s.addBack l
      | [] => s
  let s := if tget .absent s.slices.lines line = .absent then s.makeWay line else s.evict line
  let p : Pinned := { stall := st, base := base, parts := List.replicate 32 0 }
  { s with slices := { s.slices with pins := tset {} s.slices.pins line p }, rnd := s.rnd + 1 }

/-- `v` (FP32 code) added into the partial value of word `i` of a pinned line, which becomes the most recently used one. -/
def State.addPart (s : State) (line i v : Nat) : State :=
  let p := s.pin line
  let parts := p.parts.set i (BitVec.ofNat 32 (f32Add ((p.parts[i]?).getD 0).toNat v))
  { s with slices := { s.slices with pins := tset {} s.slices.pins line { p with parts := parts },
                                     order := s.slices.order.filter (· ≠ line) ++ [line] } }

/-- Add `v` (FP32 code) into the word at `dva` of an open region (R214, R215). With no way to pin, the line is added back at once. Answers the
word's current value before. -/
def State.accumulate (s : State) (st dva v : Nat) : Except MemErr (State × Nat) := do
  let (a, _) ← s.xlate st dva .write
  match (s.stall st).regionAt dva with
  | none => .error ⟨causeProt, dva, 0⟩
  | some r =>
    let line := a / 128
    if (s.pin line).bad then .error ⟨causePoison, a, 0⟩
    else
      let old := s.wordNow st (dva - dva % 4) (a - a % 4)
      let s := if (s.pin line).held then s else s.pinLine st r.base line
      let s := s.addPart line (a % 128 / 4) v
      let s := (s.modStall st fun x => { x with regions := x.regions.map fun q => if q.base = r.base then { q with last := s.clock } else q }).tally st 0x20 4
      .ok (if s.pinWays = 0 then s.addBack line else s, old)

/-- FP32 words added into consecutive words of an open region (R214). -/
def State.accAll (s : State) (st : Nat) : Nat → List Nat → Except MemErr State
  | _, [] => .ok s
  | a, v :: t =>
    match s.accumulate st a v with
    | .ok (s', _) => s'.accAll st (a + 4) t
    | .error m => .error m

/-- A write of `n` bytes at an address of stall `st` waits for a refill (R209). -/
def State.writeWaits (s : State) (st dva n : Nat) : Bool :=
  match s.pieces st .write dva n with
  | .ok ps => ps.any fun e => s.refilling e.1 e.2
  | .error _ => false

/-- FP32 words that an engine adds into an open region: into a block under refill they wait (R209). -/
def State.accEngine (s : State) (st a : Nat) (vs : List Nat) : Except MemErr State :=
  match s.accAll st a vs with
  | .ok s' =>
    if s.writeWaits st a (4 * vs.length) then
      .ok { s with mem := { s.mem with delayed := s.mem.delayed ++ [{ stall := st, at_ := a, bytes := vs.flatMap (toBytes 4), acc := true }] } }
    else .ok s'
  | .error m => .error m

/-! ### Reads held for a refill (R207 to R209) -/

/-- A read of a poisoned unit is held for a refill: its block is GOLDEN and its stack has not failed (R207, R219). -/
def State.goldenHolds (s : State) (u : Nat) : Bool := s.goldenBit (u / 128) && !s.stackFailed (32 * u)

/-- A refill of a block wanted (R207, R209); `who` is the read that found the poison, none where the patrol did. -/
def State.queueRefill (s : State) (blk : Nat) (who : Option Reader) : State :=
  if s.mem.refills.any fun r => r.block == blk then s
  else { s with mem := { s.mem with refills := s.mem.refills ++ [{ block := blk, start := s.elapsed, trigger := who }] } }

/-- A read at a poisoned unit is held (R207), once for each who waits. -/
def State.holdRead (s : State) (u : Nat) (who : Reader) : State :=
  if s.mem.held.any fun h => h.who == who then s
  else { s with mem := { s.mem with held := s.mem.held ++ [{ unit := u, since := s.elapsed, who := who }] } }

/-- A read that found poison is to be held: its refill is wanted and the read waits. One that was held for 200 µs is not held again (R207). -/
def State.holdFor (s : State) (who : Reader) (m : MemErr) : Option State :=
  let u := m.addr / 32
  if m.cause = causePoison ∧ s.goldenHolds u ∧ ¬ s.mem.late.contains (u, who) then some ((s.queueRefill (u / 128) (some who)).holdRead u who) else none

/-- The core whose context waits for a held read. -/
def Reader.onCore (w : Reader) (c : Nat) : Bool :=
  match w with
  | .load i _ => i == c
  | .thread i _ _ _ => i == c
  | .start i => i == c
  | _ => false

/-- A held read of a core: a load, an instruction that waits, or the copy with which its context starts. -/
def State.heldOn (s : State) (c : Nat) : Bool :=
  ((s.core c).loads.any fun l => l.held) || s.mem.held.any fun h => match h.who with | .thread i _ _ _ => i == c | .start i => i == c | _ => false

/-! ### Contexts (R168 to R170) -/

/-- The context a core holds. -/
def State.ctxOf (s : State) (c : Nat) : Option (Nat × Ctx) :=
  match (s.core c).ctx with
  | some n => (s.ctx? n).map fun x => (n, x)
  | none => none

/-- A core scrubbed (R361): nothing of the context stays. -/
def Core.scrub (c : Core) : Core := { ctx := c.ctx, reserved := c.reserved, cycles := c.cycles, counted := c.counted, samplers := c.samplers }

/-- A load of a context of stall `st` is in flight under the translation of an address within `n` bytes from `a`, of any where `n` = 0. -/
def State.loadsIn (s : State) (st a n : Nat) : Bool :=
  s.cores.any fun e => match s.ctxOf e.1 with
    | some (_, x) => x.stall == st && e.2.loads.any fun l => l.lanes.any fun q => n == 0 || (decide (a ≤ q.2.1) && decide (q.2.1 < a + n))
    | none => false

/-- An INVAL completes once every access in flight under an old translation has been performed (R348). -/
def State.invalEnd (s : State) : State :=
  match s.stlInval with
  | some (st, a, n) => if s.loadsIn st a n then s else { s with stlInval := none, stl := { s.stl with busy := false, result := 0 } }
  | none => s

/-- Ranges of local memory that an abandoned read-out or vector descriptor leaves undefined (R133, R187). -/
def Core.undef (c : Core) (rnd : Nat) (l : List (Nat × Nat)) : Core :=
  { c with mem := l.foldl (fun m r => tsetMany 0 m r.1 ((List.range r.2).map fun i => Config.undefByte rnd (r.1 + i))) c.mem }

/-- What a fault stops at once on a core (R100, R123, R169, R187): passes, vector work and loads; accumulators, weight registers and row buffers are
scrubbed, and what the abandoned work was to write and the wide-buffer region are undefined. -/
def Core.abandon (c : Core) (rnd : Nat) : Core :=
  { c.undef rnd (c.passes.flatMap Pass.dest ++ c.vq.flatMap VJob.dest ++ if c.wide = 0 then [] else [(c.wide, 0x40000)]) with
    passes := [], vq := [], loads := [], acc := [], quads := [], cells := [] }

/-- The work of a core is abandoned. -/
def State.abandonCore (s : State) (c : Nat) : State := ((s.modCore c fun k => k.abandon s.rnd).fresh).invalEnd

/-- The cycles that a context ran on a core since they were last counted, and the instruction bytes it fetched, are added to the tally of its stall
(R365); the spec fixes neither number. -/
def State.countCore (s : State) (st c : Nat) : State :=
  let k := s.core c
  let cy := k.cycles + Config.cyclesPassed s.rnd
  (((s.modCore c fun k => { k with cycles := cy, counted := cy }).tally st 0x00 (cy - k.counted)).tally st 0x18 (Config.fetchBytes s.rnd)).fresh

/-- The cores that run contexts of a stall are counted. -/
def State.countCores (s : State) (st : Nat) : State :=
  forEach ((s.cores.map (·.1)).filter fun c => match s.ctxOf c with | some (_, x) => x.stall == st && x.kind == .kernel | none => false) s fun c s =>
    s.countCore st c

/-- The port of a route table byte (R269): 31 for unreachable. -/
def State.routeOf (s : State) (dst : Nat) : Nat := (afind? s.tun.live.route0 dst).getD 31

def State.myId (s : State) : Nat := fld s.tun.live.fabId 19 0

/-- A notice packet of Table 12.7 (R304). -/
def noticePkt (src dst dstall sstall coll epoch kind step attempt reason member crc : Nat) : Pkt :=
  { w0 := BitVec.ofNat 64 (0x5 * 2 ^ 60 + 1 * 2 ^ 52 + dstall % 4096 * 2 ^ 40 + dst % 2 ^ 20 * 2 ^ 20 + src % 2 ^ 20)
    w1 := 0
    w2 := BitVec.ofNat 64 (epoch % 2 ^ 32 * 2 ^ 32 + sstall % 4096)
    w3 := BitVec.ofNat 64 (coll % 65536 * 2 ^ 48 + kind % 256)
    data := toBytes 4 step ++ [BitVec.ofNat 8 attempt, BitVec.ofNat 8 reason, 0, 0] ++ toBytes 4 member ++ [0, 0, 0, 0] ++
      toBytes 8 crc ++ toBytes 8 0 }

/-- The bytes of a packet: header, then payload (R263). -/
def pktBytes (p : Pkt) : List Byte := toBytes 8 p.w0.toNat ++ toBytes 8 p.w1.toNat ++ toBytes 8 p.w2.toNat ++ toBytes 8 p.w3.toNat ++ p.data

/-- FAB_PORTn_CTL in effect. -/
def State.fabCtl (s : State) (p : Nat) : W32 := tget 0x3C s.tun.live.fabCtl p

/-- Link encryption is required on a port (R270). -/
def State.encrypts (s : State) (p : Nat) : Bool := bitAt (s.fabCtl p) 30

/-- The data a flit carries: 248 bytes, or 232 where it also carries a tag (R250, R270). -/
def State.bodyBytes (s : State) (p : Nat) : Nat := if s.encrypts p then 232 else 248

/-- Bytes cut into bodies of `n`, the last filled with zeros (R263). -/
def bodies (n : Nat) : Nat → List Byte → List (List Byte)
  | 0, _ => []
  | fuel + 1, bs => if bs.isEmpty then [] else (bs.take n ++ List.replicate (n - bs.length) 0) :: bodies n fuel (bs.drop n)

/-- A packet queued on a port, its flits in order on one virtual channel (R263), its payload counted (Table 14.8). -/
def State.queuePkt (s : State) (st port vc flow : Nat) (p : Pkt) : State :=
  let bs := pktBytes p
  (s.modPort port fun x =>
    { x with txq := x.txq ++ (bodies (s.bodyBytes port) (bs.length + 1) bs).zipIdx.map fun b =>
      { kind := 0, vc := vc, flow := flow, cont := b.2 != 0, body := b.1 } }).tally
    st 0x38 p.data.length

/-- Send a best-effort packet to a fabric ID by the route table (R269); to an unreachable one nothing is sent. -/
def State.sendPkt (s : State) (st vc dst : Nat) (p : Pkt) : State :=
  let port := s.routeOf dst
  if port < 16 ∧ (s.port port).st = .up then s.queuePkt st port vc 0 p else s

/-- Entries that are written at most once in a span: `f` is given how many occurrences the entry reports, those of `n` now and
those that no entry has reported. `period` is the span in Strings. -/
def State.atMost (s : State) (event unit period n : Nat) (f : Nat → State → State) : State :=
  let key := event * 2 ^ 48 + unit
  let (l, k) := tget (0, 0) s.limits key
  let now := stringOf s.str.time + 1
  if l = 0 ∨ l + period ≤ now then f (k + n) { s with limits := tset (0, 0) s.limits key (now, 0) }
  else { s with limits := tset (0, 0) s.limits key (l, k + n) }

/-- Count an error of a port (R273). -/
def Port.count (x : Port) (c : Nat) (n : Nat := 1) : Port := { x with cnt := tmod 0 x.cnt c fun a => satAdd64 a n }

/-- Send a notice to each of a list of members (fabric ID, stall). -/
def State.notify (s : State) (st : Nat) (ms : List (Nat × Nat)) (coll epoch kind step attempt reason member : Nat)
    (crc : Nat := 0) : State :=
  forEach ms s fun m s => s.sendPkt st 2 m.1 (noticePkt s.myId m.1 m.2 st coll epoch kind step attempt reason member crc)

/-- A collective of a stall. -/
def State.coll? (s : State) (st n : Nat) : Option Coll := s.colls.find? fun c => c.stall == st && c.num == n && c.result.isNone

def State.setColl (s : State) (c : Coll) : State := { s with colls := s.colls.map fun x => if x.id = c.id then c else x }

def State.dropColl (s : State) (c : Coll) : State := { s with colls := s.colls.filter fun x => x.id != c.id }

/-- The members of a set other than oneself. -/
def Coll.peers (c : Coll) : List (Nat × Nat) := (c.members.zipIdx.filter fun m => m.2 ≠ c.me).map (·.1)

/-- End a collective without a record: its reservation is released, LEAVE carries the status (R301, R303). -/
def State.abortColl (s : State) (c : Coll) (status : Nat) (sendLeave : Bool) : State :=
  let s := if sendLeave ∧ c.result = none then s.notify c.stall c.peers c.num 0 0x04 0 0 status c.me else s
  ((s.dropColl c).modStall c.stall fun x => { x with lbHeld := x.lbHeld - c.lb })

/-- The issue-form collectives of a context (R303). -/
def State.abortCtxColls (s : State) (ctx status : Nat) : State :=
  forEach (s.colls.filter fun c => match c.issue with | some i => i.ctx == ctx | none => false) s
    fun c s => s.abortColl c status true

/-- The row of Table 15.13 for poison consumed from a unit of device memory, by where it was (log entry 101): HBM, or the cache that holds its line. -/
def State.poisonSource (s : State) (u : Nat) : Nat := if s.cachedUnit u then 4 else 0

/-- Tally and interruption of a context's fault (R365, R393). -/
def State.countCause (s : State) (st : Nat) (f : CtxFault) : State :=
  if f.cause = causePoison then (s.tally st 0x98 1).interruption f.src else if f.cause = 0x12 then s.interruption 1 else s

/-- The owner of the block that an address of a stall translates to. -/
def State.ownerAt (s : State) (st dva : Nat) : Option Nat :=
  match s.walk st dva with
  | .ok (a, _) => if s.dpaMapped a then some (s.owner (a / 4096)) else none
  | .error _ => none

/-- A fault of a context (R168 to R170): the first is kept and starts the kill, later ones are counted. Where the ring is already
CANCELLING its descriptor completes with CANCELLED (Table 15.7). -/
def State.ctxFault (s : State) (n : Nat) (f : CtxFault) : State :=
  match s.ctx? n with
  | none => s
  | some x =>
    match x.fault with
    | some g => s.setCtx n (some { x with fault := some { g with more := min 255 (g.more + 1) } })
    | none =>
      let late := x.kind != .test && (s.ring x.ring).st == .cancelling
      let f := if f.cause = causeProt then { f with owner := s.ownerAt x.stall f.arg2 } else f
      let s := s.setCtx n (some { x with fault := some f, st := .killing, status := some (if late then 0x20 else f.cause) })
      let s := forEach x.cores s fun c s => s.abandonCore c
      let s := s.abortCtxColls n f.cause
      let s := s.countCause x.stall f
      if f.cause = 0x12 then s.taint x.stall else s

/-- Kill a context for another reason (its ring cancels, its stall is reset): work stops as for a fault, with no entry. -/
def State.ctxKill (s : State) (n status : Nat) : State :=
  match s.ctx? n with
  | none => s
  | some x =>
    let s := s.setCtx n (some { x with st := .killing, status := some status })
    let s := forEach x.cores s fun c s => if (s.core c).ctx = some n then s.abandonCore c else s
    s.abortCtxColls n status

/-! ### Ring descriptors (R326 to R329, R337) -/

/-- A descriptor of a ring by its number. -/
def Ring.desc? (r : Ring) (n : W32) : Option RDesc := r.ds.find? fun d => d.num == n

def Ring.setDesc (r : Ring) (n : W32) (f : RDesc → RDesc) : Ring := { r with ds := r.ds.map fun d => if d.num = n then f d else d }

/-- The status exceptions that leave a ring RUNNING (R337): INCOMPLETE, RETRACTED and STRING_LOST on collectives,
EVENT_TIMEOUT and GRAD_NONFINITE. -/
def keepsRunning (type status : Nat) : Bool :=
  (type == 5 && (status == 0x21 || status == 0x23 || status == 0x24)) || status == 0x30 || status == 0x2C

/-- Number `m` is `n` or a later one, modulo 2^32 (R315). -/
def atOrAfter (n m : W32) : Bool := decide ((m - n).toNat < 2 ^ 31)

/-- A descriptor comes after one that failed (R337): it does not dispatch. -/
def Ring.blocked (x : Ring) (n : W32) : Bool :=
  match x.failed with
  | some f => n != f && atOrAfter f n
  | none => false

/-- A descriptor word. -/
def RDesc.w (d : RDesc) (i : Nat) : W64 := (d.words[i]?).getD 0

def RDesc.type (d : RDesc) : Nat := fld (d.w 0) 63 60

/-! ### Pipelines (R226, R227) -/

/-- The ring of a class in a pipeline of a stall. -/
def State.classRing (s : State) (st p cls : Nat) : Option (Nat × Ring) :=
  s.rings.find? fun e => e.2.st != .free && e.2.stall == st && e.2.pipe == p && e.2.cls == cls

/-- A ring is empty: every descriptor it holds has been dispatched. -/
def emptyRing : Option (Nat × Ring) → Bool
  | some (_, x) => x.ds.all fun d => d.ph == .running || d.ph == .done
  | none => true

def kernelRuns : Option (Nat × Ring) → Bool
  | some (_, x) => x.ds.any fun d => d.ph == .running && d.type == 1
  | none => false

/-- Where F and Bx of a pipeline are empty and run no kernel, it is full no more (R227). -/
def State.pipeClear (s : State) (st pipe : Nat) : State :=
  let f := s.classRing st pipe 1
  let b := s.classRing st pipe 2
  if emptyRing f ∧ emptyRing b ∧ ¬ kernelRuns f ∧ ¬ kernelRuns b then
    s.modStall st fun y => { y with pipes := tmod {} y.pipes pipe fun p => { p with full := false } }
  else s

/-- A descriptor of a ring was dispatched or ended: its pipeline may be full no more. -/
def State.pipeIdle (s : State) (r : Nat) : State :=
  let x := s.ring r
  if x.cls = 1 ∨ x.cls = 2 then s.pipeClear x.stall x.pipe else s

/-- Ring `r` has been served: in its stall and PRIO the ring after it has the next turn (R311). -/
def State.turned (s : State) (r : Nat) : State :=
  let x := s.ring r
  { s with hosts := { s.hosts with turn := tset 0 s.hosts.turn (4 * x.stall + x.prio) ((r + 1) % 65536) } }

/-- A descriptor leaves the scheduler: its ring has been served. -/
def State.taken (s : State) (r : Nat) (n : W32) : State :=
  match (s.ring r).desc? n with
  | some d => if d.ph = .ready then s.turned r else s
  | none => s

/-- A descriptor's work ends with a status: its record is due (R329). A status that cancels the ring stops dispatch. -/
def State.descDone (s : State) (r : Nat) (n : W32) (status flags : Nat) : State :=
  ((if status = 0x20 then s else s.taken r n).modRing r fun x =>
    match x.desc? n with
    | some d =>
      if d.ph = .done then x
      else
        let ty := fld ((d.words[0]?).getD 0) 63 60
        let x := x.setDesc n fun d => { d with ph := .done, status := status, flags := flags, aux := 0 }
        if status ≠ 0 ∧ status ≠ 0x20 ∧ ¬ keepsRunning ty status ∧ ¬ x.blocked n then { x with failed := some n } else x
    | none => x).pipeIdle r

/-- The head descriptor that may dispatch on a ring (R326): the first that is not done, not running and not submitted only;
nothing dispatches past a FENCE, SIGNAL, WAIT or WAIT_TIME that has not completed, past a descriptor whose read is due or that
failed, past 64 incomplete ones, or on a ring that is stopped. In CANCELLING the descriptors before the one that was cancelled first still
dispatch (R336). -/
def Ring.head? (r : Ring) : Option RDesc :=
  if (r.st ≠ .running ∧ r.st ≠ .cancelling) ∨ r.stopping then none
  else
    let pre := r.ds.takeWhile fun d => d.ph == .running || d.ph == .done
    if (pre.any fun d => d.ph == .running && fld ((d.words[0]?).getD 0) 63 60 == 7) then none
    else if 64 ≤ (pre.filter fun d => d.ph == .running).length then none
    else match (r.ds.drop pre.length).head? with
      | some d => if d.ph = .ready ∧ ¬ r.blocked d.num then some d else none
      | none => none

/-- Every earlier descriptor of the ring has completed (R324, R330). -/
def Ring.allBefore (r : Ring) (n : W32) : Bool := (r.ds.takeWhile fun d => d.num != n).all fun d => d.ph == .done

/-- Mark a descriptor dispatched (R326). -/
def State.dispatchDesc (s : State) (r : Nat) (n : W32) (aux : Nat := 0) : State :=
  ((s.taken r n).modRing r fun x => x.setDesc n fun d => { d with ph := .running, since := s.clock, aux := aux }).pipeIdle r

/-- A descriptor that fails its check: DESC_INVALID (R8). `off`, which the entry names, is the byte offset of the first 64-bit word at fault (DESIGN
CHOICE, log entry 150: R8 gives neither what the offset counts nor which field counts). `core`: 0x100 more than a fenced core that it names (R388). -/
def State.descInvalid (s : State) (r : Nat) (n : W32) (off : Nat) (core : Nat := 0) : State :=
  (s.descDone r n 0x0E 0).modRing r fun x => x.setDesc n fun d => { d with aux := off + 65536 * core }

/-- A descriptor whose access fails on a translation: its entry names the page-table level (R347, log 147). -/
def State.noteLevel (s : State) (r : Nat) (n : W32) (m : MemErr) : State :=
  if m.cause = causePage then s.modRing r fun x => x.setDesc n fun d => { d with aux := m.level } else s

/-- Several ranges of a stall read at the memory-side cache. -/
def State.didReads (s : State) (st : Nat) (rs : List (Nat × Nat)) : State := forEach rs s fun e s => s.didRead st e.1 e.2

/-- The hold of R240 on a stall's kernel-launch, stream and collective descriptors. -/
def State.heldBack (s : State) (st type : Nat) : Bool :=
  ((s.stall st).hold) && (type == 1 || type == 3 || type == 4 || type == 5)

/-- The stall's TDI is CONFIG_LOCKED: its rings do not dispatch (Table 17.5). -/
def State.tdiLocked (s : State) (st : Nat) : Bool := (s.fn (s.stall st).func).tdi == .locked

/-- The head descriptor of ring `r` if its stall lets it dispatch. -/
def State.headReady (s : State) (r : Nat) : Option RDesc :=
  let x := s.ring r
  match x.head? with
  | some d => if ¬ s.heldBack x.stall d.type ∧ ¬ s.tdiLocked x.stall ∧ (s.stall x.stall).st = .active then some d else none
  | none => none

/-! ### The ring scheduler (R311) -/

/-- The context that a descriptor has created, if any. -/
def State.ctxFor (s : State) (r : Nat) (n : W32) : Option Nat :=
  (s.ctxs.find? fun e => match e.2 with
    | some x => x.kind != .test && x.ring == r && x.num == n
    | none => false).map (·.1)

/-- A class ring's kernel may be created only when its pipeline has chosen it (R227). -/
def State.chosen (s : State) (r : Nat) : Bool :=
  let x := s.ring r
  x.cls == 0 || (tget {} (s.stall x.stall).pipes x.pipe).chosen == some r

/-- The device runs at most 4,096 collectives at once (R280). -/
def State.collRoom (s : State) : Bool := decide ((s.colls.filter fun c => c.result.isNone).length < Config.maxCollectives)

/-- A stall's update unit is free and fewer than 16 stalls run one (R229). -/
def State.updRoom (s : State) (st : Nat) : Bool := (s.stall st).upd.isNone && decide ((s.stalls.filter fun e => e.2.upd.isSome).length < 16)

/-- What the head descriptor `d` of ring `r` dispatches to can take it: no context of it waits yet for cores, a collective or an update has
room, the descriptors before a FENCE or SIGNAL have completed, no refill holds a read of it or the write it begins with. -/
def State.takes (s : State) (r : Nat) (d : RDesc) : Bool :=
  let x := s.ring r
  let op := fld (d.w 1) 63 60
  !(s.mem.held.any fun h => h.who == .desc r d.num) &&
    match d.type with
    | 1 => (s.ctxFor r d.num).isNone && s.chosen r
    | 2 => bitAt (d.w 1) 60 || !s.writeWaits x.stall (fld (d.w 3) 56 0) (fld (d.w 1) 39 0)
    | 3 => (s.ctxFor r d.num).isNone
    | 4 => (s.ctxFor r d.num).isNone
    | 5 => s.collRoom
    | 6 => s.updRoom x.stall
    | 7 => (1 < op || x.allBefore d.num) && (op != 1 || !s.writeWaits x.stall (fld (d.w 2) 56 0) 8)
    | 8 => bitAt (d.w 1) 63 || !s.writeWaits x.stall (fld (d.w 2) 56 0) 256
    | _ => true

/-- A ready ring: its head can be dispatched. -/
def State.ringReady (s : State) (r : Nat) : Bool :=
  match s.headReady r with
  | some d => s.takes r d
  | none => false

/-- How far ring `i` is in the round robin of its stall and PRIO from the ring whose turn is next. -/
def State.turnsOff (s : State) (st prio i : Nat) : Nat := (i + 65536 - tget 0 s.hosts.turn (4 * st + prio)) % 65536

/-- The scheduler serves ring `r` among the ready rings of its stall: none has a higher PRIO, none of its own PRIO comes first. -/
def State.served (s : State) (r : Nat) : Bool :=
  let x := s.ring r
  s.rings.all fun e => e.1 == r || e.2.stall != x.stall || !s.ringReady e.1 || decide (e.2.prio < x.prio) ||
    (e.2.prio == x.prio && decide (s.turnsOff x.stall x.prio r < s.turnsOff x.stall x.prio e.1))

/-- The head descriptor of ring `r` if it has TYPE `type` and the scheduler dispatches it now. -/
def State.headOf (s : State) (r type : Nat) : Option RDesc :=
  match s.headReady r with
  | some d => if d.type = type ∧ s.served r then some d else none
  | none => none

/-- TUN_STATUS.STATE (Table 16.10). -/
def State.tunState (s : State) : Nat :=
  match s.tun.change with
  | none => 0
  | some c => match c.ph with
    | .preparing => 1
    | .ready => 1
    | .mixed => 2
    | .rollingBack => 3

end Sys2Proof.Machine
end

