-- ==== Sys2Proof/Machine/Operands.lean ====
section
/-! DEFINITION. Operands of the Urtis instructions (07): the fields of an instruction word (R149), the checks of R150, the
registers and predicates of a group (R147), the path stack (R154), the guard, and how an instruction issues, retires and
faults (R168 to R170). -/

namespace Sys2Proof.Machine

/-! ### Fields of the word (R149, Table 7.1) -/

def wOpc (w : W64) : Nat := fld w 63 57
def wGm (w : W64) : Nat := fld w 56 55
def wPg (w : W64) : Nat := fld w 54 52
def wMod (w : W64) : Nat := fld w 51 48
def wD (w : W64) : Nat := fld w 47 40
def wA (w : W64) : Nat := fld w 39 32
def wB (w : W64) : Nat := fld w 31 24
def wC (w : W64) : Nat := fld w 23 16
def wImm (w : W64) : Nat := fld w 31 0
def wOffA (w : W64) : Int := sext 16 (fld w 15 0)
def wOffM (w : W64) : Int := sext 32 (fld w 31 0)
def wTgt (w : W64) : Int := sext 24 (fld w 23 0)
def wRpcB (w : W64) : Int := sext 24 (fld w 47 24)
def wRpcX (w : W64) : Int := sext 24 (fld w 23 0)

/-- The opcodes of Table 7.3. -/
def listedOpc (o : Nat) : Bool :=
  decide (o ≤ 0x0E) || (decide (0x10 ≤ o) && decide (o ≤ 0x18)) || (decide (0x20 ≤ o) && decide (o ≤ 0x23)) ||
    (decide (0x30 ≤ o) && decide (o ≤ 0x32)) || (decide (0x40 ≤ o) && decide (o ≤ 0x46)) ||
    (decide (0x50 ≤ o) && decide (o ≤ 0x52)) || (decide (0x60 ≤ o) && decide (o ≤ 0x66)) ||
    (decide (0x70 ≤ o) && decide (o ≤ 0x75))

/-- The forms of Table 7.1. -/
inductive Form where
  | fR
  | fA
  | fI
  | fM
  | fB
  | fX
  | fG
  deriving DecidableEq, Repr

/-- How an opcode uses a register field (R147, R150): not at all, a register, a pair, a quad, a predicate, or a code that its
own list of codes governs. -/
inductive FieldUse where
  | no
  | reg
  | pair
  | quad
  | pred
  | raw
  deriving DecidableEq, Repr

/-- What an opcode's word names: its form, whether its MOD and codes are listed, its fields, and whether a guard is barred
(CALL and BAR). -/
structure Uses where
  form : Form
  listed : Bool
  d : FieldUse := .no
  a : FieldUse := .no
  b : FieldUse := .no
  c : FieldUse := .no
  bare : Bool := false

/-- The bits of a form that are Reserved in Table 7.1. -/
def formReserved (f : Form) (w : W64) : Bool :=
  match f with
  | .fR => fld w 15 0 != 0
  | .fX => fld w 47 40 != 0 || fld w 31 24 != 0
  | .fG => fld w 47 40 != 0 || fld w 31 0 != 0
  | _ => false

/-- The register fields a form has, with their uses. -/
def Uses.fields (u : Uses) (w : W64) : List (FieldUse × Nat) :=
  match u.form with
  | .fR => [(u.d, wD w), (u.a, wA w), (u.b, wB w), (u.c, wC w)]
  | .fA => [(u.d, wD w), (u.a, wA w), (u.b, wB w), (u.c, wC w)]
  | .fI => [(u.d, wD w), (u.a, wA w)]
  | .fM => [(u.d, wD w), (u.a, wA w)]
  | .fB => []
  | .fX => [(u.a, wA w)]
  | .fG => [(u.a, wA w)]

/-- A field breaks RESERVED_FIELD: unused and not 0, or a predicate with bits [7:3] set. -/
def fieldReserved (e : FieldUse × Nat) : Bool :=
  match e.1 with
  | .no => e.2 != 0
  | .pred => decide (8 ≤ e.2)
  | _ => false

/-- A field breaks REG_RANGE. -/
def fieldRange (nreg : Nat) (e : FieldUse × Nat) : Bool :=
  match e.1 with
  | .reg => decide (nreg ≤ e.2)
  | .pair => decide (nreg ≤ e.2 + 1) || e.2 % 2 != 0
  | .quad => decide (nreg ≤ e.2 + 3) || e.2 % 4 != 0
  | _ => false

def causeIllegal : Nat := 0x01
def causeReserved : Nat := 0x02
def causeRange : Nat := 0x03
def causeBounds : Nat := 0x04
def causeAlign : Nat := 0x05
def causeCanon : Nat := 0x08
def causeDiverge : Nat := 0x09
def causeBarrier : Nat := 0x0A
def causeDesc : Nat := 0x0E
def causeTrap : Nat := 0x13

/-- The decode checks of R150, in its order. -/
def decodeCheck (u : Uses) (nreg : Nat) (w : W64) : Option Nat :=
  if ¬ listedOpc (wOpc w) ∨ ¬ u.listed then some causeIllegal
  else if formReserved u.form w || (u.fields w).any fieldReserved then some causeReserved
  else if wGm w = 3 ∨ (wGm w = 0 ∧ wPg w ≠ 0) ∨ (u.bare ∧ wGm w ≠ 0) then some causeReserved
  else if (u.fields w).any (fieldRange nreg) then some causeRange
  else none

/-- The registers that a word's fields name. -/
def Uses.regs (u : Uses) (w : W64) : List Nat :=
  ((u.fields w).map fun e =>
    match e.1 with
    | .reg => [e.2]
    | .pair => [e.2, e.2 + 1]
    | .quad => [e.2, e.2 + 1, e.2 + 2, e.2 + 3]
    | _ => []).flatten

/-! ### Registers of a group (R147) -/

/-- A general register of a lane; one that nothing has written is undefined. -/
def Group.reg (g : Group) (lane r : Nat) : W32 := (tget none g.regs (lane * 256 + r)).getD (Config.undefReg g.serial lane r)

def Group.setReg (g : Group) (lane r v : Nat) : Group := { g with regs := tset none g.regs (lane * 256 + r) (some (BitVec.ofNat 32 v)) }

/-- A pair: the low word in the even register. -/
def Group.pair (g : Group) (lane r : Nat) : Nat := (g.reg lane r).toNat + 2 ^ 32 * (g.reg lane (r + 1)).toNat

def Group.setPair (g : Group) (lane r v : Nat) : Group := (g.setReg lane r v).setReg lane (r + 1) (v / 2 ^ 32)

/-- A predicate of a lane. -/
def Group.pred (g : Group) (lane p : Nat) : Bool := (tget none g.preds (lane * 8 + p)).getD (Config.undefPred g.serial lane p)

def Group.setPred (g : Group) (lane p : Nat) (v : Bool) : Group := { g with preds := tset none g.preds (lane * 8 + p) (some v) }

/-- `n` registers from `r` as bytes, and set from bytes. -/
def Group.bytes (g : Group) (lane r n : Nat) : List Byte := ((List.range (cdiv n 4)).flatMap fun i => toBytes 4 (g.reg lane (r + i)).toNat).take n

def Group.setWords (g : Group) (lane r : Nat) (bs : List Byte) : Group :=
  (List.range (cdiv bs.length 4)).foldl (fun g i => g.setReg lane (r + i) (ofBytes ((bs.drop (4 * i)).take 4))) g

/-! ### The path stack (R154) -/

/-- Pop while the top's mask is empty or its pc is its rpc. The head of the list is the top. -/
def popPaths : List PathEnt → List PathEnt
  | [] => []
  | e :: t => if e.mask = 0 ∨ e.rpc = some e.pc then popPaths t else e :: t

/-- The PC and active mask of a group's next instruction; 0 for the group of a stream, which has no instructions. -/
def Group.topPath (gr : Group) : Nat × Nat :=
  match popPaths gr.paths with
  | t :: _ => (t.pc, t.mask)
  | [] => (0, 0)

/-- The lanes of a group that have not exited. -/
def Group.live (g : Group) : Nat := g.paths.foldl (fun a e => a ||| e.mask) 0

def Group.setTop (g : Group) (pc : Nat) : Group :=
  match g.paths with
  | e :: t => { g with paths := { e with pc := pc } :: t }
  | [] => g

/-- A byte address moved by words, modulo 2^64. -/
def pcAdd (pc : Nat) (words : Int) : Nat := (((pc : Int) + 8 * words) % (2 ^ 64 : Int)).toNat

/-! ### Issue -/

/-- What an instruction sees when it issues: core, slot, context, group, pc, word, active mask and executing lanes. -/
structure IEnv where
  c : Nat
  g : Nat
  n : Nat
  x : Ctx
  gr : Group
  pc : Nat
  w : W64
  act : Nat
  ex : List Nat

def IEnv.rA (e : IEnv) (l : Nat) : Nat := (e.gr.reg l (wA e.w)).toNat
def IEnv.rB (e : IEnv) (l : Nat) : Nat := (e.gr.reg l (wB e.w)).toNat
def IEnv.rC (e : IEnv) (l : Nat) : Nat := (e.gr.reg l (wC e.w)).toNat
def IEnv.rD (e : IEnv) (l : Nat) : Nat := (e.gr.reg l (wD e.w)).toNat
def IEnv.pA (e : IEnv) (l : Nat) : Nat := e.gr.pair l (wA e.w)
def IEnv.pB (e : IEnv) (l : Nat) : Nat := e.gr.pair l (wB e.w)
def IEnv.pC (e : IEnv) (l : Nat) : Nat := e.gr.pair l (wC e.w)

/-- The group of a slot, where there is one. -/
def State.group? (s : State) (c g : Nat) : Option Group := afind? (s.core c).groups g

def State.setGroup (s : State) (c g : Nat) (x : Group) : State := s.modCore c fun k => { k with groups := tset {} k.groups g x }

/-- An instruction retires: its group as changed, the pc moved on. -/
def IEnv.retireAt (e : IEnv) (gr : Group) (pc : Nat) (s : State) : State :=
  (s.setGroup e.c e.g { gr.setTop pc with yielded := false }).modCore e.c fun k => { k with lastRetire := s.clock }

def IEnv.retire (e : IEnv) (gr : Group) (s : State) : State := e.retireAt gr ((e.pc + 8) % 2 ^ 64) s

/-- The instruction faults (R168, R169): it does not retire and the context is killed. -/
def IEnv.fault (e : IEnv) (cause : Nat) (arg2 : Nat) (s : State) (src : Nat := 1) : State :=
  s.ctxFault e.n { cause := cause, pc := e.pc, mask := e.act, slot := e.g, arg2 := arg2, core := e.c, opc := wOpc e.w, src := src }

/-- An instruction that meets poison at a DPA (R205): it waits where the block is to be refilled (R207), else it faults. -/
def IEnv.poison (e : IEnv) (a : Nat) (s : State) : State :=
  if s.goldenHolds (a / 32) then
    let who : Reader := .thread e.c e.gr.serial e.g (wOpc e.w)
    ((s.queueRefill (a / 128 / 32) (some who)).holdRead (a / 32) who).modCtx e.n fun x => { x with heldSince := some (x.heldSince.getD s.clock) }
  else e.fault causePoison a s (s.poisonSource (a / 32))

/-- An instruction whose access fails, at the address for the ledger. -/
def IEnv.fails (e : IEnv) (m : MemErr) (s : State) : State :=
  if m.cause = causePoison ∧ s.goldenHolds (m.addr / 32) then e.poison m.addr s
  else s.ctxFault e.n { cause := m.cause, pc := e.pc, mask := e.act, slot := e.g, arg2 := m.addr, core := e.c, opc := wOpc e.w, level := m.level, src := s.poisonSource (m.addr / 32) }

/-- The guard of a lane (R149). -/
def guardOf (gr : Group) (w : W64) (l : Nat) : Bool :=
  match wGm w with
  | 0 => true
  | 1 => gr.pred l (wPg w)
  | _ => !gr.pred l (wPg w)

/-- The 57-bit device virtual address of a canonical 64-bit one: bits [63:57] equal bit 56. -/
def canonical (a : Nat) : Option Nat :=
  if a / 2 ^ 56 = 0 ∨ a / 2 ^ 56 = 0xFF then some (a % 2 ^ 57) else none

/-- The fetch of the word at `pc` (R155, R161, R168, R345): a cause and the address, where it fails. -/
def State.fetchErr (s : State) (st pc : Nat) : Option MemErr :=
  if pc % 8 ≠ 0 then some ⟨causeAlign, pc, 0⟩
  else
    match canonical pc with
    | none => some ⟨causePage, pc, 0⟩
    | some v =>
      match s.rdDva st v 8 .fetch with
      | .ok _ => none
      | .error m => some m

/-- A register that a word names awaits a load in flight (R146). -/
def State.scoreboard (s : State) (c : Nat) (gr : Group) (rs : List Nat) : Bool :=
  (s.core c).loads.any fun l => l.serial == gr.serial &&
    rs.any fun r => decide (l.d ≤ r) && decide (r < l.d + (if l.mode % 8 = 4 then 4 else if l.mode % 8 = 3 then 2 else 1))

/-- Contexts of a stall issue: the core clocks run, and the stall does not wait at its Q point (R410, R447). -/
def State.issues (s : State) (st : Nat) : Bool := s.pwr.coreClocks && !(s.stall st).qHold

/-- Issue the word `w`, of an instruction with opcode `opc`, on the group in slot `g` of core `c` (R146, R149 to R151). A group
that is not ready, or a word of another opcode, issues nothing. -/
def State.issue (s : State) (c g : Nat) (w : W64) (opc : Nat) (u : Uses) (body : IEnv → State → State) : State :=
  match s.ctxOf c, s.group? c g with
  | some (n, x), some gr =>
    if x.st ≠ .running ∨ gr.held ≠ .no ∨ ¬ s.issues x.stall then s
    else if listedOpc (wOpc w) ∧ wOpc w ≠ opc then s
    else
      match popPaths gr.paths with
      | [] => s
      | top :: rest =>
        let gr := { gr with paths := top :: rest }
        let ex := (maskList 32 top.mask).filter (guardOf gr w)
        let e : IEnv := { c := c, g := g, n := n, x := x, gr := gr, pc := top.pc, w := w, act := top.mask, ex := ex }
        match s.fetchErr x.stall top.pc with
        | some m => ({ e with w := 0 }).fails m s
        | none =>
          match decodeCheck u x.nreg w with
          | some cause => e.fault cause 0 s
          | none => if s.scoreboard c gr (u.regs w) then s else body e s
  | _, _ => s

/-- A per-lane result to register D of the executing lanes. -/
def IEnv.lanes32 (e : IEnv) (f : Nat → Nat) (s : State) : State :=
  e.retire (e.ex.foldl (fun gr l => gr.setReg l (wD e.w) (f l)) e.gr) s

/-- A per-lane result to pair D. -/
def IEnv.lanes64 (e : IEnv) (f : Nat → Nat) (s : State) : State :=
  e.retire (e.ex.foldl (fun gr l => gr.setPair l (wD e.w) (f l)) e.gr) s

/-- A per-lane result to predicate D. -/
def IEnv.lanesP (e : IEnv) (f : Nat → Bool) (s : State) : State :=
  e.retire (e.ex.foldl (fun gr l => gr.setPred l (wD e.w) (f l)) e.gr) s

/-! ### Local memory as it is read (R201, R204) -/

/-- A unit of local memory read with symbols in error (R201, R204). -/
def State.readLocalUnit (s : State) (c u : Nat) (errs : SymErrs) : State :=
  let k := s.core c
  let lost : State := (s.setCore c { k with poison := insertSorted u k.poison }).ledger 0x0505 1 0x03 c none (32 * u) 2
  if errs.isEmpty ∨ k.poison.contains u then s
  else match decodeSyms (symTable errs) with
    | .good => s
    | .corrected _ => s
    | .poison => s.setCore c { k with poison := insertSorted u k.poison }
    | .uncorrectable => lost
    | .noPromise =>
      if Config.manyErrors s.rnd = 0 then lost.fresh
      else (s.setCore c { k with mem := tsetMany 0 k.mem (32 * u) ((List.range 32).map fun i => Config.undefByte s.rnd i) }).fresh

/-- Units of local memory in error, those of them that some ranges touch, as they are read. -/
def State.readLocalUnits (s : State) (c : Nat) (rs : List (Nat × Nat)) (us : UnitErrs) : State :=
  forEach us s fun u s => if rs.any fun e => (unitsOf e.1 e.2).contains u.1 then s.readLocalUnit c u.1 u.2 else s

/-! ### Addresses of memory operands (R161) -/

/-- The bytes of an access by MOD[2:0]. -/
def memSize (m : Nat) : Nat :=
  match m % 8 with
  | 0 => 1
  | 1 => 2
  | 2 => 4
  | 3 => 8
  | 4 => 16
  | 5 => 1
  | _ => 2

/-- How field D is used by an access of MOD[2:0]. -/
def memUse (m : Nat) : FieldUse := if m % 8 = 3 then .pair else if m % 8 = 4 then .quad else .reg

/-- A loaded value as its register words: zero-extended, or sign-extended for MOD[2:0] 5 and 6. -/
def memExtend (m : Nat) (bs : List Byte) : List Byte :=
  match m % 8 with
  | 5 => toBytes 4 (sext 8 (ofBytes bs) % (2 ^ 32 : Int)).toNat
  | 6 => toBytes 4 (sext 16 (ofBytes bs) % (2 ^ 32 : Int)).toNat
  | 3 => bs
  | 4 => bs
  | _ => toBytes 4 (ofBytes bs)

/-- The local address: register A plus the offset, modulo 2^32. -/
def IEnv.localAddr (e : IEnv) (off : Int) (l : Nat) : Nat := (((e.rA l : Int) + off) % (2 ^ 32 : Int)).toNat

/-- The global address: pair A plus the offset, modulo 2^64. -/
def IEnv.globalAddr (e : IEnv) (off : Int) (l : Nat) : Nat := (((e.pA l : Int) + off) % (2 ^ 64 : Int)).toNat

/-- The check of one lane's local access. -/
def localCheck (a n : Nat) : Option (Nat × Nat) :=
  if 0x300000 ≤ a then some (causeBounds, a) else if a % n ≠ 0 then some (causeAlign, a) else none

/-- The check of one lane's global access: its virtual and physical address, or a cause with the address. -/
def State.globalCheck (s : State) (st a n : Nat) (k : Acc) : Except MemErr (Nat × Nat) :=
  match canonical a with
  | none => .error ⟨causeCanon, a, 0⟩
  | some v =>
    if a % n ≠ 0 then .error ⟨causeAlign, a, 0⟩
    else match s.xlate st v k with
      | .ok (d, _) => .ok (v, d)
      | .error m => .error m

/-- The first lane of a list that fails a check. -/
def firstErr (f : Nat → Option (Nat × Nat)) (ls : List Nat) : Option (Nat × Nat) := ls.findSome? f

/-- All lanes checked: each with its addresses, or the lowest lane's failure. -/
def State.checkLanes (s : State) (st n : Nat) (k : Acc) (addr : Nat → Nat) : List Nat → Except MemErr (List (Nat × Nat × Nat))
  | [] => .ok []
  | l :: t =>
    match s.globalCheck st (addr l) n k with
    | .error e => .error e
    | .ok p =>
      match s.checkLanes st n k addr t with
      | .error e => .error e
      | .ok r => .ok ((l, p) :: r)

end Sys2Proof.Machine
end

