-- ==== Sys2Proof/Machine/Quant.lean ====
section
/-! DEFINITION. The quantizer (R125, R134 to R141): block scales, the B4R residual rule, one conversion per element
and the counts. Format codes are those of Tables 4.1, 6.2 and 8.2. -/

namespace Sys2Proof

/-- Element bits of a format code (Tables 3.1, 4.1, 8.2; 0 is FP32). -/
def fmtBits (c : Nat) : Nat :=
  match c with
  | 0 => 32
  | 1 => 16
  | 2 => 16
  | 3 => 8
  | 4 => 8
  | 5 => 8
  | 6 => 8
  | 7 => 4
  | 8 => 4
  | 9 => 8
  | 10 => 4
  | 11 => 2
  | 12 => 8
  | 13 => 8
  | 14 => 4
  | _ => 32

/-- Block-scaled formats: a UE5M3 scale per block of 32 elements (R53). -/
def fmtBlock (c : Nat) : Bool := c == 5 || c == 6 || c == 7 || c == 8 || c == 11

/-- Integer formats with FP32 line scales (R58). -/
def fmtInt (c : Nat) : Bool := c == 9 || c == 10

/-- Bytes of one block in the element plane (R87): 32, 16 or 8. -/
def blockBytes (c : Nat) : Nat := 4 * fmtBits c

/-- The floating-point element format of a code: the elements of block formats included. -/
def fmtFloat (c : Nat) : FFmt :=
  match c with
  | 0 => fp32
  | 1 => bf16
  | 2 => fp16
  | 3 => e4m3
  | 4 => e5m2
  | 5 => e4m3
  | 6 => e5m2
  | 12 => e4m3
  | 13 => e5m2
  | _ => e2m1

/-- An element code without its scale: an integer code as its integer (R58), T2 as R57. -/
def elemVal (c code : Nat) : FV :=
  if fmtInt c then
    let q := sext (fmtBits c) code
    FV.ofRat (q : Rat)
  else if c = 11 then t2Val code
  else (fmtFloat c).decode code

/-- E_max of R134. -/
def blockEmax (c : Nat) : Rat :=
  match c with
  | 5 => 448
  | 6 => 57344
  | 11 => 1
  | _ => 6

/-- The UE5M3 codes that are powers of two, ascending (R52). -/
def pow2Codes : List Nat := [0x01, 0x02, 0x04] ++ (List.range 31).map fun k => (k + 1) * 8

/-- The UE5M3 codes from 0x01 to 0xFE, ascending. -/
def allScaleCodes : List Nat := (List.range 254).map (· + 1)

def ueVal (c : Nat) : Rat := (ue5m3 c).getD 0

/-- The largest |x| over the finite values. -/
def finMax (xs : List FV) : Rat := xs.foldl (fun a v => match v with | .fin _ m => max a m | _ => a) 0

/-- Immediate scale of a block (R134), a > 0 or not. -/
def immScale (c : Nat) (sel : Bool) (a : Rat) : Nat :=
  let cand := if sel then pow2Codes else allScaleCodes
  (cand.find? fun s => decide (a ≤ ueVal s * blockEmax c)).getD (if sel then 0xF8 else 0xFE)

/-- T2 scale from the mean μ of |x| (R136). -/
def t2Scale (sel : Bool) (μ : Rat) : Nat :=
  if 114688 < μ then 0xFE
  else
    let cand := 0 :: (if sel then pow2Codes else allScaleCodes)
    let better (best s : Nat) : Bool :=
      let db := ratAbs (ueVal best - μ)
      let ds := ratAbs (ueVal s - μ)
      decide (ds < db) || (decide (ds = db) && (if sel then true else s % 2 == 0))
    cand.foldl (fun best s => if better best s then s else best) 0

/-- The scale of a block under immediate scaling, special cases of R137 included; NaN elements of E4M3 and E5M2 count as
absent, a NaN in B4, B4R or T2 makes the block invalid before this. -/
def blockScale (c : Nat) (sel : Bool) (xs : List FV) : Nat :=
  let fins := xs.filter FV.isFin
  let a := finMax xs
  if a = 0 then (if xs.any FV.isInf then (if sel then 0xF8 else 0xFE) else 0x00)
  else if c = 11 then
    t2Scale sel ((fins.foldl (fun s v => s + ratAbs v.toRat) 0) / (fins.length : Rat))
  else immScale c sel a

/-- x / s for a scale s > 0. -/
def divScale (x : FV) (s : Rat) : FV :=
  match x with
  | .fin t m => .fin t (m / s)
  | v => v

/-- One element of a block at scale value `s`: out of range and infinite elements take the largest magnitude and count
as clips (Table 3.5); at scale 0 every nonzero element is written as zero with its sign and clips (R135). -/
def blockElem (c : Nat) (s : Rat) (r : RMode) (x : FV) : Enc :=
  if s = 0 then
    match x with
    | .nan => if c = 5 ∨ c = 6 then ⟨(fmtFloat c).nanCode, 0, 1⟩ else ⟨0, 0, 1⟩
    | .inf t => if c = 11 then ⟨0, 1, 0⟩ else ⟨(fmtFloat c).signBit t, 1, 0⟩
    | .fin t m => ⟨if c = 11 then 0 else (fmtFloat c).signBit t, if m = 0 then 0 else 1, 0⟩
  else if c = 11 then intEncode 2 1 r (divScale x s)
  else
    match x with
    | .inf t => ⟨(fmtFloat c).signBit t + (fmtFloat c).maxCode, 1, 0⟩
    | v => (fmtFloat c).encode false r (divScale v s)

/-- A quantized block before the residual choice of its tile: its scale, element codes, counts, and for B4R the sums
T and Σ|x/s − e| and the residual codes that a flag would write (R138). -/
structure QBlock where
  scale : Nat
  codes : List Nat
  clip : Nat
  nan : Nat
  cand : Bool
  ratio : Rat
  res : List Nat
  deriving DecidableEq, Repr

/-- The residual code of an element (R138 step 4, R139). -/
def resCode (s : Rat) (r : RMode) (x : FV) (e : Nat) : Nat :=
  match x with
  | .fin t m =>
    if 6 < m / s then 0
    else (e2m1.encode false r (FV.ofRat (8 * ((FV.fin t (m / s)).toRat - (e2m1.decode e).toRat)))).code
  | _ => 0

/-- The element code at place `j` of a block written with scale 0xFF, which the spec leaves open; a T2 code is never 0b10 (R57). -/
def nanBlockElem (c j : Nat) : Nat :=
  let n := (Config.nanBlockCode j).toNat
  if c = 11 then (match n % 3 with
    | 0 => 0
    | 1 => 1
    | _ => 3) else n % 2 ^ fmtBits c

/-- A block converted (R134 to R138): `imm` none means immediate scaling, `some code` delayed scaling. `rm p j` is the
rounding mode of element j for purpose p. A block that a NaN makes invalid counts no clips (DESIGN CHOICE, log entry 134). -/
def quantBlock (c : Nat) (imm : Option Nat) (sel : Bool) (resMode resThr : Nat) (rm : Nat → Nat → RMode)
    (xs : List FV) : QBlock :=
  let nans := (xs.filter FV.isNan).length
  if nans ≠ 0 ∧ (c = 7 ∨ c = 8 ∨ c = 11) then
    ⟨0xFF, (List.range xs.length).map (nanBlockElem c), 0, nans, false, 0, []⟩
  else
    let sc := imm.getD (blockScale c sel xs)
    let s := ueVal sc
    let encs := xs.mapIdx fun j x => blockElem c s (rm 0 j) x
    let codes := encs.map Enc.code
    let clip := (encs.map Enc.clip).sum
    if c = 8 ∧ sc ≠ 0 ∧ resMode ≠ 0 then
      let pairs := List.zip xs codes
      let tsum := pairs.foldl (fun a p => if p.1.isFin then a + ratAbs p.1.toRat / s else a) (0 : Rat)
      let esum := pairs.foldl
        (fun a p => if p.1.isFin then a + ratAbs (p.1.toRat / s - (e2m1.decode p.2).toRat) else a) (0 : Rat)
      let cand := decide (0 < tsum) && (resMode == 2 || decide ((resThr : Rat) * tsum < 64 * esum))
      ⟨sc, codes, clip, nans, cand, if tsum = 0 then 0 else esum / tsum,
        pairs.mapIdx fun j p => resCode s (rm 1 j) p.1 p.2⟩
    else ⟨sc, codes, clip, nans, false, 0, []⟩

/-- Which candidates of a tile are flagged (R138 step 3): at most `maxFlag`, the largest ratio first, ties to the lower
line. The list gives (line, ratio) of the candidates. -/
def chooseFlags (maxFlag : Nat) (cands : List (Nat × Rat)) : List Nat :=
  ((cands.insertionSort fun a b => b.2 < a.2 ∨ (a.2 = b.2 ∧ a.1 ≤ b.1)).take maxFlag).map (·.1)

/-- One element into an unscaled target (codes 0 to 4). -/
def encPlain (c : Nat) (ovf : Bool) (r : RMode) (x : FV) : Enc :=
  (fmtFloat c).encode (ovf && c != 3) r x

/-- One element into INT8 or INT4 under the line scale σ (R61, R70). -/
def encLine (c : Nat) (σ : FV) (r : RMode) (x : FV) : Enc :=
  intEncode (fmtBits c) (if c = 9 then 127 else 7) r (lineDiv x σ)

/-- The counts of a counter record (Table 6.3): clip, NaN, flagged, written. -/
structure Counts where
  clip : Nat := 0
  nan : Nat := 0
  flagged : Nat := 0
  written : Nat := 0
  deriving DecidableEq, Repr

def Counts.add (a b : Counts) : Counts :=
  ⟨a.clip + b.clip, a.nan + b.nan, a.flagged + b.flagged, a.written + b.written⟩

/-- A counter record's words after adding the counts, each saturating (R140). -/
def Counts.record (old : List Nat) (c : Counts) : List Nat :=
  List.zipWith (fun o n => min (o + n) 0xFFFFFFFF) old [c.clip, c.nan, c.flagged, c.written]

/-- The maximum word A of R141: the largest |v| over finite values rounded toward +∞ to FP32, never understated. -/
def amaxCode (a : Rat) : Nat :=
  if a = 0 then 0
  else if fp32.maxMag < a then 0x7F7FFFFF
  else if a < pow2 (-126) then 0x00800000
  else
    let q := pow2 (flog2 a - 23)
    let n := ratCeil (a / q)
    fp32.pack false ((n : Rat) * q)

/-- The maximum word after a descriptor (R141): max(|old|, A) with sign 0, a NaN old value counting as 0. -/
def amaxWord (old : Nat) (a : Rat) : Nat :=
  let o := old % 2 ^ 31
  let o' := if 0x7F800000 < o then 0 else o
  max o' (amaxCode a)

end Sys2Proof
end

