-- ==== Sys2Proof/Machine/Xfn.lean ====
section
/-! DEFINITION. XFN's transcendental functions (R152): each result lies within 2 ulp of the exact value, and which of the
codes there it is the spec leaves open. The exact value is computed here in fixed point, far below the last place of
FP32; the free value then chooses among the codes within 2 ulp of it. A value that overflows gives the infinity. -/

namespace Sys2Proof

/-- Fraction bits of the fixed-point numbers below. -/
def fxBits : Nat := 200

def fxOne : Int := 2 ^ fxBits

/-- The fixed-point number at or below a rational. -/
def fxOf (q : Rat) : Int := ratFloor (q * (fxOne : Rat))

def fxMul (a b : Int) : Int := a * b / fxOne

/-- π in fixed point. -/
def fxPi : Int := 0x3243F6A8885A308D313198A2E03707344A4093822299F31D0082EFA98EC4E6C89 / 2 ^ 56

/-- 2^f for a fraction f: the product of 2^(2^-i) over its one bits, from the highest down. -/
def fxExp2 : Nat → Int → Int → Int → Int
  | 0, _, _, acc => acc
  | n + 1, f, root, acc =>
    let r : Int := Nat.sqrt (root * fxOne).toNat
    if fxOne ≤ 2 * f then fxExp2 n (2 * f - fxOne) r (fxMul acc r) else fxExp2 n (2 * f) r acc

/-- log2 of y in [1, 2): one bit by each squaring. -/
def fxLog2 : Nat → Int → Int → Int → Int
  | 0, _, _, acc => acc
  | n + 1, y, bit, acc =>
    let z := fxMul y y
    if 2 * fxOne ≤ z then fxLog2 n (z / 2) (bit / 2) (acc + bit) else fxLog2 n z (bit / 2) acc

/-- The rest of an alternating power series: term t, its index k, x². -/
def fxSeries : Nat → Int → Int → Int → Int → Int
  | 0, _, _, _, acc => acc
  | n + 1, t, k, xx, acc => fxSeries n (-(fxMul t xx) / ((k + 1) * (k + 2))) (k + 2) xx (acc + t)

/-- x less the nearest multiple of 2π. -/
def fxReduce (x : Int) : Int := x - (x + fxPi) / (2 * fxPi) * (2 * fxPi)

def fxSin (x : Int) : Int := let r := fxReduce x; fxSeries 60 r 1 (fxMul r r) 0

def fxCos (x : Int) : Int := let r := fxReduce x; fxSeries 60 fxOne 0 (fxMul r r) 0

/-- 1/√m of a positive magnitude, to 100 bits. -/
def rsqrtOf (m : Rat) : Rat :=
  let e := flog2 m / 2
  let y := m / pow2 (2 * e)
  (Nat.sqrt (ratFloor (pow2 240 / y)).toNat : Rat) / pow2 120 / pow2 e

/-- The value of XFN's function MOD at a finite operand where it is a number: 2^A, log2 A, 1/A, 1/√A, sin A, cos A. None: the
spec states no value (a logarithm or a root of what has none, an angle beyond 2^16). -/
def xfnValue (m : Nat) (neg : Bool) (mag : Rat) : Option Rat :=
  let a : Rat := if neg then -mag else mag
  match m with
  | 0 =>
    if 256 < mag then (if neg then some (pow2 (-256)) else some (pow2 256))
    else
      let n := ratFloor a
      some (((fxExp2 100 (fxOf (a - (n : Rat))) (2 * fxOne) fxOne : Int) : Rat) / (fxOne : Rat) * pow2 n)
  | 1 =>
    if neg ∨ mag = 0 then none
    else
      let e := flog2 mag
      some ((e : Rat) + (fxLog2 120 (fxOf (mag / pow2 e)) (fxOne / 2) 0 : Rat) / (fxOne : Rat))
  | 2 => if mag = 0 then none else some (1 / a)
  | 3 => if neg ∨ mag = 0 then none else some (rsqrtOf mag)
  | 5 => if 65536 < mag then none else some ((fxSin (fxOf a) : Rat) / (fxOne : Rat))
  | _ => if 65536 < mag then none else some ((fxCos (fxOf a) : Rat) / (fxOne : Rat))

/-- A code of FP32 as the W7 writes it: a NaN as the canonical one, a subnormal as a zero of its sign (R50, R59). -/
def f32Canon (c : Nat) : Nat := toF32 (f32 c)

/-- A value bounded to [−1, 1]. -/
def f32Unit (c : Nat) : Nat :=
  if (f32 c).isNan then 0 else f32Max (f32Min c f32One) (f32One + 2 ^ 31)

/-- The place of the last bit of a result near `v`: that of the exact value, of the smallest normal number below it. -/
def ulpAt (v : Rat) : Rat := pow2 (max (flog2 (ratAbs v)) (-126) - 23)

/-- The finite codes within 2 ulp of v among the four on each side of the code `c` nearest to it. -/
def xfnCodes (v : Rat) (c : Nat) : List Nat :=
  let mag := c % 2 ^ 31
  ((List.range 9).map fun i => f32Canon (c / 2 ^ 31 * 2 ^ 31 + (mag + i - 4))).filter fun k =>
    match f32 k with
    | .fin s m => v != 0 && decide (ratAbs ((FV.fin s m).toRat - v) ≤ 2 * ulpAt v)
    | _ => false

/-- The code chosen by the free value r: the nearest code c to v, or, where that is finite, any within 2 ulp. -/
def xfnNear (v : Rat) (c r : Nat) : Nat :=
  let l := if c % 2 ^ 31 = 0x7F800000 then [c] else c :: xfnCodes v c
  (l[r % l.length]?).getD c

/-- XFN of one operand (R152): √A correctly rounded; a NaN gives the canonical NaN; sin and cos lie in [−1, 1]; a stated
function value, a code within 2 ulp of it; otherwise a free value. -/
def xfnOf (m a : Nat) : Nat :=
  if m = 4 then f32Sqrt a
  else
    let r := (Config.xfn m (BitVec.ofNat 32 a)).toNat
    match f32 a with
    | .nan => fp32.nanCode
    | .inf s => if m = 2 then toF32 (.fin s 0) else if m = 5 ∨ m = 6 then f32Unit (f32Canon r) else f32Canon r
    | .fin s q =>
      match xfnValue m s q with
      | some v =>
        let c := xfnNear v (toF32 (FV.ofRat v s)) r
        if m = 5 ∨ m = 6 then f32Unit c else c
      | none => if m = 2 then f32Div f32One a else if m = 5 ∨ m = 6 then f32Unit (f32Canon r) else f32Canon r

end Sys2Proof
end

