-- ==== Sys2Proof/Machine/Alu.lean ====
section
/-! DEFINITION. The Urtis instructions that compute in registers (R151 to R153): integer, move, FP32, half, conversion,
random, shuffle, vote and predicate instructions. -/

namespace Sys2Proof.Machine

/-- A register result from registers A, B and C. -/
def u3 (listed : Bool) (a b c : FieldUse) (d : FieldUse := .reg) : Uses := { form := .fR, listed := listed, d := d, a := a, b := b, c := c }

/-- A register result from A and IMM. -/
def uI (listed : Bool) (a : FieldUse := .reg) : Uses := { form := .fI, listed := listed, d := .reg, a := a }

/-- Issue with a 32-bit result per lane. -/
def State.alu32 (s : State) (c g : Nat) (w : W64) (opc : Nat) (u : Uses) (f : IEnv → Nat → Nat) : Res :=
  .next (s.issue c g w opc u fun e s => e.lanes32 (f e) s)

/-- Issue of an opcode whose MOD 1 works on 64-bit pairs. -/
def State.alu64 (s : State) (c g : Nat) (w : W64) (opc : Nat) (nb : Bool) (f : Nat → Nat → Nat) : Res :=
  let k := if wMod w = 1 then FieldUse.pair else .reg
  .next (s.issue c g w opc (u3 (decide (wMod w ≤ 1)) k (if nb then k else .no) .no k) fun e s =>
    if wMod w = 1 then e.lanes64 (fun l => f (e.pA l) (e.pB l)) s else e.lanes32 (fun l => f (e.rA l) (e.rB l)) s)

/-- Issue with a predicate result per lane. -/
def State.aluP (s : State) (c g : Nat) (w : W64) (opc : Nat) (u : Uses) (f : IEnv → Nat → Bool) : Res :=
  .next (s.issue c g w opc u fun e s => e.lanesP (f e) s)

/-! ### Integer -/

/-- NOP. -/
def execNop (c : CoreNo) (g : SlotNo) (w : W64) (s : State) : Res :=
  .next (s.issue c g w 0x00 { form := .fR, listed := wMod w == 0 } fun e s => e.retire e.gr s)

/-- An integer instruction whose residue check fails (R386): nothing is written, and the context faults with RESIDUE_MISMATCH. -/
def State.residueFail (s : State) (c g : Nat) (w : W64) (opc : Nat) (u : Uses) : Res :=
  .next (s.issue c g w opc u fun e s => if e.ex.isEmpty then e.retire e.gr s else e.fault 0x12 0 s)

/-- The fields of an add or subtract of registers or pairs. -/
def u64 (w : W64) : Uses :=
  let k := if wMod w = 1 then FieldUse.pair else .reg
  u3 (decide (wMod w ≤ 1)) k k .no k

/-- IADD: modulo 2^32, or 2^64 for pairs (R152). `bad`, here and below: the residue check of the operation fails. -/
def execIadd (c : CoreNo) (g : SlotNo) (w : W64) (bad : Bool) (s : State) : Res :=
  if bad then s.residueFail c g w 0x01 (u64 w) else s.alu64 c g w 0x01 true fun a b => a + b

/-- IADDI. -/
def execIaddi (c : CoreNo) (g : SlotNo) (w : W64) (bad : Bool) (s : State) : Res :=
  if bad then s.residueFail c g w 0x02 (uI (wMod w == 0)) else s.alu32 c g w 0x02 (uI (wMod w == 0)) fun e l => e.rA l + wImm w

/-- ISUB. -/
def execIsub (c : CoreNo) (g : SlotNo) (w : W64) (bad : Bool) (s : State) : Res :=
  if bad then s.residueFail c g w 0x03 (u64 w) else s.alu64 c g w 0x03 true fun a b => if wMod w = 1 then a + (2 ^ 64 - b) else a + (2 ^ 32 - b)

/-- IMUL's three products. -/
def imulOf (m a b : Nat) : Nat :=
  match m with
  | 0 => a * b
  | 1 => ((sext 32 a * sext 32 b / (2 ^ 32 : Int)) % (2 ^ 32 : Int)).toNat
  | _ => a * b / 2 ^ 32

/-- IMUL. -/
def execImul (c : CoreNo) (g : SlotNo) (w : W64) (bad : Bool) (s : State) : Res :=
  let u := u3 (decide (wMod w ≤ 2)) .reg .reg .no
  if bad then s.residueFail c g w 0x04 u else s.alu32 c g w 0x04 u fun e l => imulOf (wMod w) (e.rA l) (e.rB l)

/-- IMAD. -/
def execImad (c : CoreNo) (g : SlotNo) (w : W64) (bad : Bool) (s : State) : Res :=
  let u := u3 (wMod w == 0) .reg .reg .reg
  if bad then s.residueFail c g w 0x05 u else s.alu32 c g w 0x05 u fun e l => e.rA l * e.rB l + e.rC l

/-- IDIV (R152): by zero the quotient is all ones and the remainder A; signed division truncates toward zero. -/
def idivOf (m a b : Nat) : Nat :=
  if b = 0 then (if m ≤ 1 then 0xFFFFFFFF else a)
  else match m with
    | 0 => ((Int.tdiv (sext 32 a) (sext 32 b)) % (2 ^ 32 : Int)).toNat
    | 1 => a / b
    | 2 => ((Int.tmod (sext 32 a) (sext 32 b)) % (2 ^ 32 : Int)).toNat
    | _ => a % b

/-- IDIV. -/
def execIdiv (c : CoreNo) (g : SlotNo) (w : W64) (s : State) : Res :=
  s.alu32 c g w 0x06 (u3 (decide (wMod w ≤ 3)) .reg .reg .no) fun e l => idivOf (wMod w) (e.rA l) (e.rB l)

/-- Signed and unsigned minimum and maximum. -/
def iminmaxOf (m a b : Nat) : Nat :=
  match m with
  | 0 => if sext 32 a ≤ sext 32 b then a else b
  | 1 => if sext 32 a ≤ sext 32 b then b else a
  | 2 => min a b
  | _ => max a b

/-- IMINMAX. -/
def execIminmax (c : CoreNo) (g : SlotNo) (w : W64) (s : State) : Res :=
  s.alu32 c g w 0x07 (u3 (decide (wMod w ≤ 3)) .reg .reg .no) fun e l => iminmaxOf (wMod w) (e.rA l) (e.rB l)

/-- The bitwise operations of LOP and LOPI. -/
def lopOf (m a b : Nat) : Nat :=
  match m with
  | 0 => a &&& b
  | 1 => a ||| b
  | 2 => a ^^^ b
  | _ => a &&& (b ^^^ allOnes32)

/-- LOP. -/
def execLop (c : CoreNo) (g : SlotNo) (w : W64) (s : State) : Res :=
  s.alu32 c g w 0x08 (u3 (decide (wMod w ≤ 3)) .reg .reg .no) fun e l => lopOf (wMod w) (e.rA l) (e.rB l)

/-- LOPI. -/
def execLopi (c : CoreNo) (g : SlotNo) (w : W64) (s : State) : Res :=
  s.alu32 c g w 0x09 (uI (decide (wMod w ≤ 3))) fun e l => lopOf (wMod w) (e.rA l) (wImm w)

/-- SHF: the amount is B mod 32. -/
def shfOf (m a b : Nat) : Nat :=
  match m with
  | 0 => a <<< (b % 32)
  | 1 => a >>> (b % 32)
  | _ => ((sext 32 a / (2 ^ (b % 32) : Nat)) % (2 ^ 32 : Int)).toNat

/-- SHF. -/
def execShf (c : CoreNo) (g : SlotNo) (w : W64) (s : State) : Res :=
  s.alu32 c g w 0x0A (u3 (decide (wMod w ≤ 2)) .reg .reg .no) fun e l => shfOf (wMod w) (e.rA l) (e.rB l)

/-- BITS: population count, leading zeros, bit reverse. -/
def bitsOf (m a : Nat) : Nat :=
  match m with
  | 0 => popCount 32 a
  | 1 => if a = 0 then 32 else 31 - Nat.log2 a
  | _ => (maskList 32 a).foldl (fun r i => r + 2 ^ (31 - i)) 0

/-- BITS. -/
def execBits (c : CoreNo) (g : SlotNo) (w : W64) (s : State) : Res :=
  s.alu32 c g w 0x0B (u3 (decide (wMod w ≤ 2)) .reg .no .no) fun e l => bitsOf (wMod w) (e.rA l)

/-- MOVI. -/
def execMovi (c : CoreNo) (g : SlotNo) (w : W64) (s : State) : Res :=
  s.alu32 c g w 0x0C (uI (wMod w == 0) .no) fun _ _ => wImm w

/-- MOV: a register, or a pair. -/
def execMov (c : CoreNo) (g : SlotNo) (w : W64) (s : State) : Res := s.alu64 c g w 0x0D false fun a _ => a

/-- SEL: A where p(C), else B. -/
def execSel (c : CoreNo) (g : SlotNo) (w : W64) (s : State) : Res :=
  s.alu32 c g w 0x0E (u3 (wMod w == 0) .reg .reg .pred) fun e l => if e.gr.pred l (wC w) then e.rA l else e.rB l

/-! ### FP32 -/

/-- FADD. -/
def execFadd (c : CoreNo) (g : SlotNo) (w : W64) (s : State) : Res :=
  s.alu32 c g w 0x10 (u3 (wMod w == 0) .reg .reg .no) fun e l => f32Add (e.rA l) (e.rB l)

/-- FMUL. -/
def execFmul (c : CoreNo) (g : SlotNo) (w : W64) (s : State) : Res :=
  s.alu32 c g w 0x11 (u3 (wMod w == 0) .reg .reg .no) fun e l => f32Mul (e.rA l) (e.rB l)

/-- FFMA: one rounding. -/
def execFfma (c : CoreNo) (g : SlotNo) (w : W64) (s : State) : Res :=
  s.alu32 c g w 0x12 (u3 (wMod w == 0) .reg .reg .reg) fun e l => f32Fma (e.rA l) (e.rB l) (e.rC l)

/-- FADDI. -/
def execFaddi (c : CoreNo) (g : SlotNo) (w : W64) (s : State) : Res :=
  s.alu32 c g w 0x13 (uI (wMod w == 0)) fun e l => f32Add (e.rA l) (wImm w)

/-- FMULI. -/
def execFmuli (c : CoreNo) (g : SlotNo) (w : W64) (s : State) : Res :=
  s.alu32 c g w 0x14 (uI (wMod w == 0)) fun e l => f32Mul (e.rA l) (wImm w)

/-- FMINMAX. -/
def execFminmax (c : CoreNo) (g : SlotNo) (w : W64) (s : State) : Res :=
  s.alu32 c g w 0x15 (u3 (decide (wMod w ≤ 1)) .reg .reg .no) fun e l =>
    if wMod w = 0 then f32Min (e.rA l) (e.rB l) else f32Max (e.rA l) (e.rB l)

/-- XFN. -/
def execXfn (c : CoreNo) (g : SlotNo) (w : W64) (s : State) : Res :=
  s.alu32 c g w 0x16 (u3 (decide (wMod w ≤ 6)) .reg .no .no) fun e l => xfnOf (wMod w) (e.rA l)

/-- FDIV. -/
def execFdiv (c : CoreNo) (g : SlotNo) (w : W64) (s : State) : Res :=
  s.alu32 c g w 0x17 (u3 (wMod w == 0) .reg .reg .no) fun e l => f32Div (e.rA l) (e.rB l)

/-! ### Halves, conversion, random (R152, R153) -/

/-- One half of HOP2: A + B, A × B, A × B + C, exact with one rounding, SAT. -/
def hopHalf (f : FFmt) (op a b c : Nat) : Nat :=
  let x := f.decode a
  let y := f.decode b
  let z := f.decode c
  halfRound f (match op with
    | 0 => fvAdd x y
    | 1 => fvMul x y
    | _ => fvAdd (fvMul x y) z)

/-- Both halves. -/
def hop2Of (m a b c : Nat) : Nat :=
  let f := if m % 2 = 0 then bf16 else fp16
  hopHalf f (m / 2) (a % 65536) (b % 65536) (c % 65536) +
    65536 * hopHalf f (m / 2) (a / 65536) (b / 65536) (c / 65536)

/-- HOP2. -/
def execHop2 (c : CoreNo) (g : SlotNo) (w : W64) (s : State) : Res :=
  s.alu32 c g w 0x18 (u3 (decide (wMod w ≤ 5)) .reg .reg (if wMod w / 2 = 2 then .reg else .no)) fun e l =>
    hop2Of (wMod w) (e.rA l) (e.rB l) (e.rC l)

/-- The value of a CVT source (R153). -/
def cvtSrc (t a : Nat) : FV :=
  match t with
  | 5 => FV.ofRat (sext 32 a : Rat)
  | 6 => FV.ofRat ((a : Nat) : Rat)
  | _ => (fmtFloat t).decode (a % 2 ^ fmtBits t)

/-- A rounded magnitude with its sign as an S32 or U32, with the counts of R71. -/
def cvtInt (signed : Bool) (r : RMode) (v : FV) : Enc :=
  match v with
  | .nan => ⟨0, 0, 1⟩
  | .inf true => ⟨if signed then 2 ^ 31 else 0, 1, 0⟩
  | .inf false => ⟨if signed then 2 ^ 31 - 1 else 2 ^ 32 - 1, 1, 0⟩
  | .fin neg m =>
    let n := roundUnits m r
    if neg then
      if signed then (if 2 ^ 31 < n then ⟨2 ^ 31, 1, 0⟩ else ⟨(2 ^ 32 - n) % 2 ^ 32, 0, 0⟩)
      else if n = 0 then ⟨0, 0, 0⟩ else ⟨0, 1, 0⟩
    else
      let top := if signed then 2 ^ 31 - 1 else 2 ^ 32 - 1
      if top < n then ⟨top, 1, 0⟩ else ⟨n, 0, 0⟩

/-- CVT of one value: field C gives source and target, MOD[0] stochastic rounding by B[15:0], MOD[1] OVF. -/
def cvtOf (m codes a b : Nat) : Enc :=
  let r : RMode := if m % 2 = 1 then .stoch (b % 65536) else .rne
  let v := cvtSrc (codes / 16) a
  match codes % 16 with
  | 5 => cvtInt true r v
  | 6 => cvtInt false r v
  | t => encPlain t (decide (m / 2 % 2 = 1)) r v

/-- CVT. Its clip and NaN events wait in the context for its end. -/
def execCvt (c : CoreNo) (g : SlotNo) (w : W64) (s : State) : Res :=
  let ok := decide (wMod w ≤ 3) && decide (wC w / 16 ≤ 6) && decide (wC w % 16 ≤ 6)
  .next (s.issue c g w 0x20 (u3 ok .reg (if wMod w % 2 = 1 then .reg else .no) .raw) fun e s =>
    let rs := e.ex.map fun l => cvtOf (wMod w) (wC w) (e.rA l) (e.rB l)
    (e.lanes32 (fun l => (cvtOf (wMod w) (wC w) (e.rA l) (e.rB l)).code) s).modCtx e.n fun x =>
      { x with clips := x.clips + (rs.map Enc.clip).sum, nans := x.nans + (rs.map Enc.nan).sum })

/-- RNG: ρ of the element index in pair A, seed B, purpose MOD[0], under the stall's rounding key. -/
def execRng (c : CoreNo) (g : SlotNo) (w : W64) (s : State) : Res :=
  .next (s.issue c g w 0x21 (u3 (decide (wMod w ≤ 1)) .pair .reg .no) fun e s =>
    e.lanes32 (fun l => rhoOf e.x.rkey (e.rB l) (wMod w) (e.pA l)) s)

/-! ### Lanes and predicates -/

/-- The source lane of SHFL. -/
def shflLane (m l b : Nat) : Nat :=
  match m with
  | 0 => b % 32
  | 1 => (l + 32 - b % 32) % 32
  | 2 => (l + b) % 32
  | _ => (l ^^^ (b % 32)) % 32

/-- SHFL (R152): a lane that has exited supplies an undefined value. -/
def execShfl (c : CoreNo) (g : SlotNo) (w : W64) (s : State) : Res :=
  .next (s.issue c g w 0x22 (u3 (decide (wMod w ≤ 3)) .reg .reg .no) fun e s =>
    (e.lanes32 (fun l =>
      let j := shflLane (wMod w) l (e.rB l)
      if e.gr.exited.testBit j then (Config.shflUndef s.rnd j).toNat else e.rA j) s).fresh)

/-- VOTE. -/
def execVote (c : CoreNo) (g : SlotNo) (w : W64) (s : State) : Res :=
  .next (s.issue c g w 0x23 (u3 (decide (wMod w ≤ 2)) .pred .no .no (if wMod w = 2 then .reg else .pred)) fun e s =>
    if wMod w = 2 then
      let m := maskOf (e.ex.filter fun l => e.gr.pred l (wA w))
      e.lanes32 (fun _ => m) s
    else
      let v := voteFlag (wMod w) (e.ex.map fun l => e.gr.pred l (wA w))
      e.lanesP (fun _ => v) s)

/-- ICMP. -/
def execIcmp (c : CoreNo) (g : SlotNo) (w : W64) (s : State) : Res :=
  s.aluP c g w 0x30 (u3 (decide (wMod w % 8 ≤ 5)) .reg .reg .no .pred) fun e l => icmpFlag (wMod w) (e.rA l) (e.rB l)

/-- FCMP. -/
def execFcmp (c : CoreNo) (g : SlotNo) (w : W64) (s : State) : Res :=
  s.aluP c g w 0x31 (u3 (decide (wMod w % 8 ≤ 5)) .reg .reg .no .pred) fun e l => fcmpFlag (wMod w) (e.rA l) (e.rB l)

/-- PCOMB. -/
def execPcomb (c : CoreNo) (g : SlotNo) (w : W64) (s : State) : Res :=
  s.aluP c g w 0x32 (u3 (decide (wMod w ≤ 3)) .pred .pred .no .pred) fun e l =>
    pcombFlag (wMod w) (e.gr.pred l (wA w)) (e.gr.pred l (wB w))

end Sys2Proof.Machine
end

