-- ==== Sys2Proof/Machine/Window.lean ====
section
/-! DEFINITION. Accesses without a context (R205, R345), packets discarded (R287), windows and the answers to a peer's best-effort
packets (R266, R267, R356, R390). -/

namespace Sys2Proof.Machine

/-- The ledger entry of an access by an agent without a context that fails on poison (R205) or on the owner check (R345). `oper` is the
descriptor TYPE in [15:12], or 0. -/
def State.noteErr (s : State) (kind unit st oper : Nat) (m : MemErr) : State :=
  if m.cause = causePoison then s.ledger 0x0506 2 kind unit (some st) m.addr oper m.level (oper := oper)
  else if m.cause = causeProt then
    match s.ownerAt st m.addr with
    | some o => if o = st then s else s.ledger 0x050C 2 kind unit (some st) m.addr o (oper := oper)
    | none => s
  else s

/-- A packet or control flit discarded (event 0x0303): counted in FAB_PORTn_ERR, one entry per cause and object per String. -/
def State.fabDiscard (s : State) (p cause src obj key : Nat) : State :=
  (s.modPort p fun x => x.count 7).atMost 0x0303 (cause * 2 ^ 32 + key) 1 1 fun n s => s.ledger 0x0303 0 0x0A p none cause n src obj

/-! ### Fields of a packet (Table 11.10) -/

def pType (x : Pkt) : Nat := fld x.w0 63 60
def pLen (x : Pkt) : Nat := fld x.w0 59 52
def pDstall (x : Pkt) : Nat := fld x.w0 51 40
def pDst (x : Pkt) : Nat := fld x.w0 39 20
def pSrc (x : Pkt) : Nat := fld x.w0 19 0
def pWin (x : Pkt) : Nat := fld x.w1 63 56
def pOpf (x : Pkt) : Nat := fld x.w1 55 48
def pOffset (x : Pkt) : Nat := fld x.w1 47 0
def pEpoch (x : Pkt) : Nat := fld x.w2 63 32
def pTag (x : Pkt) : Nat := fld x.w2 31 16
def pStatus (x : Pkt) : Nat := fld x.w2 15 12
def pSstall (x : Pkt) : Nat := fld x.w2 11 0
def pColl (x : Pkt) : Nat := fld x.w3 63 48
def pAux (x : Pkt) : Nat := fld x.w3 47 0

/-- The sender as the ledger gives it: SRC and SSTALL. -/
def pFrom (x : Pkt) : Nat := pSrc x + pSstall x * 2 ^ 20

/-- A packet that a port can have received: the port is UP and the payload is LEN units. -/
def State.arrives (s : State) (p : Nat) (x : Pkt) : Bool := (s.port p).st == .up && x.data.length == 32 * pLen x

/-! ### Windows (R267, R356) -/

/-- The window entry that a packet names, read from its stall's memory. -/
def State.winEntry (s : State) (st w : Nat) : Option (List Byte) :=
  let t := (s.stall st).winTable
  if t = 0 then none
  else match s.rdDva st (t + 32 * w) 32 with
    | .ok bs => some bs
    | .error _ => none

/-- What is known of the lease of window `w` with EXPIRY `raw`; another EXPIRY is another lease. -/
def State.winLease (s : State) (st w raw : Nat) : WinLease :=
  let l := tget {} (s.stall st).winLeases w
  if l.raw = raw then l else { raw := raw }

/-- The clock at which a window's lease runs out: EXPIRY as a String time, or what it was converted to (R39). -/
def State.winDue (s : State) (st w raw : Nat) : Nat := (s.winLease st w raw).due.getD (s.clockOf raw)

/-- The window leases that run keep their remaining duration across a load or step of String time (R39, R41, R43). -/
def State.keepLeases (s : State) : State :=
  forEach (s.stalls.filter fun e => e.2.winTable != 0) s fun e s =>
    forEach (List.range 256) s fun w s =>
      match s.winEntry e.1 w with
      | some bs =>
        let raw := recFld bs 24 8
        if recFld bs 8 8 ≠ 0 ∧ s.clock < s.winDue e.1 w raw then
          s.modStall e.1 fun x => { x with winLeases := tset {} x.winLeases w { s.winLease e.1 w raw with due := some (s.winDue e.1 w raw) } }
        else s
      | none => s

/-- The window check: the device virtual address of the range where the window exists, is leased, admits the source, allows the operation
(bit `op` of Table 14.4) and contains `n` bytes from OFFSET. -/
def State.winCheck (s : State) (x : Pkt) (op n : Nat) : Option Nat :=
  match s.winEntry (pDstall x) (pWin x) with
  | none => none
  | some e =>
    let w0 := recFld e 0 8
    let w1 := recFld e 8 8
    let w2 := recFld e 16 8
    let w3 := recFld e 24 8
    let mask := w2 / 2 ^ 20 % 2 ^ 20
    if w0 / 2 ^ 57 = 0 ∧ w0 % 32 = 0 ∧ w1 / 2 ^ 48 = 0 ∧ w1 % 32 = 0 ∧ w1 ≠ 0 ∧ w2 / 2 ^ 40 % 256 = 0 ∧ w3 % 256 = 0 ∧
        s.clock < s.winDue (pDstall x) (pWin x) w3 ∧ (w2.testBit 51 ∨ w2 / 2 ^ 52 = pSstall x) ∧ w2.testBit op ∧ (pSrc x &&& mask) = (w2 % 2 ^ 20 &&& mask) ∧
        pOffset x + n ≤ w1 then some (w0 + pOffset x)
    else none

/-- The response status of a failed access (Table 11.19). -/
def rspStatus (m : MemErr) : Nat := if m.cause = causePoison then 1 else if m.cause = causeProt then 3 else 2

/-- A response to a packet: GET_RSP (0x8) or PUT_DONE (0x9) with the packet's tag (R266). -/
def rspPkt (me : Nat) (x : Pkt) (typ status : Nat) (data : List Byte) : Pkt :=
  { w0 := BitVec.ofNat 64 (typ * 2 ^ 60 + data.length / 32 * 2 ^ 52 + pSstall x * 2 ^ 40 + pSrc x * 2 ^ 20 + me)
    w1 := 0
    w2 := BitVec.ofNat 64 (pTag x * 2 ^ 16 + status * 2 ^ 12 + pDstall x)
    w3 := 0
    data := data }

/-- Send a response on VC 3. -/
def State.respond (s : State) (x : Pkt) (typ status : Nat) (data : List Byte := []) : State :=
  s.sendPkt (pDstall x) 3 (pSrc x) (rspPkt s.myId x typ status data)

/-- A window denied (R267): counted, one entry per window per String. -/
def State.winDenied (s : State) (p : Nat) (x : Pkt) : State := s.fabDiscard p 3 (pFrom x) (pWin x) (pDstall x * 256 + pWin x)

end Sys2Proof.Machine
end

