-- ==== Sys2Proof/Machine/Landing.lean ====
section
/-! DEFINITION. What a peer's best-effort packets do to memory (R264 to R267): puts, reductions and gets, in the order of their source
(R265), while a commit hold (R240) or a refill (R209) makes them wait. -/

namespace Sys2Proof.Machine

/-! ### Elements (R283) -/

/-- Bytes of an element of DFMT. -/
def dfmtBytes (d : Nat) : Nat := match d with | 0 => 4 | 1 => 2 | 2 => 2 | _ => 1

/-- An element of DFMT widened exactly into FP32, FP32 inputs flushed (R283). -/
def widen (d code : Nat) : Nat := if d = 0 then toF32 (f32 code) else toF32 ((fmtFloat d).decode code)

/-- Words of `n` bytes of a byte string. -/
def wordsOf (n : Nat) : Nat → List Byte → List Nat
  | 0, _ => []
  | fuel + 1, bs => if bs.isEmpty then [] else ofBytes (bs.take n) :: wordsOf n fuel (bs.drop n)

def elems (d : Nat) (bs : List Byte) : List Nat := (wordsOf (dfmtBytes d) bs.length bs).map (widen d)
def f32Bytes (vs : List Nat) : List Byte := vs.flatMap (toBytes 4)

/-- ⊕ by RED (R283, Table 9.9). -/
def reduceOp (red a b : Nat) : Nat := match red with | 0 => f32Add a b | 1 => f32Max a b | _ => f32Min a b

/-- A range of device memory left undefined (R242, R300): free bytes. -/
def State.undefRange (s : State) (st a n : Nat) : State :=
  match s.wrDva st a ((List.range n).map fun i => Config.undefByte s.rnd (a + i)) with
  | .ok s => s.fresh
  | .error _ => s

/-- The end of the lease of seal stores that a test selects (R390, R292; log entry 67): event 0x0701 for the half that each link die holds. -/
def State.storeLease (s : State) (sel : Nat → Nat → Nat → Bool) : State :=
  forEach (s.stores.filter fun k => sel k.stall k.coll k.step && k.size != 0) s fun k s =>
    forEach [0, 1] s fun d s => s.ledger 0x0701 0 0x02 d (some k.stall) 1 (k.stall + k.coll * 65536) (d * 2 ^ 56 + k.size / 2)

/-- The seal stores that a test on stall, collective and step selects are given up (R292). -/
def State.dropStores (s : State) (sel : Nat → Nat → Nat → Bool) : State :=
  { s with kept := s.kept.filter fun k => !sel k.stall k.coll k.step.toNat, stores := s.stores.filter fun k => !sel k.stall k.coll k.step }

/-! ### Writing through a window -/

/-- PUT_DONE where AUX[0] asks for it (Table 11.11). -/
def State.putDone (s : State) (x : Pkt) (status : Nat) : State := if (pAux x).testBit 0 then s.respond x 9 status else s

/-- A writing access through a window: `op` is its bit of Table 14.4, `n` the bytes it touches, `f` performs it at the address. -/
def State.windowWrite (s : State) (p : Nat) (x : Pkt) (op n : Nat) (f : State → Nat → Except MemErr State) : State :=
  let st := pDstall x
  if (s.stall st).st ≠ .active then s.putDone x 4
  else match s.winCheck x op n with
    | none => (s.winDenied p x).putDone x 0xA
    | some a =>
      if x.poisoned then (s.noteErr 0x0A p st 0 ⟨causePoison, a, 0⟩).putDone x 1
      else match f s a with
        | .ok s => (s.tally st 0x40 x.data.length).putDone x 0
        | .error m => (s.noteErr 0x0A p st 0 m).putDone x (rspStatus m)

/-- The values of a REDUCE_PUT as FP32 by the format that OPF names: FP32 or a code of Table 4.1. A format with block scales, or with elements of less
than a byte, comes as bare elements packed as in R54, with no scale (log entry 126). -/
def reduceVals (x : Pkt) : List Nat :=
  let f := pOpf x / 16
  if f ≤ 4 then elems f x.data
  else
    let n := fmtBits f
    (x.data.flatMap fun b => (List.range (8 / n)).map fun i => b.toNat / 2 ^ (n * i) % 2 ^ n).map fun c => toF32 (elemVal f c)

/-- The reduction of values into FP32 words at an address (R212, R214): add into an open region accumulates. -/
def State.reduceInto (s : State) (st red a : Nat) (vs : List Nat) : Except MemErr State :=
  if red = 0 ∧ (s.stall st).regionHolds a (4 * vs.length) then s.accAll st a vs
  else do
    let bs ← s.rdDva st a (4 * vs.length)
    s.wrDva st a (f32Bytes (List.zipWith (reduceOp red) (wordsOf 4 bs.length bs) vs))

/-! ### Reading through a window -/

/-- A get is answered: what it reads, or why not. A read of a poisoned unit of a GOLDEN block is held (R207). -/
def State.getAnswer (s : State) (p : Nat) (x : Pkt) : State :=
  let st := pDstall x
  let n := 32 * (pAux x % 65536 + 1)
  if (s.stall st).st ≠ .active then s.respond x 8 4
  else match (if n ≤ 4096 then s.winCheck x 49 n else none) with
    | none => (s.winDenied p x).respond x 8 0xA
    | some a =>
      match s.rdDva st a n with
      | .ok bs => (s.didRead st a n).respond x 8 0 bs
      | .error m =>
        match s.holdFor (.get p x) m with
        | some s => s
        | none => (s.noteErr 0x0A p st 0 m).respond x 8 (rspStatus m)

/-! ### The order of a source (R265) -/

/-- A packet of the same source device is among those of a list, or a get of it is held. -/
def State.behindIn (s : State) (q : List (Nat × Pkt)) (x : Pkt) : Bool :=
  (q.any fun e => pSrc e.2 == pSrc x) ||
    (s.mem.held.any fun h => match h.who with | .get _ y => pSrc y == pSrc x | _ => false) ||
    s.stalls.any fun e => e.2.heldGets.any fun g => pSrc g.2.1 == pSrc x

/-- An earlier packet of the same source has not been performed. -/
def State.behind (s : State) (x : Pkt) : Bool := s.behindIn s.mem.waiting x

/-- A packet that is performed by a row of its own when its turn comes (log entry 166): a notice, and a PUT of a collective on VC 2. -/
def ownRow (x : Pkt) : Bool := pType x == 5 || pColl x != 0

/-- A put or a reduction whose bytes lie in a block under refill (R209). -/
def State.mustWait (s : State) (x : Pkt) : Bool :=
  if pType x = 2 ∨ x.poisoned then false
  else
    let n := if pType x = 3 then 4 * (reduceVals x).length else x.data.length
    match s.winCheck x (if pType x = 3 then 48 else 50) n with
    | some a => s.writeWaits (pDstall x) a n
    | none => false

/-- A get: held at the link die while the stall's commit hold lasts (R240). -/
def State.getNow (s : State) (p : Nat) (x : Pkt) : State :=
  if (s.stall (pDstall x)).hold then
    s.modStall (pDstall x) fun y => { y with heldGets := y.heldGets ++ [(p, x, s.clock + 4 * subPerFret)] }
  else s.getAnswer p x

/-- A reduction whose first word fails the residue check of its slice adder (`res` not 0, R386): the event, and with `res` 2 the failure that the sender
receives. -/
def State.putResidue (s : State) (x : Pkt) (res : Nat) : State × Option MemErr :=
  match s.winCheck x 48 (4 * (reduceVals x).length) with
  | none => (s, none)
  | some a =>
    match s.xlate (pDstall x) a .write with
    | .error _ => (s, none)
    | .ok (d, _) => (s.sliceResidue (pDstall x) 0 (pOpf x % 16) d (decide (res = 2)), if res = 2 then some ⟨causePoison, d, 0⟩ else none)

/-- A best-effort packet performed (R264); `res` is what the residue checks of a reduction's slice adder find. -/
def State.performed (s : State) (p : Nat) (x : Pkt) (res : Nat) : State :=
  if pType x = 1 then s.windowWrite p x 50 x.data.length fun s a => s.wrDva (pDstall x) a x.data
  else if pType x = 3 then
    let (s, m) := if res = 0 ∨ (s.stall (pDstall x)).st ≠ .active ∨ x.poisoned then (s, none) else s.putResidue x res
    s.windowWrite p x 48 (4 * (reduceVals x).length) fun s a => match m with
      | some m => .error m
      | none => s.reduceInto (pDstall x) (pOpf x % 16) a (reduceVals x)
  else s.getNow p x

/-- The window entry that a packet names lies in a poisoned unit of a GOLDEN block: its read is held (R207). -/
def State.windowHeld (s : State) (x : Pkt) : Option State :=
  let t := (s.stall (pDstall x)).winTable
  if t = 0 then none
  else match s.rdDva (pDstall x) (t + 32 * pWin x) 32 with
    | .ok _ => none
    | .error m => s.holdFor (.engine (pDstall x)) m

/-- A best-effort packet that arrives: it waits behind an earlier one of its source, or for a refill. -/
def State.bestArrives (s : State) (p : Nat) (x : Pkt) (res : Nat := 0) : State :=
  let waits (s : State) : State := { s with mem := { s.mem with waiting := s.mem.waiting ++ [(p, x)] } }
  if s.behind x || s.mustWait x then waits s
  else match s.windowHeld x with
    | some s => waits s
    | none => s.performed p x res

/-- The packets that wait are tried again, in order of arrival; one that has a row of its own waits for it. -/
def State.drain (s : State) : State :=
  forEach s.mem.waiting { s with mem := { s.mem with waiting := [] } } fun e s =>
    if ownRow e.2 then { s with mem := { s.mem with waiting := s.mem.waiting ++ [e] } } else s.bestArrives e.1 e.2

/-- A notice, or a PUT of a collective on VC 2, in the order of its source (R265): behind an earlier packet of it it waits, and is performed when its row
comes again after that one has been. -/
def State.inOrder (s : State) (p : Nat) (x : Pkt) (f : State → State) : State :=
  let before := s.mem.waiting.takeWhile (· ≠ (p, x))
  if s.behindIn before x then
    if s.mem.waiting.contains (p, x) then s else { s with mem := { s.mem with waiting := s.mem.waiting ++ [(p, x)] } }
  else if s.mem.waiting.contains (p, x) then (f { s with mem := { s.mem with waiting := s.mem.waiting.erase (p, x) } }).drain
  else f s

/-- The commit hold of a stall is released (R240): the gets it held are answered. -/
def State.releaseHold (s : State) (st : Nat) : State :=
  let gs := (s.stall st).heldGets
  (forEach gs (s.modStall st fun x => { x with hold := false, heldGets := [] }) fun g s => s.getAnswer g.1 g.2.1).drain

/-- The update descriptor that a stall runs ends with `status` (R241, R242, R244); the hold is released but where the record stays
PARTIAL, as it does where an APPLY that resumes it ends before its commit. Any status but SUCCESS and GRAD_NONFINITE has its entry, with the tensor, row and line. -/
def State.updEnd (s : State) (st status : Nat) (keepHold : Bool := false) (at_ : Nat × Nat × Nat := (0, 0, 0)) : State :=
  match (s.stall st).upd with
  | none => s
  | some j =>
    let s := (s.modStall st fun x => { x with upd := none }).descDone j.ring j.num status 0
    let s := if status = 0 ∨ status = 0x2C then s
      else s.ledger 0x0801 2 0x0E j.ring (some st) at_.1 at_.2.1 at_.2.2 status (oper := 0x6000)
    if j.op ≠ .apply then s
    else
      let step := fld ((j.words[1]?).getD 0) 31 0
      let keepHold := keepHold || ((s.stall st).partial_ && j.ph != .work && status != 0x2C)
      let gone := fun (st' _ n : Nat) => st' == st && n == step
      let s := ((s.storeLease gone).dropStores gone).modStall st fun x => { x with partial_ := keepHold }
      if keepHold then s else s.releaseHold st

/-- Every APPLY that waits at its gate ends with STRING_LOST as the String time unit enters LOST (R241). -/
def State.lostGates (s : State) : State :=
  forEach (s.stalls.map (·.1)) s fun st s => match (s.stall st).upd with
    | some j => if j.op = .apply ∧ j.ph = .gate then s.updEnd st 0x24 else s
    | none => s

end Sys2Proof.Machine
end

