-- ==== Sys2Proof/Machine/ThreadFlow.lean ====
section
/-! DEFINITION. Control instructions of a group (R154 to R160): branches, calls, exits, barriers, traps, token waits and
special registers; and the start of a block (R145). -/

namespace Sys2Proof.Machine

/-! ### Branches (R154, R155) -/

/-- BRA: the group splits only where both sides are non-empty. -/
def execBra (c : CoreNo) (g : SlotNo) (w : W64) (s : State) : Res :=
  .next (s.issue c g w 0x60 { form := .fB, listed := wMod w == 0 } fun e s =>
    let t := maskOf e.ex
    let f := maskOf ((maskList 32 e.act).filter fun l => !e.ex.contains l)
    let tgt := pcAdd e.pc (wTgt w)
    let rpc := pcAdd e.pc (wRpcB w)
    if t = 0 then e.retire e.gr s
    else if f = 0 then e.retireAt e.gr tgt s
    else if 32 < e.gr.paths.length + 2 then e.fault causeDiverge 0 s
    else
      match e.gr.paths with
      | top :: rest =>
        let gr := { e.gr with paths := { pc := (e.pc + 8) % 2 ^ 64, mask := f, rpc := some rpc } ::
                      { pc := tgt, mask := t, rpc := some rpc } :: { top with pc := rpc } :: rest }
        e.retireAt gr ((e.pc + 8) % 2 ^ 64) s
      | [] => s)

/-- The distinct targets of BRX in descending order, each with its lanes: the lane's pair A where its guard is true, else the
next instruction. -/
def IEnv.brxTargets (e : IEnv) : List (Nat × Nat) :=
  let tgt := fun l => if e.ex.contains l then e.pA l else (e.pc + 8) % 2 ^ 64
  let ls := maskList 32 e.act
  let ts := ((ls.map tgt).dedup).insertionSort fun a b => b ≤ a
  ts.map fun t => (t, maskOf (ls.filter fun l => tgt l = t))

/-- BRX: the lowest target runs first. -/
def execBrx (c : CoreNo) (g : SlotNo) (w : W64) (s : State) : Res :=
  .next (s.issue c g w 0x61 { form := .fX, listed := wMod w == 0, a := .pair } fun e s =>
    match e.ex.find? fun l => e.pA l % 8 ≠ 0 with
    | some l => e.fault causeAlign (e.pA l) s
    | none =>
      let rpc := pcAdd e.pc (wRpcX w)
      match e.brxTargets with
      | [] => s
      | [t] => e.retireAt e.gr t.1 s
      | ts =>
        if 32 < e.gr.paths.length + ts.length then e.fault causeDiverge 0 s
        else
          match e.gr.paths with
          | top :: rest =>
            let pushed := ts.foldl (fun ps t => { pc := t.1, mask := t.2, rpc := some rpc } :: ps) ({ top with pc := rpc } :: rest)
            let gr := { e.gr with paths := pushed }
            e.retireAt gr ((pushed.head?.map PathEnt.pc).getD e.pc) s
          | [] => s)

/-- CALL: pair D takes the address of the next instruction. -/
def execCall (c : CoreNo) (g : SlotNo) (w : W64) (s : State) : Res :=
  .next (s.issue c g w 0x62 { form := .fI, listed := wMod w == 0, d := .pair, bare := true } fun e s =>
    e.retireAt (e.ex.foldl (fun gr l => gr.setPair l (wD w) ((e.pc + 8) % 2 ^ 64)) e.gr) (pcAdd e.pc (wOffM w)) s)

/-! ### Barriers and exit (R156, R160) -/

/-- The groups of a block with their slots. -/
def Core.blockGroups (k : Core) (b : Nat) : List (Nat × Group) :=
  match afind? k.blocks b with
  | some x => x.slots.filterMap fun i => (afind? k.groups i).map fun g => (i, g)
  | none => []

/-- A group past its barrier, token wait or full queue: the held instruction retires. -/
def Group.release (g : Group) : Group :=
  match g.paths with
  | e :: t => { g with held := .no, paths := { e with pc := (e.pc + 8) % 2 ^ 64 } :: t }
  | [] => { g with held := .no }

/-- Barrier `n` of a block releases when every group that still has lanes has arrived at it. -/
def State.barrierCheck (s : State) (c b n : Nat) : State :=
  let gs := (s.core c).blockGroups b
  if (gs.any fun g => g.2.held == .barrier n) && gs.all fun g => g.2.live == 0 || g.2.held == .barrier n then
    (forEach gs s fun g s => if g.2.held = .barrier n then s.setGroup c g.1 g.2.release else s).modCore c fun k => { k with lastRetire := s.clock }
  else s

/-- BAR: the group arrives where no lane that has not exited is inactive; FENCE.L is done for it. -/
def execBar (c : CoreNo) (g : SlotNo) (w : W64) (s : State) : Res :=
  .next (s.issue c g w 0x64 { form := .fI, listed := wMod w == 0, bare := true } fun e s =>
    if e.gr.live ≠ e.act then e.fault causeBarrier 0 s
    else
      let b := wImm w % 16
      (s.setGroup e.c e.g { e.gr with held := .barrier b }).barrierCheck e.c e.gr.block b)

/-- A block whose groups have all ended leaves its core: its slots and registers are free. -/
def State.blockCheck (s : State) (c b : Nat) : State :=
  let gs := (s.core c).blockGroups b
  if gs.all fun g => g.2.live == 0 then
    s.modCore c fun k => { k with blocks := k.blocks.filter (fun e => e.1 ≠ b),
                                  groups := k.groups.filter fun e => !(gs.any fun g => g.1 == e.1) }
  else s

/-- EXIT: the executing lanes leave every entry of the path stack. -/
def execExit (c : CoreNo) (g : SlotNo) (w : W64) (s : State) : Res :=
  .next (s.issue c g w 0x63 { form := .fR, listed := wMod w == 0 } fun e s =>
    let m := maskOf e.ex
    let gr := (e.gr.setTop ((e.pc + 8) % 2 ^ 64))
    let gr := { gr with paths := popPaths (gr.paths.map fun p => { p with mask := p.mask &&& (p.mask ^^^ (p.mask &&& m)) }),
                        exited := gr.exited ||| m, yielded := false }
    let s := (s.setGroup e.c e.g gr).modCore e.c fun k => { k with lastRetire := s.clock }
    let s := if gr.live = 0 then
        forEach (List.range 16) s fun n s => s.barrierCheck e.c gr.block n
      else s
    s.blockCheck e.c gr.block)

/-- TRAP: a fault with the code IMM[15:0], where a lane executes it. -/
def execTrap (c : CoreNo) (g : SlotNo) (w : W64) (s : State) : Res :=
  .next (s.issue c g w 0x65 { form := .fI, listed := wMod w == 0 } fun e s =>
    if e.ex.isEmpty then e.retire e.gr s else e.fault causeTrap (wImm w % 65536) s)

/-- YIELD: the scheduler prefers other groups. -/
def execYield (c : CoreNo) (g : SlotNo) (w : W64) (s : State) : Res :=
  .next (s.issue c g w 0x66 { form := .fR, listed := wMod w == 0 } fun e s =>
    let s := e.retire e.gr s
    if e.ex.isEmpty then s
    else match s.group? e.c e.g with
      | some gr => s.setGroup e.c e.g { gr with yielded := true }
      | none => s)

/-! ### Tokens (R90, R159) -/

def Group.token (g : Group) (t : Nat) : Nat := tget 0 g.tokens t

/-- A token counter moves; a group that waits for it goes on when it is at or below its limit. -/
def Group.tokenDown (g : Group) (t : Nat) : Group :=
  let g := { g with tokens := tmod 0 g.tokens t (· - 1) }
  match g.held with
  | .token u lim => if u = t ∧ g.token t ≤ lim then g.release else g
  | _ => g

/-- The completion of an issue of group `serial` in slot `i`. -/
def State.tokenDown (s : State) (c i serial t : Nat) : State :=
  match s.group? c i with
  | some g => if g.serial = serial then
      let g' := g.tokenDown t
      let s := s.setGroup c i g'
      if g.held = g'.held then s else s.modCore c fun k => { k with lastRetire := s.clock }
    else s
  | none => s

/-- TWAIT: token counter IMM[3:0] at or below IMM[15:8], or the group waits. -/
def execTwait (c : CoreNo) (g : SlotNo) (w : W64) (s : State) : Res :=
  .next (s.issue c g w 0x73 { form := .fI, listed := wMod w == 0 } fun e s =>
    let t := wImm w % 16
    let lim := wImm w / 256 % 256
    if e.ex.isEmpty ∨ e.gr.token t ≤ lim then e.retire e.gr s
    else s.setGroup e.c e.g { e.gr with held := .token t lim })

/-- TREAD: D takes token counter IMM[3:0]. -/
def execTread (c : CoreNo) (g : SlotNo) (w : W64) (s : State) : Res :=
  .next (s.issue c g w 0x74 { form := .fI, listed := wMod w == 0, d := .reg } fun e s =>
    e.lanes32 (fun _ => e.gr.token (wImm w % 16)) s)

/-! ### Special registers (R148) -/

/-- The codes of Table 7.2. -/
def sregListed (k : Nat) : Bool := decide (k ≤ 0x0C) || (decide (0x10 ≤ k) && decide (k ≤ 0x12))

/-- A 32-bit special register of a lane. -/
def IEnv.sreg32 (e : IEnv) (k l : Nat) (s : State) : Nat :=
  let bi := ((afind? (s.core e.c).blocks e.gr.block).getD {}).index
  match k with
  | 0x00 => l
  | 0x01 => e.gr.idx
  | 0x02 => e.x.ngrp
  | 0x03 => bi % e.x.gx
  | 0x04 => bi / e.x.gx % e.x.gy
  | 0x05 => bi / (e.x.gx * e.x.gy)
  | 0x06 => e.x.gx
  | 0x07 => e.x.gy
  | 0x08 => e.x.gz
  | 0x09 => e.c
  | 0x0A => e.g
  | 0x0B => e.x.argAddr
  | 0x0C => e.x.stall
  | _ => e.act

/-- SREG: STRTIME and CYCLES go to a pair. CYCLES has advanced by cycles that the spec does not fix. -/
def execSreg (c : CoreNo) (g : SlotNo) (w : W64) (s : State) : Res :=
  let k := wImm w % 256
  let wide := k == 0x10 || k == 0x11
  .next (s.issue c g w 0x75 { form := .fI, listed := wMod w == 0 && sregListed k, d := if wide then .pair else .reg } fun e s =>
    if k = 0x10 then e.lanes64 (fun _ => s.str.time) s
    else if k = 0x11 then
      let s := (s.modCore e.c fun q => { q with cycles := q.cycles + Config.cyclesPassed s.rnd }).fresh
      e.lanes64 (fun _ => (s.core e.c).cycles) s
    else e.lanes32 (fun l => e.sreg32 k l s) s)

/-! ### Block start (R145) -/

/-- The lowest free slots of a core. -/
def Core.freeSlots (k : Core) (n : Nat) : List Nat :=
  ((List.range 64).filter fun i => (afind? k.groups i).isNone).take n

/-- Groups a core can hold (R145). -/
def groupCap (nreg : Nat) : Nat := min 64 (4096 / nreg)

/-- Place the groups of a block: the lowest free slots, all 32 lanes active at the entry address. -/
def State.placeBlock (s : State) (c b : Nat) (x : Ctx) (slots : List Nat) : State :=
  let s' := forEach slots.zipIdx s fun p s =>
    { s.setGroup c p.1 { serial := s.nextId + 1, block := b, idx := p.2, paths := [{ pc := x.entry, mask := allOnes32 }] } with nextId := s.nextId + 1 }
  s'.modCore c fun k => { k with blocks := tset {} k.blocks b { ctx := (k.ctx).getD 0, index := b, slots := slots }, lastRetire := s.clock }

/-- BLOCK_START: the not yet placed block `b` of the core's context starts here, where all its groups fit. -/
def execBlockStart (c : CoreNo) (b : Nat) (s : State) : Res :=
  match s.ctxOf c with
  | some (n, x) =>
    let slots := (s.core c).freeSlots x.ngrp
    if x.kind = .kernel ∧ x.st = .running ∧ x.copyHeld = [] ∧ b < x.gx * x.gy * x.gz ∧ b ∉ x.placed ∧ slots.length = x.ngrp ∧
        (s.core c).groups.length + x.ngrp ≤ groupCap x.nreg then
      .next ((s.placeBlock c b x slots).setCtx n (some { x with placed := x.placed ++ [b] }))
    else .next s
  | none => .next s

end Sys2Proof.Machine
end

