-- ==== Sys2Proof/Machine/CollEnd.lean ====
section
/-! DEFINITION. How a collective ends (R278, R300 to R303): its ledger entry, LEAVE, its reservation, and its completion on its ring
or its result record and token. -/

namespace Sys2Proof.Machine

/-- A word of a collective descriptor, and the fields of Table 12.2. -/
def Coll.w (c : Coll) (i : Nat) : W64 := (c.words[i]?).getD 0
def Coll.op (c : Coll) : Nat := fld (c.w 1) 63 60
def Coll.dfmt (c : Coll) : Nat := fld (c.w 1) 57 54
def Coll.acc (c : Coll) : Bool := bitAt (c.w 1) 51
def Coll.gated (c : Coll) : Bool := !bitAt (c.w 1) 52
def Coll.step (c : Coll) : Nat := fld (c.w 1) 31 0
def Coll.src (c : Coll) : Nat := fld (c.w 4) 56 0
def Coll.dst (c : Coll) : Nat := fld (c.w 5) 56 0
def Coll.n (c : Coll) : Nat := c.members.length

/-- A collective that runs on the fret plan (R281). -/
def Coll.scheduled (c : Coll) : Bool := decide (1 < c.n) && c.op != 6

def stIncomplete : Nat := 0x21
def stShardChanged : Nat := 0x22
def stRetracted : Nat := 0x23
def stStringLost : Nat := 0x24
def stPlanRefused : Nat := 0x26
def stLinkDown : Nat := 0x27
def stStagingShort : Nat := 0x28
def stLateStart : Nat := 0x29
def stSizeMismatch : Nat := 0x2A

/-- A member that ends with this status sends LEAVE (Table 12.6); SHARD_CHANGED sends RETRACT, but a collective of no step has none to
retract and its LEAVE is R301's (log entry 143). -/
def leaves (status step : Nat) : Bool :=
  status != 0 && status != stIncomplete && !(status == stShardChanged && step != 0) && status != stRetracted && status != causeDesc

/-- The result record of an issue (R278): status and String time of completion. -/
def issueRecord (status time : Nat) : List Byte := toBytes 2 status ++ List.replicate 6 0 ++ toBytes 8 time

/-- The result of an issue-form collective is written and its token falls; while its context is saved, or a write of it waits for a refill, both wait
(R303, R331). -/
def State.collResult (s : State) (c : Coll) (i : Issue) (status time : Nat) : State :=
  match s.ctx? i.ctx with
  | some x =>
    if x.st = .running ∧ ¬ s.delays c.stall then
      ((s.wrLocal i.core i.res (issueRecord status time)).tokenDown i.core i.slot i.serial i.token).dropColl c
    else if x.st = .killing then s.dropColl c
    else s.setColl { c with result := some (status, time), lb := 0, segs := [] }
  | none => s.dropColl c

/-- The completions of a context that waited (R303, R331). -/
def State.heldResults (s : State) (n : Nat) : State :=
  forEach s.colls s fun c s => match c.issue, c.result with
    | some i, some (status, time) => if i.ctx = n then s.collResult c i status time else s
    | _, _ => s

/-- The unit that a collective's entries name: its ring or the issuing core. -/
def Coll.unit (c : Coll) : Nat × Nat :=
  match c.ring, c.issue with
  | some (r, _), _ => (0x0E, r)
  | none, some i => (0x03, i.core)
  | none, none => (0x00, 0)

/-- A collective ends with a status; `quiet`: it was refused before it could send anything, so it sends no LEAVE (R38). `level`: the page-table level
of an access that failed (R347, log 147). -/
def State.collEnd (s : State) (c : Coll) (status : Nat) (quiet : Bool := false) (level : Nat := 0) : State :=
  let (kind, unit) := c.unit
  let s := if status = 0 then s
    else s.ledger 0x0401 1 kind unit (some c.stall) c.num status (c.fenced.foldl min (c.fenced.headD 0)) level (oper := 0x5000)
  let s := if leaves status c.step ∧ 1 < c.n ∧ ¬ quiet then s.notify c.stall c.peers c.num 0 0x04 c.step c.attempt status c.me else s
  let s := s.modStall c.stall fun x => { x with lbHeld := x.lbHeld - c.lb }
  let s := if status = 0 ∧ c.scheduled ∧ ¬ c.passSent then { s with passDue := s.passDue ++ [{ c with segs := [] }] } else s
  match c.ring, c.issue with
  | some (r, n), _ => (s.descDone r n status 0).dropColl c
  | none, some i =>
    let s := if status = causePoison then s.tally c.stall 0x98 1 else s
    s.collResult c i status s.str.time
  | none, none => s.dropColl c

/-- A collective ends because an access failed (R302, R345, Table 12.6). -/
def State.collFault (s : State) (c : Coll) (m : MemErr) : State :=
  let s := (s.noteErr c.unit.1 c.unit.2 c.stall 0x5000 m).collEnd c m.cause (level := if m.cause = causePage then m.level else 0)
  match c.ring with
  | some (r, n) => s.noteLevel r n m
  | none => s

/-- An access of the engine failed: a golden unit holds the read, anything else ends the collective. -/
def State.collErr (s : State) (c : Coll) (m : MemErr) : State :=
  match s.holdFor (.engine c.stall) m with
  | some s => s
  | none => s.collFault c m

/-- The collectives in progress that a test selects end with a status. -/
def State.collsEnd (s : State) (sel : Coll → Bool) (status : Nat) : State :=
  forEach (s.colls.filter fun c => c.result.isNone && sel c) s fun c s => s.collEnd c status

/-! ### Fret-plan entries of a collective (R38, R262) -/

def Port.active (x : Port) : Plan := (x.plans[x.activePlan]?).getD {}
def Port.inactive (x : Port) : Plan := (x.plans[1 - x.activePlan]?).getD {}

def entMode (e : W16) : Nat := fld e 15 14
def entShare (e : W16) : Nat := fld e 13 8
def entFlow (e : W16) : Nat := fld e 7 0

/-- An entry that names a flow (Table 11.7). -/
def entNames (e : W16) (flow : Nat) : Bool := (entMode e == 1 || entMode e == 2) && entFlow e == flow

/-- The entries of a flow revert to 0b00 and its flow-table entry is freed. -/
def Plan.free (x : Plan) (flow : Nat) : Plan :=
  { entries := x.entries.filter fun e => !entNames e.2 flow, flows := tset none x.flows flow none }

/-- The flows of a plan that a test selects. -/
def Plan.flowsOf (x : Plan) (sel : FlowEnt → Bool) : List Nat :=
  x.flows.filterMap fun e => match e.2 with | some f => if sel f then some e.1 else none | none => none

/-- The entries of every selected flow are released, on every port and in both plans. -/
def State.freeFlows (s : State) (sel : FlowEnt → Bool) : State :=
  forEach (List.range 16) s fun p s =>
    if ((s.port p).plans.any fun x => !(x.flowsOf sel).isEmpty) then
      s.modPort p fun x => { x with plans := x.plans.map fun y => (y.flowsOf sel).foldl Plan.free y,
                                    leases := x.leases.filter fun l => !(x.active.flowsOf sel).contains l.flow }
    else s

/-- Plan entries of a stall's flows that a reset left to revert do so (Table 14.9). -/
def State.plansRevert (s : State) (st : Nat) : State :=
  if (s.stall st).plansDue.isSome then (s.freeFlows fun f => f.stall.toNat == st).modStall st fun x => { x with plansDue := none } else s

/-- A route of a collective finds its flow-table entry in the active plan of its port (R286). -/
def State.routeHeld (s : State) (c : Coll) (r : Nat × Nat × Nat) : Bool :=
  match tget none (s.port r.2.1).active.flows r.2.2 with
  | some f => f.stall.toNat == c.stall && f.coll.toNat == c.num && some f.dst.toNat == (c.members[r.1]?).map (·.1)
  | none => false

/-- STRING_LOST_STOP (R38): at the first fret boundary after entry to LOST every fret-scheduled collective that was dispatched then stops,
whatever the unit's state is by then. -/
def execStringLostStop (s : State) : Res :=
  match s.str.lostStop with
  | some t =>
    if t ≤ s.clock then
      let gone := s.colls.filter fun c => c.result.isNone && c.lost
      let s := ({ s with str := { s.str with lostStop := none } }).collsEnd (·.lost) stStringLost
      .next (s.freeFlows fun f => gone.any fun c => f.stall.toNat == c.stall && f.coll.toNat == c.num)
    else .next s
  | none => .next s

end Sys2Proof.Machine
end

