-- ==== Sys2Proof/Machine/Hbm.lean ====
section
/-! DEFINITION. HBM as a read meets it: decoding of units, hard pins, loss of a stack (R201 to R204, R219), golden blocks and the
reads held for their refill (R207 to R209). -/

namespace Sys2Proof.Machine

/-! ### Held reads (R207 to R209) -/

/-- The mark of a load among held reads: its group and register. -/
def Load.mark (l : Load) : Nat := l.serial * 256 + l.d

/-- A load of context `n` held at a unit. -/
def State.holdLoad (s : State) (n c u mark : Nat) : State :=
  (s.holdRead u (.load c mark)).modCtx n fun x => { x with heldSince := some (x.heldSince.getD s.clock) }

/-- A descriptor's read held at a unit. -/
def State.holdDesc (s : State) (r : Nat) (d : W32) (u : Nat) : State := s.holdRead u (.desc r d)

/-- The last held read of a context is released: the watchdog has not counted the time (R209). -/
def State.heldOver (s : State) (c : Nat) : State :=
  match s.ctxOf c with
  | some (n, x) =>
    if x.cores.any s.heldOn then s
    else match x.heldSince with
      | some t =>
        (forEach x.cores s fun i s => s.modCore i fun k => { k with lastRetire := k.lastRetire + (s.clock - t) }).setCtx n (some { x with heldSince := none })
      | none => s
  | none => s

/-- A held read goes on: its load returns with what the block now holds, its get is answered, its descriptor or engine may run. -/
def State.releaseHeld (s : State) (h : HeldRead) : State :=
  let s := { s with mem := { s.mem with held := s.mem.held.filter fun g => g ≠ h } }
  match h.who with
  | .load c mark => (s.modCore c fun q => { q with loads := q.loads.map fun l => if l.mark = mark then { l with held := false } else l }).heldOver c
  | .thread c _ _ _ => s.heldOver c
  | .start c => s.heldOver c
  | .get p x => s.getAnswer p x
  | _ => s

/-- A held read completes with POISON_CONSUMED (R207, Table 9.5). An engine meets the poison when it reads again, and is not held while the refill
goes on. -/
def State.poisonHeld (s : State) (h : HeldRead) : State :=
  let s := { s with mem := { s.mem with held := s.mem.held.filter fun g => g ≠ h } }
  match h.who with
  | .desc r d =>
    let st := (s.ring r).stall
    let ty := match (s.ring r).desc? d with | some x => x.type | none => 0
    (s.noteErr 0x0E r st (ty * 4096) ⟨causePoison, 32 * h.unit, 0⟩).descDone r d causePoison 0
  | .load c mark =>
    match (s.core c).loads.find? fun l => l.mark == mark, s.ctxOf c with
    | some l, some (n, _) =>
      s.ctxFault n { cause := causePoison, pc := l.pc, mask := l.act, slot := l.slot, arg2 := 32 * h.unit, core := c, opc := 0x42, src := s.poisonSource h.unit }
    | _, _ => s
  | .thread c serial g opc =>
    match s.group? c g, s.ctxOf c with
    | some gr, some (n, _) =>
      match popPaths gr.paths with
      | top :: _ =>
        if gr.serial ≠ serial then s
        else s.ctxFault n { cause := causePoison, pc := top.pc, mask := top.mask, slot := g, arg2 := 32 * h.unit, core := c, opc := opc, src := s.poisonSource h.unit }
      | [] => s
    | _, _ => s
  | .get p x => (s.noteErr 0x0A p (pDstall x) 0 ⟨causePoison, 32 * h.unit, 0⟩).respond x 8 1
  | .engine _ =>
    if s.mem.refills.any fun r => r.block == h.unit / 128 then { s with mem := { s.mem with late := s.mem.late ++ [(h.unit, h.who)] } } else s
  | .fn f =>
    (s.noteErr 0x0F f (s.fn f).stl.arg 0 ⟨causePoison, 32 * h.unit, 0⟩).modFn f fun x =>
      { x with stl := { x.stl with busy := false, result := 3 }, stlHeld := none }
  | .start c =>
    match s.ctxOf c with
    | some (n, x) => if x.copyHeld.contains c then s.ctxFault n { cause := causePoison, arg2 := 32 * h.unit, core := c, src := s.poisonSource h.unit } else s
    | none => s

/-- The held reads of a block. -/
def State.heldAt (s : State) (blk : Nat) : List HeldRead := s.mem.held.filter fun h => h.unit / 128 == blk

/-- The refill of a block ends. -/
def State.endRefill (s : State) (blk : Nat) : State :=
  { s with mem := { s.mem with refills := s.mem.refills.filter fun r => r.block != blk, late := s.mem.late.filter fun e => e.1 / 128 != blk },
           best := s.best.filter fun b => b.block != blk }

/-- A write of an engine that waited is performed, or waits on. -/
def State.redo (s : State) (e : Delayed) : State :=
  if e.acc then
    match s.accEngine e.stall e.at_ (wordsOf 4 e.bytes.length e.bytes) with
    | .ok s => s
    | .error _ => s
  else s.wrOwn e.stall e.at_ e.bytes

/-- What waited for a refill goes on, in order: writes of engines, add-backs, then the packets of peers (R209, R265); issue-form collectives that
these writes held up give their results (R331). -/
def State.afterRefill (s : State) : State :=
  let s := forEach s.mem.delayed { s with mem := { s.mem with delayed := [] } } fun e s => s.redo e
  let s := forEach s.mem.addDue { s with mem := { s.mem with addDue := [] } } fun e s => if (s.pin e.1).held then s.addBack e.1 e.2 else s
  (forEach (s.colls.filterMap fun c => c.issue.map fun i => i.ctx) s fun n s => s.heldResults n).drain

/-- The golden registration that holds a block, with its stall and the block's place in the region. -/
def State.goldenOf (s : State) (blk : Nat) : Option (Nat × Golden × Nat) :=
  s.stalls.findSome? fun e => e.2.golden.findSome? fun g => (g.blocks.findIdx? (· == blk)).map fun i => (e.1, g, i)

/-- A refill fails (R208): the held reads complete with POISON_CONSUMED, GOLDEN is cleared, event 0x050A. -/
def State.refillFail (s : State) (blk cause : Nat) : State :=
  let base := match s.goldenOf blk with | some (_, g, _) => g.base | none => 0
  let s := forEach (s.heldAt blk) (s.endRefill blk) fun h s => s.poisonHeld h
  ((s.setOwner blk (setFld (s.ownerEnt blk) 13 13 0)).ledger 0x050A 2 0x00 0 (some (s.owner blk)) base blk cause).afterRefill

/-! ### Loss of a stack (R219) -/

/-- A stack fails in operation: event 0x0504, the health record, no hold and no refill from now on. -/
def State.failStack (s : State) (k cause : Nat) : State :=
  if (tget {} s.mem.stks k).st = .failed then s
  else
    let s := s.modStk k fun x => { x with st := .failed }
    let s := s.setHealth { s.nv.health with stks := tset 0 s.nv.health.stks k 2 }
    let s := s.ledger 0x0504 3 0x08 k none k cause
    let gone := s.mem.refills.filter fun r => (s.dpaStack (4096 * r.block)).1 == k
    (forEach gone s fun r s => forEach (s.heldAt r.block) (s.endRefill r.block) fun h s => s.poisonHeld h).afterRefill

/-- Count an uncorrectable unit of a stack in the String; more than 64 and the stack fails. -/
def State.countUncorrectable (s : State) (k : Nat) : State :=
  let t := stringOf s.str.time
  let s := s.modStk k fun x => if x.uncString = t then { x with unc := x.unc + 1 } else { x with unc := 1, uncString := t }
  if 64 < (tget {} s.mem.stks k).unc then s.failStack k 4 else s

/-- A pin found hard (R202): the first of a pseudo-channel degrades the stack, a second one fails it. -/
def State.hardPin (s : State) (k pc pin : Nat) : State :=
  let x := tget {} s.mem.stks k
  if x.hard.contains (pc, pin) then s
  else
    let second := x.hard.any fun h => h.1 == pc
    let s := s.modStk k fun x => { x with hard := x.hard ++ [(pc, pin)] }
    let h := s.nv.health
    let s := s.setHealth { h with hard := if h.hard.length < 64 then h.hard ++ [(k, pc, pin)] else h.hard }
    if second then s.failStack k 5
    else if x.st = .failed then s
    else
      let s := s.ledger 0x0502 1 0x08 k none k pc pin
      let s := s.modStk k fun x => { x with st := .degraded }
      let s := s.setHealth { s.nv.health with stks := tset 0 s.nv.health.stks k 1 }
      s.ledger 0x0503 2 0x08 k none k

/-! ### Units decoded (R200 to R204) -/

/-- The symbols in error of a unit as it arrives from HBM: what the command says, what hard pins of its pseudo-channel make of their symbols, and
the poison mark of a poisoned unit (R201, R202). -/
def State.arriving (s : State) (u : Nat) (errs : SymErrs) : Tbl Byte :=
  let (k, pc) := ((s.dpaStack (32 * u)).1, s.pcOf (32 * u))
  let flip (t : Tbl Byte) (i : Nat) (v : Byte) : Tbl Byte := tset 0 t i (tget 0 t i ^^^ v)
  let t := (((tget {} s.mem.stks k).hard).filter fun h => h.1 == pc).foldl (fun t h => flip t h.2 (Config.stuckBits s.rnd u h.2)) (symTable errs)
  if s.hbmPoisoned u then rsPoison.zipIdx.foldl (fun t e => flip t (32 + e.2) e.1) t else t

/-- What became of HBM's copy of a unit whose line the slices hold: 1 poisoned, 2 undefined. -/
def State.setUnder (s : State) (u n : Nat) : State := { s with slices := { s.slices with under := tset 0 s.slices.under u n } }

/-- A unit of HBM found uncorrectable is poisoned there (R204); a copy in the slices stays good. -/
def State.hbmLost (s : State) (u : Nat) : State :=
  if s.cachedUnit u then (s.setUnder u 1).ledger 0x0505 1 0x08 (s.dpaStack (32 * u)).1 none (32 * u) 0 else s.poisonUnit u

/-- A unit of HBM read with symbols in error (Table 9.4, R202): corrected and written back, its pin hard where the same symbol needed
correction at the last read too; poisoned; or, with four or more in error, what a free value says. -/
def State.decodeUnit (s : State) (u : Nat) (errs : SymErrs) : State :=
  let k := (s.dpaStack (32 * u)).1
  if s.stackFailed (32 * u) then s
  else
    let t := s.arriving u errs
    match decodeSyms t with
    | .good => s.setFixed u 0
    | .poison => let s := s.setFixed u 0; if s.cachedUnit u then s.setUnder u 1 else s.markPoison u
    | .corrected i =>
      let again := tget 0 s.slices.fixed u == i + 1
      let s := (s.setFixed u (i + 1)).modStk k fun x => { x with ce := min 0xFFFF (x.ce + 1) }
      if again ∨ (tget {} s.mem.stks k).hard.contains (s.pcOf (32 * u), i) then s.hardPin k (s.pcOf (32 * u)) i
      else s.atMost 0x0501 k 256 1 fun n s => s.ledger 0x0501 0 0x08 k none k n
    | .uncorrectable => ((s.setFixed u 0).hbmLost u).countUncorrectable k
    | .noPromise =>
      let s' := (s.setFixed u 0).fresh
      if Config.manyErrors s.rnd = 0 then (s'.hbmLost u).countUncorrectable k else if s.cachedUnit u then s'.setUnder u 2 else s'.garble u

/-- A unit of a line that its home slice holds decoded as uncorrectable (R204, R216): a clean line is dropped and fetched again, a dirty one keeps
the unit as poisoned, a pinned one loses its partials. -/
def State.cacheLost (s : State) (u : Nat) : State :=
  if (s.pin (u / 4)).held then
    { s with slices := { s.slices with pins := tmod {} s.slices.pins (u / 4) fun p => { p with bad := true } } }
  else if tget .absent s.slices.lines (u / 4) = .dirty then s.poisonUnit u
  else ((s.ledger 0x0507 0 0x07 (s.homeSlice (32 * u)) none (32 * u)).evict (u / 4)).touch false (u / 4)

/-- A unit read from the home slice that holds its line, with symbols in error. -/
def State.decodeCached (s : State) (u : Nat) (errs : SymErrs) : State :=
  let t := if s.unitPoisoned u then rsPoison.zipIdx.foldl (fun t e => tset 0 t (32 + e.2) (tget 0 t (32 + e.2) ^^^ e.1)) (symTable errs) else symTable errs
  match decodeSyms t with
  | .good => s
  | .corrected _ => s
  | .poison => s.markPoison u
  | .uncorrectable => s.cacheLost u
  | .noPromise => if Config.manyErrors s.rnd = 0 then s.fresh.cacheLost u else s.fresh.garble u

/-- A unit that an agent reads (R197, R201): from the line its home slice holds, or from HBM. -/
def State.readUnit (s : State) (u : Nat) (errs : SymErrs) : State :=
  if (s.pin (u / 4)).held ∨ s.cachedUnit u then s.decodeCached u errs else s.decodeUnit u errs

/-- Units in error among those that a command reads at some DPAs: each is decoded as it is read. -/
def State.readDpas (s : State) (ps : List (Nat × Nat)) (us : UnitErrs) : State :=
  forEach us s fun u s => if ps.any fun e => (unitsOf e.1 e.2).contains u.1 then s.readUnit u.1 u.2 else s

/-- Units in error, by DPA / 32, among those of a stall's blocks that one of its engines reads. -/
def State.readOwned (s : State) (st : Nat) (us : UnitErrs) : State :=
  forEach us s fun u s => if s.owner (u.1 / 128) = st then s.readUnit u.1 u.2 else s

/-- Units in error, by DPA / 32, among those that a command reads at an address of a stall. -/
def State.readDvas (s : State) (st dva n : Nat) (us : UnitErrs) : State :=
  match s.pieces st .read dva n with
  | .ok ps => s.readDpas ps us
  | .error _ => s

end Sys2Proof.Machine
end

