-- ==== Sys2Proof/Machine/CollData.lean ====
section
/-! DEFINITION. The data of a collective (R274 to R290): its tables, the cut of shards into pieces and segments, reduction arithmetic,
what it sends and delivers, epochs and steps (R293, R298, R299). -/

namespace Sys2Proof.Machine

/-! ### Fields and formats (Table 12.2) -/

def Coll.red (c : Coll) : Nat := fld (c.w 1) 59 58
def Coll.wfmt (c : Coll) : Bool := bitAt (c.w 1) 53
def Coll.sealMode (c : Coll) : Nat := fld (c.w 1) 50 49
def Coll.policy (c : Coll) : Bool := bitAt (c.w 1) 48
def Coll.keep (c : Coll) : Bool := bitAt (c.w 1) 47
def Coll.setAddr (c : Coll) : Nat := fld (c.w 2) 56 0
def Coll.extAddr (c : Coll) : Nat := fld (c.w 3) 56 0
def Coll.root (c : Coll) : Nat := fld (c.w 7) 16 0
def Coll.ringOp (c : Coll) : Bool := decide (c.op ≤ 3)

/-- Bytes of an element. -/
def Coll.esz (c : Coll) : Nat := dfmtBytes c.dfmt
/-- Bytes of a delivered element, and of a partial sum on the wire (R282, R283). -/
def Coll.dsz (c : Coll) : Nat := if c.acc then 4 else c.esz
def Coll.psz (c : Coll) : Nat := if c.wfmt then c.esz else 4

/-- An FP32 value rounded into DFMT to nearest even with SAT (R62, R70). -/
def narrow (d v : Nat) : Enc := if d = 0 then ⟨v, 0, 0⟩ else encPlain d false .rne (f32 v)

/-- Values rounded into DFMT, with what the conversions count. -/
def narrowAll (d : Nat) (vs : List Nat) : List Byte × Counts :=
  let es := vs.map (narrow d)
  (es.flatMap fun e => toBytes (dfmtBytes d) e.code, es.foldl (fun a e => a.add { clip := e.clip, nan := e.nan }) {})

/-! ### The tables (R274 to R276, R289) -/

/-- The extent of shard `r`: first element and count. -/
def Coll.ext (c : Coll) (r : Nat) : Nat × Nat := (c.extents[r]?).getD (0, 0)

/-- What stops the reading of a table: an access that failed, or DESC_INVALID with the offset at fault for an address. -/
def badTab (off : Nat) : MemErr := ⟨causeDesc, off, 0⟩

/-- Route `i` breaks R274 as one of the first `ns`, the stripes: it names another member than `nx`, or the port of an earlier stripe. -/
def stripeBad (rs : List (Nat × Nat × Nat)) (nx ns i : Nat) : Bool :=
  match rs[i]? with
  | some r => decide (i < ns) && (r.1 != nx || (rs.take i).any fun q => q.2.1 == r.2.1)
  | none => false

/-- The rank set (Table 12.1) with the checks of R275; a failure names the lowest offset. -/
def State.rankSet (s : State) (c : Coll) : Except MemErr Coll := do
  let h ← s.rdDva c.stall c.setAddr 64
  let n := recFld h 0 4
  let me := recFld h 4 4
  let nr := recFld h 8 2
  let ns := recFld h 10 1
  if n = 0 ∨ 131072 < n then .error (badTab 0)
  else if n ≤ me then .error (badTab 4)
  else if 4080 < nr then .error (badTab 8)
  else if 16 < ns ∨ nr < ns then .error (badTab 10)
  else if recFld h 11 53 ≠ 0 then .error (badTab 11)
  else do
    let mb ← s.rdDva c.stall (c.setAddr + 64) (4 * n)
    let rb ← s.rdDva c.stall (c.setAddr + 64 + 4 * n) (4 * nr)
    let ms := (wordsOf 4 mb.length mb).map fun v => (v / 4096, v % 4096)
    let rw := wordsOf 4 rb.length rb
    let rs := rw.map fun v => (v / 2 ^ 15, v / 256 % 16, v % 256)
    if (ms[me]?).getD (0, 0) ≠ (s.myId, c.stall) then .error (badTab (64 + 4 * me))
    else match rw.zipIdx.find? fun v => decide (v.1 / 4096 % 8 ≠ 0) || stripeBad rs ((me + 1) % n) ns v.2 with
      | some v => .error (badTab (64 + 4 * n + 4 * v.2))
      | none => .ok { c with members := ms, me := me, nstripe := ns, routes := rs }

/-- Entries of an extent table. -/
def State.extEntries (s : State) (c : Coll) (n : Nat) : Except MemErr (List (Nat × Nat)) := do
  let b ← s.rdDva c.stall c.extAddr (16 * n)
  let w := wordsOf 8 b.length b
  .ok ((List.range n).map fun i => ((w[2 * i]?).getD 0, (w[2 * i + 1]?).getD 0))

/-- The first entry that is not contiguous with the one before (R276). -/
def contigBad : Nat → Nat → List (Nat × Nat) → Option Nat
  | _, _, [] => none
  | i, o, (a, n) :: t => if a = o then contigBad (i + 1) (o + n) t else some i

/-- The permute list (R289). -/
def State.permList (s : State) (c : Coll) : Except MemErr Coll := do
  let h ← s.rdDva c.stall c.extAddr 16
  if recFld h 8 8 ≠ 0 then .error (badTab 8)
  else do
    let k := recFld h 0 4
    let m := recFld h 4 4
    let sb ← s.rdDva c.stall (c.extAddr + 16) (32 * k)
    let rb ← s.rdDva c.stall (c.extAddr + 16 + 32 * k) (8 * m)
    let es := (List.range k).map fun i => sb.drop (32 * i)
    let ss := es.map fun e => ({ member := recFld e 0 4, bytes := recFld e 4 4, srcOff := recFld e 8 8, dstOff := recFld e 16 8 } : Piece)
    let rs := (List.range m).map fun i => ({ member := recFld (rb.drop (8 * i)) 0 4, bytes := recFld (rb.drop (8 * i)) 4 4 } : Piece)
    match es.zipIdx.find? fun e => recFld e.1 24 8 != 0 with
    | some e => .error (badTab (16 + 32 * e.2))
    | none => .ok { c with sends := ss, recvs := rs }

/-- The table that EXT_ADDR names (Table 12.4). -/
def State.extTable (s : State) (c : Coll) : Except MemErr Coll := do
  match c.op with
  | 3 => do
    let e ← s.extEntries c 1
    if ((e[0]?).getD (0, 0)).1 ≠ 0 then .error (badTab 0) else .ok { c with extents := e }
  | 4 => do
    let e ← s.extEntries c (2 * c.n)
    let z := c.esz
    let ss := ((e.take c.n).zipIdx).map fun x => ({ member := x.2, bytes := x.1.2 * z, srcOff := x.1.1 * z } : Piece)
    let rs := ((e.drop c.n).zipIdx).map fun x => ({ member := x.2, bytes := x.1.2 * z, dstOff := x.1.1 * z } : Piece)
    .ok { c with sends := ss, recvs := rs }
  | 5 => s.permList c
  | 6 => .ok c
  | _ => do
    let e ← s.extEntries c c.n
    match contigBad 0 0 e with
    | some i => .error (badTab (16 * i))
    | none => .ok { c with extents := e }

/-- Elements of the whole tensor. -/
def Coll.total (c : Coll) : Nat := (c.extents.map (·.2)).sum

/-- The ranges of DST that the member writes, as start and length (R280). What others send a PERMUTE lies where their lists say: at dispatch
the range is taken to begin at DST and to be as long as the receive entries together (log entry 143). -/
def Coll.dstSpans (c : Coll) : List (Nat × Nat) :=
  match c.op with
  | 0 => [(c.dst, c.total * c.dsz)]
  | 1 => [(c.dst, (c.ext c.me).2 * c.dsz)]
  | 2 => [(c.dst, c.total * c.esz)]
  | 3 => if c.me = c.root then [] else [(c.dst, c.total * c.esz)]
  | 4 => c.recvs.map fun p => (c.dst + p.dstOff, p.bytes)
  | 5 => (c.dst, (c.recvs.map (·.bytes)).sum) :: (c.sends.filter fun p => p.member == c.me).map fun p => (c.dst + p.dstOff, p.bytes)
  | _ => []

/-- What is left of a range outside another. -/
def rangeLess (x y : Nat × Nat) : List (Nat × Nat) :=
  let cut (a b : Nat) : List (Nat × Nat) := if a < b then [(a, b - a)] else []
  if y.1 + y.2 ≤ x.1 ∨ x.1 + x.2 ≤ y.1 then [x] else cut x.1 y.1 ++ cut (y.1 + y.2) (x.1 + x.2)

/-- The ranges of DST not written yet (R300). -/
def Coll.unwritten (c : Coll) : List (Nat × Nat) :=
  c.written.foldl (fun xs y => xs.flatMap fun x => rangeLess x y) (c.dstSpans.filter fun x => x.2 != 0)

/-! ### Pieces and segments (R282, R285) -/

/-- Elements of a full piece of a shard of `n` elements. -/
def Coll.pieceLen (c : Coll) (n : Nat) : Nat := roundUp (cdiv n (max 1 c.nstripe)) (32 / c.esz)

/-- A run of `n` elements of `z` bytes from element `o`, whose first byte on the wire is `b`, cut into segments of at most 128
units: first element and count. -/
def chop (z : Nat) : Nat → Nat → Nat → Nat → List (Nat × Nat)
  | 0, _, _, _ => []
  | fuel + 1, b, o, n =>
    if n = 0 then []
    else
      let k := min n ((4096 - b % 32) / z)
      (o, k) :: chop z fuel (b + k * z) (o + k) (n - k)

/-- The segments of a shard for elements of `z` bytes on the wire: stripe, first element, count. -/
def Coll.segsOf (c : Coll) (r z : Nat) : List (Nat × Nat × Nat) :=
  let (o, n) := c.ext r
  let pl := c.pieceLen n
  (List.range c.nstripe).flatMap fun s =>
    let a := s * pl
    let m := min (a + pl) n - a
    (chop z (m + 1) ((o + a) * z) a m).map fun e => (s, e.1, e.2)

/-- The stripe of an element of a shard. -/
def Coll.stripeOf (c : Coll) (r e : Nat) : Nat := let pl := c.pieceLen (c.ext r).2; if pl = 0 then 0 else e / pl

/-! ### Own values and delivery (R282 to R284) -/

/-- The next member and the one before, in ring order. -/
def Coll.next (c : Coll) : Nat := (c.me + 1) % max 1 c.n
def Coll.prev (c : Coll) : Nat := (c.me + c.n - 1) % max 1 c.n

/-- The address of the member's own element `e` of a shard. -/
def Coll.ownAt (c : Coll) (r e : Nat) : Nat := c.src + ((c.ext r).1 + e) * c.esz

/-- The member's own values of elements of a shard, as FP32. -/
def State.ownVals (s : State) (c : Coll) (r e n : Nat) : Except MemErr (List Nat) :=
  match s.rdDva c.stall (c.ownAt r e) (n * c.esz) with
  | .ok bs => .ok (elems c.dfmt bs)
  | .error m => .error m

/-- The address of a delivered element of a shard. -/
def Coll.dstAt (c : Coll) (r e : Nat) : Nat := if c.op = 1 then c.dst + e * c.dsz else c.dst + ((c.ext r).1 + e) * c.dsz

/-- Bytes that a segment holds. -/
def Coll.held (c : Coll) : Nat := ((c.segs.filter fun g => g.kind == .provisional).map fun g => g.bytes.length).sum

/-- What a member expects from another: bytes of a direct operation (R289). -/
def Coll.expectFrom (c : Coll) (m : Nat) : Nat := ((c.recvs.filter fun p => p.member == m).map (·.bytes)).sum

/-- The contributors whose PASS a gated collective waits for (R295). -/
def Coll.contributors (c : Coll) : List Nat :=
  if c.ringOp then (List.range c.n).filter (· ≠ c.me)
  else ((c.recvs.filter fun p => p.bytes != 0 && p.member != c.me).map (·.member)).dedup

def Coll.lacksPass (c : Coll) : List Nat := if c.gated then c.contributors.filter fun m => !c.passFrom.contains m else []

/-- The contributors whose PASS is missing, the member itself among them until it has sent its own (R294, R295). -/
def Coll.missing (c : Coll) : List Nat :=
  let own : Bool := c.gated && !c.passSent && decide (1 < c.n) && (c.ringOp || c.expectFrom c.me != 0)
  c.lacksPass ++ (if own then [c.me] else [])

def mib4 : Nat := 0x400000

/-- Provisional holding of a gated collective that accumulates: the part of its reservation that comes from HOLD (Table 12.5, R404). -/
def Coll.holdRoom (c : Coll) : Nat := if decide (1 < c.n) && c.gated && c.acc then mib4 * c.nstripe else 0

/-- What a delivery comes to: done, an access failed, the provisional hold is full (R295), or more came than is expected (R289). -/
inductive Delivered where
  | ok (s : State) (c : Coll)
  | fail (m : MemErr)
  | full
  | size

/-! ### Staged units (R199, R204, R302) -/

/-- Where a segment begins in the collective's reservation, which names its units: each begins on a unit of its own (log entry 128). -/
def Coll.stagedAt (c : Coll) (g : Seg) : Nat := ((c.segs.takeWhile (· ≠ g)).map fun q => roundUp q.bytes.length 32).sum

/-- Staged bytes after unit `i` was read with symbols in error (R201), with their poisoned units: one found uncorrectable is poisoned in place,
with its event at address `a` (R204). -/
def State.decodeStaged (s : State) (unit : Nat × Nat) (st a : Nat) (i : Nat) (errs : SymErrs) (bs : List Byte) (bad : List Nat) :
    State × List Byte × List Nat :=
  let lost (s : State) : State × List Byte × List Nat := (s.ledger 0x0505 1 unit.1 unit.2 (some st) (a + 32 * i) 3, bs, insertSorted i bad)
  if bad.contains i ∨ bs.length ≤ 32 * i then (s, bs, bad)
  else match decodeSyms (symTable errs) with
    | .good => (s, bs, bad)
    | .corrected _ => (s, bs, bad)
    | .poison => (s, bs, insertSorted i bad)
    | .uncorrectable => lost s
    | .noPromise =>
      if Config.manyErrors s.rnd = 0 then lost s.fresh
      else
        let n := min 32 (bs.length - 32 * i)
        (s.fresh, bs.take (32 * i) ++ (List.range n).map (fun j => Config.undefByte s.rnd j) ++ bs.drop (32 * i + n), bad)

/-- The segment that holds unit `k` of the reservation, and the unit's place in it. -/
def Coll.unitSeg (c : Coll) (k : Nat) : Option (Seg × Nat) :=
  c.segs.findSome? fun g =>
    let b := c.stagedAt g / 32
    if b ≤ k ∧ k < b + cdiv g.bytes.length 32 then some (g, k - b) else none

/-- Units of the reservation in error, by their number in it, as they are read. -/
def State.readReserved (s : State) (c : Coll) (us : UnitErrs) : State × Coll :=
  us.foldl (fun acc u =>
    match acc.2.unitSeg u.1 with
    | some (g, i) =>
      let (s, bs, bad) := acc.1.decodeStaged acc.2.unit acc.2.stall (acc.2.stagedAt g) i u.2 g.bytes g.bad
      (s, { acc.2 with segs := acc.2.segs.map fun h => if h = g then { g with bytes := bs, bad := bad } else h })
    | none => acc) (s, c)

/-- The first poisoned unit, as its address, of the segments of a kind (R302). -/
def Coll.poisonedSeg (c : Coll) (k : SegKind) : Option Nat :=
  c.segs.findSome? fun g => if g.kind = k then (g.bad.head?).map fun i => c.stagedAt g + 32 * i else none

/-- Delivered elements of a shard, as bytes of `dsz` (R283, R284, R295): written or added, or held until PASS covers it. -/
def State.deliver (s : State) (c : Coll) (r e : Nat) (bs : List Byte) : Delivered :=
  if c.acc then
    if c.missing ≠ [] then
      if c.holdRoom < c.held + bs.length then .full
      else .ok s { c with segs := c.segs ++ [{ kind := .provisional, shard := r, off := e, bytes := bs }] }
    else match s.accEngine c.stall (c.dstAt r e) (wordsOf 4 bs.length bs) with
      | .ok s => .ok s c
      | .error m => .fail m
  else match s.wrDva c.stall (c.dstAt r e) bs with
    | .ok s => .ok s { c with written := c.written ++ [(c.dstAt r e, bs.length)] }
    | .error m => .fail m

/-- A final sum delivered: rounded once into DFMT where ACC is 0. -/
def State.deliverSum (s : State) (c : Coll) (e : Nat) (vs : List Nat) : Delivered × List Byte :=
  if c.acc then (s.deliver c c.me e (f32Bytes vs), f32Bytes vs)
  else
    let (bs, k) := narrowAll c.dfmt vs
    ((s.tallyCounts c.stall [k.clip, k.nan]).deliver c c.me e bs, bs)

/-! ### Epochs and steps (R293, R298, R299, R377, R379) -/

/-- The epoch a stall tags its sends with; 0 where its shadow fraction is 0. -/
def State.epochNow (s : State) (st : Nat) : Nat := if s.fractionOf st = 0 then 0 else (s.stall st).epoch

def Stall.stepRec (x : Stall) (n : Nat) : Step := (x.steps.find? fun q => q.step == n).getD { step := n }

def Stall.setStep (x : Stall) (q : Step) : Stall := { x with steps := q :: x.steps.filter fun r => r.step != q.step }

def Stall.attemptOf (x : Stall) (n : Nat) : Nat := if n = 0 then 0 else (x.stepRec n).attempt

/-- The members of the stall's step set for a step. -/
def Stall.setFor (x : Stall) (n : Nat) : Option (List (Nat × Nat)) :=
  match x.stepSet with
  | some (k, ms) => if k ≤ n then some ms else none
  | none => none

def addEpoch (e : Nat) (l : List Nat) : List Nat := if e = 0 then l else insertSorted e l

/-- An epoch tagged on a send of a collective is recorded with its step. -/
def State.tagEpoch (s : State) (c : Coll) (e : Nat) : State × Coll :=
  let s := if c.step = 0 then s else s.modStall c.stall fun x =>
    let q := x.stepRec c.step
    x.setStep { q with epochs := addEpoch e q.epochs }
  (s, { c with epochs := addEpoch e c.epochs })

/-- Every epoch of a list has passed (R378): its window has closed and it did not fail. -/
def Stall.allPassed (x : Stall) (es : List Nat) : Bool := es.all fun e => e != x.epoch && !x.failedEps.contains e

/-! ### Sending (R263, R277, R286) -/

/-- A collective packet of `bs` at byte `off` of the tensor or of DST, with its units filled at both ends. -/
def collPkt (s : State) (c : Coll) (typ opf aux member off epoch : Nat) (bs : List Byte) : Pkt :=
  let (dst, dstall) := (c.members[member]?).getD (0, 0)
  let lead := off % 32
  let trail := (32 - (lead + bs.length) % 32) % 32
  let fill := fun n => (List.range n).map fun i => Config.undefByte s.rnd i
  { w0 := BitVec.ofNat 64 (typ * 2 ^ 60 + (lead + bs.length + trail) / 32 * 2 ^ 52 + dstall * 2 ^ 40 + dst * 2 ^ 20 + s.myId)
    w1 := BitVec.ofNat 64 (opf * 2 ^ 48 + (off - lead) % 2 ^ 48)
    w2 := BitVec.ofNat 64 (epoch * 2 ^ 32 + c.stall)
    w3 := BitVec.ofNat 64 (c.num * 2 ^ 48 + aux + lead + trail * 256)
    data := fill lead ++ bs ++ fill trail }

/-- Send a segment over a route on VC 1: the epoch is tagged, `n` elements or bytes count as sent under `mark`. -/
def State.sendSeg (s : State) (c : Coll) (route : Nat × Nat × Nat) (typ opf off : Nat) (bs : List Byte) (mark : Nat × Nat × Nat)
    (n : Nat) : State × Coll :=
  let e := s.epochNow c.stall
  let (s, c) := s.tagEpoch c e
  let s := (s.queuePkt c.stall route.2.1 1 route.2.2 (collPkt s c typ opf 0 route.1 off e bs)).fresh
  (s, { c with sent := c.sent ++ [mark], sentN := c.sentN + n })

/-- What the member has to send in all: elements of a ring operation, bytes of a direct one (R282, R285). -/
def Coll.sendAll (c : Coll) : Nat :=
  let but (r : Nat) : Nat := c.total - (c.ext r).2
  if c.n ≤ 1 then 0
  else match c.op with
    | 0 => but c.me + but c.next
    | 1 => but c.me
    | 2 => but c.next
    | 3 => if c.next = c.root then 0 else c.total
    | 6 => 0
    | _ => ((c.sends.filter fun p => p.member != c.me).map (·.bytes)).sum

/-- All that is to land has landed: the own shard's sum (key 0) and gathered elements (key 1) of a ring operation; bytes by member
of a direct one. -/
def Coll.allLanded (c : Coll) : Bool :=
  if c.n ≤ 1 ∧ c.ringOp then true
  else match c.op with
    | 0 => tget 0 c.landed 0 == (c.ext c.me).2 && tget 0 c.landed 1 == c.total - (c.ext c.me).2
    | 1 => tget 0 c.landed 0 == (c.ext c.me).2
    | 2 => tget 0 c.landed 1 == c.total - (c.ext c.me).2
    | 3 => c.me == c.root || tget 0 c.landed 1 == c.total
    | 6 => true
    | _ => (c.recvs.map (·.member)).dedup.all fun m => tget 0 c.landed m == c.expectFrom m

/-- Members from which data is lacking (R300). -/
def Coll.lacksData (c : Coll) : List Nat :=
  if c.allLanded then []
  else if c.ringOp then [c.prev]
  else (c.recvs.map (·.member)).dedup.filter fun m => tget 0 c.landed m != c.expectFrom m

/-- The destinations of the member's PASS (R294). -/
def Coll.passTo (c : Coll) : List (Nat × Nat) :=
  if c.ringOp then c.peers
  else (((c.sends.filter fun p => p.bytes != 0 && p.member != c.me).map (·.member)).dedup).filterMap fun m => c.members[m]?

/-! ### Reservations (R288, R354, R404) -/

def kib256 : Nat := 0x40000

/-- The minimum of Table 12.5. -/
def Coll.minLb (c : Coll) : Nat :=
  if c.n ≤ 1 then 0
  else match c.op with
    | 4 => 0x100000
    | 5 => 0x100000 + roundUp ((c.recvs.map (·.bytes)).sum) kib256
    | 6 => 0
    | _ => kib256 * c.nstripe + (if c.gated && c.acc then mib4 * c.nstripe else 0)

/-- The reservation: LB × 256 KiB, or the minimum where that is larger. -/
def Coll.wantLb (c : Coll) : Nat := max (kib256 * fld (c.w 7) 27 17) c.minLb

/-- The part of a reservation that each use draws (R404): ring staging, holding and seal stores, permutes. -/
def Coll.draws (c : Coll) (lb : Nat) : Nat × Nat × Nat :=
  match c.op with
  | 4 => (0, 0, lb)
  | 5 => (0, 0, lb)
  | _ =>
    let extra := if c.keep then lb - c.minLb else 0
    (lb - c.holdRoom - extra, c.holdRoom + extra, 0)

/-- Bytes of reservation that the seal stores of a stall keep (R292). -/
def State.keptBytes (s : State) (st : Nat) : Nat := ((s.stores.filter fun k => k.stall == st).map (·.size)).sum

/-- The device's uses of each part. -/
def State.drawn (s : State) : Nat × Nat × Nat :=
  let a := s.colls.foldl (fun (a : Nat × Nat × Nat) c => let d := c.draws c.lb; (a.1 + d.1, a.2.1 + d.2.1, a.2.2 + d.2.2)) (0, 0, 0)
  (a.1, a.2.1 + (s.stores.map (·.size)).sum, a.2.2)

/-- The size of each part over both link dies: ring staging, holding, permutes (Table 16.5); 368 MiB pooled. -/
def partSizes (r : TunRegs) : Nat × Nat × Nat :=
  let m := 0x200000
  (m * fld r.lbPart 23 16, if bitAt r.lbPart 30 then m * fld r.lbPart 15 8 else 0, if bitAt r.lbPart 29 then m * fld r.lbPart 7 0 else 0)

def stagingTotal (r : TunRegs) : Nat :=
  if bitAt r.lbPart 31 then 0x200000 * (fld r.lbPart 23 16 + fld r.lbPart 15 8 + fld r.lbPart 7 0) else 0x17000000

/-- The share and the parts can supply a reservation. -/
def State.canReserve (s : State) (c : Coll) (lb : Nat) : Bool :=
  let share := kib256 * (s.stall c.stall).lbShare
  let d := c.draws lb
  let u := s.drawn
  let r := s.tun.live
  let enabled := (d.2.1 == 0 || bitAt r.lbPart 30) && (d.2.2 == 0 || bitAt r.lbPart 29)
  decide ((s.stall c.stall).lbHeld + s.keptBytes c.stall + lb ≤ share) && enabled &&
    (if bitAt r.lbPart 31 then
      decide (u.1 + d.1 ≤ (partSizes r).1) && decide (u.2.1 + d.2.1 ≤ (partSizes r).2.1) && decide (u.2.2 + d.2.2 ≤ (partSizes r).2.2)
     else decide (u.1 + u.2.1 + u.2.2 + lb ≤ 0x17000000))

end Sys2Proof.Machine
end

