-- ==== Sys2Proof/Machine/CollFinish.lean ====
section
/-! DEFINITION. Retraction of a step (R298), what a member lands from itself (R282, R285, R290), shard seals (R291, R292) and the
successful end of a collective (R295). -/

namespace Sys2Proof.Machine

/-! ### Retraction (R298, R391) -/

/-- Attempt `b` is newer than `a`, modulo 256. -/
def newerAttempt (a b : Nat) : Bool := let d := (b + 256 - a % 256) % 256; decide (0 < d) && decide (d < 128)

/-- The attempt of a stall for a step becomes `a`: the step's collectives end at the next fret boundary, and an APPLY ends
that waits for the step: its own, or that of a later step where this one was open (R240, R241). -/
def State.raiseStep (s : State) (st step a : Nat) : State :=
  let was := ((s.stall st).stepRec step).open_
  let s := s.modStall st fun x =>
    x.setStep { x.stepRec step with attempt := a % 256, open_ := false, epochs := [], passFrom := [], sent := false }
  let s : State :=
    { s with
      colls := s.colls.map fun (c : Coll) =>
        if c.stall = st ∧ c.step = step ∧ c.result.isNone ∧ c.endWith.isNone then { c with endWith := some (stRetracted, s.nextFret) } else c
      passDue := s.passDue.filter fun (c : Coll) => !(c.stall == st && c.step == step) }
  let s := s.dropStores fun st' _ n => st' == st && n == step
  match (s.stall st).upd with
  | some j =>
    let n := fld ((j.words[1]?).getD 0) 31 0
    if j.op = .apply ∧ j.ph ≠ .work ∧ (n = step ∨ (was ∧ step < n)) then s.updEnd st stRetracted else s
  | none => s

/-- The stall retracts a step: event 0x0603, RETRACT to its step set, and the attempt rises. `reason`: 1 check failed, 2 SHARD_CHANGED. -/
def State.retractStep (s : State) (st step reason epoch : Nat) : State :=
  let x := s.stall st
  let a := x.attemptOf step
  let ms := ((x.setFor step).getD []).filter fun m => m != (s.myId, st)
  let s := s.ledger 0x0603 2 0x00 0 (some st) step a epoch reason
  (s.notify st ms 0 epoch 0x03 step a reason 0).raiseStep st step (a + 1)

/-! ### What a member lands from itself -/

/-- The own pieces of a PERMUTE staged (R290): more than the receive entries expect is a surplus. -/
def State.stageOwn (s : State) (c : Coll) : List Piece → Delivered
  | [] => .ok s c
  | p :: t =>
    match s.rdDva c.stall (c.src + p.srcOff) p.bytes with
    | .error m => .fail m
    | .ok bs =>
      let n := tget 0 c.landed c.me + p.bytes
      if c.expectFrom c.me < n then .size
      else (s.didRead c.stall (c.src + p.srcOff) p.bytes).stageOwn
        { c with segs := c.segs ++ [{ kind := .staged, shard := c.me, off := p.dstOff, bytes := bs }], landed := tset 0 c.landed c.me n } t

/-- The own piece of an ALL_TO_ALL, copied through staging (R285). -/
def State.ownPiece (s : State) (c : Coll) : Delivered :=
  match c.sends.find? fun p => p.member == c.me, c.recvs.find? fun p => p.member == c.me with
  | some p, some q =>
    if p.bytes = 0 ∨ q.bytes < p.bytes then .ok s c
    else match s.rdDva c.stall (c.src + p.srcOff) p.bytes with
      | .error m => .fail m
      | .ok bs =>
        match (s.didRead c.stall (c.src + p.srcOff) p.bytes).wrDva c.stall (c.dst + q.dstOff) bs with
        | .ok s => .ok s { c with landed := tset 0 c.landed c.me p.bytes, written := c.written ++ [(c.dst + q.dstOff, p.bytes)] }
        | .error m => .fail m
  | _, _ => .ok s c

/-- What the member lands from itself: its shard of a gather, its own pieces, and alone the whole reduction. -/
def State.landOwn (s : State) (c : Coll) : Delivered :=
  match c.op with
  | 2 =>
    let n := (c.ext c.me).2 * c.esz
    match s.rdDva c.stall c.src n with
    | .error m => .fail m
    | .ok bs => (s.didRead c.stall c.src n).deliver c c.me 0 bs
  | 3 => .ok s c
  | 4 => s.ownPiece c
  | 5 => s.stageOwn c (c.sends.filter fun p => p.member == c.me && p.bytes != 0)
  | 6 => .ok s c
  | _ =>
    if 1 < c.n then .ok s c
    else match s.ownVals c c.me 0 c.total with
      | .error m => .fail m
      | .ok vs => ((s.didRead c.stall (c.ownAt c.me 0) (c.total * c.esz)).deliverSum c 0 vs).1

/-! ### Seals (R291, R292) -/

/-- Seal entry `r`, and the bytes of a shard where it is delivered. -/
def Coll.sealAt (c : Coll) (r : Nat) : Nat := c.extAddr + 16 * c.n + 8 * r
def State.shardBytes (s : State) (c : Coll) (r : Nat) : Except MemErr (List Byte) :=
  s.rdDva c.stall (c.dst + (c.ext r).1 * c.esz) ((c.ext r).2 * c.esz)

/-- Record the seal of every shard (SEAL = 1). -/
def State.recordSeals (s : State) (c : Coll) : List Nat → Except MemErr State
  | [] => .ok s
  | r :: t => do
    let bs ← s.shardBytes c r
    let s ← (s.didRead c.stall (c.dst + (c.ext r).1 * c.esz) bs.length).wrDva c.stall (c.sealAt r) (toBytes 8 (crc64 bs))
    s.recordSeals c t

/-- The shards whose seal differs from its entry (SEAL = 2). -/
def State.compareSeals (s : State) (c : Coll) : List Nat → Except MemErr (List Nat)
  | [] => .ok []
  | r :: t => do
    let bs ← s.shardBytes c r
    let e ← s.rdDva c.stall (c.sealAt r) 8
    let rest ← s.compareSeals c t
    .ok (if ofBytes e = crc64 bs then rest else r :: rest)

/-- Shards that fit, nearest first: as many as fit whole. -/
def keepFit : Nat → List (Nat × Nat) → List Nat
  | _, [] => []
  | room, (r, n) :: t => if n ≤ room then r :: keepFit (room - n) t else []

/-- The seal store of a record gather that completes (R292). -/
def State.keepShards (s : State) (c : Coll) : State :=
  if c.op ≠ 2 ∨ c.sealMode ≠ 1 then s
  else
    let gone := fun (st n _ : Nat) => st == c.stall && n == c.num
    let s := (s.storeLease gone).dropStores gone
    if ¬ c.keep then s
    else
      let preds := (List.range (c.n - 1)).map fun i => let r := (c.me + c.n - 1 - i) % c.n; (r, (c.ext r).2 * c.esz)
      let ks := (keepFit (c.lb - c.minLb) preds).filterMap fun r =>
        match s.shardBytes c r with
        | .ok bs =>
          let k : Kept := { stall := c.stall, coll := c.num, members := c.members, shard := r, step := BitVec.ofNat 32 c.step,
                            base := (c.ext r).1 * c.esz, bytes := bs }
          some k
        | .error _ => none
      { s with kept := s.kept ++ ks, stores := s.stores ++ [{ stall := c.stall, coll := c.num, step := c.step, size := c.lb - c.minLb }] }

/-- A seal mismatch that nothing repaired (R292): SHARD_CHANGED, and the step is retracted. -/
def State.sealFail (s : State) (c : Coll) : State :=
  let s := s.collEnd c stShardChanged
  if c.step = 0 then s else s.retractStep c.stall c.step 2 0

/-- Ask for shard `r` the k-th of the members r + 1 to r + 4, or the next that is not this member; after the last, wait for the deadline. -/
def State.askSeal (s : State) (c : Coll) (r k : Nat) : State :=
  match s.rdDva c.stall (c.sealAt r) 8 with
  | .error m => s.collErr c m
  | .ok e =>
    match [1, 2, 3, 4].find? fun i => decide (k ≤ i) && (r + i) % c.n != c.me with
    | some i =>
      (s.notify c.stall ((c.members[(r + i) % c.n]?).toList) c.num 0 0x05 c.step c.attempt 0 r (ofBytes e)).setColl
        { c with sealQ := some { shard := r, asked := i, since := s.clock } }
    | none => s.setColl { c with sealQ := some { shard := r, asked := 5, since := s.clock } }

/-- Success, or the next shard that waits for repair. -/
def State.sealNext (s : State) (c : Coll) : State :=
  match c.sealBad.find? fun r => !c.sealOk.contains r with
  | some r => s.askSeal c r 1
  | none => (s.keepShards c).collEnd c 0

/-! ### Success (R291, R295) -/

/-- Held data is added into DST when PASS covers it. -/
def State.addHeld (s : State) (c : Coll) : List Seg → Except MemErr State
  | [] => .ok s
  | g :: t => do
    let s ← if g.kind = .provisional then s.accEngine c.stall (c.dstAt g.shard g.off) (wordsOf 4 g.bytes.length g.bytes) else .ok s
    s.addHeld c t

/-- An accumulating write of a collective at a virtual address, of which the residue checks of the slice adder find `res` (R386): the event, and where
the repetition fails too the collective ends (R302). -/
def State.collResidue (s : State) (c : Coll) (dva : Option Nat) (res : Nat) (go : State → State) : State :=
  match dva with
  | none => go s
  | some a =>
    if res = 0 ∨ ¬ c.acc then go s
    else match s.xlate c.stall a .write with
      | .error _ => go s
      | .ok (d, _) =>
        let s := s.sliceResidue c.stall 0x5000 2 d (decide (res = 2))
        if res = 2 then s.collFault c ⟨causePoison, d, 0⟩ else go s

/-- Where the first held data is added into DST. -/
def Coll.heldAt? (c : Coll) : Option Nat := (c.segs.find? fun g => g.kind == .provisional).map fun g => c.dstAt g.shard g.off

/-- Held data is added as soon as PASS covers it (R295), unless a unit of it is poisoned (R302); an access that waits leaves it held. `us` are the
units of the reservation in error, `res` is what the residue checks of the slice adder find. -/
def State.covered (s : State) (c : Coll) (us : UnitErrs := []) (res : Nat := 0) : State :=
  if ¬ c.acc ∨ c.missing ≠ [] then s.setColl c
  else
    let (s, c) := s.readReserved c us
    match c.poisonedSeg .provisional with
    | some a => s.collFault c ⟨causePoison, a, 0⟩
    | none => s.collResidue c c.heldAt? res fun s =>
      match s.addHeld c c.segs with
      | .ok s => s.setColl { c with segs := c.segs.filter fun g => g.kind != .provisional }
      | .error m => (s.setColl c).collErr c m

/-- All data delivered and covered: held data is added, seals are recorded or compared, and the collective completes. -/
def State.collFinish (s : State) (c : Coll) (us : UnitErrs := []) (res : Nat := 0) : State :=
  let (s, c) := s.readReserved c us
  match c.poisonedSeg .provisional with
  | some a => s.collFault c ⟨causePoison, a, 0⟩
  | none => s.collResidue c c.heldAt? res fun s =>
  match s.addHeld c c.segs with
  | .error m => s.collErr c m
  | .ok s =>
    let c := { c with segs := [] }
    if c.op ≠ 2 ∨ c.sealMode = 0 then s.sealNext c
    else if c.sealMode = 1 then
      match s.recordSeals c (List.range c.n) with
      | .error m => s.collErr c m
      | .ok s => s.sealNext c
    else
      match s.compareSeals c (List.range c.n) with
      | .error m => s.collErr c m
      | .ok [] => s.sealNext c
      | .ok bad => if c.policy then s.sealNext { c with sealBad := bad } else s.sealFail c

/-- Staged pieces written to DST (R290). -/
def State.commitStaged (s : State) (c : Coll) : List Seg → Except MemErr State
  | [] => .ok s
  | g :: t => do
    let s ← if g.kind = .staged then s.wrDva c.stall (c.dst + g.off) g.bytes else .ok s
    s.commitStaged c t

/-- A PERMUTE commits and completes; a poisoned unit among what is staged ends it first (R302). -/
def State.permuteEnd (s : State) (c : Coll) (us : UnitErrs := []) : State :=
  let (s, c) := s.readReserved c us
  match c.poisonedSeg .staged with
  | some a => s.collFault c ⟨causePoison, a, 0⟩
  | none => match s.commitStaged c c.segs with
    | .ok s => s.collEnd { c with segs := [] } 0
    | .error m => s.collFault c m

end Sys2Proof.Machine
end

