-- ==== Sys2Proof/Machine/Grid.lean ====
section
/-! DEFINITION. Events on the fret grid (R39, R44, Table 2.4): what is due, and when an item may take its effect. A command of an item
due later in the order of Table 2.4 waits for the items before it. -/

namespace Sys2Proof.Machine

/-- Now is a fret boundary, or the moment at which a step of String time landed (R43, R44). -/
def State.atFret (s : State) : Bool := s.str.time % subPerFret == 0 || s.str.stepped == some s.str.time

/-- MEM_PIN_LEASE.FRETS; 0 acts as 0x10_0000. -/
def State.pinLease (s : State) : Nat := let n := fld s.tun.live.pinLease 23 0; if n = 0 then 0x100000 else n

/-- MODE of TUN_TIMER (Table 16.7). -/
def State.timerMode (s : State) : Nat := fld s.tun.live.timer 31 30

/-- The quantum in progress ends at this clock value (R357). -/
def State.quantumEnd (s : State) (x : Ctx) : Nat := s.fretCeil (x.start + 256 * x.quantum)

/-- A field test that waits for a core of `x`, at or after its fret boundary (R387). -/
def State.testFor (s : State) (x : Ctx) : Option (Nat × Ctx) :=
  s.ctxs.findSome? fun e => match e.2 with
    | some y => if y.kind == .test && y.st == .waiting && decide (y.start ≤ s.clock) && y.cores.any x.cores.contains then some (e.1, y) else none
    | none => none

/-- A collective's deadline has come (R300): the lease on its reservation, and on the members that are silent, has run out. -/
def State.deadlineDue (s : State) (c : Coll) : Bool := c.result.isNone && decide (c.deadline ≤ s.clock)

/-- Item 1: a lease of Table 15.8 on pinned lines, plan entries, a held get or a collective's reservation has run out. A window's lease holds back nothing: accesses are
checked against it when they are made. -/
def State.leaseDue (s : State) : Bool :=
  (s.stalls.any fun e =>
    (e.2.regions.any fun r => !(s.pinsOf e.1 r.base).isEmpty && decide (r.last + 256 * s.pinLease ≤ s.clock)) ||
      (match e.2.heldGets with | (_, _, due) :: _ => decide (due ≤ s.clock) | [] => false)) ||
    s.colls.any s.deadlineDue || s.ports.any fun e => e.2.leases.any fun l => decide (l.due ≤ s.clock)

/-- Item 2: class L fields are to switch or to revert. -/
def State.tuningDue (s : State) : Bool :=
  (match s.tun.change with
    | some c => (c.ph == .ready || (c.ph == .rollingBack && !c.lDone && !c.stuck)) && decide (c.at_.getD 0 ≤ s.clock)
    | none => false) || (s.tun.dirty && !s.tun.sealed_ && decide (s.tun.dirtyAt ≤ s.clock))

/-- A collective is to start now (R286). -/
def State.startsNow (s : State) (c : Coll) : Bool :=
  c.ph == .waiting && decide (c.start ≤ s.clock) && c.endWith.isNone && !c.lost && c.result.isNone

/-- Item 3: a collective phase starts, or a fret plan switches. -/
def State.phaseDue (s : State) : Bool :=
  s.colls.any s.startsNow || s.ports.any fun e => match e.2.sw with | some q => decide (q.at_ ≤ s.clock) | none => false

/-- Item 4: the quantum of a context has ended, or a field test takes its cores. -/
def State.quantumDue (s : State) : Bool :=
  s.ctxs.any fun e => match e.2 with
    | some x => x.st == .running && x.kind != .test &&
        ((s.testFor x).isSome || (s.timerMode != 2 && decide (s.quantumEnd x ≤ s.clock)))
    | none => false

/-- The clock of the first window close after String time `t`, with MTX_CHECK at `q` (R377). -/
def State.closeAfter (s : State) (q : W32) (t : Nat) : Nat :=
  let w := subPerFret * 2 ^ min 8 (fld q 7 4)
  s.clockOf ((t / w + 1) * w)

/-- Item 5: a check window closes. -/
def State.windowDue (s : State) : Bool := s.stalls.any fun e => e.2.st == .active && decide (e.2.closeDue ≤ s.clock)

/-- Item `k` of Table 2.4 may take its effect: now is a fret boundary and no earlier item is due. -/
def State.gridOk (s : State) (k : Nat) : Bool :=
  s.atFret && !(decide (1 < k) && s.leaseDue) && !(decide (2 < k) && s.tuningDue) && !(decide (3 < k) && s.phaseDue) &&
    !(decide (4 < k) && s.quantumDue) && !(decide (5 < k) && s.windowDue)

/-- A new quantum may open: at a boundary, after its lease reclaims and tunings (R44). -/
def State.grantOk (s : State) : Bool := !(s.atFret && (s.leaseDue || s.tuningDue))

end Sys2Proof.Machine
end

