-- ==== Sys2Proof/Machine/MatrixDesc.lean ====
section
/-! DEFINITION. Matrix and read-out descriptors (R76, R77, R81 to R88, R94, R96, R127 to R132): their fields, the geometry of a
pass and the checks at issue. -/

namespace Sys2Proof.Machine

/-- Field [hi:lo] of word `i` of a descriptor. -/
def wf (ws : List W64) (i hi lo : Nat) : Nat := fld ((ws[i]?).getD 0) hi lo

/-- A matrix descriptor's fields (Table 4.5). -/
structure MD where
  rdo : Nat
  token : Nat
  expFmt : Nat
  expand : Nat
  sax : Nat
  accAdd : Nat
  bank : Nat
  sub : Nat
  array : Nat
  trans : Nat
  flow : Nat
  geom : Nat
  fmtB : Nat
  fmtA : Nat
  k : Nat
  n : Nat
  m : Nat
  aStride : Nat
  aAddr : Nat
  bStride : Nat
  bAddr : Nat
  bScl : Nat
  aScl : Nat
  aMask : Nat
  aRes : Nat
  bMask : Nat
  bRes : Nat
  rowStride : Nat
  kRows : Nat
  padR : Nat
  padL : Nat
  dil : Nat
  taps : Nat
  aux : Nat

/-- Table 4.5; extents, taps, rows and dilation are given as their values. -/
def mdOf (w : List W64) : MD :=
  { rdo := wf w 0 63 40, token := wf w 0 35 32, expFmt := wf w 0 25 24, expand := wf w 0 23 22, sax := wf w 0 21 21,
    accAdd := wf w 0 20 20, bank := wf w 0 19 18, sub := wf w 0 17 16, array := wf w 0 15 13, trans := wf w 0 12 12,
    flow := wf w 0 11 11, geom := wf w 0 10 9, fmtB := wf w 0 7 4, fmtA := wf w 0 3 0,
    k := wf w 1 47 32 + 1, n := wf w 1 15 8 + 1, m := wf w 1 6 0 + 1,
    aStride := wf w 2 47 24, aAddr := wf w 2 23 0, bStride := wf w 3 47 24, bAddr := wf w 3 23 0,
    bScl := wf w 4 47 24, aScl := wf w 4 23 0, aMask := wf w 5 47 24, aRes := wf w 5 23 0,
    bMask := wf w 6 47 24, bRes := wf w 6 23 0, rowStride := wf w 7 61 38, kRows := wf w 7 37 35 + 1,
    padR := wf w 7 34 32, padL := wf w 7 31 29, dil := wf w 7 28 27 + 1, taps := wf w 7 26 24 + 1, aux := wf w 7 23 0 }

/-- The Reserved bits of Table 4.5. -/
def mdReserved (w : List W64) : Bool :=
  wf w 0 39 36 != 0 || wf w 0 31 26 != 0 || wf w 0 8 8 != 0 || wf w 1 63 48 != 0 || wf w 1 31 16 != 0 || wf w 1 7 7 != 0 ||
  wf w 2 63 48 != 0 || wf w 3 63 48 != 0 || wf w 4 63 48 != 0 || wf w 5 63 48 != 0 || wf w 6 63 48 != 0 || wf w 7 63 62 != 0

/-- Operand width of a format code (Table 4.1). -/
def fmtWidth (c : Nat) : Nat := if c = 11 then 4 else fmtBits c

/-- The format of an expansion target: E4M3, E5M2, BF16 (Table 4.5), as a code of Table 4.1. -/
def expCode (e : Nat) : Nat := if e = 0 then 3 else if e = 1 then 4 else 1

/-- Element pairs per cell and cycle (R74). -/
def MD.d (x : MD) : Nat := 32 / max (fmtWidth x.fmtA) (fmtWidth (if x.expand = 0 then x.fmtB else expCode x.expFmt))

/-- Whether a code is an integer format, a float format of Tables 4.1 and 4.2. -/
def isFloatA (c : Nat) : Bool := decide (1 ≤ c) && decide (c ≤ 8)

/-- Tables 4.1 and 4.2, R66, R77. -/
def MD.pairOk (x : MD) : Bool :=
  if isFloatA x.fmtA then
    if x.expand = 0 then isFloatA x.fmtB || x.fmtB == 11
    else fmtInt x.fmtB && decide (x.expand ≤ 2) && decide (x.expFmt ≤ 2) && (x.expand == 2 || x.fmtB == 10)
  else fmtInt x.fmtA && fmtInt x.fmtB && x.expand == 0

/-- Groups of cell rows under row-reuse: G = 2^⌈log2 S⌉, and rows per group (R84). -/
def MD.h (x : MD) : Nat := 32 / (if x.taps = 1 then 1 else 2 ^ (Nat.log2 (x.taps - 1) + 1))

/-- k-steps of a pass. -/
def MD.nk (x : MD) : Nat :=
  if x.flow = 1 then x.kRows * cdiv x.k (x.h * x.d)
  else if x.trans = 1 then cdiv x.k 32
  else if x.geom = 2 then cdiv x.k (16 * x.d)
  else cdiv x.k (32 * x.d)

/-- Banks, or bank quadrants in split mode, that the pass occupies (R81). -/
def MD.banks (x : MD) : Nat :=
  if x.geom = 2 then cdiv x.m 16 else if x.trans = 1 then cdiv (x.m * x.d) 32 else cdiv x.m 32

/-- Pixels that enter group 0 in a k-step: P (R84); M otherwise. -/
def MD.lines (x : MD) : Nat := if x.flow = 1 then x.m + (x.taps - 1) * x.dil else x.m

/-- Contraction of the pass (R112). -/
def MD.contraction (x : MD) : Nat := if x.flow = 1 then x.kRows * x.taps * x.k else x.k

/-- Cell sums per k-group (Table 5.1). -/
def MD.cg (x : MD) : Nat := if x.flow = 1 then x.h * x.taps else if x.geom = 2 then 16 else 32

/-- κ of R112. -/
def MD.kappa (x : MD) : Nat :=
  let ng := x.nk * (if x.fmtA = 8 then 2 else 1) * (if x.fmtB = 8 then 2 else 1)
  max x.contraction ((x.cg + 2) * ng + 4)

/-- Extents and modes (Table 4.3, Table 4.4, R81, R83, R84). With A_STRIDE = 0, where the multiple that R84 asks of ROW_STRIDE is undefined, a
block-scaled A needs ROW_STRIDE = 0 (DESIGN CHOICE, log entry 159). -/
def MD.modeOk (x : MD) : Bool :=
  decide (x.geom ≤ 2) && decide (x.bank + x.banks ≤ 4) &&
  (if x.geom = 0 then x.array % 4 == 0 && decide (x.n ≤ 128) && decide (x.m ≤ 128)
   else if x.geom = 2 then decide (x.m ≤ 64) && decide (x.n ≤ 16)
   else if x.trans = 1 then decide (x.m ≤ 128 / x.d) && decide (x.n ≤ 32 * x.d)
   else decide (x.n ≤ 32) && decide (x.m ≤ 128)) &&
  (x.trans == 0 || (x.geom == 1 && x.flow == 0 && (!fmtInt x.fmtB || x.expand != 0))) &&
  (x.flow == 0 || (x.geom != 2 && x.trans == 0 && x.rowStride % 32 == 0 &&
    (!fmtBlock x.fmtA || (if x.aStride = 0 then x.rowStride == 0 else x.rowStride % x.aStride == 0))))

/-- Fields that the pass does not read are 0 (R86), those that its list names; B_SCL_ADDR and B_SAX at EXPAND = 1 and the scale addresses of an
integer pair are not among them (DESIGN CHOICE, log entry 159). -/
def MD.unreadOk (x : MD) : Bool :=
  (x.geom == 2 || x.sub == 0) && (x.fmtA == 8 || (x.aRes == 0 && x.aMask == 0)) && (x.fmtB == 8 || (x.bRes == 0 && x.bMask == 0)) &&
  (fmtBlock x.fmtA || fmtInt x.fmtA || x.aScl == 0) && (fmtBlock x.fmtB || fmtInt x.fmtB || x.bScl == 0) &&
  (x.expand != 0 || (x.aux == 0 && x.expFmt == 0 && x.sax == 0)) &&
  (x.flow == 1 || (x.rowStride == 0 && x.kRows == 1 && x.padL == 0 && x.padR == 0 && x.dil == 1 && x.taps == 1))

def MD.alignOk (x : MD) : Bool :=
  x.rdo % 64 == 0 && x.aAddr % 32 == 0 && x.aStride % 32 == 0 && x.bAddr % 32 == 0 && x.bStride % 32 == 0 && x.aRes % 32 == 0 &&
  x.bRes % 32 == 0 && x.aMask % 4 == 0 && x.bMask % 4 == 0 && (x.expand != 1 || x.aux % 64 == 0)

/-- A plane set as R87 addresses it. -/
structure Plane where
  fmt : Nat
  addr : Nat
  stride : Nat
  scl : Nat
  res : Nat
  mask : Nat

def MD.planeA (x : MD) : Plane := ⟨x.fmtA, x.aAddr, x.aStride, x.aScl, x.aRes, x.aMask⟩
def MD.planeB (x : MD) : Plane := ⟨x.fmtB, x.bAddr, x.bStride, x.bScl, x.bRes, x.bMask⟩

/-- Bytes that `n` packed elements take (R54). -/
def packLen (fmt n : Nat) : Nat := cdiv (n * fmtBits fmt) 8

/-- The ends of the planes of lines 0 to `lines` − 1 with `n` elements each; `last` is the offset of the last line. -/
def Plane.ends (p : Plane) (lines last n : Nat) : List Nat :=
  let per := p.stride / blockBytes p.fmt
  [p.addr + last + packLen p.fmt n] ++
  (if fmtBlock p.fmt then [p.scl + (lines - 1) * per + cdiv n 32] else []) ++
  (if p.fmt = 8 then [p.res + last + packLen p.fmt n, p.mask + 4 * ((lines - 1) / 32 * per + cdiv n 32)] else [])

/-- Elements of a B line and the number of B lines. -/
def MD.bLine (x : MD) : Nat × Nat :=
  if x.flow = 1 then ((x.kRows * x.taps - 1) * (cdiv x.k 32 * 32) + x.k, x.n)
  else if x.trans = 1 then (x.n, x.k) else (x.k, x.n)

/-- The end of every plane of the pass (R87, R88). -/
def MD.spans (x : MD) : List Nat :=
  let (bn, bl) := x.bLine
  let sx := if x.sax = 1 then bn else bl
  let real := x.lines - x.padL - x.padR
  let a := if x.flow = 1 then
      (if real = 0 then [] else
        x.planeA.ends ((x.kRows - 1) * (x.rowStride / x.aStride) + real) ((x.kRows - 1) * x.rowStride + (real - 1) * x.aStride) x.k)
    else x.planeA.ends x.m ((x.m - 1) * x.aStride) x.k
  let al := if x.flow = 1 then (x.kRows - 1) * (x.rowStride / x.aStride) + max real 1 else x.m
  a ++ x.planeB.ends bl ((bl - 1) * x.bStride) bn ++
  (if fmtInt x.fmtA ∧ (x.flow = 0 ∨ real ≠ 0) then [x.aScl + 4 * al] else []) ++
  (if fmtInt x.fmtB then [x.bScl + 4 * (if x.expand = 0 then bl else sx)] else []) ++
  (if x.expand = 1 then [x.aux + (if x.expFmt = 2 then 32 else 16)] else if x.expand = 2 then [x.aux + sx] else []) ++
  (if x.rdo = 0 then [] else [x.rdo + 64])

def localEnd : Nat := 0x300000

/-- The worst-case pass time of R96 in cycles. -/
def MD.worst (x : MD) : Nat :=
  let c := (if x.fmtB = 8 then 2 else 1) * max (x.lines + (if x.fmtA = 8 then x.lines else 0)) 32
  32 + x.nk * c + 40 + (if x.rdo = 0 then 0 else (if x.geom = 2 then 16 else 32) * x.banks)

/-- The check of R88 on the matrix descriptor itself. -/
def mdCheck (w : List W64) : Bool :=
  let x := mdOf w
  !mdReserved w && x.pairOk && x.modeOk && x.unreadOk && x.alignOk && x.spans.all (fun e => decide (e ≤ localEnd)) &&
  decide (x.worst ≤ Config.passLimit)

/-! ### The read-out descriptor (Table 6.1) -/

/-- A target of a read-out: format, axis and planes. -/
structure Target where
  fmt : Nat
  axis : Nat
  p : Plane

/-- A read-out descriptor's fields. -/
structure RD where
  t1 : Target
  t2 : Option Target
  rnd : Bool
  ovf : Bool
  src : Nat
  sel : Bool
  resMode : Nat
  maxFlag : Nat
  resThr : Nat
  code : Nat
  alpha : Nat
  cnt : Nat
  col : Nat
  row : Nat
  seed : Nat
  amax : Nat
  idxBase : Nat
  idxPitch : Nat

def rdOf (w : List W64) : RD :=
  let f := wf w 0 63 60
  let f2 := wf w 7 63 60
  { t1 := ⟨f, wf w 0 59 59, ⟨f, wf w 1 23 0, wf w 1 47 24, wf w 2 23 0, wf w 2 47 24, wf w 3 23 0⟩⟩,
    t2 := if f2 = 0 then none else some ⟨f2, wf w 7 59 59, ⟨f2, 32 * wf w 7 21 5, 32 * wf w 7 38 22, 32 * wf w 7 55 39, 0, 0⟩⟩,
    rnd := wf w 0 58 58 == 1, ovf := wf w 0 57 57 == 1, src := wf w 0 56 56, sel := wf w 0 55 55 == 1, resMode := wf w 0 54 53,
    maxFlag := wf w 0 52 47, resThr := wf w 0 46 41, code := wf w 0 39 32, alpha := wf w 0 31 0, cnt := wf w 3 47 24,
    col := wf w 4 47 24, row := wf w 4 23 0, seed := wf w 5 63 32, amax := wf w 5 23 0, idxBase := wf w 6 63 24,
    idxPitch := wf w 6 23 0 }

/-- Reserved fields and the unread fields of R127. -/
def rdUnreadOk (w : List W64) : Bool :=
  let f := wf w 0 63 60
  let f2 := wf w 7 63 60
  wf w 0 40 40 == 0 && wf w 1 63 48 == 0 && wf w 2 63 48 == 0 && wf w 3 63 48 == 0 && wf w 4 63 48 == 0 && wf w 5 31 24 == 0 &&
  wf w 7 58 56 == 0 && wf w 7 4 0 == 0 &&
  (f == 8 || (wf w 2 47 24 == 0 && wf w 3 23 0 == 0 && wf w 0 54 41 == 0)) &&
  (fmtBlock f || (wf w 0 56 56 == 0 && wf w 0 39 32 == 0)) &&
  (fmtBlock f || (f2 != 0 && fmtBlock f2) || wf w 0 55 55 == 0) &&
  (fmtBlock f || fmtInt f || wf w 2 23 0 == 0) &&
  (f2 != 0 || wf w 7 59 0 == 0) && ((f2 != 0 && fmtBlock f2) || wf w 7 55 39 == 0)

/-- The end of every span that a target writes or reads, with `m` rows and `n` columns. -/
def Target.ends (t : Target) (m n : Nat) : List Nat :=
  let lines := if t.axis = 0 then m else n
  t.p.ends lines ((lines - 1) * t.p.stride) (if t.axis = 0 then n else m) ++ (if fmtInt t.fmt then [t.p.scl + 4 * lines] else [])

/-- The ranges of local memory that a target writes; a partial block is written whole (R53). -/
def Target.dest (t : Target) (m n : Nat) : List (Nat × Nat) :=
  let e := if t.axis = 0 then n else m
  let per := t.p.stride / blockBytes t.fmt
  (List.range (if t.axis = 0 then m else n)).flatMap fun l =>
    [(t.p.addr + l * t.p.stride, if fmtBlock t.fmt then cdiv e 32 * blockBytes t.fmt else packLen t.fmt e)] ++
      (if fmtBlock t.fmt then [(t.p.scl + l * per, cdiv e 32)] else []) ++
      (if t.fmt = 8 then [(t.p.res + l * t.p.stride, 16 * cdiv e 32), (t.p.mask + 4 * (l / 32 * per), 4 * cdiv e 32)] else [])

/-- The check of R132. -/
def rdCheck (w : List W64) (m n : Nat) : Bool :=
  let r := rdOf w
  rdUnreadOk w && decide (wf w 0 63 60 ≤ 11) && decide (wf w 7 63 60 ≤ 7) && r.resMode != 3 && decide (r.maxFlag ≤ 32) &&
  !(r.src == 1 && r.code == 0xFF) &&
  r.t1.p.addr % 32 == 0 && r.t1.p.stride % 32 == 0 && r.t1.p.res % 32 == 0 && r.t1.p.mask % 4 == 0 && r.cnt % 16 == 0 &&
  r.row % 4 == 0 && r.col % 4 == 0 && r.amax % 4 == 0 && (!fmtInt r.t1.fmt || r.t1.p.scl % 4 == 0) &&
  (r.t1.ends m n ++ (match r.t2 with
      | some t => t.ends m n
      | none => []) ++
    (if r.row = 0 then [] else [r.row + 4 * m]) ++ (if r.col = 0 then [] else [r.col + 4 * n]) ++
    (if r.cnt = 0 then [] else [r.cnt + 16]) ++ (if r.amax = 0 then [] else [r.amax + 4])).all fun e => decide (e ≤ localEnd)

/-- The 8 words of a 64-byte descriptor in local memory. -/
def Core.words (k : Core) (a n : Nat) : List W64 := (List.range n).map fun i => BitVec.ofNat 64 (ofBytes (k.rd (a + 8 * i) 8))

/-- Read a matrix descriptor with its read-out descriptor. -/
def Core.mtxDesc (k : Core) (a : Nat) : Desc :=
  let ws := k.words a 8
  let ro := (mdOf ws).rdo
  { addr := a, words := ws, rdo := if ro = 0 then [] else k.words ro 8 }

/-- The address of the descriptor that fails the check at issue: the matrix descriptor's, or its read-out's (R88, R132). -/
def Core.mtxBad (k : Core) (a : Nat) : Option Nat :=
  if a % 64 ≠ 0 ∨ localEnd < a + 64 then some a
  else
    let d := k.mtxDesc a
    if ¬ mdCheck d.words then some a
    else if (mdOf d.words).rdo ≠ 0 ∧ ¬ rdCheck d.rdo (mdOf d.words).m (mdOf d.words).n then some (mdOf d.words).rdo
    else none

/-- The arrays a pass needs (R91), by number in the core: those that receive columns in quad mode. -/
def MD.arrays (x : MD) : List Nat := if x.geom = 0 then (List.range (cdiv x.n 32)).map (x.array + ·) else [x.array]

/-- The arrays that a descriptor names (R101): all of the quad in quad mode. -/
def MD.named (x : MD) : List Nat := if x.geom = 0 then (List.range 4).map (x.array + ·) else [x.array]

/-- Where output element (m, n) goes (Table 4.3): array, bank, row, column. -/
def MD.place (x : MD) (m n : Nat) : Nat × Nat × Nat × Nat :=
  if x.trans = 1 then
    let q := 32 * x.d * m + n
    (x.array, x.bank + q / 1024, q % 1024 / 32, q % 32)
  else if x.geom = 2 then (x.array, x.bank + m / 16, 16 * (x.sub / 2) + m % 16, 16 * (x.sub % 2) + n)
  else if x.geom = 0 then (x.array + n / 32, x.bank + m / 32, m % 32, n % 32)
  else (x.array, x.bank + m / 32, m % 32, n)

end Sys2Proof.Machine
end

