-- ==== Sys2Proof/Machine/MatrixSum.lean ====
section
/-! DEFINITION. What a pass computes (R75, R79, R83 to R85, R105 to R110): operand values, cell sums, the window, the fold,
quadrant counts, spills and merges. -/

namespace Sys2Proof.Machine

/-! ### Operand values -/

/-- The code of `bits` bits at element `j` of the line whose elements start at `a` (R54). -/
def Core.codeAt (k : Core) (a bits j : Nat) : Nat :=
  if bits = 2 then ofBytes (k.rd (a + j / 4) 1) / 4 ^ (j % 4) % 4
  else if bits = 4 then ofBytes (k.rd (a + j / 2) 1) / 16 ^ (j % 2) % 16
  else ofBytes (k.rd (a + j * (bits / 8)) (bits / 8))

/-- Byte addresses, with lengths, that reading element `j` of line `l` touches: element, scale, mask and residual. -/
def Core.elemReads (k : Core) (p : Plane) (off l j : Nat) : List (Nat × Nat) :=
  let bits := fmtBits p.fmt
  let per := p.stride / blockBytes p.fmt
  let m := p.mask + 4 * (l / 32 * per + j / 32)
  [(p.addr + off + j * bits / 8, max 1 (bits / 8))] ++ (if fmtBlock p.fmt then [(p.scl + l * per + j / 32, 1)] else []) ++
  (if p.fmt = 8 then (m, 4) :: (if (k.w32 m).testBit (l % 32) then [(p.res + off + j / 2, 1)] else []) else [])

/-- An operand element with its residual, where its block is flagged (R55 to R58, R87): `off` is the line's byte offset, `l` its
line number, `j` the element. -/
def Core.elem (k : Core) (p : Plane) (off l j : Nat) : FV × Option FV :=
  let code := k.codeAt (p.addr + off) (fmtBits p.fmt) j
  if fmtBlock p.fmt then
    let per := p.stride / blockBytes p.fmt
    let sc := ofBytes (k.rd (p.scl + l * per + j / 32) 1)
    let base := scaled sc (elemVal p.fmt code)
    if p.fmt = 8 ∧ (k.w32 (p.mask + 4 * (l / 32 * per + j / 32))).testBit (l % 32) then
      let r := e2m1.decode (k.codeAt (p.res + off) 4 j)
      (base, some (scaled sc (FV.ofRat (r.toRat / 8) r.neg)))
    else (base, none)
  else (elemVal p.fmt code, none)

/-- The address of the FP32 scale, or of the zero point, of an expanded element (R87). -/
def MD.saxIdx (x : MD) (line j : Nat) : Nat := if x.sax = 1 then j else line

/-- An expanded integer weight (R66, R67): stored line `line`, element `j`; with the code and counts of its rounding. An infinite sigma
gives the infinity of the format (DESIGN CHOICE, log entry 134). -/
def Core.expanded (k : Core) (x : MD) (line j : Nat) : FV × Enc :=
  let code := k.codeAt (x.bAddr + line * x.bStride) (fmtBits x.fmtB) j
  let f := fmtFloat (expCode x.expFmt)
  if x.expand = 1 then (f.decode (k.codeAt x.aux (f.bits) code), ⟨0, 0, 0⟩)
  else
    let z := sext 8 (ofBytes (k.rd (x.aux + x.saxIdx line j) 1))
    let σ := f32 (k.w32 (x.bScl + 4 * x.saxIdx line j))
    let e := f.encode false .rne (fvMul (FV.ofRat (((sext (fmtBits x.fmtB) code) - z : Int) : Rat)) σ)
    (f.decode e.code, e)

/-- An A element of a k-step: padding (a zero that the feeder inserts), or a stored element. -/
inductive APos where
  | pad
  | at_ (off l j : Nat)
  deriving DecidableEq, Repr

/-- One product of the pass: the A element and the B element (stored line, element). -/
structure Term where
  a : APos
  bl : Nat
  bj : Nat

/-- The A position of pixel `p` of kernel row `kr`, channel `c` (R84). -/
def MD.pixel (x : MD) (kr p c : Nat) : APos :=
  if p < x.padL ∨ x.lines - x.padR ≤ p then .pad
  else .at_ (kr * x.rowStride + (p - x.padL) * x.aStride) (kr * (x.rowStride / x.aStride) + (p - x.padL)) c

/-- Cells of k-step `j` for output (m, n), each with its products: Table 5.1 and R79, R83, R84; elements at or beyond K are not
fed (R85). -/
def MD.cells (x : MD) (m n j : Nat) : List (List Term) :=
  let d := x.d
  if x.flow = 1 then
    let nb := cdiv x.k (x.h * d)
    let kr := j / nb
    let b := j % nb
    (List.range x.taps).flatMap fun t =>
      (List.range x.h).map fun r =>
        ((List.range d).map fun i => x.h * d * b + d * r + i).filterMap fun c =>
          if c < x.k then some ⟨x.pixel kr (m + t * x.dil) c, n, (kr * x.taps + t) * (cdiv x.k 32 * 32) + c⟩ else none
  else if x.trans = 1 then
    (List.range 32).map fun c => if 32 * j + c < x.k then [⟨.at_ (m * x.aStride) m (32 * j + c), 32 * j + c, n⟩] else []
  else
    let rows := if x.geom = 2 then 16 else 32
    (List.range rows).map fun r =>
      ((List.range d).map fun i => rows * d * j + d * r + i).filterMap fun e =>
        if e < x.k then some ⟨.at_ (m * x.aStride) m e, n, e⟩ else none

def Core.aVal (k : Core) (x : MD) : APos → FV × Option FV
  | .pad => (.fin false 0, none)
  | .at_ off l j => k.elem x.planeA off l j

def Core.bVal (k : Core) (x : MD) (l j : Nat) : FV × Option FV :=
  if x.expand = 0 then k.elem x.planeB (l * x.bStride) l j else ((k.expanded x l j).1, none)

/-- A product by combination (R109): 0 A × B, 1 A residual × B, 2 A × B residual, 3 both residuals. -/
def combine (q : Nat) (a b : FV × Option FV) : Option FV :=
  match q with
  | 0 => some (fvMul a.1 b.1)
  | 1 => a.2.map fun r => fvMul r b.1
  | 2 => b.2.map fun r => fvMul a.1 r
  | _ => match a.2, b.2 with
    | some r, some t => some (fvMul r t)
    | _, _ => none

/-- The k-groups of output (m, n), in the order of R109: each a list of cells with their products. `desc` takes the k-steps in
descending order, as a shadow pass does (R383). -/
def Core.groupsOf (k : Core) (x : MD) (m n : Nat) (desc : Bool := false) : List (List (List FV)) :=
  (if desc then (List.range x.nk).reverse else List.range x.nk).flatMap fun j =>
    let cells := (x.cells m n j).map fun ts => ts.map fun t => (k.aVal x t.a, k.bVal x t.bl t.bj)
    (List.range 4).map fun q => cells.map fun ts => ts.filterMap fun p => combine q p.1 p.2

/-! ### The window (R106, R107) -/

/-- Truncation toward zero to a multiple of q. -/
def truncTo (x q : Rat) : Rat := if x < 0 then -((ratFloor (-x / q) : Rat) * q) else (ratFloor (x / q) : Rat) * q

/-- The least a with |w| < 2^(a+6). -/
def alignOf (w : Rat) : Int := flog2 (ratAbs w) - 5

/-- One k-group, its cell sums given, into the window. -/
def windowStep (s : Rat × Option Int) (g : List Rat) : Rat × Option Int :=
  let top := g.foldl (fun a c => max a (ratAbs c)) 0
  if top = 0 then s
  else
    let e := flog2 top
    let (w, a) : Rat × Int := match s.2 with
      | none => (truncTo s.1 (pow2 (e - 50)), e)
      | some a => if a < e then (truncTo s.1 (pow2 (e - 50)), e) else (s.1, a)
    let w := w + (g.map fun c => truncTo c (pow2 (a - 50))).sum
    if pow2 (a + 6) ≤ ratAbs w then
      let a := alignOf w
      (truncTo w (pow2 (a - 50)), some a)
    else (w, some a)

/-- The pass sum and the final alignment of its window (R106, R107). -/
def passWin (groups : List (List (List FV))) : FV × Option Int :=
  let ps := groups.flatten.flatten
  let pos := ps.any fun v => v == .inf false
  let neg := ps.any fun v => v == .inf true
  if ps.any FV.isNan || (pos && neg) then (.nan, none)
  else if pos || neg then (.inf neg, none)
  else
    let w := groups.foldl (fun s g => windowStep s (g.map fun c => (c.map FV.toRat).sum)) ((0 : Rat), none)
    (FV.ofRat w.1, w.2)

/-- The value and the alignment of a window's contents. -/
def winVal : WinSum → FV × Option Int
  | .nan => (.nan, none)
  | .inf s => (.inf s, none)
  | .fin s m a => (FV.ofRat ((if s then -1 else 1) * (m.toNat : Rat) * pow2 (a - 50)), some a)

/-- What the window of the owner's or the shadow array ends with for an output: its pass sum, or what a defect made of it. -/
def Core.winOf (k : Core) (x : MD) (errs : List SumErr) (shadow : Bool) (o : Nat × Nat) : FV × Option Int :=
  match errs.find? fun e => e.shadow == shadow && e.m == o.1 && e.n == o.2 with
  | some e => winVal e.sum
  | none => passWin (k.groupsOf x o.1 o.2 shadow)

/-! ### The comparison of a shadow pass (R384) -/

/-- In-extent outputs of a pass. -/
def MD.outputs (x : MD) : List (Nat × Nat) := (List.range x.m).flatMap fun m => (List.range x.n).map fun n => (m, n)

/-- t of R384: TOL16, TOL8 or TOL4 of MTX_CHECK by the operand width, at most 35. -/
def MD.tol (x : MD) (check : W32) : Nat :=
  min 35 (if x.d = 2 then fld check 29 24 else if x.d = 4 then fld check 23 18 else fld check 17 12)

/-- The comparison of one output passes. -/
def winAgree (int : Bool) (t : Nat) (p q : FV × Option Int) : Bool :=
  match p.1, q.1 with
  | .fin _ _, .fin _ _ =>
    match p.2, q.2 with
    | none, none => p.1 == q.1
    | a, b =>
      if int then p.1 == q.1
      else decide (ratAbs (p.1.toRat - q.1.toRat) ≤ pow2 (max (a.getD (b.getD 0)) (b.getD (a.getD 0)) - t))
  | u, v => u == v

/-- The first output of the shadowed arrays `as`, in order of m and then n, whose comparison fails, with the difference p − p′ as FP32 (log 137). -/
def Core.shadowDiff (k : Core) (x : MD) (as : List Nat) (check : W32) (errs : List SumErr) : Option (Nat × Nat × W32) :=
  if as = [] then none
  else (x.outputs.filter fun o => as.contains (x.place o.1 o.2).1).findSome? fun o =>
    let p := k.winOf x errs false o
    let q := k.winOf x errs true o
    if winAgree (fmtInt x.fmtA && fmtInt x.fmtB) (x.tol check) p q then none
    else some (o.1, o.2, BitVec.ofNat 32 (toF32 (fvAdd p.1 q.1.negate)))

/-! ### Pairs, folds and quadrants (R103, R104, R108, R112) -/

def accKey (a b row col : Nat) : Nat := (a * 4 + b) * 1024 + row * 32 + col
def quadKey (a b q : Nat) : Nat := (a * 4 + b) * 4 + q
def quadOf (row col : Nat) : Nat := 2 * (row / 16) + col / 16

def Core.pair (k : Core) (a b row col : Nat) : Pair := tget {} k.acc (accKey a b row col)
def Core.setPair (k : Core) (a b row col : Nat) (p : Pair) : Core := { k with acc := tset {} k.acc (accKey a b row col) p }
def Core.quad (k : Core) (a b q : Nat) : Quad := tget {} k.quads (quadKey a b q)
def Core.setQuad (k : Core) (a b q : Nat) (x : Quad) : Core := { k with quads := tset {} k.quads (quadKey a b q) x }

/-- The value of a pair (R104). -/
def Pair.val (p : Pair) : FV :=
  match f32 p.hi.toNat with
  | .fin s m => fvAdd (.fin s m) (f32 p.lo.toNat)
  | v => v

/-- Fold an exact value into a pair (R108). -/
def Pair.fold (p : Pair) (x : FV) : Pair :=
  match fvAdd p.val x with
  | .nan => { hi := BitVec.ofNat 32 fp32.nanCode, lo := 0 }
  | .inf s => { hi := BitVec.ofNat 32 (toF32 (.inf s)), lo := 0 }
  | .fin s m =>
    let t := FV.ofRat (FV.fin s m).toRat
    let hi := toF32 t
    match f32 hi with
    | .fin hs hm =>
      if hm = 0 then { hi := BitVec.ofNat 32 hi, lo := 0 }
      else { hi := BitVec.ofNat 32 hi, lo := BitVec.ofNat 32 (toF32 (FV.ofRat (t.toRat - (FV.fin hs hm).toRat))) }
    | _ => { hi := BitVec.ofNat 32 hi, lo := 0 }

/-- The quadrants a pass touches: array, bank, quadrant, with how many of its 256 elements are in extent. -/
def MD.touched (x : MD) : List ((Nat × Nat × Nat) × Nat) :=
  let qs := x.outputs.map fun o => let (a, b, r, c) := x.place o.1 o.2; (a, b, quadOf r c)
  qs.dedup.map fun q => (q, qs.count q)

/-- The folds of a pass (R80, R108). -/
def Core.foldPass (k : Core) (x : MD) (errs : List SumErr := []) : Core :=
  x.outputs.foldl (fun (k' : Core) o =>
    let (a, b, r, c) := x.place o.1 o.2
    let old := if x.accAdd = 0 then ({} : Pair) else k'.pair a b r c
    k'.setPair a b r c (old.fold (k.winOf x errs false o).1)) k

/-- The counts of a pass (R112): CHAIN and SEG saturate. -/
def Core.countPass (k : Core) (x : MD) : Core :=
  let κ := x.kappa
  x.touched.foldl (fun k t =>
    let (a, b, q) := t.1
    let o := k.quad a b q
    k.setQuad a b q (if x.accAdd = 0 ∧ t.2 = 256 then { ns := 0, live := false, seg := min 0x1FFFF κ, chain := min 0x1FFFFFF κ }
      else { o with seg := min 0x1FFFF (o.seg + κ), chain := min 0x1FFFFFF (o.chain + κ) })) k

/-! ### Cell registers (R79, R84) -/

def cellKey (a row col : Nat) : Nat := 1024 * a + 32 * row + col

/-- The weight tile of k-step `j`: each cell that takes weights, with the stored B elements (line, element) it takes (R79, R81, R83, R84). -/
def MD.tile (x : MD) (j : Nat) : List (Nat × List (Nat × Nat)) :=
  (if x.trans = 1 then
    (List.range 32).flatMap fun c => (List.range 32).map fun r =>
      (cellKey x.array r c, ((List.range x.d).map fun i => x.d * r + i).filterMap fun e =>
        if 32 * j + c < x.k ∧ e < x.n then some (32 * j + c, e) else none)
  else
    (List.range x.n).flatMap fun n =>
      let (a, _, row, col) := x.place 0 n
      (x.cells 0 n j).mapIdx fun i ts => (cellKey a (row + i) col, ts.map fun t => (t.bl, t.bj))).filter fun e => !e.2.isEmpty

/-- The code of a B element as a cell takes it: stored, or expanded (R66, R67). -/
def Core.bCode (k : Core) (x : MD) (e : Nat × Nat) : Nat :=
  let code := k.codeAt (x.bAddr + e.1 * x.bStride) (fmtBits x.fmtB) e.2
  if x.expand = 0 then code
  else if x.expand = 1 then k.codeAt x.aux (fmtFloat (expCode x.expFmt)).bits code
  else (k.expanded x e.1 e.2).2.code

/-- The tile of k-step `j` in the cells: it enters through the shadow registers (R79; log 138). -/
def Core.loadTile (k : Core) (x : MD) (j : Nat) : Core :=
  { k with cells := (x.tile j).foldl (fun m e =>
      let w := e.2.map (k.bCode x)
      tmod {} m e.1 fun q => { q with weight := w, next := w }) k.cells }

/-- The code of an A position. -/
def Core.aCode (k : Core) (x : MD) : APos → Nat
  | .pad => 0
  | .at_ off _ j => k.codeAt (x.aAddr + off) (fmtBits x.fmtA) j

/-- The row buffers after the last k-step of a pass under row-reuse: the last 4 pixels of each group's taps (R84; log 138). -/
def Core.fillRows (k : Core) (x : MD) : Core :=
  if x.flow ≠ 1 then k
  else
    let nb := cdiv x.k (x.h * x.d)
    let kr := (x.nk - 1) / nb
    let b := (x.nk - 1) % nb
    let cells := (List.range x.n).flatMap fun n => (List.range x.taps).flatMap fun t => (List.range x.h).map fun r => (n, t, r)
    { k with cells := cells.foldl (fun m e =>
        let (n, t, r) := e
        let (a, _, row, col) := x.place 0 n
        let px := ((List.range x.m).drop (x.m - 4)).map fun i =>
          (((List.range x.d).map fun q => x.h * x.d * b + x.d * r + q).filter fun c => decide (c < x.k)).map fun c =>
            k.aCode x (x.pixel kr (i + t * x.dil) c)
        tmod {} m (cellKey a (row + t * x.h + r) col) fun q => { q with rows := px }) k.cells }

/-! ### Spills and merges (R116, R117) -/

def wideAddr (wide a b row col : Nat) : Nat := wide + 0x2000 * (4 * a + b) + 8 * (32 * row + col)

/-- The rows and columns of a quadrant. -/
def quadElems (q : Nat) : List (Nat × Nat) :=
  (List.range 16).flatMap fun r => (List.range 16).map fun c => (16 * (q / 2) + r, 16 * (q % 2) + c)

def Core.slotPair (k : Core) (wide a b row col : Nat) : Pair :=
  let p := wideAddr wide a b row col
  { hi := BitVec.ofNat 32 (k.w32 p), lo := BitVec.ofNat 32 (k.w32 (p + 4)) }

/-- A poisoned unit of a quadrant's slot. -/
def Core.slotPoison (k : Core) (wide a b q : Nat) : Option Nat :=
  (((List.range 16).map fun r => wideAddr wide a b (16 * (q / 2) + r) (16 * (q % 2))).find? fun p => k.poisoned p 128)

/-- The pairs of a quadrant's slot that software has written become undefined (R119, log 161): what a merge, or a spill into a LIVE slot, then finds
there. -/
def Core.slotOpen (k : Core) (rnd wide a b q : Nat) : Core :=
  k.undef rnd ((quadElems q).filterMap fun e =>
    let p := wideAddr wide a b e.1 e.2
    if k.hits.contains ((p - wide) / 8) then some (p, 8) else none)

/-- A merge: the slot's pairs into the bank's. -/
def Core.merge (k : Core) (rnd wide a b q : Nat) : Core :=
  let k := k.slotOpen rnd wide a b q
  let k := (quadElems q).foldl (fun k e => k.setPair a b e.1 e.2 ((k.pair a b e.1 e.2).fold (k.slotPair wide a b e.1 e.2).val)) k
  let o := k.quad a b q
  k.setQuad a b q { o with live := false, seg := 0, ns := min 0xFFFF (o.ns + 1) }

/-- A spill: the bank's pairs into the slot, the bank cleared. -/
def Core.spill (k : Core) (rnd wide a b q : Nat) : Core :=
  let o := k.quad a b q
  let k := if o.live then k.slotOpen rnd wide a b q else k
  let k := (quadElems q).foldl (fun (k : Core) e =>
    let p := if o.live then (k.slotPair wide a b e.1 e.2).fold (k.pair a b e.1 e.2).val else k.pair a b e.1 e.2
    (({ k with mem := tsetMany 0 k.mem (wideAddr wide a b e.1 e.2) (toBytes 4 p.hi.toNat ++ toBytes 4 p.lo.toNat),
               poison := k.poison.filter (· ≠ wideAddr wide a b e.1 e.2 / 32) }).setPair a b e.1 e.2 {})) k
  k.setQuad a b q { o with live := true, seg := 0, ns := min 0xFFFF (o.ns + 1) }

end Sys2Proof.Machine
end

