-- ==== Sys2Proof/Machine/Matrix.lean ====
section
/-! DEFINITION. The matrix commands (R89 to R93, R99 to R101, R114, R117, R126 to R143, R381 to R385): issue, pass start, pass
end with its read-out, and completion. -/

namespace Sys2Proof.Machine

/-! ### The read-out (R126 to R131, R140, R141) -/

/-- Codes of `bits` bits packed least significant first (R54). -/
def packBits (bits : Nat) (codes : List Nat) : List Byte :=
  toBytes (cdiv (codes.length * bits) 8) (codes.foldr (fun c acc => c + 2 ^ bits * acc) 0)

/-- The exact source value of output (m, n) (R126). -/
def Core.roVal (k : Core) (x : MD) (r : RD) (m n : Nat) : FV :=
  let one : FV := .fin false 1
  let rf := if r.row = 0 then one else f32 (k.w32 (r.row + 4 * m))
  let cf := if r.col = 0 then one else f32 (k.w32 (r.col + 4 * n))
  let (a, b, row, col) := x.place m n
  fvMul (fvMul (fvMul (f32 r.alpha) rf) cf) (k.pair a b row col).val

/-- One converted line of a target: what to write where, and for block targets its blocks. -/
structure LineOut where
  writes : List (Nat × List Byte) := []
  blocks : List QBlock := []
  counts : Counts := {}

/-- Split a list into blocks of 32; the last may be partial. -/
def blocksOf {α : Type} : Nat → List α → List (List α)
  | 0, _ => []
  | n + 1, l => if l.isEmpty then [] else l.take 32 :: blocksOf n (l.drop 32)

/-- The padded codes of a block (R53: missing positions take code 0). -/
def padBlock (codes : List Nat) : List Nat := codes ++ List.replicate (32 - codes.length) 0

/-- How a quantizer is told to convert: rounding per purpose and element, overflow, scale choice and residual rule. -/
structure QMode where
  ovf : Bool
  imm : Option Nat
  sel : Bool
  resMode : Nat
  resThr : Nat
  rm : Nat → Nat → RMode

/-- Line `l` of a target: `xs` its values; `σ` the line scale of an integer target. -/
def Plane.line (p : Plane) (q : QMode) (σ : FV) (l : Nat) (xs : List FV) : LineOut :=
  let bits := fmtBits p.fmt
  let base := p.addr + l * p.stride
  if fmtBlock p.fmt then
    let bs := (blocksOf xs.length xs).zipIdx.map fun e =>
      quantBlock p.fmt q.imm q.sel q.resMode q.resThr (fun pu j => q.rm pu (32 * e.2 + j)) e.1
    { writes := [(base, bs.flatMap fun b => packBits bits (padBlock b.codes)),
                 (p.scl + l * (p.stride / blockBytes p.fmt), bs.map fun b => BitVec.ofNat 8 b.scale)],
      blocks := bs,
      counts := { clip := (bs.map QBlock.clip).sum, nan := (bs.map QBlock.nan).sum, written := bs.length } }
  else
    let es := xs.mapIdx fun j x => if fmtInt p.fmt then encLine p.fmt σ (q.rm 0 j) x else encPlain p.fmt q.ovf (q.rm 0 j) x
    { writes := [(base, packBits bits (es.map Enc.code))],
      counts := { clip := (es.map Enc.clip).sum, nan := (es.map Enc.nan).sum } }

/-- The blocks of a B4R target that are flagged (R138 step 3): at most `maxFlag` per tile. -/
def flaggedBlocks (maxFlag : Nat) (ls : List (List QBlock)) : List (Nat × Nat) :=
  let nb := (ls.map List.length).foldl max 0
  (List.range (cdiv ls.length 32)).flatMap fun t => (List.range nb).flatMap fun b =>
    let cands := (List.range 32).filterMap fun i =>
      match (ls[32 * t + i]?).bind fun l => l[b]? with
      | some q => if q.cand then some (32 * t + i, q.ratio) else none
      | none => none
    (chooseFlags maxFlag cands).map fun l => (l, b)

/-- The writes of a B4R target's residuals and the new mask words (R131, R138). -/
def Core.resWrites (k : Core) (p : Plane) (flags : List (Nat × Nat)) (ls : List (List QBlock)) : List (Nat × List Byte) :=
  let per := p.stride / blockBytes p.fmt
  let nb := (ls.map List.length).foldl max 0
  let res := flags.filterMap fun f => ((ls[f.1]?).bind fun l => l[f.2]?).map fun q =>
    (p.res + f.1 * p.stride + 16 * f.2, packBits 4 (padBlock q.res))
  let masks := (List.range (cdiv ls.length 32)).flatMap fun t => (List.range nb).map fun b =>
    let a := p.mask + 4 * (t * per + b)
    let own := (List.range 32).filter fun i => decide (32 * t + i < ls.length)
    let keep := (maskList 32 (k.w32 a)).filter fun i => !own.contains i
    let set := own.filter fun i => flags.contains (32 * t + i, b)
    (a, toBytes 4 (maskOf (keep ++ set)))
  res ++ masks

/-- All lines of a target converted: its writes and counts. -/
def Core.convert (k : Core) (p : Plane) (q : QMode) (maxFlag lines : Nat) (rmOf : Nat → Nat → Nat → RMode) (src : Nat → List FV) :
    List (Nat × List Byte) × Counts :=
  let ls := (List.range lines).map fun l =>
    p.line { q with rm := rmOf l } (if fmtInt p.fmt then f32 (k.w32 (p.scl + 4 * l)) else .nan) l (src l)
  let writes := ls.flatMap LineOut.writes
  let c := ls.foldl (fun a l => a.add l.counts) ({} : Counts)
  if p.fmt = 8 then
    let bl := ls.map LineOut.blocks
    let flags := flaggedBlocks maxFlag bl
    (writes ++ k.resWrites p flags bl, { c with flagged := flags.length })
  else (writes, c)

/-- One target of a read-out (R128, R129). -/
def Core.roTarget (k : Core) (x : MD) (r : RD) (t : Target) (primary : Bool) (key : Nat) : List (Nat × List Byte) × Counts :=
  let idx := fun l j => if t.axis = 0 then r.idxBase + l * r.idxPitch + j else r.idxBase + j * r.idxPitch + l
  let q : QMode := { ovf := r.ovf, imm := if primary && r.src == 1 then some r.code else none, sel := r.sel,
                     resMode := if primary then r.resMode else 0, resThr := r.resThr, rm := fun _ _ => .rne }
  k.convert t.p q r.maxFlag (if t.axis = 0 then x.m else x.n)
    (fun l pu j => rmodeOf r.rnd key r.seed pu (idx l j))
    (fun l => if t.axis = 0 then (List.range x.n).map fun n => k.roVal x r l n else (List.range x.m).map fun m => k.roVal x r m l)

/-- The largest finite |v| of a read-out (R141). -/
def Core.roMax (k : Core) (x : MD) (r : RD) : Rat :=
  x.outputs.foldl (fun a o => match k.roVal x r o.1 o.2 with
    | .fin _ m => max a m
    | _ => a) 0

/-- The read-out's writes: targets, counter record and maximum word, with its counts. -/
def Core.readOut (k : Core) (x : MD) (r : RD) (key : Nat) (extra : Counts) : List (Nat × List Byte) × Counts :=
  let (w1, c1) := k.roTarget x r r.t1 true key
  let (w2, c2) := match r.t2 with
    | some t => k.roTarget x r t false key
    | none => ([], {})
  let c := (c1.add c2).add extra
  let old := (List.range 4).map fun i => k.w32 (r.cnt + 4 * i)
  (w1 ++ w2 ++ (if r.cnt = 0 then [] else [(r.cnt, (c.record old).flatMap (toBytes 4))]) ++
    (if r.amax = 0 then [] else [(r.amax, toBytes 4 (amaxWord (k.w32 r.amax) (k.roMax x r)))]), c)

/-! ### Issue (R88 to R91, R101, R382) -/

/-- Run length of a shadow fraction (R381). -/
def shadowRun (f : Nat) : Nat := if f = 0 then 0 else if f = 1 then 64 else if f = 2 then 16 else if f = 3 then 4 else 1

/-- The sampler of an array counts a pass: whether it selects it (R382). A run of another fraction than the one in effect ends there. -/
def Sampler.next (x : Sampler) (len pick : Nat) : Sampler × Bool :=
  let x : Sampler := if x.left = 0 ∨ x.len ≠ len then { len := len, left := len, chosen := pick % len } else x
  ({ x with left := x.left - 1 }, x.chosen == x.left - 1)

/-- The samplers of a pass's arrays count it (R382): the samplers, and the arrays that select it. -/
def Core.sample (k : Core) (rnd len : Nat) (as : List Nat) : Tbl Sampler × List Nat :=
  if len = 0 then (k.samplers, [])
  else as.zipIdx.foldl (fun (acc : Tbl Sampler × List Nat) a =>
    let (x, sel) := (tget {} acc.1 a.1).next len (Config.pick (rnd + a.2) len)
    (tset {} acc.1 a.1 x, if sel then acc.2 ++ [a.1] else acc.2)) (k.samplers, [])

/-- Room in the quad's queue and in the token counter. -/
def Core.mtxRoom (k : Core) (gr : Group) (d : Desc) : Bool :=
  let x := mdOf d.words
  decide ((k.passes.filter fun p => p.quad == x.array / 4 && p.phase == .queued).length < Config.queueDepth) &&
    decide (gr.token x.token < Config.tokenMax)

/-- The local memory that a pass's read-out writes (R92, R133): destination planes, counter record and maximum word. -/
def passDest (d : Desc) : List (Nat × Nat) :=
  if d.rdo = [] then []
  else
    let m := mdOf d.words
    let r := rdOf d.rdo
    r.t1.dest m.m m.n ++ (match r.t2 with
      | some t => t.dest m.m m.n
      | none => []) ++ (if r.cnt = 0 then [] else [(r.cnt, 16)]) ++ (if r.amax = 0 then [] else [(r.amax, 4)])

/-- One pass enters the queue of its quad (R89 to R91), with the samplers' choice (R382). The group's counter rises. -/
def State.mtxEnter (s : State) (c slot : Nat) (y : Ctx) (gr : Group) (d : Desc) : State :=
  let x := mdOf d.words
  let len := shadowRun (s.fractionOf y.stall)
  let (sms, sel) := (s.core c).sample s.rnd len x.arrays
  let p : Pass := { id := s.nextId + 1, slot := slot, serial := gr.serial, quad := x.array / 4, desc := d, selected := sel, rkey := y.rkey,
                    pc := gr.topPath.1, mask := gr.topPath.2, dest := passDest d }
  let s := s.modCore c fun k => { k with passes := k.passes ++ [p], samplers := sms }
  let s := s.setGroup c slot { gr with tokens := tmod 0 gr.tokens x.token (· + 1) }
  { s with nextId := s.nextId + 1, rnd := s.rnd + x.arrays.length }

/-- The first fenced array that a descriptor names (R101), as the global number. -/
def State.fencedArray (s : State) (c : Nat) (d : Desc) : Option Nat :=
  ((mdOf d.words).named.map (8 * c + ·)).find? s.led.arrFenced.contains

/-- The issuing set's descriptor address, where it is uniform (R157). -/
def IEnv.uniform (e : IEnv) : Option Nat :=
  match e.ex with
  | [] => none
  | l :: t => if t.all fun i => e.rA i == e.rA l then some (e.rA l) else none

/-- MXI. The descriptors are read and checked at the first attempt; an issue that waits for room keeps the copy (DESIGN CHOICE, log entry 45). -/
def execMxi (c : CoreNo) (g : SlotNo) (w : W64) (s : State) : Res :=
  .next (s.issue c g w 0x70 { form := .fG, listed := wMod w == 0, a := .reg } fun e s =>
    match e.ex with
    | [] => e.retire e.gr s
    | l :: _ =>
      match e.uniform with
      | none => e.fault 0x0B (e.rA l) s
      | some a =>
        let k := s.core e.c
        match k.mtxBad a with
        | some b => e.fault causeDesc b s
        | none =>
          let d := k.mtxDesc a
          if k.poisoned a 64 ∨ (d.rdo ≠ [] ∧ k.poisoned (mdOf d.words).rdo 64) then e.fault causePoison a s
          else
            match s.fencedArray e.c d with
            | some ar => s.ctxFault e.n { cause := 0x0F, pc := e.pc, mask := e.act, slot := e.g, arg2 := a, core := e.c, opc := 0x70, array := some ar }
            | none =>
              if k.mtxRoom e.gr d then
                let s := s.mtxEnter e.c e.g e.x e.gr d
                match s.group? e.c e.g with
                | some gr => e.retire gr s
                | none => s
              else s.setGroup e.c e.g { e.gr with held := .mxi d })

/-! ### Start of a pass (R91, R117, R383) -/

/-- Two passes need the same array: they end and complete in issue order (R91, R95, R109). -/
def sharesArray (x y : MD) : Bool := x.arrays.any y.arrays.contains

/-- Two passes stream apart: different arrays, or different sub-arrays of one. -/
def apart (x y : MD) : Bool := !sharesArray x y || (x.geom == 2 && y.geom == 2 && x.sub != y.sub)

/-- A shadow pass stands in the queue of array `ar` (global) or streams on it (R383). -/
def State.shadowBusy (s : State) (ar : Nat) : Bool :=
  s.cores.any fun e => e.2.passes.any fun p => p.phase != .ended && p.shadow.any fun a => a.2 == ar

/-- An array of a core streams a pass of its own. -/
def Core.arrayBusy (k : Core) (a : Nat) : Bool := k.passes.any fun p => p.phase == .streaming && (mdOf p.desc.words).arrays.contains a

/-- A shadow array for core `c` (R383), `not` aside: an unfenced array of core c xor 1, else xor 2, else xor 3, the one with the fewest queued
passes. -/
def State.shadowArray (s : State) (c : Nat) (not : List Nat) : Option Nat :=
  ([1, 2, 3].map fun i => c ^^^ i).findSome? fun n =>
    let free := (List.range 8).filter fun a => !s.led.arrFenced.contains (8 * n + a) && !not.contains (8 * n + a)
    let load := fun a => ((s.core n).passes.filter fun p => p.phase == .queued && (mdOf p.desc.words).arrays.contains a).length
    (free.foldl (fun (b : Option Nat) a => match b with
      | some q => if load a < load q then some a else some q
      | none => some a) none).map (8 * n + ·)

/-- A shadow array of its own for each of the arrays that selected a pass of core `c`, as far as there are unfenced ones. -/
def State.shadows (s : State) (c : Nat) (sel : List Nat) : List (Nat × Nat) :=
  sel.foldl (fun l a => match s.shadowArray c (l.map (·.2)) with
    | some b => l ++ [(8 * c + a, b)]
    | none => l) []

/-- What the shadow array's cells take (R383): the tile of k-step `j`, its cell rows rotated by `rot.1`, its columns by `rot.2.1` and the lanes of a
cell by `rot.2.2`. -/
def State.shadowTile (s : State) (k : Core) (m : MD) (rot : Nat × Nat × Nat) (j a b : Nat) : State :=
  let turn (q : Nat) : Nat := cellKey (b % 8) ((q / 32 % 32 + rot.1) % 32) ((q % 32 + rot.2.1) % 32)
  s.modCore (b / 8) fun y => { y with cells := ((m.tile j).filter fun e => e.1 / 1024 == a % 8).foldl (fun t e =>
    let w := e.2.map (k.bCode m)
    let w := w.drop ((w.length - rot.2.2 % w.length) % w.length) ++ w.take ((w.length - rot.2.2 % w.length) % w.length)
    tmod {} t (turn e.1) fun q => { q with weight := w, next := w }) y.cells }

/-- The tiles that shadow arrays begin with, in descending order of k-steps, under rotations drawn for each (R383). -/
def State.shadowLoad (s : State) (c : Nat) (m : MD) (sh : List (Nat × Nat)) : State :=
  let k := s.core c
  forEach sh s fun e s =>
    (s.shadowTile k m (Config.pick s.rnd 32 % 32, Config.pick (s.rnd + 1) 32 % 32, Config.pick (s.rnd + 2) m.d % m.d) (m.nk - 1) e.1 e.2).fresh.fresh.fresh

/-- Event 0x0607 once per core per String (R383). -/
def State.notSampled (s : State) (c : Nat) : State :=
  s.atMost 0x0607 c 1 1 fun n s => s.ledger 0x0607 0 0x03 c none c n

/-- BOUND_EXT (R114): the flag and, first in a kernel, the notice. -/
def State.boundExt (s : State) (c n a b q : Nat) : State :=
  if (2 : Nat) ^ 24 < ((s.core c).quad a b q).chain then
    match s.ctx? n with
    | some x =>
      let s := s.setCtx n (some { x with boundExt := true, boundSeen := true })
      if x.boundSeen then s else s.ledger 0x0604 0 0x04 (8 * c + a) (some x.stall) (8 * c + a) b q (oper := 0x1000 * x.kind.type)
    | none => s
  else s

/-- Merge the LIVE ones of a list of quadrants, up to the first that meets poison, whose address is answered (R117, R119). -/
def State.mergeLive (s : State) (c n wide : Nat) : List (Nat × Nat × Nat) → State × Option Nat
  | [] => (s, none)
  | (a, b, q) :: t =>
    if ((s.core c).quad a b q).live then
      match (s.core c).slotPoison wide a b q with
      | some p => (s, some p)
      | none => ((s.boundExt c n a b q).modCore c fun k => k.merge s.rnd wide a b q).fresh.mergeLive c n wide t
    else s.mergeLive c n wide t

/-- The fault of a feeder read, spill or merge (R100, R119), at the PC of the issue (R168). -/
def State.feederFault (s : State) (c n slot pc mask addr : Nat) : State :=
  s.ctxFault n { cause := causePoison, pc := pc, mask := mask, slot := slot, arg2 := addr, core := c }

/-- Pass `id` of a core as changed. -/
def Core.modPass (k : Core) (id : Nat) (f : Pass → Pass) : Core := { k with passes := k.passes.map fun o => if o.id = id then f o else o }

/-- PASS_START: the first queued pass of the quad starts when its arrays, and its shadow arrays if selected, are free. Where its own arrays are free
and a shadow array is not, its shadow passes enter their queues, ahead of every pass that has not started, and wait there (R383). `bad`: a residue check
of a merge fails (R386). -/
def execPassStart (c : CoreNo) (q : QuadNo) (bad : Bool) (s : State) : Res :=
  let k := s.core c
  match s.ctxOf c, k.passes.find? fun p => p.quad == q.val && p.phase == .queued with
  | some (n, x), some p =>
    let m := mdOf p.desc.words
    if x.st ≠ .running ∨ ¬ s.issues x.stall then .next s
    else if (k.passes.any fun o => o.phase == .streaming && !apart m (mdOf o.desc.words)) ||
        m.arrays.any fun a => s.shadowBusy (8 * c.val + a) then .next s
    else
      let sh := if p.shadow = [] then s.shadows c p.selected else p.shadow
      let other (ar : Nat) : Bool := s.cores.any fun e => e.2.passes.any fun o => o.id != p.id && o.phase != .ended && o.shadow.any fun a => a.2 == ar
      if sh.any fun a => (s.core (a.2 / 8)).arrayBusy (a.2 % 8) || other a.2 then
        .next (s.modCore c fun k => k.modPass p.id fun o => { o with shadow := sh })
      else
        let part := if m.accAdd = 0 then (m.touched.filter fun t => t.2 < 256).map (·.1) else []
        if bad ∧ part.any fun t => (k.quad t.1 t.2.1 t.2.2).live then
          .next (s.ctxFault n { cause := 0x12, pc := p.pc, mask := p.mask, slot := p.slot, arg2 := p.desc.addr, core := c.val })
        else
          match s.mergeLive c n x.wide part with
          | (s, some a) => .next (s.feederFault c n p.slot p.pc p.mask a)
          | (s, none) =>
            let s := if sh.length < p.selected.length then s.notSampled c else s
            .next ((s.modCore c fun k => (k.loadTile m 0).modPass p.id fun o => { o with phase := .streaming, shadow := sh }).shadowLoad c m sh)
  | _, _ => .next s

/-! ### End of a pass (R108, R112, R117, R126) -/

/-- The local bytes a pass's feeders read. -/
def Core.passReads (k : Core) (x : MD) : List (Nat × Nat) :=
  (x.outputs.flatMap fun o => (List.range x.nk).flatMap fun j => (x.cells o.1 o.2 j).flatten.flatMap fun t =>
    (match t.a with
      | .pad => []
      | .at_ off l i => k.elemReads x.planeA off l i) ++
    (if x.expand = 0 then k.elemReads x.planeB (t.bl * x.bStride) t.bl t.bj
     else (x.bAddr + t.bl * x.bStride + t.bj * fmtBits x.fmtB / 8, 1) ::
      (if x.expand = 1 then [(x.aux, 32)] else [(x.aux + x.saxIdx t.bl t.bj, 1), (x.bScl + 4 * x.saxIdx t.bl t.bj, 4)])))

/-- The local bytes a read-out reads: factors and line scales. -/
def RD.reads (r : RD) (m n : Nat) : List (Nat × Nat) :=
  (if r.row = 0 then [] else [(r.row, 4 * m)]) ++ (if r.col = 0 then [] else [(r.col, 4 * n)]) ++
  (if fmtInt r.t1.fmt then [(r.t1.p.scl, 4 * (if r.t1.axis = 0 then m else n))] else [])

/-- Every read of a pass and its read-out. -/
def Core.passSources (k : Core) (x : MD) (rdo : List W64) : List (Nat × Nat) :=
  k.passReads x ++ if rdo = [] then [] else (rdOf rdo).reads x.m x.n

/-- The first poisoned address that a pass reads. -/
def Core.passPoison (k : Core) (x : MD) (rdo : List W64) : Option Nat :=
  if k.poison.isEmpty then none else ((k.passSources x rdo).find? fun e => k.poisoned e.1 e.2).map (·.1)

/-- The counts of expanded weights (R67, R71): one conversion for each stored element that the feeder takes (R84, R85). -/
def Core.expCounts (k : Core) (x : MD) : Counts :=
  if x.expand = 2 then
    let es := (List.range x.bLine.2).flatMap fun l => ((List.range x.bLine.1).filter fun j => x.flow = 0 ∨ j % (cdiv x.k 32 * 32) < x.k).map fun j => (k.expanded x l j).2
    { clip := (es.map Enc.clip).sum, nan := (es.map Enc.nan).sum }
  else {}

/-- The quadrants that a read-out reads (R117): quadrant SUB of each bank in split mode, whole banks otherwise. -/
def MD.readQuads (x : MD) : List (Nat × Nat × Nat) :=
  x.arrays.flatMap fun a => (List.range x.banks).flatMap fun i =>
    if x.geom = 2 then [(a, x.bank + i, x.sub)] else (List.range 4).map fun q => (a, x.bank + i, q)

/-- Spill each quadrant whose SEG has reached 65,536 (R117 step 3), up to the first that meets poison. -/
def State.spillDue (s : State) (c n wide : Nat) : List (Nat × Nat × Nat) → State × Option Nat
  | [] => (s, none)
  | (a, b, q) :: t =>
    let o := (s.core c).quad a b q
    if wide ≠ 0 ∧ 65536 ≤ o.seg then
      match (if o.live then (s.core c).slotPoison wide a b q else none) with
      | some p => (s, some p)
      | none => ((s.boundExt c n a b q).modCore c fun k => k.spill s.rnd wide a b q).fresh.spillDue c n wide t
    else s.spillDue c n wide t

/-- The read-out of a pass, after its merges. -/
def State.passReadOut (s : State) (c n : Nat) (p : Pass) (m : MD) : State × Counts :=
  let r := rdOf p.desc.rdo
  let (ws, cnt) := (s.core c).readOut m r p.rkey ((s.core c).expCounts m)
  let beyond := m.readQuads.any fun t => decide ((2 : Nat) ^ 24 < ((s.core c).quad t.1 t.2.1 t.2.2).chain)
  let s := forEach m.readQuads s fun t s => s.boundExt c n t.1 t.2.1 t.2.2
  let s := match s.ctx? n with
    | some x => if beyond then s.tally x.stall 0xA0 1 else s
    | none => s
  (forEach ws s fun w s => s.wrLocal c w.1 w.2, cnt)

/-- Steps 1 to 3 of R117, with the counts of the pass, and the address where a merge or spill met poison. -/
def State.passFinish (s : State) (c n wide : Nat) (p : Pass) (errs : List SumErr) : State × Counts × Option Nat :=
  let m := mdOf p.desc.words
  let s := s.modCore c fun k => (((k.foldPass m errs).countPass m).loadTile m (m.nk - 1)).fillRows m
  let spill (s : State) (cnt : Counts) : State × Counts × Option Nat :=
    let (s, e) := s.spillDue c n wide (m.touched.map (·.1))
    (s, cnt, e)
  if p.desc.rdo = [] then spill s ((s.core c).expCounts m)
  else
    match s.mergeLive c n wide m.readQuads with
    | (s, some a) => (s, {}, some a)
    | (s, none) =>
      let (s, cnt) := s.passReadOut c n p m
      spill s cnt

/-- A shadow mismatch (R385), told as the comparison ends (DESIGN CHOICE: the spec gives no moment between that and the completion of the pass). -/
def State.shadowMismatch (s : State) (c n : Nat) (x : Ctx) (p : Pass) (d : Nat × Nat × W32) : State :=
  let m := mdOf p.desc.words
  let (a, _, _, _) := m.place d.1 d.2.1
  let s := s.ledger 0x0601 2 0x04 (8 * c + a) (some x.stall) (8 * c + a) ((afind? p.shadow (8 * c + a)).getD 0)
    (d.1 % 65536 + d.2.1 % 65536 * 2 ^ 16 + p.desc.addr * 2 ^ 32) d.2.2.toNat (oper := 0x1000 * x.kind.type)
  ((s.taint x.stall).interruption 1).modCtx n fun x => { x with mismatch := true }

/-- PASS_END: pass `k` of the core ends streaming, in issue order on its arrays; its shadow passes end with it, and a mismatch of their sums is
reported (R384, R385). `us`: the units of local memory in error as its feeders read them (R201). `bad`: a residue check of the accumulators fails (R386). `errs`: what defects of the arrays make of their sums. The pass
reads what memory holds now (DESIGN CHOICE, log entry 160: R92 lets a source written meanwhile read as the old or the new value). -/
def execPassEnd (c : CoreNo) (k : Fin 64) (bad : Bool) (us : UnitErrs) (errs : List SumErr) (s : State) : Res :=
  let q := s.core c
  match s.ctxOf c, q.passes[k.val]? with
  | some (n, x), some p =>
    let m := mdOf p.desc.words
    if p.phase ≠ .streaming ∨ ¬ s.pwr.coreClocks ∨
        ((q.passes.take k.val).any fun o => o.phase == .streaming && sharesArray m (mdOf o.desc.words)) then .next s
    else if bad then .next (s.ctxFault n { cause := 0x12, pc := p.pc, mask := p.mask, slot := p.slot, arg2 := p.desc.addr, core := c.val })
    else
      let s := s.readLocalUnits c (q.passSources m p.desc.rdo) us
      match (s.core c).passPoison m p.desc.rdo with
      | some a => .next (s.feederFault c n p.slot p.pc p.mask a)
      | none =>
        let s := match (s.core c).shadowDiff m (p.shadow.map fun a => a.1 - 8 * c.val) (s.stall x.stall).qCheck errs with
          | some d => s.shadowMismatch c n x p d
          | none => s
        match s.passFinish c n x.wide p errs with
        | (s, _, some a) => .next (s.feederFault c n p.slot p.pc p.mask a)
        | (s, cnt, none) =>
          let s := s.tally x.stall 0x08 (m.m * m.n * m.contraction)
          .next (s.modCore c fun q => { q with passes := q.passes.map fun o =>
            if o.id = p.id then { o with phase := .ended, counts := [cnt.clip, cnt.nan, cnt.flagged, cnt.written] } else o })
  | _, _ => .next s

/-! ### Completion (R90, R143) -/

/-- PASS_COMPLETE: after its comparison the pass leaves and its token counter falls. -/
def execPassComplete (c : CoreNo) (k : Fin 64) (s : State) : Res :=
  let q := s.core c
  match s.ctxOf c, q.passes[k.val]? with
  | some (_, x), some p =>
    let m := mdOf p.desc.words
    if p.phase ≠ .ended ∨ (q.passes.take k.val).any fun o => sharesArray m (mdOf o.desc.words) then .next s
    else
      let s := s.modCore c fun q => { q with passes := q.passes.filter fun o => o.id ≠ p.id }
      .next ((s.tallyCounts x.stall p.counts).tokenDown c p.slot p.serial m.token)
  | _, _ => .next s

end Sys2Proof.Machine
end

