-- ==== Sys2Proof/Machine/VectorDesc.lean ====
section
/-! DEFINITION. The vector descriptor (R176 to R186, Tables 8.1 to 8.4): fields, shapes, addresses and the check at issue. -/

namespace Sys2Proof.Machine

/-- Field [hi:lo] of a word as a signed number. -/
def wfs (ws : List W64) (i hi lo : Nat) : Int := sext (hi + 1 - lo) (wf ws i hi lo)

/-- An operand of a vector descriptor. -/
structure VOpd where
  fmt : Nat
  addr : Nat
  s1 : Int
  s2 : Int
  s3 : Int
  bc0 : Bool
  scl : Nat
  res : Nat
  mask : Nat

/-- A vector descriptor's fields (Table 8.1); extents are given as their values. -/
structure VD where
  op : Nat
  sub : Nat
  ct : Nat
  mpol : Nat
  raxis : Nat
  token : Nat
  rnd : Bool
  ovf : Bool
  sel : Bool
  src : Nat
  resMode : Nat
  resThr : Nat
  maxFlag : Nat
  code : Nat
  e0 : Nat
  e1 : Nat
  e2 : Nat
  e3 : Nat
  o0 : VOpd
  o1 : VOpd
  o2 : VOpd
  d : VOpd
  emask : Nat
  amax : Nat
  cnt : Nat
  seed : Nat
  imm : Nat
  idx : Nat

def vopd (w : List W64) (k fmt scl res mask : Nat) : VOpd :=
  { fmt := fmt, addr := wf w (2 * k + 2) 23 0, s1 := wfs w (2 * k + 2) 47 24, s2 := wfs w (2 * k + 3) 23 0,
    s3 := wfs w (2 * k + 3) 47 24, bc0 := wf w (2 * k + 2) 63 63 == 1, scl := scl, res := res, mask := mask }

def vdOf (w : List W64) : VD :=
  { op := wf w 0 63 58, sub := wf w 0 57 55, ct := wf w 0 54 54, mpol := wf w 0 53 52, raxis := wf w 0 51 50,
    token := wf w 0 33 30, rnd := wf w 0 29 29 == 1, ovf := wf w 0 28 28 == 1, sel := wf w 0 27 27 == 1, src := wf w 0 26 26,
    resMode := wf w 0 25 24, resThr := wf w 0 23 18, maxFlag := wf w 0 17 12, code := wf w 0 7 0,
    e0 := wf w 1 15 0 + 1, e1 := wf w 1 31 16 + 1, e2 := wf w 1 47 32 + 1, e3 := wf w 1 63 48 + 1,
    o0 := vopd w 0 (wf w 0 45 42) (wf w 10 23 0) (wf w 11 23 0) (wf w 12 23 0),
    o1 := vopd w 1 (wf w 0 41 38) (wf w 10 47 24) 0 0,
    o2 := vopd w 2 (wf w 0 37 34) 0 0 0,
    d := vopd w 3 (wf w 0 49 46) (wf w 11 47 24) (wf w 12 47 24) (wf w 13 47 24),
    emask := wf w 13 23 0, amax := wf w 14 47 24, cnt := wf w 14 23 0, seed := wf w 15 63 32, imm := wf w 15 31 0,
    idx := wf w 10 63 48 + 2 ^ 16 * wf w 11 63 48 + 2 ^ 32 * wf w 12 63 48 }

/-- MXFP8 and MXFP4 codes of Table 8.2. -/
def vMx (c : Nat) : Bool := decide (12 ≤ c) && decide (c ≤ 14)

/-- Codes with a block scale, MX among them. -/
def vBlock (c : Nat) : Bool := fmtBlock c || vMx c


/-- Source operands that an operation uses (Table 8.3). -/
def VD.srcs (x : VD) : Nat := if x.op = 0 ∨ x.op = 8 then 1 else if x.op = 3 then 3 else 2

/-- The format a source is read as: MXFP8 as E4M3 or E5M2 with a block scale, MXFP4 as B4 (R68). -/
def VOpd.readFmt (o : VOpd) : Nat := if vMx o.fmt then o.fmt - 7 else o.fmt

/-- A CVT that carries blocks (R68, R182). -/
def VD.carry (x : VD) : Bool :=
  x.op == 0 && ((x.o0.readFmt == x.d.fmt && fmtBlock x.d.fmt) || (x.o0.readFmt == 7 && x.d.fmt == 8))

/-- Extents of D: 1 along RAXIS under RED (R181). -/
def VD.dext (x : VD) : Nat × Nat × Nat × Nat :=
  if x.op = 8 then
    (if x.raxis = 0 then 1 else x.e0, if x.raxis = 1 then 1 else x.e1, if x.raxis = 2 then 1 else x.e2,
      if x.raxis = 3 then 1 else x.e3)
  else (x.e0, x.e1, x.e2, x.e3)

/-- The Reserved bits of Table 8.1. -/
def vdReserved (w : List W64) : Bool :=
  wf w 0 11 8 != 0 || wf w 2 62 48 != 0 || wf w 3 63 48 != 0 || wf w 4 62 48 != 0 || wf w 5 63 48 != 0 || wf w 6 62 48 != 0 ||
  wf w 7 63 48 != 0 || wf w 8 62 48 != 0 || wf w 9 63 48 != 0 || wf w 13 63 48 != 0 || wf w 14 63 48 != 0

/-- Tables 8.2 to 8.4. -/
def VD.codesOk (x : VD) : Bool :=
  let f0 := x.o0.fmt
  let f1 := x.o1.fmt
  let f2 := x.o2.fmt
  let fd := x.d.fmt
  decide (x.op ≤ 8) && (if x.op = 6 then decide (x.sub ≤ 5) else if x.op = 8 then decide (x.sub ≤ 4) else x.sub == 0) &&
  (decide (f0 ≤ 11) || (vMx f0 && x.op == 0)) &&
  (decide (x.srcs < 2) || decide (f1 ≤ 7) || f1 == 9 || f1 == 10 || f1 == 11 || f1 == 15) &&
  (decide (x.srcs < 3) || decide (f2 ≤ 4) || f2 == 15) &&
  (if x.op = 6 then fd == 15
   else decide (fd ≤ 11) || (x.op == 0 && ((fd == 12 && f0 == 5) || (fd == 13 && f0 == 6) || (fd == 14 && f0 == 7)))) &&
  (match x.mpol with
   | 0 => true
   | 3 => !vMx fd
   | m => !(decide (5 ≤ fd) && decide (fd ≤ 8)) && !(decide (11 ≤ fd) && decide (fd ≤ 14)) && (m == 1 || x.op != 8)) &&
  (x.op != 7 || x.mpol == 0)

/-- Something of the descriptor is rounded as RND says (R61 to R63, R68): the conversion into D, but not into FP32 or as bits and not of codes that a CVT
carries, or the re-encoding of an MX source. -/
def VD.drawn (x : VD) : Bool := vMx x.o0.fmt || vMx x.d.fmt || (x.op != 6 && x.d.fmt != 0 && !x.carry)

/-- The words of an operand are 0. -/
def vdWordsZero (w : List W64) (k : Nat) : Bool := wf w (2 * k + 2) 63 0 == 0 && wf w (2 * k + 3) 63 0 == 0

/-- The unread fields of R176: those it lists, and RAXIS, IDX_BASE, OVF and RND where nothing reads them (log 139). -/
def vdUnreadOk (w : List W64) : Bool :=
  let x := vdOf w
  let fd := x.d.fmt
  let noSrc (k f : Nat) : Bool := if decide (k < x.srcs) then (f != 15 || vdWordsZero w (k)) else f == 0 && vdWordsZero w k
  noSrc 1 x.o1.fmt && noSrc 2 x.o2.fmt &&
  (vBlock x.o0.fmt || fmtInt x.o0.fmt || x.o0.scl == 0) &&
  ((decide (1 < x.srcs) && (vBlock x.o1.fmt || fmtInt x.o1.fmt)) || x.o1.scl == 0) &&
  (vBlock fd || fmtInt fd || x.d.scl == 0) &&
  (x.o0.fmt == 8 || (x.o0.res == 0 && x.o0.mask == 0)) && (fd == 8 || (x.d.res == 0 && x.d.mask == 0)) &&
  ((fmtBlock fd && !x.carry) || (!x.sel && x.src == 0 && x.code == 0)) &&
  ((fd == 8 && !x.carry) || (x.resMode == 0 && x.resThr == 0 && x.maxFlag == 0)) &&
  (x.mpol != 0 || x.op == 7 || x.emask == 0) && (x.rnd || x.seed == 0) &&
  ((decide (1 < x.srcs) && x.o1.fmt == 15) || (decide (2 < x.srcs) && x.o2.fmt == 15) || x.imm == 0) &&
  (x.op == 8 || x.raxis == 0) && (x.rnd || x.idx == 0) && (fd == 1 || fd == 2 || fd == 4 || !x.ovf) && (x.drawn || !x.rnd)

/-- Strides and alignments of R178 for an operand. -/
def VOpd.alignOk (o : VOpd) (e2 e3 : Nat) : Bool :=
  let b : Nat := blockBytes o.fmt
  (!vBlock o.fmt || (!o.bc0 && o.addr % b == 0 && o.s1 % b == 0 && o.s2 % b == 0 && o.s3 % b == 0)) &&
  (o.fmt != 8 || (e2 == 1 && e3 == 1)) && o.mask % 4 == 0

/-- The operands an operation reads, IMM scalars aside. -/
def VD.sources (x : VD) : List VOpd :=
  ([x.o0, x.o1, x.o2].take x.srcs).filter fun o => o.fmt ≠ 15

/-- R177, R178, R181 and R183 for strides and alignments. -/
def VD.strideOk (x : VD) : Bool :=
  x.sources.all (fun o => o.alignOk x.e2 x.e3) && (x.op == 6 || x.d.alignOk x.e2 x.e3) &&
  (if x.op = 8 then
     (x.d.bc0 == (x.raxis == 0)) && (x.raxis != 1 || x.d.s1 == 0) && (x.raxis != 2 || x.d.s2 == 0) && (x.raxis != 3 || x.d.s3 == 0)
   else !x.d.bc0) &&
  (x.op != 6 || (x.d.s1 == 0 && x.d.s2 == 0 && x.d.s3 == 0)) && x.amax % 4 == 0 && x.cnt % 16 == 0

/-- The lines of a shape in line-number order: number and indices (R177). -/
def vLines (e1 e2 e3 : Nat) : List (Nat × Nat × Nat × Nat) :=
  (List.range e3).flatMap fun i3 => (List.range e2).flatMap fun i2 => (List.range e1).map fun i1 => (i1 + e1 * (i2 + e2 * i3), i1, i2, i3)

/-- The offset of a line from ADDR. -/
def VOpd.off (o : VOpd) (i1 i2 i3 : Nat) : Int := i1 * o.s1 + i2 * o.s2 + i3 * o.s3

/-- The lowest and the highest line offset of a shape. -/
def VOpd.offRange (o : VOpd) (e1 e2 e3 : Nat) : Int × Int :=
  let lo (s : Int) (e : Nat) : Int := min 0 (s * ((e : Int) - 1))
  let hi (s : Int) (e : Nat) : Int := max 0 (s * ((e : Int) - 1))
  (lo o.s1 e1 + lo o.s2 e2 + lo o.s3 e3, hi o.s1 e1 + hi o.s2 e2 + hi o.s3 e3)

/-- The byte spans of an operand's planes over a shape: first byte and one past the last; `res`: its residual plane is touched. -/
def VOpd.spans (o : VOpd) (e0 e1 e2 e3 : Nat) (res : Bool := true) : List (Int × Int) :=
  let (lo, hi) := o.offRange e1 e2 e3
  let n := if o.bc0 then 1 else e0
  let b : Int := blockBytes o.fmt
  let len : Int := packLen o.fmt n
  [((o.addr : Int) + lo, (o.addr : Int) + hi + len)] ++
  (if vBlock o.fmt then [((o.scl : Int) + lo / b, (o.scl : Int) + hi / b + cdiv n 32)] else []) ++
  (if fmtInt o.fmt then [((o.scl : Int), (o.scl : Int) + 4 * (e1 * e2 * e3))] else []) ++
  (if o.fmt = 8 ∧ res then [((o.res : Int) + lo, (o.res : Int) + hi + len)] else []) ++
  (if o.fmt = 8 then
    [((o.mask : Int) + min 0 (4 * (((e1 - 1) / 32 : Nat) * (o.s1 / 16))),
      (o.mask : Int) + max 0 (4 * (((e1 - 1) / 32 : Nat) * (o.s1 / 16))) + 4 * cdiv n 32)] else [])

/-- Residuals of D can be written: those a CVT carries, or those that RES_MODE asks for (R138, R182). -/
def VD.writesRes (x : VD) : Bool := if x.carry then x.o0.fmt == 8 else x.resMode != 0

/-- Every span that a descriptor reads or writes (R186). -/
def VD.spans (x : VD) : List (Int × Int) :=
  let (d0, d1, d2, d3) := x.dext
  let bits : Int := cdiv (x.e0 * x.e1 * x.e2 * x.e3) 8
  (x.sources.flatMap fun o => o.spans x.e0 x.e1 x.e2 x.e3) ++
  (if x.op = 6 then [((x.d.addr : Int), x.d.addr + bits)] else x.d.spans d0 d1 d2 d3 x.writesRes) ++
  (if x.mpol ≠ 0 ∨ x.op = 7 then [((x.emask : Int), x.emask + bits)] else []) ++
  (if x.cnt = 0 then [] else [((x.cnt : Int), (x.cnt : Int) + 16)]) ++
  (if x.amax = 0 then [] else [((x.amax : Int), (x.amax : Int) + 4)])

/-- Chunk length (R188). -/
def VD.chunk (x : VD) : Nat := if x.ct = 0 then 256 else 512

/-- Chunks of a line, and steps of a descriptor (R188): its chunks, in loop order. -/
def VD.cpl (x : VD) : Nat := cdiv x.e0 x.chunk
def VD.chunks (x : VD) : Nat := x.e1 * x.e2 * x.e3 * x.cpl

/-- A chunk of a line (R188): the line's number and indices, the chunk's first element and how many it has. -/
structure VPiece where
  l : Nat
  i1 : Nat
  i2 : Nat
  i3 : Nat
  j0 : Nat
  n : Nat

/-- Chunk `c` of the line with given indices. -/
def VD.pieceOf (x : VD) (i1 i2 i3 c : Nat) : VPiece :=
  ⟨i1 + x.e1 * (i2 + x.e2 * i3), i1, i2, i3, c * x.chunk, min x.chunk (x.e0 - c * x.chunk)⟩

/-- The source chunk that step `t` takes: lines in order of their number; for RED along axis r ≥ 1, every ir of a position of axis 0 first (R188). -/
def VD.stepAt (x : VD) (t : Nat) : VPiece :=
  let g := t / x.e1 / x.cpl
  match (if x.op = 8 then x.raxis else 0) with
  | 1 => x.pieceOf (t % x.e1) (g % x.e2) (g / x.e2) (t / x.e1 % x.cpl)
  | 2 => let o := t / x.e2 / x.cpl
    x.pieceOf (o % x.e1) (t % x.e2) (o / x.e1) (t / x.e2 % x.cpl)
  | 3 => let o := t / x.e3 / x.cpl
    x.pieceOf (o % x.e1) (o / x.e1) (t % x.e3) (t / x.e3 % x.cpl)
  | _ => let l := t / x.cpl
    x.pieceOf (l % x.e1) (l / x.e1 % x.e2) (l / x.e1 / x.e2) (t % x.cpl)

/-- Steps that each output of RED takes. -/
def VD.redSteps (x : VD) : Nat :=
  match x.raxis with
  | 0 => x.cpl
  | 1 => x.e1
  | 2 => x.e2
  | _ => x.e3

/-- The piece of D that the step's outputs fill. -/
def VD.outPiece (x : VD) (t : Nat) : VPiece :=
  let p := x.stepAt t
  if x.op ≠ 8 then p
  else
    let (_, d1, d2, _) := x.dext
    let z (r i : Nat) : Nat := if x.raxis = r then 0 else i
    let l := z 1 p.i1 + d1 * (z 2 p.i2 + d2 * z 3 p.i3)
    if x.raxis = 0 then ⟨l, p.i1, p.i2, p.i3, 0, 1⟩ else ⟨l, z 1 p.i1, z 2 p.i2, z 3 p.i3, p.j0, p.n⟩

/-- Where the engine can stop (R190): at a multiple of so many steps. With a B4R D it is at boundaries of 32 lines, whatever MAX_FLAG is, and not
within a RED along axis 1 (DESIGN CHOICE, log entry 135). -/
def VD.stopUnit (x : VD) : Nat :=
  if x.d.fmt ≠ 8 then 1 else if x.op = 8 ∧ x.raxis ≠ 0 then x.chunks else 32 * x.cpl

/-- The ranges of local memory that a descriptor writes (R175, R187). -/
def VD.dest (x : VD) : List (Nat × Nat) :=
  let (d0, d1, d2, d3) := x.dext
  let o := x.d
  let at_ (a : Nat) (off : Int) : Nat := ((a : Int) + off).toNat
  (if x.op = 6 then [(o.addr, cdiv (x.e0 * x.e1 * x.e2 * x.e3) 8)]
   else (vLines d1 d2 d3).flatMap fun l =>
     let off := o.off l.2.1 l.2.2.1 l.2.2.2
     [(at_ o.addr off, if vBlock o.fmt then cdiv d0 32 * blockBytes o.fmt else packLen o.fmt d0)] ++
     (if vBlock o.fmt then [(at_ o.scl (off / (blockBytes o.fmt : Nat)), cdiv d0 32)] else []) ++
     (if o.fmt = 8 ∧ x.writesRes then [(at_ o.res off, 16 * cdiv d0 32)] else []) ++
     (if o.fmt = 8 then [(at_ o.mask (4 * ((l.1 / 32 : Nat) * (o.s1 / 16))), 4 * cdiv d0 32)] else [])) ++
  (if x.cnt = 0 then [] else [(x.cnt, 16)]) ++ (if x.amax = 0 then [] else [(x.amax, 4)])

/-- The check of R186. -/
def vdCheck (w : List W64) : Bool :=
  let x := vdOf w
  !vdReserved w && x.codesOk && vdUnreadOk w && x.strideOk && decide (x.maxFlag ≤ 32) && x.resMode != 3 &&
  !(x.src == 1 && x.code == 0xFF) &&
  !(x.d.fmt == 8 && !x.carry && decide (x.maxFlag < 32) && decide (32 < cdiv x.e0 x.chunk)) &&
  x.spans.all fun s => decide (0 ≤ s.1) && decide (s.2 ≤ localEnd)

/-- Read a vector descriptor. -/
def Core.vecDesc (k : Core) (a : Nat) : Desc := { addr := a, words := k.words a 16 }

/-- The vector descriptor at `a` fails its check at issue. -/
def Core.vecBad (k : Core) (a : Nat) : Bool := a % 64 != 0 || decide (localEnd < a + 128) || !vdCheck (k.vecDesc a).words

end Sys2Proof.Machine
end

