-- ==== Sys2Proof/Machine/VectorSum.lean ====
section
/-! DEFINITION. What a vector descriptor computes (R177 to R184, R68, R69): source values, results, reductions, the conversion into
D and the reads that can meet poison. -/

namespace Sys2Proof.Machine

/-! ### Sources -/

/-- The base of the line at offset `off`. -/
def VOpd.base (o : VOpd) (off : Int) : Nat := ((o.addr : Int) + off).toNat

/-- The scale byte of block `j` of the line at offset `off` (R178). -/
def VOpd.sclAt (o : VOpd) (off : Int) (j : Nat) : Nat := ((o.scl : Int) + off / (blockBytes o.fmt : Nat) + j).toNat

/-- The tile-mask word of block `j` of line `l` (R178). -/
def VOpd.maskAt (o : VOpd) (l j : Nat) : Nat := ((o.mask : Int) + 4 * (((l / 32 : Nat) : Int) * (o.s1 / 16) + j)).toNat

/-- Whether block `j` of line `l` is flagged. -/
def Core.vFlag (k : Core) (o : VOpd) (l j : Nat) : Bool := o.fmt == 8 && (k.w32 (o.maskAt l j)).testBit (l % 32)

/-- The rounding of element `n` (R177). -/
def VD.rm (x : VD) (key purpose n : Nat) : RMode := rmodeOf x.rnd key x.seed purpose (x.idx + n)

/-- The exact value of element `j` of line `l` (R55 to R59, R68), with the clips of an MX re-encoding; `r` is its rounding. -/
def Core.vElem (k : Core) (o : VOpd) (imm : Nat) (r : RMode) (off : Int) (l j : Nat) : FV × Nat :=
  if o.fmt = 15 then (f32 imm, 0)
  else
    let j := if o.bc0 then 0 else j
    let code := k.codeAt (o.base off) (fmtBits o.fmt) j
    if fmtInt o.fmt then (fvMul (elemVal o.fmt code) (f32 (k.w32 (o.scl + 4 * l))), 0)
    else if vMx o.fmt then
      let f := o.fmt - 7
      let (sc, e) := mxReadScale (ofBytes (k.rd (o.sclAt off (j / 32)) 1))
      if e = 0 ∨ sc = 0xFF then (scaled sc (elemVal f code), 0)
      else
        let v := match elemVal f code with
          | .fin s m => FV.fin s (m * pow2 e)
          | v => v
        let enc := blockElem f 1 r v
        (scaled sc (elemVal f enc.code), enc.clip)
    else if fmtBlock o.fmt then
      let sc := ofBytes (k.rd (o.sclAt off (j / 32)) 1)
      if k.vFlag o l (j / 32) then
        (scaled sc (b4rVal code (k.codeAt ((o.res : Int) + off).toNat 4 j) true), 0)
      else (scaled sc (elemVal o.fmt code), 0)
    else (elemVal o.fmt code, 0)

/-- The element mask's bit (R183). -/
def Core.maskBit (k : Core) (x : VD) (n : Nat) : Bool := (ofBytes (k.rd (x.emask + n / 8) 1)).testBit (n % 8)

/-- Linear index of an element of the descriptor's shape. -/
def VD.lin (x : VD) (l i0 : Nat) : Nat := i0 + x.e0 * l

/-- The element is active under the mask policy (R184). -/
def Core.active (k : Core) (x : VD) (n : Nat) : Bool := x.mpol == 0 || k.maskBit x n

/-! ### Arithmetic (R179, R180) -/

/-- A source as the compute type takes it. -/
def VD.take (x : VD) (v : FV) : FV := if x.ct = 0 then fp32.round v else bf16.round v

/-- A CMP condition; NaN gives 0 (Table 8.3). -/
def vCond (sub : Nat) (a b : FV) : Bool := !(a.isNan || b.isNan) && condOf sub (fvEq a b) (fvLt a b)

/-- The result of an element-wise operation on its sources; `m` is the element mask's bit. CMP answers 1 or 0. -/
def VD.result (x : VD) (m : Bool) (a b c : FV) : FV :=
  let p := x.take a
  let q := x.take b
  let r := x.take c
  let one (t : Bool) : FV := .fin false (if t then 1 else 0)
  match x.op with
  | 0 => a
  | 1 => x.take (fvAdd p q)
  | 2 => x.take (fvMul p q)
  | 3 => x.take (fvAdd (fvMul p q) r)
  | 4 => x.take (fvMin p q)
  | 5 => x.take (fvMax p q)
  | 6 => one (vCond x.sub p q)
  | _ => if m then p else q

/-- The result of element `i0` of a line, with the clips of its sources. -/
def Core.vResult (k : Core) (x : VD) (key : Nat) (p : VPiece) (i0 : Nat) : FV × Nat :=
  let n := x.lin p.l i0
  let src (o : VOpd) : FV × Nat := k.vElem o x.imm (x.rm key 0 n) (o.off p.i1 p.i2 p.i3) p.l i0
  let a := src x.o0
  let z : FV × Nat := (.fin false 0, 0)
  let b := if decide (1 < x.srcs) then src x.o1 else z
  let c := if decide (2 < x.srcs) then src x.o2 else z
  (x.result (x.op == 7 && k.maskBit x n) a.1 b.1 c.1, a.2 + b.2 + c.2)

/-! ### Reductions (R181) -/

/-- One FP32 addition of an accumulation. -/
def redAdd (a b : FV) : FV := fp32.round (fvAdd a b)

/-- One combination of two values under SUB. -/
def redOp (sub : Nat) (a b : FV) : FV :=
  match sub with
  | 0 => redAdd a b
  | 1 => redAdd a b
  | 2 => fvMax a b
  | 3 => fvMin a b
  | _ => fvMax a b

/-- A term as the reduction takes it: squares are rounded to FP32; AMAX takes |x| and ignores NaN. -/
def redTerm (sub : Nat) (v : FV) : Option FV :=
  match sub with
  | 1 => some (fp32.round (fvMul v v))
  | 4 => if v.isNan then none else some v.abs
  | _ => some v

/-- Two positions of the tree: an empty one passes the other up. -/
def redPair (sub : Nat) (a b : Option FV) : Option FV :=
  match a, b with
  | some x, some y => some (redOp sub x y)
  | some x, none => some x
  | none, y => y

/-- One level of the tree. -/
def redLevel (sub : Nat) : List (Option FV) → List (Option FV)
  | a :: b :: t => redPair sub a b :: redLevel sub t
  | l => l

/-- The tree over the `2 ^ d` positions of a chunk. -/
def redTree (sub d : Nat) (l : List (Option FV)) : Option FV := ((List.range d).foldl (fun l _ => redLevel sub l) l).headD none

/-- What an output with no contributing element takes. -/
def redEmpty (sub : Nat) : FV :=
  match sub with
  | 2 => .inf true
  | 3 => .inf false
  | _ => .fin false 0

/-- A term of RED at one element: excluded under SUPPRESS, +0 under ZERO where masked off. -/
def Core.redAt (k : Core) (x : VD) (key : Nat) (p : VPiece) (i0 : Nat) : Option FV :=
  let n := x.lin p.l i0
  if k.active x n then redTerm x.sub (k.vElem x.o0 x.imm (x.rm key 0 n) (x.o0.off p.i1 p.i2 p.i3) p.l i0).1
  else if x.mpol = 3 then redTerm x.sub (.fin false 0) else none

/-- One step of RED on the running values by lane: along axis 0 the chunk's tree, whose positions beyond the line's end are empty, along another axis
one term for each lane. -/
def Core.redStep (k : Core) (x : VD) (key t : Nat) (run : List (Option FV)) : List (Option FV) :=
  let p := x.stepAt t
  let ts := (List.range p.n).map fun j => k.redAt x key p (p.j0 + j)
  let run := if t % x.redSteps = 0 then [] else run
  if x.raxis = 0 then
    [redPair x.sub ((run[0]?).getD none) (redTree x.sub (if x.ct = 0 then 8 else 9) (ts ++ List.replicate (x.chunk - p.n) none))]
  else ts.mapIdx fun j v => redPair x.sub ((run[j]?).getD none) v

/-! ### Conversion into D -/

/-- What an element of D takes. -/
inductive VVal where
  | keep
  | zero
  | val (v : FV)
  deriving DecidableEq, Repr

def VVal.val? : VVal → Option FV
  | .val v => some v
  | _ => none

/-- The values of a piece of D, from the running values where it is RED, and the clips of its sources. -/
def Core.vPieceVals (k : Core) (x : VD) (key : Nat) (run : List (Option FV)) (p : VPiece) : List VVal × Nat :=
  if x.op = 8 then ((List.range p.n).map fun j => .val (((run[j]?).getD none).getD (redEmpty x.sub)), 0)
  else
    let r := (List.range p.n).map fun j =>
      if k.active x (x.lin p.l (p.j0 + j)) then
        let v := k.vResult x key p (p.j0 + j)
        (VVal.val v.1, v.2)
      else (if x.mpol = 3 then VVal.zero else VVal.keep, 0)
    (r.map (·.1), (r.map (·.2)).sum)

/-- A converted piece: bytes to write, blocks and counts. -/
structure VOut where
  bytes : List (Nat × Byte) := []
  blocks : List QBlock := []
  counts : Counts := {}

/-- Bytes written from `a` on. -/
def byteRun (a : Nat) (bs : List Byte) : List (Nat × Byte) := bs.zipIdx.map fun e => (a + e.2, e.1)

/-- The present elements of a block with their positions. -/
def present (vs : List VVal) : List (Nat × FV) := (vs.zipIdx.filterMap fun e => e.1.val?.map fun v => (e.2, v))

/-- Codes of the present positions put in place, code 0 elsewhere. -/
def spread (n : Nat) (ps : List (Nat × FV)) (codes : List Nat) : List Nat :=
  let m := (ps.map (·.1)).zip codes
  (List.range n).map fun i => (afind? m i).getD 0

/-- A block of D quantized (R182): masked-off elements under ZERO take code 0 and no part in the scale. -/
def VD.quant (x : VD) (key n0 : Nat) (vs : List VVal) : QBlock :=
  let ps := present vs
  let at_ (j : Nat) : Nat := ((ps[j]?).map (·.1)).getD 0
  let q := quantBlock x.d.fmt (if x.src = 1 then some x.code else none) x.sel x.resMode x.resThr
    (fun p j => x.rm key p (n0 + at_ j)) (ps.map (·.2))
  { q with codes := spread vs.length ps q.codes, res := spread vs.length ps q.res }

/-- The bytes of a piece of D for plain and integer targets: an INT4 byte keeps what is not written, and the high nibble past the last
element of an odd INT4 line is written 0 (R54). -/
def Core.vPlain (k : Core) (x : VD) (p : VPiece) (es : List (Option Nat)) : List (Nat × Byte) :=
  let bits := fmtBits x.d.fmt
  let a := x.d.base (x.d.off p.i1 p.i2 p.i3) + p.j0 * bits / 8
  if bits = 4 then
    (List.range (cdiv es.length 2)).flatMap fun b =>
      let lo := ((es[2 * b]?).getD none)
      let hi := ((es[2 * b + 1]?).getD (some 0))
      if lo.isNone && hi.isNone then []
      else
        let old := ofBytes (k.rd (a + b) 1)
        [(a + b, BitVec.ofNat 8 (lo.getD (old % 16) + 16 * hi.getD (old / 16)))]
  else es.zipIdx.flatMap fun e =>
    match e.1 with
    | some c => byteRun (a + e.2 * (bits / 8)) (toBytes (bits / 8) c)
    | none => []

/-- One element into an unscaled or integer target. -/
def Core.vEnc (k : Core) (x : VD) (key l n : Nat) (v : FV) : Enc :=
  if fmtInt x.d.fmt then encLine x.d.fmt (f32 (k.w32 (x.d.scl + 4 * l))) (x.rm key 0 n) v
  else encPlain x.d.fmt x.ovf (x.rm key 0 n) v

/-- A piece of blocks written. -/
def VOpd.blockBytesOut (o : VOpd) (p : VPiece) (bs : List QBlock) : List (Nat × Byte) :=
  let off := o.off p.i1 p.i2 p.i3
  byteRun (o.base off + p.j0 / 32 * blockBytes o.fmt) (bs.flatMap fun b => packBits (fmtBits o.fmt) (padBlock b.codes)) ++
    byteRun (o.sclAt off (p.j0 / 32)) (bs.map fun b => BitVec.ofNat 8 b.scale)

/-- Split into blocks of 32. -/
def vBlocks {α : Type} (l : List α) : List (List α) := blocksOf l.length l

/-- An element code of a block whose scale is 0xFF: its value is open (R72 states the scale only). -/
def openCode (f j : Nat) : Nat := ((Config.nanBlockCode (2 * j)).toNat + 16 * (Config.nanBlockCode (2 * j + 1)).toNat) % 2 ^ fmtBits f

/-- One element of an MX block (R69): source format `f`, scale code `sc`. An infinity becomes the largest finite magnitude and counts as a clip (DESIGN
CHOICE, log entry 134). -/
def mxElem (f sc : Nat) (r : RMode) (j code : Nat) : Enc :=
  let v := elemVal f code
  if v.isNan then ⟨(fmtFloat f).nanCode, 0, 1⟩
  else if sc = 0xFF then ⟨openCode f j, 0, 1⟩
  else if sc = 0 then ⟨(fmtFloat f).signBit v.neg, 0, 0⟩
  else blockElem f 1 r (match v with
    | .fin s m => .fin s (m * (ueVal sc / pow2 (mxWriteK sc)))
    | w => w)

/-- The E8M0 code of an MX block (R69). -/
def mxScale (sc : Nat) : Nat := if sc = 0xFF then 0xFF else if sc = 0 then 0 else (mxWriteK sc + 127).toNat

/-- The stored codes of the blocks of a piece of the source. -/
def Core.vCodes (k : Core) (x : VD) (p : VPiece) : List (List Nat) :=
  vBlocks ((List.range p.n).map fun j => k.codeAt (x.o0.base (x.o0.off p.i1 p.i2 p.i3)) (fmtBits x.o0.fmt) (p.j0 + j))

/-- The counts of blocks that a CVT writes. -/
def blockCounts (bs : List QBlock) (clips : Nat) : Counts :=
  { clip := (bs.map QBlock.clip).sum + clips, nan := (bs.map QBlock.nan).sum, written := bs.length }

/-- A piece of an MX write. -/
def Core.vMxPiece (k : Core) (x : VD) (key : Nat) (p : VPiece) : VOut :=
  let so := x.o0.off p.i1 p.i2 p.i3
  let bs := (k.vCodes x p).zipIdx.map fun e =>
    let sc := ofBytes (k.rd (x.o0.sclAt so (p.j0 / 32 + e.2)) 1)
    let at_ (j : Nat) : Nat := x.lin p.l (p.j0 + 32 * e.2 + j)
    let es := e.1.mapIdx fun j c => if k.active x (at_ j) then mxElem x.o0.fmt sc (x.rm key 0 (at_ j)) j c else ⟨0, 0, 0⟩
    ({ scale := mxScale sc, codes := es.map Enc.code, clip := (es.map Enc.clip).sum, nan := (es.map Enc.nan).sum, cand := false,
       ratio := 0, res := [] } : QBlock)
  { bytes := x.d.blockBytesOut p bs, blocks := bs, counts := blockCounts bs 0 }

/-- An element code as a CVT that carries blocks takes it: its own, but never 0b10 in T2 (R57), and re-encoded in an MX block whose scale
leaves a factor 2^e (R68). -/
def VOpd.carryCode (o : VOpd) (e : Int) (sc : Nat) (r : RMode) (code : Nat) : Enc :=
  if o.fmt = 11 then ⟨if code = 2 then 0 else code, 0, 0⟩
  else if vMx o.fmt ∧ e ≠ 0 ∧ sc ≠ 0xFF then
    blockElem o.readFmt 1 r (match elemVal o.readFmt code with
      | .fin s m => FV.fin s (m * pow2 e)
      | v => v)
  else ⟨code, 0, 0⟩

/-- A piece of a CVT that carries blocks (R182): codes and scales unchanged but as carryCode says, masked-off elements under ZERO as code 0. A
block is flagged as its source is. -/
def Core.vCarryPiece (k : Core) (x : VD) (key : Nat) (p : VPiece) : VOut :=
  let so := x.o0.off p.i1 p.i2 p.i3
  let bs := (k.vCodes x p).zipIdx.map fun e =>
    let b := p.j0 / 32 + e.2
    let at_ (j : Nat) : Nat := x.lin p.l (32 * b + j)
    let flag := k.vFlag x.o0 p.l b
    let raw := ofBytes (k.rd (x.o0.sclAt so b) 1)
    let (sc, f) := if vMx x.o0.fmt then mxReadScale raw else (raw, 0)
    let es := e.1.mapIdx fun j c => if k.active x (at_ j) then x.o0.carryCode f sc (x.rm key 0 (at_ j)) c else ⟨0, 0, 0⟩
    ({ scale := sc, codes := es.map Enc.code, clip := (es.map Enc.clip).sum, nan := (es.map Enc.nan).sum,
       cand := flag, ratio := 0,
       res := if flag then e.1.mapIdx fun j _ => if k.active x (at_ j) then k.codeAt ((x.o0.res : Int) + so).toNat 4 (32 * b + j) else 0 else [] } : QBlock)
  { bytes := x.d.blockBytesOut p bs, blocks := bs, counts := blockCounts bs 0 }

/-- A piece of D converted from its values. An element that clipped in its re-encoding and is out of range again for D counts twice (DESIGN CHOICE, log
entry 134). -/
def Core.vConvPiece (k : Core) (x : VD) (key : Nat) (p : VPiece) (vs : List VVal) (clips : Nat) : VOut :=
  let n0 := x.dext.1 * p.l + p.j0
  if fmtBlock x.d.fmt then
    let bs := (vBlocks vs).zipIdx.map fun e => x.quant key (n0 + 32 * e.2) e.1
    { bytes := x.d.blockBytesOut p bs, blocks := bs, counts := blockCounts bs clips }
  else
    let es := vs.mapIdx fun j v => match v with
      | .val v => some (k.vEnc x key p.l (n0 + j) v)
      | .zero => some ⟨0, 0, 0⟩
      | .keep => none
    let cs := es.filterMap id
    { bytes := k.vPlain x p (es.map fun e => e.map Enc.code),
      counts := { clip := (cs.map Enc.clip).sum + clips, nan := (cs.map Enc.nan).sum } }

/-- A piece of D from its values. -/
def Core.vPieceOut (k : Core) (x : VD) (key : Nat) (p : VPiece) (v : List VVal × Nat) : VOut :=
  if vMx x.d.fmt then k.vMxPiece x key p else if x.carry then k.vCarryPiece x key p else k.vConvPiece x key p v.1 v.2

/-- Residual blocks of every candidate, and tile-mask words, of a B4R D (R138, R182): the mask bits of the descriptor's lines, the
others kept. `l0` is the first line of `ls`, the first of a tile. -/
def Core.vResBytes (k : Core) (x : VD) (l0 : Nat) (flags : List (Nat × Nat)) (ls : List (List QBlock)) : List (Nat × Byte) :=
  let nb := (ls.map List.length).foldl max 0
  let res := ls.zipIdx.flatMap fun l => l.1.zipIdx.flatMap fun q =>
    if q.1.cand then byteRun ((x.d.res : Int) + (l0 + l.2 : Nat) * x.d.s1 + 16 * q.2).toNat (packBits 4 (padBlock q.1.res)) else []
  let masks := (List.range (cdiv ls.length 32)).flatMap fun t => (List.range nb).flatMap fun b =>
    let a := x.d.maskAt (l0 + 32 * t) b
    let own := (List.range 32).filter fun i => decide (32 * t + i < ls.length)
    let keep := (maskList 32 (k.w32 a)).filter fun i => !own.contains i
    byteRun a (toBytes 4 (maskOf (keep ++ own.filter fun i => flags.contains (32 * t + i, b))))
  res ++ masks

/-- The flags of a B4R D: those carried, or those the residual rule chooses (R138, R182). -/
def VD.flagsOf (x : VD) (ls : List (List QBlock)) : List (Nat × Nat) :=
  if x.carry then ls.zipIdx.flatMap fun l => l.1.zipIdx.filterMap fun b => if b.1.cand then some (l.2, b.2) else none
  else flaggedBlocks x.maxFlag ls

/-- CMP's output: bit n of the stream at D (R183); bits beyond the shape and kept ones stay. -/
def Core.vBits (k : Core) (x : VD) (vs : List VVal) : List (Nat × Byte) :=
  (List.range (cdiv vs.length 8)).flatMap fun b =>
    let old := ofBytes (k.rd (x.d.addr + b) 1)
    let bit (i : Nat) : Bool := match vs[8 * b + i]? with
      | some (.val v) => !v.isZero
      | some .zero => false
      | _ => old.testBit i
    if (vs.drop (8 * b)).take 8 |>.all fun v => v == VVal.keep then []
    else [(x.d.addr + b, BitVec.ofNat 8 (maskOf ((List.range 8).filter bit)))]

/-- What steps of a descriptor do: bytes written, counts, the largest finite source magnitude of D's conversion, the number of elements written and
the running RED values. -/
structure VRes where
  bytes : List (Nat × Byte)
  counts : Counts
  amax : Rat
  elems : Nat
  run : List (Option FV)

/-- The pieces of D that steps `lo` to `hi` − 1 complete, with their values and the clips of their sources, and the running RED values after them. -/
def Core.vPieces (k : Core) (x : VD) (key lo hi : Nat) (run : List (Option FV)) : List (VPiece × List VVal × Nat) × List (Option FV) :=
  (List.range (hi - lo)).foldl (fun (acc : List (VPiece × List VVal × Nat) × List (Option FV)) i =>
    let t := lo + i
    let run := if x.op = 8 then k.redStep x key t acc.2 else []
    if x.op ≠ 8 ∨ (t + 1) % x.redSteps = 0 then
      let p := x.outPiece t
      (acc.1 ++ [(p, k.vPieceVals x key run p)], run)
    else (acc.1, run)) ([], run)

/-- Steps `lo` to `hi` − 1 of a vector descriptor (R179 to R184, R188), from its running RED values. -/
def Core.vecPart (k : Core) (x : VD) (key lo hi : Nat) (run : List (Option FV)) : VRes :=
  let (vals, run) := k.vPieces x key lo hi run
  let all := vals.flatMap fun e => e.2.1
  let top := all.foldl (fun a v => match v with
    | .val (.fin _ m) => if x.op = 6 then a else max a m
    | _ => a) (0 : Rat)
  let elems := (all.filter fun v => v ≠ .keep).length
  if x.op = 6 then
    let on := vals.foldl (fun (m : Tbl (Option VVal)) e => e.2.1.zipIdx.foldl (fun m v => tset none m (x.lin e.1.l (e.1.j0 + v.2)) (some v.1)) m) []
    ⟨k.vBits x ((List.range (x.e0 * x.e1 * x.e2 * x.e3)).map fun n => (tget none on n).getD .keep), {}, 0, elems, run⟩
  else
    let outs := vals.map fun e => (e.1.l, k.vPieceOut x key e.1 e.2)
    let cnt := outs.foldl (fun a o => a.add o.2.counts) ({} : Counts)
    let body := outs.flatMap fun o => o.2.bytes
    if x.d.fmt = 8 then
      let l0 := (outs.map (·.1)).headD 0
      let ls := ((outs.map (·.1)).dedup).map fun l => (outs.filter fun o => o.1 == l).flatMap fun o => o.2.blocks
      let flags := x.flagsOf ls
      ⟨body ++ k.vResBytes x l0 flags ls, { cnt with flagged := flags.length }, top, elems, run⟩
    else ⟨body, cnt, top, elems, run⟩

/-- A whole vector descriptor. -/
def Core.vector (k : Core) (x : VD) (key : Nat) : VRes := k.vecPart x key 0 x.chunks []

/-! ### Reads (R184, R187) -/

/-- The local bytes that reading element `j` of line `l` of a source touches. -/
def Core.vReads (k : Core) (o : VOpd) (off : Int) (l j : Nat) : List (Nat × Nat) :=
  let j := if o.bc0 then 0 else j
  let bits := fmtBits o.fmt
  [(o.base off + j * bits / 8, max 1 (bits / 8))] ++
  (if fmtInt o.fmt then [(o.scl + 4 * l, 4)] else []) ++ (if vBlock o.fmt then [(o.sclAt off (j / 32), 1)] else []) ++
  (if o.fmt = 8 then (o.maskAt l (j / 32), 4) :: (if k.vFlag o l (j / 32) then [(((o.res : Int) + off).toNat + j / 2, 1)] else []) else [])

/-- The bytes of D that steps read, where a byte of it is written in part or kept under MERGE, and its line scales. -/
def Core.vecReadsD (k : Core) (x : VD) (ps : List VPiece) : List (Nat × Nat) :=
  let all := x.e0 * x.e1 * x.e2 * x.e3
  if x.op = 6 then
    ps.flatMap fun p =>
      let b0 := x.lin p.l p.j0 / 8
      (List.range ((x.lin p.l p.j0 + p.n - 1) / 8 + 1 - b0)).filterMap fun i =>
        let bits := (List.range 8).map fun j => 8 * (b0 + i) + j
        let ms := (bits.filter (· < all)).map fun n => k.active x n
        if x.mpol = 2 ∨ 8 * (b0 + i) + 8 > all ∨ (x.mpol = 1 ∧ ms.any id ∧ !ms.all id) then some (x.d.addr + b0 + i, 1) else none
  else ps.flatMap fun p =>
    let a := x.d.base (x.d.off p.i1 p.i2 p.i3) + p.j0 * fmtBits x.d.fmt / 8
    (if fmtInt x.d.fmt then [(x.d.scl + 4 * p.l, 4)] else []) ++
    (if x.op = 8 then []
     else if x.mpol = 2 then [(a, packLen x.d.fmt p.n)]
     else if x.mpol = 1 ∧ x.d.fmt = 10 then (List.range (cdiv p.n 2)).filterMap fun b =>
       let ms := ((List.range 2).filter fun i => decide (2 * b + i < p.n)).map fun i => k.maskBit x (x.lin p.l (p.j0 + 2 * b + i))
       if (ms.any id && !ms.all id) || (ms.length = 1 && !ms.all id) then some (a + b, 1) else none
     else [])

/-- Every read of steps `lo` to `hi` − 1 of a descriptor. Under SUPPRESS a masked-off element is not read; D is read under MERGE, and where a byte of it
is written in part. -/
def Core.vecReads (k : Core) (x : VD) (lo hi : Nat) : List (Nat × Nat) :=
  let on (n : Nat) : Bool := x.mpol != 1 || k.maskBit x n
  let ts := (List.range (hi - lo)).map (lo + ·)
  (ts.flatMap fun t =>
    let p := x.stepAt t
    (if x.mpol ≠ 0 ∨ x.op = 7 then [(x.emask + x.lin p.l p.j0 / 8, (x.lin p.l p.j0 + p.n - 1) / 8 + 1 - x.lin p.l p.j0 / 8)] else []) ++
    (List.range p.n).flatMap fun j =>
      if on (x.lin p.l (p.j0 + j)) then x.sources.flatMap fun o => k.vReads o (o.off p.i1 p.i2 p.i3) p.l (p.j0 + j) else []) ++
  k.vecReadsD x ((ts.filter fun t => x.op != 8 || (t + 1) % x.redSteps == 0).map x.outPiece)

/-- The first poisoned address that steps of a descriptor read. -/
def Core.vecPoison (k : Core) (x : VD) (lo hi : Nat) : Option Nat :=
  if k.poison.isEmpty then none else ((k.vecReads x lo hi).find? fun e => k.poisoned e.1 e.2).map (·.1)

/-- Consecutive bytes gathered into runs. -/
def runsOf : List (Nat × Option Byte) → List (Nat × List Byte)
  | [] => []
  | (a, b) :: t =>
    let x := b.getD 0
    match runsOf t with
    | (c, l) :: r => if c = a + 1 then (a, x :: l) :: r else (a, [x]) :: (c, l) :: r
    | [] => [(a, [x])]

/-- The writes of a descriptor, each byte at its last value, gathered into runs. -/
def gatherBytes (bs : List (Nat × Byte)) : List (Nat × List Byte) :=
  runsOf (bs.foldl (fun (m : Tbl (Option Byte)) e => tset none m e.1 (some e.2)) [])

end Sys2Proof.Machine
end

