-- ==== Sys2Proof/Machine/Vector.lean ====
section
/-! DEFINITION. The vector commands (R173 to R175, R179 to R187): issue, the nine operations and completion. -/

namespace Sys2Proof.Machine

/-- Room in the vector queue, which the descriptor in progress has left (Table 8.6), and in the token counter (R174). -/
def Core.vecRoom (k : Core) (gr : Group) (d : Desc) : Bool :=
  decide ((k.vq.filter fun j => !j.done).length < Config.queueDepth) && decide (gr.token (vdOf d.words).token < Config.tokenMax)

/-- One descriptor enters the vector queue; the group's counter rises (R174). -/
def State.vecEnter (s : State) (c slot : Nat) (y : Ctx) (gr : Group) (d : Desc) : State :=
  let j : VJob := { slot := slot, serial := gr.serial, desc := d, rkey := y.rkey, pc := gr.topPath.1, mask := gr.topPath.2,
                    dest := (vdOf d.words).dest }
  (s.modCore c fun k => { k with vq := k.vq ++ [j] }).setGroup c slot { gr with tokens := tmod 0 gr.tokens (vdOf d.words).token (· + 1) }

/-- VXI. The descriptor is read and checked at the first attempt; an issue that waits for room keeps the copy (DESIGN CHOICE, log entry 45). -/
def execVxi (c : CoreNo) (g : SlotNo) (w : W64) (s : State) : Res :=
  .next (s.issue c g w 0x71 { form := .fG, listed := wMod w == 0, a := .reg } fun e s =>
    match e.ex with
    | [] => e.retire e.gr s
    | l :: _ =>
      match e.uniform with
      | none => e.fault 0x0C (e.rA l) s
      | some a =>
        let k := s.core e.c
        if k.vecBad a then e.fault causeDesc a s
        else if k.poisoned a 128 then e.fault causePoison a s
        else
          let d := k.vecDesc a
          if k.vecRoom e.gr d then
            let s := s.vecEnter e.c e.g e.x e.gr d
            match s.group? e.c e.g with
            | some gr => e.retire gr s
            | none => s
          else s.setGroup e.c e.g { e.gr with held := .vxi d })

/-- The job at the head of the vector queue of a core runs from its next chunk up to chunk `hi` (R188, R190); `us`: the units of local memory in error
as it reads them (R201). -/
def State.runJob (s : State) (c n : Nat) (j : VJob) (t : List VJob) (hi : Nat) (us : UnitErrs) : State :=
  let d := vdOf j.desc.words
  let s := if us = [] then s else s.readLocalUnits c ((s.core c).vecReads d j.next hi) us
  match (s.core c).vecPoison d j.next hi with
  | some a => s.feederFault c n j.slot j.pc j.mask a
  | none =>
    let r := (s.core c).vecPart d j.rkey j.next hi j.run
    let s := forEach (gatherBytes r.bytes) s fun w s => s.wrLocal c w.1 w.2
    let j' := { j with done := hi == d.chunks, next := hi, run := if hi = d.chunks then [] else r.run,
                       counts := List.zipWith (· + ·) j.counts [r.counts.clip, r.counts.nan, r.counts.flagged, r.counts.written],
                       amax := max j.amax (amaxCode r.amax), elems := j.elems + r.elems }
    s.modCore c fun k => { k with vq := j' :: t }

/-- The descriptor at the head of the vector queue executes, where its operation is `op` and it has not run (R174, R179). -/
def State.runVector (s : State) (c op : Nat) (us : UnitErrs) : State :=
  match s.ctxOf c, (s.core c).vq with
  | some (n, x), j :: t =>
    let d := vdOf j.desc.words
    if x.st ≠ .running ∨ ¬ s.pwr.coreClocks ∨ j.done ∨ d.op ≠ op then s else s.runJob c n j t d.chunks us
  | _, _ => s

/-- The vector engine of a core stops where it stands (R190): a descriptor that has not finished has done some of its chunks, and the spec does not say
how many. -/
def State.vecStop (s : State) (c n : Nat) : State :=
  match (s.core c).vq with
  | j :: t =>
    let d := vdOf j.desc.words
    let u := d.stopUnit
    let hi := j.next + u * (Config.pick s.rnd (cdiv (d.chunks - j.next) u) % cdiv (d.chunks - j.next) u)
    if j.done ∨ hi = j.next then s.fresh else (s.fresh).runJob c n j t hi []
  | [] => s

/-- VEC_CVT (R182). -/
def execVecCvt (c : CoreNo) (us : UnitErrs) (s : State) : Res := .next (s.runVector c 0 us)
/-- VEC_ADD (R179). -/
def execVecAdd (c : CoreNo) (us : UnitErrs) (s : State) : Res := .next (s.runVector c 1 us)
/-- VEC_MUL (R179). -/
def execVecMul (c : CoreNo) (us : UnitErrs) (s : State) : Res := .next (s.runVector c 2 us)
/-- VEC_FMA (R179). -/
def execVecFma (c : CoreNo) (us : UnitErrs) (s : State) : Res := .next (s.runVector c 3 us)
/-- VEC_MIN (R179). -/
def execVecMin (c : CoreNo) (us : UnitErrs) (s : State) : Res := .next (s.runVector c 4 us)
/-- VEC_MAX (R179). -/
def execVecMax (c : CoreNo) (us : UnitErrs) (s : State) : Res := .next (s.runVector c 5 us)
/-- VEC_CMP (R183). -/
def execVecCmp (c : CoreNo) (us : UnitErrs) (s : State) : Res := .next (s.runVector c 6 us)
/-- VEC_SEL (R183). -/
def execVecSel (c : CoreNo) (us : UnitErrs) (s : State) : Res := .next (s.runVector c 7 us)
/-- VEC_RED (R181). -/
def execVecRed (c : CoreNo) (us : UnitErrs) (s : State) : Res := .next (s.runVector c 8 us)

/-- The counter record and the maximum word of a descriptor (R140, R141). -/
def State.vecCounts (s : State) (c : Nat) (d : VD) (j : VJob) : State :=
  let k := s.core c
  let old := (List.range 4).map fun i => k.w32 (d.cnt + 4 * i)
  let rec' := List.zipWith (fun o n => min (o + n) 0xFFFFFFFF) old j.counts
  let s := if d.cnt = 0 then s else s.wrLocal c d.cnt (rec'.flatMap (toBytes 4))
  if d.amax = 0 then s else s.wrLocal c d.amax (toBytes 4 (max (amaxWord ((s.core c).w32 d.amax) 0) j.amax))

/-- VECTOR_DESC_COMPLETE: every write and update is performed, the tallies rise (R187) and the token counter falls (R174, R143). -/
def execVectorDescComplete (c : CoreNo) (s : State) : Res :=
  match s.ctxOf c, (s.core c).vq with
  | some (_, x), j :: t =>
    if ¬ j.done then .next s
    else
      let d := vdOf j.desc.words
      let s := (s.vecCounts c d j).modCore c fun k => { k with vq := t }
      .next (((s.tally x.stall 0x10 j.elems).tallyCounts x.stall j.counts).tokenDown c j.slot j.serial d.token)
  | _, _ => .next s

end Sys2Proof.Machine
end

