-- ==== Sys2Proof/Machine/Contexts.lean ====
section
/-! DEFINITION. Contexts (R144, R156, R158, R169 to R171, R321, R323, R353, R357, R361): kernel launches and streams, the grant of
cores, held issues, the watchdog, the end and the kill of a context. -/

namespace Sys2Proof.Machine

/-! ### Grants and shares (R340, R353) -/

/-- The cores of a stall's grant, ascending; every core for stall 0. -/
def State.grantOf (s : State) (st : Nat) : List Nat := if st = 0 then List.range 192 else maskList 192 (s.stall st).coreMask.toNat
def State.weightOf (s : State) (st : Nat) : Nat := if st = 0 then 1 else (s.stall st).weight
def State.maxCtxOf (s : State) (st : Nat) : Nat := if st = 0 then 192 else (s.stall st).maxCtx
def State.quantumOf (s : State) (st : Nat) : Nat := if st = 0 then 4096 else (s.stall st).quantum

/-- Contexts of a stall that run or are saved (R353). -/
def State.ctxCount (s : State) (st : Nat) : Nat :=
  (s.ctxs.filter fun e => match e.2 with
    | some x => x.stall == st && x.st != .waiting
    | none => false).length

/-- The stall `a` comes before `b` by used / weight. -/
def State.lessUsed (s : State) (a b : Nat) : Bool :=
  decide ((s.stall a).used * s.weightOf b < (s.stall b).used * s.weightOf a)

/-- A core can take context `n`: free, not reserved for another, not fenced. -/
def State.coreFree (s : State) (n c : Nat) : Bool :=
  (s.core c).ctx.isNone && ((s.core c).reserved == none || (s.core c).reserved == some n) && !s.led.coreFenced.contains c

/-- A context is dispatchable (R353, R326, R240): a waiting one at the head of its ring within MAX_CTX, or a saved one without cores. -/
def State.dispatchable (s : State) (n : Nat) (x : Ctx) : Bool :=
  match x.st with
  | .waiting =>
    x.kind == .test ||
      ((match (s.ring x.ring).head? with
        | some d => d.num == x.num
        | none => false) &&
       (s.stall x.stall).st == .active && !s.heldBack x.stall 1 && !s.tdiLocked x.stall && decide (s.ctxCount x.stall < s.maxCtxOf x.stall))
  | .saved => (s.stall x.stall).st == .active && x.cores.all fun c => (s.core c).ctx != some n
  | _ => false

/-- Every core the context needs can take it. -/
def State.startable (s : State) (n : Nat) (x : Ctx) : Bool := s.pwr.coreClocks && x.cores.all (s.coreFree n)

/-! ### Streams (R323) -/

/-- The next entries of a stream enter their queue in order while there is room; a failed check faults the context. -/
def State.streamIssue (s : State) (c n : Nat) (x : Ctx) : List Desc → State
  | [] => s.modCtx n fun x => { x with entriesLeft := [] }
  | e :: t =>
    let k := s.core c
    let a := e.addr
    match s.group? c 0 with
    | none => s
    | some gr =>
      let bad (cause arg : Nat) : State := s.ctxFault n { cause := cause, slot := 0, arg2 := arg, core := c }
      if x.kind = .vecStream then
        if k.vecBad a then bad causeDesc a
        else if k.poisoned a 128 then bad causePoison a
        else
          let d := k.vecDesc a
          if k.vecRoom gr d then (s.vecEnter c 0 x gr d).streamIssue c n x t
          else s.modCtx n fun x => { x with entriesLeft := e :: t }
      else
        match k.mtxBad a with
        | some b => bad causeDesc b
        | none =>
          let d := k.mtxDesc a
          if k.poisoned a 64 ∨ (d.rdo ≠ [] ∧ k.poisoned (mdOf d.words).rdo 64) then bad causePoison a
          else
            match s.fencedArray c d with
            | some ar => s.ctxFault n { cause := 0x0F, slot := 0, arg2 := a, core := c, array := some ar }
            | none =>
              if k.mtxRoom gr d then (s.mtxEnter c 0 x gr d).streamIssue c n x t
              else s.modCtx n fun x => { x with entriesLeft := e :: t }

/-- Bytes of device memory copied to the local memory of a core; a read of golden poison is held (R207), another failure faults the context (R321,
R323). -/
def State.copyIn (s : State) (n : Nat) (x : Ctx) (c src dst len : Nat) : State :=
  if len = 0 then s
  else
    match s.rdDva x.stall src len with
    | .error m =>
      match s.holdFor (.start c) m with
      | some s => s.modCtx n fun x => { x with copyHeld := insertSorted c x.copyHeld }
      | none => s.ctxFault n { cause := m.cause, arg2 := m.addr, core := c, level := m.level, src := s.poisonSource (m.addr / 32) }
    | .ok bs => (s.wrLocal c dst bs).didRead x.stall src len

/-- The argument copy of a kernel to one of its cores. -/
def State.argCopy (s : State) (n : Nat) (x : Ctx) (c : Nat) : State := s.copyIn n x c (wf x.store 2 56 0) x.argAddr (16 * wf x.store 4 39 28)

/-- A stream begins on its core: the load, then its entries. `store` holds the descriptor's words. -/
def State.streamStart (s : State) (n : Nat) (x : Ctx) (c : Nat) : State :=
  let w := x.store
  let s := s.copyIn n x c (wf w 1 56 0) (wf w 3 63 40) (wf w 3 39 16)
  match s.ctx? n with
  | some y =>
    if y.st ≠ .running ∨ y.copyHeld.contains c then s
    else
      let s := { s with nextId := s.nextId + 1 }
      let s := s.setGroup c 0 { serial := s.nextId, block := 0, idx := 0 }
      let sz := if x.kind = .vecStream then 128 else 64
      s.streamIssue c n x ((List.range (wf w 4 15 0 + 1)).map fun i => { addr := wf w 5 63 40 + sz * i })
  | none => s

/-- A copy that was held goes on with its block refilled: the arguments, or the load and then the stream's entries (R207).
That HELD_ISSUE_RETRY of slot 0 goes on with it is a DESIGN CHOICE (log entry 154). -/
def State.copyResume (s : State) (n : Nat) (x : Ctx) (c : Nat) : State :=
  if s.heldOn c then s
  else
    let s := s.modCtx n fun x => { x with copyHeld := x.copyHeld.erase c }
    if x.kind = .kernel then s.argCopy n x c else s.streamStart n x c

/-! ### Starting a context (R321, R326, R357) -/

/-- A core taken by context `n`, as scrubbed. -/
def State.takeCore (s : State) (n wide c : Nat) : State :=
  s.modCore c fun k => { (k.scrub) with ctx := some n, reserved := none, cycles := 0, counted := 0, lastRetire := s.clock, wide := wide }

/-- A kernel chosen on a class ring has started: the choice is spent (R227). -/
def State.pipeStarted (s : State) (r : Nat) : State :=
  let x := s.ring r
  if x.cls = 0 then s
  else s.modStall x.stall fun y => { y with pipes := tmod {} y.pipes x.pipe fun p => if p.chosen = some r then { p with chosen := none } else p }

/-- A context starts on all its cores, or a saved one takes its cores again for CONTEXT_RESTORE. -/
def State.ctxStart (s : State) (n : Nat) (x : Ctx) : State :=
  let s := forEach x.cores s fun c s => s.takeCore n x.wide c
  if x.st = .saved then s
  else
    let x := { x with st := .running, start := s.clock, quantum := s.quantumOf x.stall, rkey := (s.stall x.stall).rkey.toNat }
    let s := s.setCtx n (some x)
    let s := if x.kind = .test then s else ({ s.dispatchDesc x.ring x.num n with hosts := s.hosts }).pipeStarted x.ring
    match x.kind with
    | .kernel => forEach x.cores s fun c s => s.argCopy n x c
    | .test => s
    | _ => forEach x.cores s fun c s => s.streamStart n x c

/-- The startable context that Polnik chooses (R357): the least used stall by weight, ties to the lowest ID, its oldest context. -/
def State.grantChoice (s : State) : Option (Nat × Ctx) :=
  let cands := s.ctxs.filterMap fun e => match e.2 with
    | some x => if s.dispatchable e.1 x && s.startable e.1 x then some (e.1, x) else none
    | none => none
  cands.foldl (fun (b : Option (Nat × Ctx)) e => match b with
    | none => some e
    | some g => if s.lessUsed e.2.stall g.2.stall || (!s.lessUsed g.2.stall e.2.stall && decide (e.2.stall < g.2.stall)) then some e else some g) none

/-- Free cores are given until no dispatchable context can start (R357). -/
def State.grantAll : Nat → State → State
  | 0, s => s
  | fuel + 1, s =>
    match s.grantChoice with
    | some (n, x) => State.grantAll fuel (s.ctxStart n x)
    | none => s

/-- The grants of this moment: none at a boundary before its lease reclaims and tunings (R44). -/
def State.grant (s : State) : State := if s.grantOk then s.grantAll (s.ctxs.length + 1) else s

/-- CORE_GRANT (R357). -/
def execCoreGrant (s : State) : Res := .next s.grant

/-! ### Kernel launches and streams (R8, R321, R323) -/

/-- Reserved bits of the common header (Table 13.7). -/
def hdrBad (w : List W64) : Bool := wf w 0 58 32 != 0

/-- The first failing word of WIDE_BASE's rules (R115). -/
def wideOk (b : Nat) : Bool := b % 0x2000 == 0 && decide (b + 0x40000 ≤ localEnd)

/-- The cores that CORE_MASK names. -/
def launchCores (w : List W64) : List Nat :=
  (List.range 192).filter fun c => (((w[5 + c / 64]?).getD 0).toNat).testBit (c % 64)

/-- The word at fault in a kernel-launch descriptor (Table 13.9, R321), and a fenced core that it names (R388). -/
def State.launchBad (s : State) (st : Nat) (w : List W64) : Option (Nat × Option Nat) :=
  let cores := launchCores w
  let arg := wf w 4 63 40
  let len := 16 * wf w 4 39 28
  let wide := wf w 4 23 0
  if hdrBad w then some (0, none)
  else if wf w 1 63 57 ≠ 0 ∨ wf w 1 56 0 % 8 ≠ 0 then some (1, none)
  else if wf w 2 63 57 ≠ 0 ∨ wf w 2 56 0 % 16 ≠ 0 then some (2, none)
  else if wf w 3 15 13 ≠ 0 ∨ wf w 3 7 5 ≠ 0 ∨ min 64 (4096 / (8 * (wf w 3 12 8 + 1))) < wf w 3 4 0 + 1 then some (3, none)
  else if wf w 4 27 24 ≠ 0 ∨ arg % 16 ≠ 0 ∨ localEnd < arg + len ∨ ¬ wideOk wide ∨
      (wide ≠ 0 ∧ len ≠ 0 ∧ arg < wide + 0x40000 ∧ wide < arg + len) then some (4, none)
  else
    let outside := cores.find? fun c => !(s.grantOf st).contains c
    if cores = [] then some (5, none)
    else match outside with
      | some c => some (5 + c / 64, none)
      | none => (cores.find? s.led.coreFenced.contains).map fun c => (5 + c / 64, some c)

/-- The word at fault in a stream descriptor (Table 13.11), and a fenced core that it names. -/
def State.streamBad (s : State) (st : Nat) (vec : Bool) (w : List W64) : Option (Nat × Option Nat) :=
  let c := wf w 3 15 8
  if hdrBad w then some (0, none)
  else if wf w 1 63 57 ≠ 0 ∨ wf w 1 56 0 % 32 ≠ 0 then some (1, none)
  else if wf w 2 63 57 ≠ 0 ∨ wf w 2 56 0 % 32 ≠ 0 then some (2, none)
  else if wf w 3 7 0 ≠ 0 ∨ wf w 3 63 40 % 32 ≠ 0 ∨ wf w 3 39 16 % 32 ≠ 0 ∨ localEnd < wf w 3 63 40 + wf w 3 39 16 ∨
      191 < c ∨ ¬ (s.grantOf st).contains c then some (3, none)
  else if s.led.coreFenced.contains c then some (3, some c)
  else if wf w 4 63 40 % 32 ≠ 0 ∨ wf w 4 39 16 % 32 ≠ 0 ∨ localEnd < wf w 4 63 40 + wf w 4 39 16 then some (4, none)
  else if wf w 5 15 0 ≠ 0 ∨ wf w 5 63 40 % (if vec then 128 else 64) ≠ 0 ∨
      (if vec then wf w 5 39 16 ≠ 0 else ¬ wideOk (wf w 5 39 16)) then some (5, none)
  else if wf w 6 63 0 ≠ 0 then some (6, none)
  else if wf w 7 63 0 ≠ 0 then some (7, none)
  else none

/-- A descriptor that fails its check, with the fenced core it named if that is why, which its entry names in ARG3 (R388, log 147): DESC_INVALID. -/
def State.descBad (s : State) (r : Nat) (n : W32) (b : Nat × Option Nat) : State :=
  s.descInvalid r n (8 * b.1) (match b.2 with
    | some c => 0x100 + c
    | none => 0)

/-- A context is created, waiting for its cores. -/
def State.ctxNew (s : State) (x : Ctx) : State := { s.setCtx s.nextCtx (some x) with nextCtx := s.nextCtx + 1 }

/-- KERNEL_LAUNCH: the head descriptor of ring `r` is checked and its context created; it starts when its cores are free. -/
def execKernelLaunch (r : RingNo) (s : State) : Res :=
  match s.headOf r 1 with
  | some d =>
    let x := s.ring r
    if (s.ctxFor r d.num).isSome ∨ ¬ s.chosen r then .next s
    else
      match s.launchBad x.stall d.words with
      | some b => .next ((s.descBad r d.num b).pipeStarted r)
      | none =>
        let w := d.words
        .next ((s.turned r).ctxNew
          { kind := .kernel, stall := x.stall, ring := r, num := d.num, cores := launchCores w, nreg := 8 * (wf w 3 12 8 + 1),
            ngrp := wf w 3 4 0 + 1, gx := wf w 3 63 48 + 1, gy := wf w 3 47 32 + 1, gz := wf w 3 31 16 + 1, entry := wf w 1 56 0,
            argAddr := wf w 4 63 40, wide := wf w 4 23 0, store := w }).grant
  | none => .next s

/-- A stream descriptor of TYPE `ty`. -/
def State.streamLaunch (s : State) (r ty : Nat) : State :=
  match s.headOf r ty with
  | some d =>
    let x := s.ring r
    if (s.ctxFor r d.num).isSome then s
    else
      match s.streamBad x.stall (ty == 3) d.words with
      | some b => s.descBad r d.num b
      | none =>
        let x : Ctx := { kind := if ty = 3 then .vecStream else .mtxStream, stall := x.stall, ring := r, num := d.num,
                         cores := [wf d.words 3 15 8], wide := if ty = 3 then 0 else wf d.words 5 39 16, store := d.words }
        ((s.turned r).ctxNew x).grant
  | none => s

/-- VECTOR_STREAM (R323). -/
def execVectorStream (r : RingNo) (s : State) : Res := .next (s.streamLaunch r 3)
/-- MATRIX_STREAM (R323). -/
def execMatrixStream (r : RingNo) (s : State) : Res := .next (s.streamLaunch r 4)

/-! ### Leaving (R156, R169, R361) -/

/-- The context leaves its cores: the cycles it ran are tallied and the cores scrubbed. -/
def State.leaveCores (s : State) (n : Nat) (x : Ctx) : State :=
  forEach x.cores s fun c s =>
    if (s.core c).ctx = some n then
      let s := { s with mem := { s.mem with held := s.mem.held.filter fun h => !h.who.onCore c } }
      ((s.countCore x.stall c).modCore c fun k => { k.scrub with ctx := none, cycles := 0, counted := 0 }).invalEnd
    else s

/-- The context is gone; a core reserved for it is reserved no more. -/
def State.ctxGone (s : State) (n : Nat) : State :=
  let s := s.setCtx n none
  { s with cores := tmapv {} (fun _ k => if k.reserved = some n then { k with reserved := none } else k) s.cores }

/-- FLAGS of the record of a context (Table 13.14). -/
def Ctx.flags (x : Ctx) : Nat := if x.boundExt then 2 else 0

/-- The context ends with `status`: its descriptor's record is due and its cores are free. -/
def State.ctxFinish (s : State) (n : Nat) (x : Ctx) (status : Nat) : State :=
  let s := (s.leaveCores n x).ctxGone n
  let own : Bool := match (s.ring x.ring).desc? x.num with
    | some d => d.ph == .running && d.aux == n
    | none => false
  let s := if x.kind ≠ .test ∧ own then s.descDone x.ring x.num status x.flags else s
  (s.tally x.stall 0x48 x.clips).tally x.stall 0x50 x.nans

/-- Issue-form collectives of a context. -/
def State.ctxColls (s : State) (n : Nat) : List Coll :=
  s.colls.filter fun c => match c.issue with
    | some i => i.ctx == n
    | none => false

/-- All the work that the context's groups issued has completed on a core (R156). -/
def Core.idle (k : Core) : Bool := k.passes.isEmpty && k.vq.isEmpty && k.loads.isEmpty

/-- CONTEXT_END (R156, R385): every block has ended and every issue completed. -/
def execContextEnd (c : CoreNo) (s : State) : Res :=
  match s.ctxOf c with
  | some (n, x) =>
    if x.kind = .kernel ∧ x.st = .running ∧ x.placed.length = x.gx * x.gy * x.gz ∧
        (x.cores.all fun i => (s.core i).blocks.isEmpty && (s.core i).idle) ∧ s.ctxColls n = [] then
      .next (s.ctxFinish n x (if x.mismatch then 0x23 else 0))
    else .next s
  | none => .next s

/-- STREAM_ENTRIES_DONE (R323): all entries issued and every token counter 0; the store is copied, once no refill holds its write (R209),
and the stream completes. -/
def execStreamEntriesDone (c : CoreNo) (s : State) : Res :=
  match s.ctxOf c with
  | some (n, x) =>
    let k := s.core c
    let toks := match s.group? c 0 with
      | some g => g.tokens
      | none => []
    if (x.kind = .vecStream ∨ x.kind = .mtxStream) ∧ x.st = .running ∧ x.entriesLeft = [] ∧ toks = [] ∧ k.idle then
      let w := x.store
      let src := wf w 4 63 40
      let len := wf w 4 39 16
      if x.copyHeld.contains c then .next s
      else if len = 0 then .next (s.ctxFinish n x (if x.mismatch then 0x23 else 0))
      else if s.writeWaits x.stall (wf w 2 56 0) len then .next s
      else if k.poisoned src len then .next (s.ctxFault n { cause := causePoison, arg2 := src, core := c })
      else
        match s.wrDva x.stall (wf w 2 56 0) (k.rd src len) with
        | .error m => .next (s.ctxFault n { cause := m.cause, arg2 := m.addr, core := c, level := m.level, src := s.poisonSource (m.addr / 32) })
        | .ok s => .next (s.ctxFinish n x (if x.mismatch then 0x23 else 0))
    else .next s
  | none => .next s

/-- The ledger entry of a context fault (R170, R101, R205); the page-table level (R347) is in ARG1 [45:44], the owner (R345) in ARG3 [59:48]
(log 147). -/
def State.faultEntry (s : State) (x : Ctx) (f : CtxFault) : State :=
  let (kind, unit) := match f.array with
    | some a => (0x04, a)
    | none => (0x03, f.core)
  s.ledger f.cause 2 kind unit (some x.stall) f.pc (f.mask + f.slot * 2 ^ 32 + f.level * 2 ^ 44) f.arg2
    (x.num.toNat + x.ring * 2 ^ 32 + f.owner.getD 0 * 2 ^ 48)
    (oper := x.kind.type * 4096 + f.opc) (count := f.more)

/-- CONTEXT_KILL_DONE (R169, R170, R376): the entry, the record and the scrub. -/
def execContextKillDone (c : CoreNo) (s : State) : Res :=
  match s.ctxOf c with
  | some (n, x) =>
    if x.st ≠ .killing then .next s
    else
      let s := match x.fault with
        | some f => s.faultEntry x f
        | none => s
      .next (s.ctxFinish n x (x.status.getD 0x20))
  | none => .next s

/-! ### The watchdog (R171, R405) and held issues (R158) -/

/-- WATCHDOG_EXPIRED (R171, R209): no group of the context on core `c` has retired an instruction for the interval; an expiry that the hardware caused
is an interruption (R393). -/
def execWatchdogExpired (c : CoreNo) (hw : Bool) (s : State) : Res :=
  match s.ctxOf c with
  | some (n, x) =>
    let wd := fld (s.stall x.stall).qTimer 23 0
    let k := s.core c
    if x.kind = .kernel ∧ x.st = .running ∧ wd ≠ 0 ∧ s.timerMode ≠ 1 ∧ (k.groups.any fun g => g.2.live != 0) ∧
        k.lastRetire + 256 * wd ≤ s.clock ∧ (s.timerMode = 3 → s.quantumEnd x ≤ s.clock ∨ x.start = s.clock) ∧
        ¬ x.cores.any s.heldOn then
      let s := s.ctxFault n { cause := 0x14, core := c }
      .next (if hw then s.interruption 1 else s)
    else .next s
  | none => .next s

end Sys2Proof.Machine
end

