-- ==== Sys2Proof/Machine/UpdateDesc.lean ====
section
/-! DEFINITION. The update descriptor and the records it names, with their checks (R230 to R235, R239, Tables 10.2 to 10.6). -/

namespace Sys2Proof.Machine

/-! ### The descriptor (Table 10.2) -/

def uOp (w : List W64) : Nat := wf w 1 63 60
def uRnd (w : List W64) : Bool := wf w 1 58 58 == 1
def uStep (w : List W64) : Nat := wf w 1 31 0
def uAddr (w : List W64) : Nat := wf w 2 56 0
def uSrec (w : List W64) : Nat := wf w 3 56 0
def uHyp (w : List W64) : Nat := wf w 4 56 0
def uCnt (w : List W64) : Nat := wf w 5 56 0
def uCount (w : List W64) : Nat := wf w 6 63 24
def uGate (w : List W64) : Nat := let n := wf w 6 15 0; if n = 0 then 256 else n
def uSeed (w : List W64) : Nat := wf w 7 63 32

/-- Reserved fields, unread fields and alignments (R231, R232, Table 10.3): the offset of the first word at fault. -/
def updBad (w : List W64) : Option Nat :=
  let op := uOp w
  let reads := fun (l : List Nat) => decide (op ∈ l)
  let z := fun (v : Nat) (l : List Nat) => !reads l && v != 0
  if hdrBad w then some 0
  else if 5 < op ∨ wf w 1 57 32 ≠ 0 ∨ z (wf w 1 59 59) [0] ∨ z (wf w 1 58 58) [3, 4] ∨ z (uStep w) [3, 5] then some 8
  else if wf w 2 63 57 ≠ 0 ∨ uAddr w % 128 ≠ 0 ∨ z (uAddr w) [0, 1, 2, 3, 4] then some 16
  else if wf w 3 63 57 ≠ 0 ∨ uSrec w % 64 ≠ 0 ∨ z (uSrec w) [2, 3, 5] then some 24
  else if wf w 4 63 57 ≠ 0 ∨ uHyp w % 64 ≠ 0 ∨ z (uHyp w) [3] then some 32
  else if wf w 5 63 57 ≠ 0 ∨ uCnt w % 16 ≠ 0 ∨ z (uCnt w) [3, 4] then some 40
  else if wf w 6 23 16 ≠ 0 ∨ (op = 0 ∧ uCount w = 0) ∨ (op ≠ 0 ∧ 65535 < uCount w) ∨ z (uCount w) [0, 2, 3, 4] ∨
      z (wf w 6 15 0) [3] then some 48
  else if wf w 7 31 0 ≠ 0 ∨ z (uSeed w) [3, 4] then some 56
  else none

/-! ### Tensor records (Table 10.5) -/

/-- A tensor record. -/
structure Tensor where
  master : Nat
  mom : Nat
  rowst : Nat
  colst : Nat
  rowsq : Nat
  colsq : Nat
  grad : Nat
  wc0 : Nat
  scl0 : Nat
  res0 : Nat
  mask0 : Nat
  wc1 : Nat
  scl1 : Nat
  r : Nat
  c : Nat
  pitch : Nat
  lrs : Nat
  rt : Nat
  cfg : Nat

def tensorOf (b : List Byte) : Tensor :=
  let q := fun o => recFld b o 8
  let d := fun o => recFld b o 4
  { master := q 0x00, mom := q 0x08, rowst := q 0x10, colst := q 0x18, rowsq := q 0x20, colsq := q 0x28, grad := q 0x30, wc0 := q 0x38,
    scl0 := q 0x40, res0 := q 0x48, mask0 := q 0x50, wc1 := q 0x58, scl1 := q 0x60, r := d 0x68, c := d 0x6C, pitch := d 0x70,
    lrs := d 0x74, rt := d 0x78, cfg := d 0x7C }

def Tensor.fmt0 (t : Tensor) : Nat := t.cfg / 2 ^ 28
def Tensor.fmt1 (t : Tensor) : Nat := t.cfg / 2 ^ 24 % 16
def Tensor.sel (t : Tensor) : Bool := t.cfg.testBit 23
def Tensor.resMode (t : Tensor) : Nat := t.cfg / 2 ^ 21 % 4
def Tensor.resThr (t : Tensor) : Nat := t.cfg / 2 ^ 15 % 64
def Tensor.noDecay (t : Tensor) : Bool := t.cfg.testBit 14
def Tensor.normExcl (t : Tensor) : Bool := t.cfg.testBit 13

/-- A record obeys R223, R234 and Table 10.5. -/
def Tensor.ok (t : Tensor) : Bool :=
  let un := fun (used : Bool) (a : Nat) => used || a == 0
  let al := fun (a n : Nat) => a % n == 0
  decide (1 ≤ t.r ∧ t.r ≤ 2 ^ 24 ∧ 1 ≤ t.c ∧ t.c ≤ 2 ^ 24 ∧ t.r ≤ t.rt ∧ t.rt ≤ 2 ^ 24) &&
    al t.pitch 256 && decide (4 * t.c ≤ t.pitch) && al t.master 256 && al t.grad 256 && al t.mom 128 &&
    al t.rowst 4 && al t.colst 4 && al t.rowsq 4 && al t.colsq 4 &&
    [0, 1, 3, 5, 7, 8].contains t.fmt0 && [0, 1, 3, 5, 7].contains t.fmt1 && decide (t.cfg % 2 ^ 13 = 0) &&
    al t.wc0 32 && al t.res0 32 && al t.mask0 4 && al t.wc1 32 &&
    un (t.fmt0 != 0) t.wc0 && un (fmtBlock t.fmt0) t.scl0 && un (t.fmt0 == 8) t.res0 && un (t.fmt0 == 8) t.mask0 &&
    un (t.fmt1 != 0) t.wc1 && un (fmtBlock t.fmt1) t.scl1 &&
    (if t.fmt0 = 8 then t.resMode != 3 else t.resMode == 0 && t.resThr == 0)

/-- Elements of line `l` of a row, and lines of a row. -/
def Tensor.lineLen (t : Tensor) (l : Nat) : Nat := min 32 (t.c - 32 * l)
def Tensor.rowLines (t : Tensor) : Nat := cdiv t.c 32

/-- The records that a descriptor names; the failure of a read, or the index of the first record that fails R232. -/
def State.tensors (s : State) (st : Nat) (w : List W64) : Except MemErr (List Tensor) := do
  let bs ← s.rdDva st (uAddr w) (128 * (uCount w + 1))
  .ok ((List.range (uCount w + 1)).map fun i => tensorOf ((bs.drop (128 * i)).take 128))

/-! ### The hyperparameter record (Table 10.4) -/

/-- LR, BETA1, BETA2, EPS, WD and CLIP as FP32 codes. -/
structure Hyp where
  lr : Nat
  b1 : Nat
  b2 : Nat
  eps : Nat
  wd : Nat
  clip : Nat

def hypOf (l : List W32) : Hyp :=
  let g := fun i => ((l[i]?).getD 0).toNat
  { lr := g 0, b1 := g 1, b2 := g 2, eps := g 3, wd := g 4, clip := g 5 }

/-- R233. -/
def hypOk (b : List Byte) : Bool :=
  let v := fun i => f32 (recFld b (4 * i) 4)
  let neg := fun i => (v i).neg && !(v i).isZero
  ((List.range 6).all fun i => (v i).isFin) && ([1, 2].all fun i => !neg i && fvLt (v i) (.fin false 1)) &&
    ([0, 3, 5].all fun i => !neg i) && recFld b 0x18 40 == 0

/-! ### The step record (Table 10.6) -/

/-- The fields of a step record that the W7 reads. -/
structure SRec where
  globalSq : Nat
  done : Nat
  active : Nat
  st : Nat
  cur : Nat
  hwm : List Nat

def srecOf (b : List Byte) : SRec :=
  { globalSq := recFld b 0x08 4, done := recFld b 0x0C 4, active := recFld b 0x10 4, st := recFld b 0x14 1, cur := recFld b 0x15 1 % 2,
    hwm := (List.range 64).map fun e => recFld b (0x40 + 4 * e) 4 }

def State.srec (s : State) (st a : Nat) : Except MemErr SRec := do
  let b ← s.rdDva st a 320
  .ok (srecOf b)

/-- A write to the step record; one that does not translate writes nothing. -/
def State.srecWr (s : State) (st a : Nat) (bs : List Byte) : State :=
  match s.wrDva st a bs with
  | .ok s => s
  | .error _ => s

/-- The counts of a job at the end of its descriptor, or at its stop: to the stall's tallies and to its counter record (R140, R143, R238). -/
def State.updCounts (s : State) (st : Nat) (j : UpdJob) : Except MemErr State :=
  let c : Counts := ⟨(j.counts[0]?).getD 0, (j.counts[1]?).getD 0, (j.counts[2]?).getD 0, (j.counts[3]?).getD 0⟩
  if uCnt j.words = 0 then .ok (s.tallyCounts st j.counts)
  else do
    let bs ← s.rdDva st (uCnt j.words) 16
    let s1 ← s.wrDva st (uCnt j.words) (f32Bytes (c.record (wordsOf 4 bs.length bs)))
    .ok (s1.tallyCounts st j.counts)

/-- The counts of a job that ends otherwise than by its last line: a counter record that cannot be reached stays as it is. -/
def State.updCountsStop (s : State) (st : Nat) (j : UpdJob) : State :=
  match s.updCounts st j with
  | .ok s => s
  | .error _ => s.tallyCounts st j.counts

end Sys2Proof.Machine
end

