-- ==== Sys2Proof/Machine/Rings.lean ====
section
/-! DEFINITION. Rings (R309 to R319, R326 to R338): kicks, doorbells, descriptor reads, completion records, interrupts, cancelling and
the operations of RING_CMD. -/

namespace Sys2Proof.Machine

/-! ### Addresses and numbers (R309, R312) -/

def Ring.size (x : Ring) : Nat := 2 ^ x.log2
def Ring.sqAddr (x : Ring) (n : W32) : Nat := x.sqBase.toNat + 64 * (n.toNat % x.size)
def Ring.cqAddr (x : Ring) (n : W32) : Nat := x.cqBase.toNat + 16 * (n.toNat % x.size)

/-- The global number of a function's ring, if its quota has it. -/
def State.ringNo (s : State) (f i : Nat) : Option Nat :=
  if i < (s.fn f).quotaCount then some ((s.fn f).quotaBase + i) else none

/-- The address of a doorbell page of a function, and of a ring's doorbell word (Table 13.5). -/
def State.dbPage (s : State) (f page : Nat) : Nat := fld (s.fn f).dbBase 63 12 * 4096 + 4096 * page
def State.dbAddr (s : State) (x : Ring) : Nat := s.dbPage x.func (x.local_ / 256) + 0x800 + 8 * (x.local_ % 256)

/-- A function runs: it is enabled and the device is READY (R417, R418). -/
def State.fnReady (s : State) (f : Nat) : Bool := s.fnEnabled f && s.tun.boot == .ready

/-- No kick of the host port waits for credit: its other traffic is not held behind one (R318). -/
def State.portFree (s : State) (f : Nat) : Bool := !s.hosts.waitKicks.any fun k => k.1 / 1024 == f / 1024

/-- A function's registers answer: it runs and its host port's traffic flows. A row for a port that waits changes nothing (log entry 146). -/
def State.regOk (s : State) (f : Nat) : Bool := s.fnReady f && s.portFree f

/-- Before READY the PF of a host port in L0 answers configuration requests with Request Retry Status (R417); while its traffic waits they wait. -/
def State.cfgAccess (s : State) (f : Nat) (go : State → State) : State :=
  if s.tun.boot = .booting then (if s.hosts.l0.toNat.testBit (f / 1024) ∧ f % 1024 = 0 then s.drive (.configRetry f) else s)
  else if s.portFree f then go s else s

/-- The cause of a failed host access in an entry (Table 15.4). -/
def failCode : HostFail → Nat
  | .untranslatable => 1
  | .errorCompletion => 2
  | .ideFailure => 3

/-! ### Data to and from host memory (R308) -/

/-- A run of `n` bytes at a host address cut into requests of at most `most` bytes, none across a boundary of that size: address and length. -/
def hostCuts (most : Nat) : Nat → Nat → Nat → List (Nat × Nat)
  | 0, _, _ => []
  | fuel + 1, a, n =>
    if n = 0 then [] else let k := min n (most - a % most); (a, k) :: hostCuts most fuel (a + k) (n - k)

/-- Read requests of at most 4,096 bytes. -/
def State.hostReads (s : State) (f : Nat) (pasid : W32) (a n : Nat) : State :=
  forEach (hostCuts 4096 (n / 4096 + 2) a n) s fun e s => s.drive (.hostRead f pasid e.1 e.2)

/-- Writes with payloads of at most 512 bytes. -/
def State.hostWrites (s : State) (f : Nat) (pasid : W32) (a : Nat) (bs : List Byte) (ro : Bool) : State :=
  forEach (hostCuts 512 (bs.length / 512 + 2) a bs.length) s fun e s => s.drive (.hostWrite f pasid e.1 ((bs.drop (e.1 - a)).take e.2) ro)

/-! ### Fields of a copy descriptor (R322, Table 13.10) -/

def cMode (w : List W64) : Nat := wf w 1 63 62
def cSrcHost (w : List W64) : Bool := wf w 1 61 61 == 1
def cDstHost (w : List W64) : Bool := wf w 1 60 60 == 1
def cLen (w : List W64) : Nat := wf w 1 39 0
def cSrc (w : List W64) : Nat := wf w 2 63 0
def cDst (w : List W64) : Nat := wf w 3 63 0

/-- The device virtual address that a 64-bit address field names: bits [63:57] must equal bit 56, as for global memory (R161, Table 7.5). -/
def devAddr (a : Nat) : Except MemErr Nat :=
  match canonical a with
  | some v => .ok v
  | none => .error ⟨causeCanon, a, 0⟩

/-- Such an address where it is canonical, for the checks that come before the access. -/
def devAddr' (a : Nat) : Nat := (canonical a).getD a

/-- A copy that is stopped leaves its destination undefined (R337): free bytes. -/
def State.copyUndef (s : State) (r : Nat) (d : RDesc) : State :=
  let x := s.ring r
  if cDstHost d.words then
    (s.hostWrites x.func x.pasid (cDst d.words) ((List.range (cLen d.words)).map fun i => Config.undefByte s.rnd i) x.roData).fresh
  else match devAddr (cDst d.words) with
    | .ok a => s.undefRange x.stall a (cLen d.words)
    | .error _ => s

/-! ### Cancelling (R336, R337) -/

/-- A context stops for another reason than a fault: on its cores it is killed, a waiting or saved one is gone at once. -/
def State.ctxStop (s : State) (n status : Nat) : State :=
  match s.ctx? n with
  | some x =>
    if x.cores.any fun c => (s.core c).ctx == some n then s.ctxKill n status
    else (s.abortCtxColls n status).ctxFinish n x status
  | none => s

/-- The update descriptor of a stall stops at a line boundary (R242, R366): the counts of the lines it converted are added (R238), and an
APPLY that commits leaves STATE = PARTIAL. -/
def State.updMark (s : State) (st : Nat) : State × Bool :=
  match (s.stall st).upd with
  | some j =>
    if j.op = .apply ∧ j.ph = .work then ((s.srecWr st (uSrec j.words + 0x14) [2]).updCountsStop st j, true)
    else if j.op = .emit then (s.updCountsStop st j, false) else (s, false)
  | none => (s, false)

/-- One later descriptor of a ring that cancels: it completes with CANCELLED. A dispatched context is killed, a collective sends LEAVE, an
update stops at a line. -/
def State.cancelDesc (s : State) (r : Nat) (d : RDesc) : State :=
  let x := s.ring r
  match d.ph with
  | .done => (if d.status = 0 ∧ d.type = 2 then s.copyUndef r d else s).modRing r fun x => x.setDesc d.num fun d => { d with status := 0x20, flags := 0 }
  | .running =>
    if d.type = 1 ∨ d.type = 3 ∨ d.type = 4 then s.ctxStop d.aux 0x20
    else if d.type = 5 then
      match s.colls.find? fun c => c.ring == some (r, d.num) with
      | some c => s.collEnd c 0x20
      | none => s.descDone r d.num 0x20 0
    else if d.type = 6 then
      let (s, p) := s.updMark x.stall
      s.updEnd x.stall 0x20 p
    else s.descDone r d.num 0x20 0
  | _ =>
    if x.stopping ∨ x.st = .stopped then s
    else
      let s := match s.ctxFor r d.num with
        | some n => s.ctxGone n
        | none => s
      let s := if d.type = 1 then s.pipeStarted r else s
      ({ s with mem := { s.mem with held := s.mem.held.filter fun h => h.who != Reader.desc r d.num } }).descDone r d.num 0x20 0

/-- Every descriptor of a ring from number `n` on is cancelled. -/
def State.cancelFrom (s : State) (r : Nat) (n : W32) : State :=
  forEach ((s.ring r).ds.filter fun d => atOrAfter n d.num) s fun d s => s.cancelDesc r d

/-- The first descriptor of a ring that has not been dispatched. -/
def Ring.undispatched (x : Ring) : W32 :=
  match x.ds.find? fun d => d.ph != .running && d.ph != .done with
  | some d => d.num
  | none => x.next

/-- A ring stops in CANCELLING from descriptor `n` on (R336, Table 17.5). -/
def State.ringCancel (s : State) (r : Nat) (n : W32) : State :=
  (s.modRing r fun x => { x with st := .cancelling, failed := some (n - 1) }).cancelFrom r n

/-- A read of a doorbell or descriptor of a ring failed (event 0x0103). -/
def State.readFail (s : State) (r addr : Nat) (c : HostFail) (n : W32) : State :=
  (s.ledger 0x0103 2 0x0E r (some (s.ring r).stall) addr (failCode c)).ringCancel r n

/-! ### Kicks and doorbells (R312 to R319) -/

/-- A dropped kick is counted for the stall of the ring it names. -/
def State.kickDropped (s : State) (f i : Nat) : State :=
  match s.ringNo f i with
  | some g => if (s.ring g).st = .free then s else s.tally (s.ring g).stall 0x88 1
  | none => s

/-- A write of `size` bytes to the kick aperture that the host port takes (R317, R318). -/
def State.kickWrite (s : State) (f size : Nat) (v : W32) : State :=
  let i := fld v 15 0
  match s.ringNo f i with
  | none => s
  | some g =>
    if size ≠ 4 ∨ fld v 31 16 ≠ 0 ∨ (s.ring g).st ≠ .running then s.kickDropped f i
    else if (s.stall (s.ring g).stall).st ≠ .active then s
    else if s.hosts.kicks.length < Config.kickDepth then { s with hosts := { s.hosts with kicks := s.hosts.kicks ++ [g] } }
    else s.kickDropped f i

/-- A write to the kick aperture finds no credit (R318): the queue is full and its function in kick-only mode, or an earlier write of its host
port waits. -/
def State.kickWaits (s : State) (f : Nat) : Bool :=
  (s.hosts.waitKicks.any fun k => k.1 / 1024 == f / 1024) || ((s.fn f).kickOnly && decide (Config.kickDepth ≤ s.hosts.kicks.length))

/-- The writes that wait for credit enter in order while the queue has room. -/
def State.kicksEnter : Nat → State → State
  | 0, s => s
  | fuel + 1, s =>
    match s.hosts.waitKicks with
    | (f, size, v) :: t =>
      if s.hosts.kicks.length < Config.kickDepth then State.kicksEnter fuel (({ s with hosts := { s.hosts with waitKicks := t } }).kickWrite f size v)
      else s
    | [] => s

/-- A host access over IDE stream `via`, none outside IDE, reaches the function: a TDI in RUN takes only the stream bound at lock (Table 17.5).
Which rows carry the stream is a DESIGN CHOICE (log entry 155). -/
def State.viaOk (s : State) (f : Nat) (via : Option (Fin 32)) : Bool := (s.fn f).tdi != .run || via.map Fin.val == some (s.fn f).tdiStream

/-- A host access to a function; where the stream is not the one bound, it is an Unsupported Request. -/
def State.hostAccess (s : State) (f : Nat) (via : Option (Fin 32)) (go : State → Res) : Res :=
  if s.viaOk f via then go s else .next (s.drive (.unsupported f))

/-- The same, once its host port's traffic flows (R318). -/
def State.barAccess (s : State) (f : Nat) (via : Option (Fin 32)) (go : State → Res) : Res :=
  if s.portFree f then s.hostAccess f via go else .next s

/-- KICK: an access to the kick aperture, where reads return 0 (R317), or an AtomicOp to a BAR, which is an Unsupported Request (R308). -/
def execKick (f : FnNo) (acc : BarAccess) (v : W32) (via : Option (Fin 32)) (s : State) : Res :=
  s.hostAccess f via fun s =>
  if ¬ s.fnReady f then .next s
  else match acc with
    | .write size =>
      .next (if s.kickWaits f then { s with hosts := { s.hosts with waitKicks := s.hosts.waitKicks ++ [(f.val, size, v)] } } else s.kickWrite f size v)
    | .read size => .next (if s.portFree f then s.drive (.barRead f (List.replicate size 0)) else s)
    | .atomicOp => .next (if s.portFree f then s.drive (.unsupported f) else s)

/-- The rings that the swapped words of a page name (R319). -/
def summaryRings (l : List W64) : List Nat := (List.range 256).filter fun i => bitAt ((l[i / 64]?).getD 0) (i % 64)

/-- DOORBELL_SCAN: the summary bitmap of a page is read and its nonzero words swapped with 0; `r` is what the swaps returned, in the
order of the words, 0 for a word that read 0. -/
def execDoorbellScan (f : FnNo) (page : Byte) (r : HostBytes) (s : State) : Res :=
  let x := s.fn f
  if ¬ s.fnReady f ∨ x.kickOnly ∨ x.quotaCount ≤ 256 * page.toNat then .next s
  else
    let a := s.dbPage f page.toNat
    match r with
    | .fail c => .next (s.atMost 0x0103 f 1 1 fun _ s => s.ledger 0x0103 2 0x0F f none a (failCode c + 256))
    | .bytes bs =>
      let l := bytesWords bs
      let s := s.drive (.hostRead f x.dbPasid a 32)
      let s := forEach ((List.range 4).filter fun k => ((l[k]?).getD 0) != 0) s fun k s => s.drive (.hostSwap f x.dbPasid (a + 8 * k))
      .next (forEach (summaryRings l) s fun i s =>
        match s.ringNo f (256 * page.toNat + i) with
        | some g => if (s.ring g).st = .free then s else s.modRing g fun y => { y with summary := true }
        | none => s)

/-- C of R315: the number of the next descriptor the ring has not read. -/
def Ring.unread (x : Ring) : W32 :=
  match x.ds.find? fun d => d.ph == .submitted with
  | some d => d.num
  | none => x.next

/-- Descriptors up to `prod` - 1 are submitted; in CANCELLING they complete with CANCELLED. -/
def Ring.submit (x : Ring) (prod : W32) : Ring :=
  let k := (prod - x.next).toNat
  if (x.next - x.unread).toNat ≤ (prod - x.unread).toNat then
    { x with next := prod, ds := x.ds ++ (List.range k).map fun i =>
        let n := x.next + BitVec.ofNat 32 i
        if x.st = .cancelling then { num := n, ph := .done, status := 0x20 } else { num := n } }
  else x

/-- A doorbell word of a ring (Table 13.6, R315). -/
def State.doorbell (s : State) (r : Nat) (w : W64) : State :=
  let x := s.ring r
  let prod := BitVec.ofNat 32 w.toNat
  if fld w 63 48 ≠ x.gen.toNat ∨ x.size < (prod - x.unread).toNat then
    (s.tally x.stall 0x80 1).atMost 0x0102 r 1 1 fun n s => s.ledger 0x0102 0 0x0E r (some x.stall) prod.toNat n
  else s.modRing r fun x => x.submit prod

/-- DOORBELL_READ: the scanner reads the word of a kicked or summarised ring. -/
def execDoorbellRead (r : RingNo) (x : HostBytes) (s : State) : Res :=
  let q := s.ring r
  let kicked := s.hosts.kicks.contains r.val
  if ¬ kicked ∧ ¬ q.summary then .next s
  else
    let s := if kicked then State.kicksEnter s.hosts.waitKicks.length { s with hosts := { s.hosts with kicks := s.hosts.kicks.erase r.val } }
      else s.modRing r fun y => { y with summary := false }
    if q.st = .free ∨ (s.stall q.stall).st ≠ .active then .next s
    else
      let s := s.drive (.hostRead q.func (s.fn q.func).dbPasid (s.dbAddr q) 8)
      match x with
      | .bytes bs => .next (s.doorbell r (BitVec.ofNat 64 (recFld bs 0 8)))
      | .fail c => .next (s.readFail r (s.dbAddr q) c q.undispatched)

/-! ### Descriptor reads (R316, R320) -/

/-- The words of a descriptor with the right SEQ: a reserved TYPE fails its check (Table 13.8). -/
def State.descGot (s : State) (r : Nat) (n : W32) (l : List W64) : State :=
  let s := s.modRing r fun x => x.setDesc n fun d => { d with words := l, ph := .ready }
  let ty := fld ((l[0]?).getD 0) 63 60
  if ty = 0 ∨ 8 < ty then s.descInvalid r n 0 else s

/-- SEQ of the words that a read brought. -/
def seqOf (l : List W64) : Nat := fld ((l[0]?).getD 0) 31 0

/-- DESCRIPTOR_READ: the next submitted descriptor of a RUNNING ring is read. -/
def execDescriptorRead (r : RingNo) (x : HostBytes) (s : State) : Res :=
  let q := s.ring r
  match q.ds.find? fun d => d.ph == .submitted with
  | none => .next s
  | some d =>
    if q.st ≠ .running ∨ (s.stall q.stall).st ≠ .active then .next s
    else
      let s := s.drive (.hostRead q.func q.pasid (q.sqAddr d.num) 64)
      match x with
      | .fail c => .next (s.readFail r (q.sqAddr d.num) c d.num)
      | .bytes bs =>
        let l := bytesWords bs
        if seqOf l = d.num.toNat then .next (s.descGot r d.num l)
        else .next (s.modRing r fun y => y.setDesc d.num fun d => { d with ph := .reread, since := s.clock })

/-- SEQ_REREAD: one fret after a mismatch the descriptor is read again; a second mismatch is DESC_INVALID. -/
def execSeqReread (r : RingNo) (x : HostBytes) (s : State) : Res :=
  let q := s.ring r
  match q.ds.find? fun d => d.ph == .reread with
  | none => .next s
  | some d =>
    if (q.st ≠ .running ∧ q.st ≠ .cancelling) ∨ (s.stall q.stall).st ≠ .active ∨ s.clock < d.since + subPerFret then .next s
    else
      let s := s.drive (.hostRead q.func q.pasid (q.sqAddr d.num) 64)
      match x with
      | .fail c => .next (s.readFail r (q.sqAddr d.num) c d.num)
      | .bytes bs =>
        if seqOf (bytesWords bs) = d.num.toNat then .next (s.descGot r d.num (bytesWords bs)) else .next (s.descInvalid r d.num 0)

/-! ### Completion records and interrupts (R327 to R334) -/

/-- The interrupt of a ring cannot be delivered (R336): the ring is STOPPED, with event 0x0104. -/
def State.ringLost (s : State) (r : Nat) (n : W32) : State :=
  (s.ledger 0x0104 2 0x0E r (some (s.ring r).stall) n.toNat).modRing r fun y => { y with st := .stopped }

/-- A ring's interrupt, after descriptor `n`: its vector is sent, or lost where the host does not take it and it is not masked. -/
def State.ringIrq (s : State) (r : Nat) (n : W32) (taken : Bool) : State :=
  let x := s.ring r
  if taken || bitAt (tget {} (s.fn x.func).msix x.vector).ctl 0 then s.msix x.func x.vector else s.ringLost r n

/-- The interrupt of a record (R334). -/
def State.recordIrq (s : State) (r : Nat) (n : W32) (irq taken : Bool) : State :=
  let x := s.ring r
  if ¬ x.irqEn then s
  else if ¬ x.coalesce then (if irq then s.ringIrq r n taken else s)
  else if irq ∨ x.coalCount ≤ x.coalN + 1 then
    (s.modRing r fun y => { y with coalN := 0, coalFirst := none }).ringIrq r n taken
  else s.modRing r fun y => { y with coalN := y.coalN + 1, coalFirst := some (y.coalFirst.getD s.clock) }

/-- FLAGS of a record: PHASE, BOUND_EXT, LOCAL (Table 13.14). -/
def State.recordFlags (s : State) (x : Ring) (d : RDesc) : Nat :=
  (if d.num.toNat / x.size % 2 = 0 then 1 else 0) + d.flags / 2 % 2 * 2 + (if s.onString then 0 else 4)

/-- The 16 bytes of a record (Table 13.14). -/
def State.recordBytes (s : State) (x : Ring) (d : RDesc) : List Byte :=
  toBytes 2 d.status ++ toBytes 2 (s.recordFlags x d) ++ toBytes 4 d.num.toNat ++ toBytes 8 s.str.time

/-- The number of the ring's oldest descriptor without a record. -/
def Ring.unrecorded (x : Ring) : W32 :=
  match x.ds with
  | d :: _ => d.num
  | [] => x.next

/-- A status that makes the ring enter CANCELLING (R337). -/
def RDesc.cancels (d : RDesc) : Bool := d.status != 0 && d.status != 0x20 && !keepsRunning d.type d.status

/-- The counts of a completion (Table 14.8): by status, and poison consumed by a descriptor that is no context. -/
def State.recordTallies (s : State) (st : Nat) (d : RDesc) : State :=
  let s := s.tally st (if d.status = 0 then 0x68 else if d.status = 0x20 then 0x78 else 0x70) 1
  if d.type = 1 ∨ d.type = 3 ∨ d.type = 4 ∨ d.status ≠ causePoison then s else s.tally st 0x98 1

/-- COMPLETION_RECORD: the record of the ring's oldest descriptor is written once it has finished (R329) and no write of its stall waits for a refill
(R331). `took` says what the host took of the
record and its interrupt. -/
def execCompletionRecord (r : RingNo) (took : Delivery) (s : State) : Res :=
  let x := s.ring r
  match x.ds with
  | [] => .next s
  | d :: t =>
    if d.ph ≠ .done ∨ s.delays x.stall then .next s
    else
      let s := if d.cancels then
          s.ledger 0x0101 2 0x0E r (some x.stall) d.num.toNat (d.status + (if d.status = causePage then d.aux * 2 ^ 16 else 0))
            (if d.status = causeDesc then d.aux % 65536 else 0) (if d.status = causeDesc then d.aux / 65536 else 0) (oper := d.type * 4096)
        else s
      let s := (s.recordTallies x.stall d).modRing r fun y => { y with ds := t }
      let s := if took = .noRecord then s else s.drive (.hostWrite x.func x.pasid (x.cqAddr d.num) (s.recordBytes x d) false)
      let s := if d.cancels then
          (s.modRing r fun y => { y with st := if y.st = .running ∧ ¬ y.stopping then .cancelling else y.st }).cancelFrom r (d.num + 1)
        else s
      .next (if took = .noRecord then s.ringLost r d.num else s.recordIrq r d.num (bitAt (d.w 0) 59) (took == .all))

/-- COALESCE_TIMEOUT (R334): the first fret boundary at least COAL_FRETS frets after the first record not yet signalled. An interrupt that
cannot be delivered stops the ring (R336). -/
def execCoalesceTimeout (r : RingNo) (delivered : Bool) (s : State) : Res :=
  let x := s.ring r
  match x.coalFirst with
  | some t =>
    if x.irqEn ∧ s.fretCeil (t + 256 * x.coalFrets) ≤ s.clock then
      .next ((s.modRing r fun y => { y with coalN := 0, coalFirst := none }).ringIrq r (x.unrecorded - 1) delivered)
    else .next s
  | none => .next s

/-! ### RING_CMD (R310, R311, R461) -/

def rcOk : Nat := 0
def rcBadRing : Nat := 1
def rcBadState : Nat := 2
def rcBadStall : Nat := 3
def rcBadArg : Nat := 4
def rcNoQuota : Nat := 5

/-- RING_CMD's operation ends with a result, and a COUNT where it has one. -/
def State.ringResult (s : State) (f res : Nat) (count : Option W32 := none) : State :=
  s.modFn f fun x => { x with ringCmd := { x.ringCmd with busy := false, result := res }, ringCount := count.getD x.ringCount }

/-- A write of RING_CMD with operation `op`; one that comes while BUSY is dropped. `none_` is the result for a ring outside the quota. -/
def State.ringOp (s : State) (f : Nat) (v : W32) (op none_ : Nat) (go : State → Nat → State) : State :=
  if ¬ s.regOk f ∨ (s.fn f).ringCmd.busy ∨ fld v 27 24 ≠ op then s
  else
    let s := s.modFn f fun x => { x with ringCmd := { x.ringCmd with arg := fld v 15 0 } }
    match s.ringNo f (fld v 15 0) with
    | none => s.ringResult f none_
    | some g => go s g

/-- A word of RING_CTX. -/
def Fn.ctxWord (x : Fn) (k : Nat) : W64 := (x.ringCtx[k]?).getD 0

/-- The ring that Table 13.3's context describes. -/
def Fn.ringOf (x : Fn) (f i : Nat) : Ring :=
  let w2 := x.ctxWord 2
  let w3 := x.ctxWord 3
  let w4 := x.ctxWord 4
  { st := .running, func := f, local_ := i, sqBase := x.ctxWord 0, cqBase := x.ctxWord 1, start := BitVec.ofNat 32 (fld w2 31 0),
    gen := BitVec.ofNat 16 (fld w2 47 32), stall := fld w2 59 48, pasid := BitVec.ofNat 32 (fld w3 20 0), log2 := fld w3 39 32,
    cls := fld w3 41 40, pipe := fld w3 45 42, prio := fld w3 47 46, bwLag := fld w3 55 48, roData := bitAt w3 56, irqEn := bitAt w3 57,
    coalesce := bitAt w3 58, vector := fld w4 15 0, coalCount := fld w4 23 16, coalFrets := fld w4 31 24,
    next := BitVec.ofNat 32 (fld w2 31 0) }

/-- The fields of a context keep Table 13.3. -/
def Fn.ctxOk (x : Fn) : Bool :=
  let w2 := x.ctxWord 2
  let w3 := x.ctxWord 3
  let w4 := x.ctxWord 4
  fld (x.ctxWord 0) 11 0 == 0 && fld (x.ctxWord 1) 11 0 == 0 && fld w2 63 60 == 0 && fld w3 31 21 == 0 && decide (6 ≤ fld w3 39 32) &&
    decide (fld w3 39 32 ≤ 16) && (fld w3 55 48 == 0 || fld w3 41 40 == 3) && fld w3 63 59 == 0 && decide (fld w4 15 0 ≤ 2047) &&
    (!bitAt w3 58 || (decide (1 ≤ fld w4 23 16) && decide (1 ≤ fld w4 31 24))) && fld w4 63 32 == 0 && x.ctxWord 5 == 0 &&
    x.ctxWord 6 == 0 && x.ctxWord 7 == 0

/-- A pipeline of the stall already has a ring of the class (R226). -/
def State.classTaken (s : State) (x : Ring) : Bool :=
  x.cls != 0 && s.rings.any fun e => e.2.st != .free && e.2.stall == x.stall && e.2.pipe == x.pipe && e.2.cls == x.cls

/-- RING_CREATE: the context is checked and loaded; the ring is RUNNING. -/
def execRingCreate (f : FnNo) (v : W32) (s : State) : Res :=
  .next (s.ringOp f v 1 rcNoQuota fun s g =>
    let x := (s.fn f).ringOf f (fld v 15 0)
    if (s.ring g).st ≠ .free then s.ringResult f rcBadState
    else if ¬ (s.fn f).ctxOk ∨ s.classTaken x then s.ringResult f rcBadArg
    else if (s.stall x.stall).st = .free ∨ (s.stall x.stall).func ≠ f.val then s.ringResult f rcBadStall
    else (s.setRing g x).ringResult f rcOk)

/-- RING_STOP: nothing more is dispatched; BUSY stays until the drain ends. -/
def execRingStop (f : FnNo) (v : W32) (s : State) : Res :=
  .next (s.ringOp f v 2 rcBadRing fun s g =>
    if (s.ring g).st ≠ .running ∧ (s.ring g).st ≠ .cancelling then s.ringResult f rcBadState
    else (s.modRing g fun x => { x with stopping := true }).modFn f fun x => { x with ringCmd := { x.ringCmd with busy := true } })

/-- RING_STOP_DONE: every dispatched descriptor has completed; COUNT is the next one not dispatched. -/
def execRingStopDone (r : RingNo) (s : State) : Res :=
  let x := s.ring r
  if x.stopping ∧ x.ds.all (fun d => d.ph != .running && d.ph != .done) then
    .next ((s.modRing r fun x => { x with st := .stopped, stopping := false }).ringResult x.func rcOk (some x.undispatched))
  else .next s

/-- The first descriptor of a ring that has not completed; one that a cancel is still stopping is such (log 145). -/
def Ring.incomplete (x : Ring) : W32 :=
  match x.ds.find? fun d => d.ph != .done with
  | some d => d.num
  | none => x.next

/-- RING_RESUME: dispatch continues; COUNT is the first descriptor that has not completed. -/
def execRingResume (f : FnNo) (v : W32) (s : State) : Res :=
  .next (s.ringOp f v 3 rcBadRing fun s g =>
    let x := s.ring g
    if x.st ≠ .stopped ∧ x.st ≠ .cancelling then s.ringResult f rcBadState
    else (s.modRing g fun x => { x with st := .running, failed := none }).ringResult f rcOk (some x.incomplete))

/-- What the descriptors of a ring that were never dispatched had begun is dropped: contexts that wait for cores, the choice of a pipeline, held
reads. -/
def State.dropHeads (s : State) (g : Nat) : State :=
  let s := forEach (s.ring g).ds s fun d s => match s.ctxFor g d.num with
    | some n => s.ctxGone n
    | none => s
  let s := if (s.ring g).cls = 0 then s else s.pipeStarted g
  { s with mem := { s.mem with held := s.mem.held.filter fun h => match h.who with | .desc r _ => r != g | _ => true } }

/-- A ring freed: no record of it is written from now on, its kicks are forgotten, and nothing of its descriptors stays. -/
def State.freeRing (s : State) (g : Nat) : State :=
  let x := s.ring g
  let s := (if x.stopping then s.ringResult x.func rcBadState else s).dropHeads g
  let s := State.kicksEnter s.hosts.waitKicks.length (({ s with hosts := { s.hosts with kicks := s.hosts.kicks.filter (· ≠ g) } }).setRing g {})
  if x.cls = 0 then s else s.pipeClear x.stall x.pipe

/-- RING_DESTROY. -/
def execRingDestroy (f : FnNo) (v : W32) (s : State) : Res :=
  .next (s.ringOp f v 4 rcBadRing fun s g =>
    if (s.ring g).st ≠ .stopped ∧ (s.ring g).st ≠ .free then s.ringResult f rcBadState
    else (s.freeRing g).ringResult f rcOk)

end Sys2Proof.Machine
end

