-- ==== Sys2Proof/Machine/Checks.lean ====
section
/-! DEFINITION. Check epochs and taint (R377 to R381), the ledger registers (R374, R375), field tests and fencing (R387, R388). -/

namespace Sys2Proof.Machine

/-! ### Window closes (R377 to R381) -/

/-- The epoch after `e`. -/
def epochAfter (e : Nat) : Nat := if e = 2 ^ 32 - 1 then 1 else e + 1

/-- A tainted stall's window closes: the epoch fails, open steps are retracted, a collective outside every step that tagged the epoch ends
RETRACTED (R298, R379). -/
def State.taintClose (s : State) (st : Nat) : State :=
  let e := (s.stall st).epoch
  let s := s.modStall st fun x => { x with failedEps := x.failedEps ++ [e] }
  let s := { s with colls := s.colls.map fun (c : Coll) =>
    if c.stall = st ∧ c.step = 0 ∧ c.epochs.contains e ∧ c.result.isNone ∧ c.endWith.isNone then
      { c with endWith := some (stRetracted, s.nextFret) } else c }
  let open_ : List Nat := ((s.stall st).steps.filter fun q => q.open_).map fun q => q.step
  if open_.isEmpty then s
  else (forEach open_ s fun n s => s.retractStep st n 1 e).modStall st fun x => { x with tainted := false }

/-- WINDOW_CLOSE (R377, R378): the epoch passes or fails and rises; the shadow fraction and MTX_CHECK set before take effect (R381). -/
def execWindowClose (st : StallNo) (s : State) : Res :=
  let x := s.stall st
  if ¬ s.gridOk 5 ∨ x.st ≠ .active ∨ s.clock < x.closeDue then .next s
  else
    let n := s.closeAfter x.qCheckNew ((x.closeDue : Int) + s.str.base).toNat
    let s := if x.tainted then s.taintClose st else s
    .next (s.modStall st fun y =>
      { y with epoch := epochAfter y.epoch, closeDue := n, qCheck := y.qCheckNew, fraction := s.fractionSet st y.qCheckNew })

/-! ### Ledger registers (R374, R375) -/

/-- A write to a half or the whole of a 64-bit register (R456). -/
def setPart (old : W64) (p : RegPart) (v : W64) : W64 :=
  match p with
  | .whole => v
  | .low => setFld old 31 0 v.toNat
  | .high => setFld old 63 32 v.toNat

/-- The registers of a ledger: a function's, or the operator's. -/
def State.ledRegs (s : State) (f : Nat) (fn : Bool) : LedgerRegs := if fn then (s.fn f).led else s.led.op

def State.setLedRegs (s : State) (f : Nat) (fn : Bool) (r : LedgerRegs) : State :=
  if fn then s.modFn f fun x => { x with led := r } else { s with led := { s.led with op := r } }

/-- A function sees the ledger registers it names. -/
def State.ledSeen (s : State) (f : Nat) (fn : Bool) : Bool := s.regOk f && (fn || s.isOper f)

/-- The internal buffer's entries go to the operator ledger, in SEQ order. -/
def State.drainBuffer (s : State) : State :=
  forEach s.led.buf s fun e s => s.deliverEntry 3 [(true, s.operFn)] e

/-- The RW bits of LDG_CTL (Table 15.5). -/
def ledCtlMask : W32 := 0x87F007FF

/-- LDG_CTL_WRITE: LOG2SIZE keeps its value while the ledger is enabled, ENABLE judged as it stands before the write. The first enable of
the operator ledger writes the internal buffer's entries to it. -/
def execLdgCtlWrite (f : FnNo) (fn : Bool) (v : W32) (s : State) : Res :=
  if ¬ s.ledSeen f fn then .next s
  else
    let r := s.ledRegs f fn
    let w := v &&& ledCtlMask
    let w := if bitAt r.ctl 31 then setFld w 26 22 (fld r.ctl 26 22) else w
    let first := !fn && bitAt w 31 && !r.firstDone
    let s := s.setLedRegs f fn { r with ctl := w, firstDone := r.firstDone || first }
    .next (if first then s.drainBuffer else s)

/-- LDG_BASE_WRITE: dropped while the ledger is enabled. -/
def execLdgBaseWrite (f : FnNo) (fn : Bool) (part : RegPart) (v : W64) (s : State) : Res :=
  let r := s.ledRegs f fn
  if ¬ s.ledSeen f fn ∨ bitAt r.ctl 31 then .next s
  else .next (s.setLedRegs f fn { r with base := setFld (setPart r.base part v) 11 0 0 })

/-! ### Field tests (R387) -/

/-- A unit as an entry names it (R372). -/
def unitCode (kind number : Nat) : Nat := kind * 2 ^ 24 + number

def kindCore : Nat := 0x03
def kindArray : Nat := 0x04
def kindVec : Nat := 0x06
def kindSlice : Nat := 0x07

/-- The core of a unit that a test takes, none for a slice. -/
def unitCore (kind number : Nat) : Option Nat :=
  if kind = kindCore ∨ kind = kindVec then some number else if kind = kindArray then some (number / 8) else none

/-- The unit exists. -/
def unitOk (kind number : Nat) : Bool :=
  if kind = kindCore ∨ kind = kindVec then decide (number < 192)
  else if kind = kindArray then decide (number < 1536) else kind == kindSlice && decide (number < 64)

/-- The families that apply to a unit (R387). -/
def unitFamilies (kind : Nat) : Nat :=
  if kind = kindArray then 0x00FF else if kind = kindCore then 0x07FF else if kind = kindVec then 0x0800 else 0x3000

def State.unitFenced (s : State) (kind number : Nat) : Bool :=
  (kind == kindArray && s.led.arrFenced.contains number) || (match unitCore kind number with
    | some c => s.led.coreFenced.contains c
    | none => false)

/-- The random families, which run against a reference core. -/
def randomFamilies : Nat := 0x0404

/-- The reference core: n xor 1, or the next unfenced core of the die. -/
def State.referenceCore (s : State) (c : Nat) : Option Nat :=
  let cand := (c ^^^ 1) :: (List.range 47).map fun i => c / 48 * 48 + (c + 1 + i) % 48
  cand.find? fun k => k != c && !s.led.coreFenced.contains k

/-- A write of LDG_TEST_CMD by the operator function: its RW fields take the written values. -/
def State.testCmd (s : State) (f : Nat) (v : W32) (op : Nat) (go : State → State) : State :=
  if ¬ s.regOk f ∨ ¬ s.isOper f ∨ fld v 27 24 ≠ op then s
  else go { s with led := { s.led with testAuto := bitAt v 23, testKind := fld v 22 19, testCmd := { s.led.testCmd with arg := fld v 10 0 } } }

def State.testResult (s : State) (busy : Bool) (res : Nat) : State :=
  { s with led := { s.led with testCmd := { s.led.testCmd with busy := busy, result := res } } }

/-- FAMILIES and PASSES of LDG_TEST_ARG. -/
def State.testFams (s : State) : Nat := fld s.led.testArg 15 0
def State.testPasses (s : State) : Nat := let n := fld s.led.testArg 31 16; if n = 0 then 1 else n

/-- The context of a field test waits for its cores from the next fret boundary. -/
def State.testCtx (s : State) (cores : List Nat) : State :=
  s.ctxNew { kind := .test, stall := 0, cores := cores, start := s.nextFret, quantum := 4096 }

/-- RUN (R387): a test begins; one that comes while BUSY, for a fenced unit or with families that do not apply returns BAD_ARG. -/
def execRun (f : FnNo) (v : W32) (s : State) : Res :=
  .next (s.testCmd f v 1 fun s =>
    let kind := fld v 22 19
    let n := fld v 10 0
    let fam := s.testFams
    if s.led.testCmd.busy then s.testResult true 2
    else if ¬ unitOk kind n ∨ s.unitFenced kind n ∨ fam &&& unitFamilies kind ≠ fam then s.testResult false 2
    else
      let t : FieldTest := { kind := kind, number := n, families := fam, passes := s.testPasses, autoFence := bitAt v 23 }
      match unitCore kind n with
      | none => ({ s with led := { s.led with test := some t } }).testResult true 0
      | some c =>
        let ref := if fam &&& randomFamilies ≠ 0 then (s.referenceCore c).toList else []
        let m := s.nextCtx
        ({ s.testCtx (c :: ref) with led := { s.led with test := some { t with ctx := some m } } }).testResult true 0)

/-- The test's context leaves its cores. -/
def State.testLeave (s : State) (t : FieldTest) : State :=
  match t.ctx with
  | some n => match s.ctx? n with
    | some x => s.ctxFinish n x 0
    | none => s
  | none => s

/-- The test's context holds its cores, or the test needs none. -/
def State.testRuns (s : State) (t : FieldTest) : Bool :=
  match t.ctx with
  | some n => match s.ctx? n with
    | some x => x.st == .running
    | none => false
  | none => true

/-- A fence of a unit is wanted: cause 1 command, 2 automatic. -/
def State.wantFence (s : State) (kind number cause : Nat) : State :=
  if s.unitFenced kind number ∨ (s.led.fences.any fun x => x.1 == kind && x.2.1 == number) then s
  else { s with led := { s.led with fences := s.led.fences ++ [(kind, number, cause)] } }

/-- FIELD_TEST_DONE: RESULT, LDG_TEST_FAIL, event 0x0605 and the automatic fence. -/
def execFieldTestDone (failed : W16) (s : State) : Res :=
  match s.led.test with
  | some t =>
    if ¬ s.testRuns t then .next s
    else
      let bad := failed.toNat &&& t.families
      let s := (s.testLeave t).testResult false (if bad = 0 then 0 else 1)
      let s := { s with led := { s.led with test := none, testFail := BitVec.ofNat 16 bad } }
      let s := s.ledger 0x0605 (if bad = 0 then 0 else 2) t.kind t.number none (unitCode t.kind t.number) t.families bad t.passes
      .next (if bad ≠ 0 ∧ t.autoFence then
          (match unitCore t.kind t.number with
            | some c => if t.kind = kindArray then s.wantFence kindArray t.number 2 else s.wantFence kindCore c 2
            | none => s)
        else s)
  | none => .next s

/-- CANCEL: a running test ends with RESULT 3. -/
def execCancel (f : FnNo) (v : W32) (s : State) : Res :=
  .next (s.testCmd f v 3 fun s =>
    match s.led.test with
    | some t => ({ s.testLeave t with led := { s.led with test := none } }).testResult false 3
    | none => s)

/-! ### Fencing (R388) -/

/-- FENCE_UNIT: an array or a core is to be fenced. -/
def execFenceUnit (f : FnNo) (v : W32) (s : State) : Res :=
  .next (s.testCmd f v 2 fun s =>
    let kind := fld v 22 19
    let n := fld v 10 0
    if (kind ≠ kindCore ∧ kind ≠ kindArray) ∨ ¬ unitOk kind n then s.testResult s.led.testCmd.busy 2
    else (s.wantFence kind n 1).testResult s.led.testCmd.busy 0)

/-- No pass of any context is queued or running on a unit, shadow passes included. -/
def State.unitIdle (s : State) (kind number : Nat) : Bool :=
  let mine := fun a => if kind = kindArray then a == number else a / 8 == number
  let c := if kind = kindArray then number / 8 else number
  ((s.core c).passes.all fun p => kind == kindArray && !(mdOf p.desc.words).arrays.contains (number % 8)) &&
    s.cores.all fun e => e.2.passes.all fun p => p.phase == .ended || p.shadow.all fun a => !mine a.2

/-- The contexts that wait for a core and were checked before it was fenced: their descriptors, which name a fenced core, complete with DESC_INVALID
(R388). -/
def State.endFenced (s : State) (c : Nat) : State :=
  forEach s.ctxs s fun e s => match e.2 with
    | some x =>
      if x.st = .waiting ∧ x.kind ≠ .test ∧ x.cores.contains c then
        ((s.ctxGone e.1).descBad x.ring x.num (if x.kind = .kernel then 5 + c / 64 else 3, some c)).pipeStarted x.ring
      else s
    | none => s

def insertAll (l : List Nat) (xs : List Nat) : List Nat := xs.foldl (fun a x => insertSorted x a) l

/-- FENCE_TAKE_EFFECT: the oldest wanted fence whose unit is idle; the health record keeps it. -/
def execFenceTakeEffect (s : State) : Res :=
  match s.led.fences.find? fun x => s.unitIdle x.1 x.2.1 with
  | some x =>
    let arrays := if x.1 = kindArray then [x.2.1] else (List.range 8).map fun i => 8 * x.2.1 + i
    let cores := if x.1 = kindArray then [] else [x.2.1]
    let s := { s with led := { s.led with fences := s.led.fences.filter (· ≠ x), arrFenced := insertAll s.led.arrFenced arrays,
                                          coreFenced := insertAll s.led.coreFenced cores } }
    let h := s.nv.health
    let s := s.setHealth { h with arrays := insertAll h.arrays arrays, cores := insertAll h.cores cores }
    let s := s.ledger 0x0606 1 x.1 x.2.1 none (unitCode x.1 x.2.1) x.2.2
    .next (forEach cores s fun c s => s.endFenced c)
  | none => .next s

end Sys2Proof.Machine
end

