-- ==== Sys2Proof/Machine/Pcs.lean ====
section
/-! DEFINITION. The transmit side of a port's PHY (R249): symbols dealt to channels, scrambled and encoded, and alignment codewords. -/

namespace Sys2Proof.Machine

/-- A symbol scrambled by x^58 + x^39 + 1, least significant bit first: the symbol and the register, the last 58 scrambled bits. -/
def scramble (reg sym : Nat) : Nat × Nat :=
  (List.range 10).foldl (fun (a : Nat × Nat) i =>
    let b := (sym.testBit i).xor ((a.2.testBit 38).xor (a.2.testBit 57))
    (if b then a.1 + 2 ^ i else a.1, (a.2 * 2 + if b then 1 else 0) % 2 ^ 58)) (0, reg)

/-- Products in GF(2^10) with x^10 + x^3 + 1 (IEEE 802.3 Clause 91, log entry 130). -/
def gf10Mul (a b : Nat) : Nat :=
  ((List.range 10).foldl (fun (s : Nat × Nat) i =>
    (if b.testBit i then s.1 ^^^ s.2 else s.1, if s.2 ≥ 512 then ((s.2 * 2) % 1024) ^^^ 9 else s.2 * 2)) (0, a)).1

/-- The generator of RS(544,514): the product of x + α^j for j = 0 to 29, highest coefficient first, without its leading 1. -/
def rs10Gen : List Nat :=
  (((List.range 30).foldl (fun (a : List Nat × Nat) _ =>
    (List.zipWith (· ^^^ ·) (a.1 ++ [0]) (0 :: a.1.map (gf10Mul a.2)), gf10Mul a.2 2)) ([1], 1)).1).drop 1

/-- A codeword: 514 payload symbols and their 30 check symbols. -/
def rs10Encode (msg : List Nat) : List Nat :=
  let g := rs10Gen
  msg ++ msg.foldl (fun r m =>
    let f := m ^^^ r.headD 0
    List.zipWith (· ^^^ ·) (r.drop 1 ++ [0]) (g.map (gf10Mul f))) (List.replicate 30 0)

/-- The payload of a channel's alignment codeword. -/
def alignPayload (c : Nat) : List Nat := c :: List.replicate 513 0x2AA

/-- The alignment codewords that are due, and the count that starts again. -/
def Pcs.align (x : Pcs) : Pcs × List (Nat × List Nat) :=
  if x.words < 8192 then (x, [])
  else ({ x with words := 0, chan := 0 }, (List.range 16).map fun c => (c, rs10Encode (alignPayload c)))

/-- One symbol dealt to the next channel, and the codewords that it completes. -/
def Pcs.put (x : Pcs) (sym : Nat) : Pcs × List (Nat × List Nat) :=
  let (v, r) := scramble (tget 0 x.scr x.chan) sym
  let l := v :: tget [] x.syms x.chan
  let full := decide (514 ≤ l.length)
  let y := { x with scr := tset 0 x.scr x.chan r, syms := tset [] x.syms x.chan (if full then [] else l), chan := (x.chan + 1) % 16,
                    words := if full && x.chan == 15 then x.words + 1 else x.words }
  let (z, al) := y.align
  (z, (if full then [(x.chan, rs10Encode l.reverse)] else []) ++ al)

/-- A flit cut into symbols, bits from byte 0 upward, least significant first. -/
def Pcs.flit (x : Pcs) (bs : List Byte) : Pcs × List (Nat × List Nat) :=
  let v := x.pend + 2 ^ x.pendN * ofBytes bs
  let n := x.pendN + 8 * bs.length
  (List.range (n / 10)).foldl (fun (a : Pcs × List (Nat × List Nat)) i =>
    let (y, ws) := a.1.put (v / 2 ^ (10 * i) % 1024)
    (y, a.2 ++ ws)) ({ x with pend := v / 2 ^ (n / 10 * 10), pendN := n % 10 }, [])

/-- A flit goes to the port's encoder. -/
def State.encodeFlit (s : State) (p : Nat) (bs : List Byte) : State :=
  let (y, ws) := (s.port p).pcs.flit bs
  forEach ws (s.modPort p fun x => { x with pcs := y }) fun w s => s.drive (.codeword p w.1 w.2)

end Sys2Proof.Machine
end

