-- ==== Sys2Proof/Machine/StringTime.lean ====
section
/-! DEFINITION. The String: external time (02, R26 to R46) and the phase frames of R269. Times that edges and frames carry
are in 1/16 ns; an offset is the source's String time less the device's, in 1/64 ns. What a String boundary does as a whole is in
FretGrid.lean. -/

namespace Sys2Proof.Machine

/-- A state's number in STR_STATUS (Table 2.8). -/
def StrState.code : StrState → Nat
  | .free => 0
  | .acquiring => 1
  | .locked => 2
  | .holdover => 3
  | .lost => 4

/-- A source's number in STR_STATUS (Table 2.8). -/
def StrSrc.code : StrSrc → Nat
  | .none => 31
  | .wire => 16
  | .port p => p

/-- STR_STATUS.STRATUM: the stratum of own phase frames (R29). -/
def State.ownStratum (s : State) : Nat :=
  if s.onString then (if s.str.srcStratum + 1 ≤ 14 then s.str.srcStratum + 1 else 15) else 15

/-- 1/64 ns in a sub-fret (Table 2.1). -/
def State.subUnits (s : State) : Nat := s.fretNs / 4

/-- The reference period, 256 fret lengths, in 1/16 ns (R27, R30). -/
def State.refPeriod (s : State) : Nat := 256 * s.fretNs * 16

/-- An offset as sub-frets, to the nearest. -/
def State.toSub (s : State) (x : Int) : Int := (2 * x + s.subUnits) / (2 * s.subUnits : Nat)

/-- An offset of the wire, which tells Strings not apart: between half a String behind and half a String ahead. -/
def State.wrapString (s : State) (x : Int) : Int := let p : Int := s.refPeriod * 4; (x + p / 2) % p - p / 2

/-- The device's String time has moved by `d` sub-frets against every source. -/
def State.shiftSources (s : State) (d : Int) : State :=
  let u := d * s.subUnits
  { s with str := { s.str with acq := if s.str.acq.count = 0 then s.str.acq else { s.str.acq with off := s.wrapString (s.str.acq.off - u) },
                               fab := tmapv {} (fun _ (f : PhaseSrc) => { f with off := if f.valid then f.off - u else f.off }) s.str.fab } }

/-- HOLDOVER_STRINGS in use: 0 or above 4,096 acts as 4,096 (R36). -/
def holdoverLimit (ctl : W32) : Nat := let n := fld ctl 31 19; if n = 0 ∨ 4096 < n then 4096 else n

/-- A change of the unit's state, with event 0x0201 (R34): error on entry to LOST, notice otherwise. Entry to LOST sets
LOST_SEEN, marks the collectives that were dispatched and fixes the fret boundary at which they stop (R38). HOLDOVER_USED keeps its value
there, and so it does on entry to LOST (log entry 125). -/
def State.strTo (s : State) (n : StrState) : State :=
  if s.str.st = n then s
  else
    let old := s.str.st
    let lost := n == StrState.lost
    let s := { s with
      str := { s.str with st := n, lostSeen := s.str.lostSeen || lost, lostStop := if lost then some s.nextFret else s.str.lostStop }
      colls := if lost then s.colls.map fun (c : Coll) => { c with lost := c.lost || (c.result.isNone && c.scheduled) } else s.colls }
    let s := s.ledger 0x0201 (if lost then 2 else 0) 0x00 0 none old.code n.code s.str.source.code
    if lost then s.lostGates else s

/-- Port `p` offers a source: enabled, up, not excluded, its last valid frame below stratum 15 (R31, R33). -/
def State.fabCandidate (s : State) (p : Nat) : Bool :=
  let f := tget {} s.str.fab p
  bitAt s.str.ctlUsed p && (s.port p).st == .up && f.valid && !f.excluded && decide (f.stratum < 15)

/-- The wire is a candidate (R31): enabled, and acquired or locked. An acquired wire whose edges stop stays acquired until another edge
comes, since R30 names no timeout for it outside LOCKED (log entry 125). -/
def State.wireCandidate (s : State) : Bool :=
  bitAt s.str.ctlUsed 16 && (s.str.acq.acquired || (s.str.st == .locked && s.str.source == .wire))

def State.wireStratum (s : State) : Nat := fld s.str.wireUsed 3 0

/-- The choice of R31: the lowest stratum, the wire before a port, the lowest port first. -/
def State.chooseSource (s : State) : StrSrc :=
  let best := (List.range 16).foldl (fun (b : Option (Nat × Nat)) p =>
    if s.fabCandidate p then
      let t := (tget {} s.str.fab p).stratum
      match b with
      | some (u, q) => if t < u then some (t, p) else some (u, q)
      | none => some (t, p)
    else b) none
  match best with
  | some (t, p) => if s.wireCandidate ∧ s.wireStratum ≤ t then .wire else .port p
  | none => if s.wireCandidate then .wire else .none

/-- The stratum of a source (R29). -/
def State.srcStratumOf (s : State) : StrSrc → Nat
  | .none => 15
  | .wire => s.wireStratum
  | .port p => (tget {} s.str.fab p).stratum

/-- A source's offset. -/
def State.srcOff (s : State) : StrSrc → Int
  | .none => 0
  | .wire => s.str.acq.off
  | .port p => (tget {} s.str.fab p).off

/-- A source's phase agrees within ±50 ns (R32). -/
def State.agrees (s : State) (n : StrSrc) : Bool := decide ((s.srcOff n).natAbs ≤ 3200)

/-- Lock is met (Table 2.2): the wire acquired, or 2 consecutive valid frames. -/
def State.lockMet (s : State) : StrSrc → Bool
  | .none => false
  | .wire => s.str.acq.acquired
  | .port p => decide (2 ≤ (tget {} s.str.fab p).consecutive)

/-- Enter LOCKED to a source. A stop that LOST left due (R38) stays due. -/
def State.lockTo (s : State) (src : StrSrc) (slew : Int) : State :=
  let s := { s with str := { s.str with source := src, srcStratum := s.srcStratumOf src, slew := slew, holdoverUsed := 0,
                                        everLocked := true, wireEdgeAt := s.str.time } }
  s.strTo .locked

/-- String time moved by `d`; items keep their remaining duration where `keep` (R41, R43). -/
def State.jump (s : State) (d : Int) (keep : Bool) : State :=
  let t := ((s.str.time : Int) + d).toNat
  let d : Int := (t : Int) - s.str.time
  let s := if keep then s.keepLeases else s
  ({ s with str := { s.str with time := t, base := if keep then s.str.base + d else s.str.base, skip := s.str.skip + d,
                                stepped := if keep then s.str.stepped else some t } }).shiftSources d

/-- The first lock after reset (R41): String time is loaded from its source. A wire gives its phase, and STR_COUNT_LOAD the count at its
boundary; with no count loaded the boundaries align and the local count stays. -/
def State.firstLock (s : State) (src : StrSrc) : State :=
  let off := s.toSub (s.srcOff src)
  let s := match src, s.str.load with
    | .wire, some n => s.jump ((n.toNat * subPerString : Nat) + off - s.str.time) true
    | _, _ => s.jump off true
  ({ s with str := { s.str with load := none } }).lockTo src 0

/-- Relock from HOLDOVER or LOST (Table 2.5, R43). -/
def State.relock (s : State) (src : StrSrc) : State :=
  let off := s.toSub (s.srcOff src)
  let fromLost := s.str.st == .lost
  let accept := fun (s : State) => if fromLost then { s with str := { s.str with acceptFrom := s.nextFret } } else s
  if off < -512 then
    let s := s.ledger 0x0204 2 0x00 0 none (off % (2 ^ 64 : Int)).toNat
    s.strTo .lost
  else if 512 < off then accept ((s.jump off fromLost).lockTo src 0)
  else accept (s.lockTo src off)

/-- Entry to HOLDOVER (R35, R36) with source `n` chosen: `used` Strings have begun in it. A wire that has not failed stays acquired. -/
def State.toHoldover (s : State) (used : Nat) (n : StrSrc := .none) : State :=
  ({ s with str := { s.str with source := n, holdoverUsed := used, slew := 0 } }).strTo .holdover

/-- The chosen source is gone (R35). Where another agrees, the change to it takes place at the next String boundary (R32), and the unit stays
LOCKED without a source until then; else HOLDOVER. -/
def State.sourceFailed (s : State) (used : Nat) : State :=
  let n := s.chooseSource
  if n ≠ .none ∧ s.agrees n then s else s.toHoldover used n

/-- The class L values that govern from a String boundary on (R45, R46): those of a live change, a revert or a write that switches at this
boundary, or those in effect. -/
def State.strRegs (s : State) : TunRegs :=
  match s.tun.change with
  | some c =>
    if c.ph = .ready ∧ c.at_.getD 0 ≤ s.clock then c.new
    else if c.ph = .rollingBack ∧ ¬ c.lDone ∧ ¬ c.stuck ∧ c.at_.getD 0 ≤ s.clock then c.old
    else s.tun.live
  | none => if s.tun.dirty ∧ ¬ s.tun.sealed_ ∧ s.tun.dirtyAt ≤ s.clock then s.tun.regs else s.tun.live

/-- The unit uses `r` from now on. -/
def State.latchStr (s : State) (r : TunRegs) : State := { s with str := { s.str with ctlUsed := r.strCtl, wireUsed := r.strWire } }

/-- A switch of class L fields at a String boundary that did not take them all: what is in effect governs (R45). -/
def State.relatchStr (s : State) : State := if s.str.time % subPerString = 0 then s.latchStr s.tun.live else s

/-- One String of slewing (R28, R42): the device's String time moves one sub-fret toward its source's. -/
def State.slewOnce (s : State) : State :=
  ({ s with str := { s.str with slew := s.str.slew - s.str.slew.sign } }).shiftSources s.str.slew.sign

/-- A String boundary while LOCKED to a source or between two (R31, R32). -/
def State.lockedBoundary (s : State) : State :=
  let s := s.slewOnce
  let n := s.chooseSource
  if n = .none then s.toHoldover 1
  else if n = s.str.source then { s with str := { s.str with srcStratum := s.srcStratumOf n } }
  else if s.agrees n then s.lockTo n (s.toSub (s.srcOff n))
  else s.toHoldover 1 n

/-- A String boundary outside LOCKED: the chosen source is locked to where its lock is met (R31, R41, R42). -/
def State.seekBoundary (s : State) : State :=
  let n := s.chooseSource
  let s := { s with str := { s.str with source := n } }
  match s.str.st with
  | .holdover => if s.lockMet n then s.relock n else s
  | .lost => if s.lockMet n then s.relock n else s
  | _ => if s.lockMet n then (if s.str.everLocked then s.relock n else s.firstLock n) else s.strTo (if n = .none then .free else .acquiring)

/-- The droop events of the String that ends are entered, one entry per die (event 0x0A02, R444, Table 18.9). -/
def State.droopReport (s : State) : State :=
  let l := s.pwr.droops
  forEach l { s with pwr := { s.pwr with droops := [] } } fun e s => s.ledger 0x0A02 0 0x01 e.1 none e.1 e.2

/-- R31, R32, R36, R41, R42 at a String boundary. Where HOLDOVER_USED would exceed its limit LOST is entered first, and no relock is tried at
that boundary (log entry 125). -/
def State.atBoundary (s : State) : State :=
  let s := (s.latchStr s.strRegs).droopReport
  let s := if bitAt s.tun.live.strCtl 17 then s.drive .strOut else s
  match s.str.st with
  | .locked => s.lockedBoundary
  | .holdover =>
    if holdoverLimit s.str.ctlUsed ≤ s.str.holdoverUsed then ({ s with str := { s.str with source := s.chooseSource } }).strTo .lost
    else ({ s with str := { s.str with holdoverUsed := s.str.holdoverUsed + 1 } }).seekBoundary
  | _ => s.seekBoundary

/-- The start of the String after `t`. -/
def nextString (t : Nat) : Nat := (t / subPerString + 1) * subPerString

/-- What waits for a fret boundary: plan entries of stalls under reset revert (Table 14.9), and the shares that SET_SHARE left waiting take effect
(Table 14.2, R357). -/
def State.sharesDue (s : State) : State :=
  let s := forEach (s.stalls.filter fun e => match e.2.plansDue with | some t => decide (t ≤ s.clock) | none => false) s fun e s => s.plansRevert e.1
  forEach (s.stalls.filter fun e => match e.2.newShare with | some n => decide (n.due ≤ s.clock) | none => false) s fun e s =>
    s.modStall e.1 fun x =>
      match x.newShare with
      | some n => { x with weight := n.weight, maxCtx := n.maxCtx, quantum := n.quantum, lbShare := n.lbShare,
                           planShare := n.planShare, newShare := none }
      | none => x

/-- A wire edge while not LOCKED to the wire (R30): acquisition. `off` in 1/64 ns, `per` in 1/16 ns. The restart after 64 edges leaves no
edge counted: the next one is the first (log entry 125). -/
def State.acquire (s : State) (off : Int) (per : Nat) : State :=
  let a := s.str.acq
  let P := s.refPeriod
  let dev := ((per : Int) - P).natAbs
  let a : WireAcq :=
    if a.count = 0 ∨ 3200 < dev then { count := 1, edges := a.edges + 1, good := 1, acquired := false, off := off }
    else
      let good := if dev * 10000 ≤ P then a.good + 1 else 1
      { count := a.count + 1, edges := a.edges + 1, good := good, acquired := a.acquired || decide (8 ≤ good), off := off }
  if a.acquired then { s with str := { s.str with acq := { a with edges := 0 } } }
  else if 64 ≤ a.edges then ({ s with str := { s.str with acq := {} } }).ledger 0x0202 1 0x00 0 none per
  else { s with str := { s.str with acq := a } }

/-- The slew still to come is beyond the ±200 ns of R30. -/
def State.slewing (s : State) : Bool := decide (s.ns 200 < s.str.slew.natAbs)

/-- WIRE_EDGE (R30): `off` is how long before the device's nearest boundary the edge comes, so the source's String time less the device's
(negative for an edge after it), and `per` the time since the previous edge (log entry 125). While the offset of a lock is slewed out the edge
is expected where the slew still to come puts the source's boundary, as the spec's Example has it (DEDUCED, log entry 157). -/
def execWireEdge (off : Int) (per : Nat) (s : State) : Res :=
  if ¬ s.pins.pwrok then .next s
  else if s.str.st = .locked ∧ s.str.source = .wire then
    if off.natAbs ≤ 3200 ∨ (s.slewing ∧ (4 * off - s.str.slew * s.subUnits).natAbs ≤ 12800) then
      .next { s with str := { s.str with wireEdgeAt := s.str.time, slew := s.toSub (4 * off), acq := { s.str.acq with off := 4 * off } } }
    else .next { s with str := { s.str with straySeen := true, strays := s.str.strays + 1 } }
  else .next (s.acquire (4 * off) per)

/-- The last moment, 200 ns ago or more, at which an edge was expected: an own boundary, or the source's while the offset of a lock is slewed
out (R30, R42; log entry 157). -/
def State.edgeDue (s : State) : Int :=
  let slew : Int := if s.slewing then s.str.slew else 0
  ((s.str.time : Int) - s.ns 200 + slew) / (subPerString : Nat) * (subPerString : Nat) - slew

/-- No accepted edge by 200 ns after the last expected boundary (R35). -/
def State.wireLate (s : State) : Bool :=
  s.str.st == .locked && s.str.source == .wire && decide ((s.str.wireEdgeAt : Int) + s.ns 200 < s.edgeDue)

/-- WIRE_SOURCE_TIMEOUT (R35). The String whose boundary passed without an edge counts as the first of the holdover. -/
def execWireSourceTimeout (s : State) : Res :=
  if s.wireLate then
    .next (({ s with str := { s.str with acq := {}, source := .none } }).sourceFailed 1)
  else .next s

/-- Forget the frames of a port (R35, R258); the source fails where it was the one in use. -/
def State.fabLost (s : State) (p : Nat) : State :=
  let used := s.str.st == .locked && s.str.source == .port p
  let s := { s with str := { s.str with fab := tmod {} s.str.fab p fun f => { f with valid := false, consecutive := 0 } } }
  if used then ({ s with str := { s.str with source := .none } }).sourceFailed 0 else s

/-- FABRIC_SOURCE_TIMEOUT (R35): no valid frame within one String after the last. -/
def execFabricSourceTimeout (p : PortNo) (s : State) : Res :=
  let f := tget {} s.str.fab p
  if f.valid ∧ f.at_ + subPerString < s.elapsed then .next (s.fabLost p) else .next s

/-- STR_COUNT_LOAD_WRITE (R41, R456): held for the first lock boundary; dropped with a notice outside FREE and ACQUIRING. Bits [15:0], which must
be 0, are ignored whatever they hold (DESIGN CHOICE, log entry 125). -/
def execStrCountLoadWrite (f : FnNo) (part : RegPart) (v : W64) (s : State) : Res :=
  if ¬ s.isOper f ∨ s.tun.boot ≠ .ready then .next s
  else if s.str.st ≠ .free ∧ s.str.st ≠ .acquiring then .next (s.cfgDropped f 0x10008 v.toNat)
  else match part with
    | .low => .next { s with str := { s.str with loadLow := BitVec.ofNat 32 v.toNat } }
    | .high => .next { s with str := { s.str with load := some (BitVec.ofNat 48 (v.toNat % 2 ^ 32 * 65536 + fld s.str.loadLow 31 16)) } }
    | .whole => .next { s with str := { s.str with loadLow := BitVec.ofNat 32 v.toNat, load := some (BitVec.ofNat 48 (fld v 63 16)) } }

/-- The body of a control flit (R251, R252): CTYPE, the message's bytes, zeros. -/
def ctlBody (ctype : Nat) (bytes : List Byte) : List Byte :=
  (BitVec.ofNat 8 ctype :: bytes) ++ List.replicate (248 - (bytes.length + 1)) 0

/-- Queue a control message on a port (VC 0, Table 11.4). -/
def State.queueCtl (s : State) (p ctype : Nat) (bytes : List Byte) : State :=
  s.modPort p fun x => { x with txq := x.txq ++ [{ kind := 1, vc := 0, body := ctlBody ctype bytes }] }

/-- The ports that are up. -/
def State.upPorts (s : State) : List Nat := (List.range 16).filter fun p => (s.port p).st == .up

/-- PHASE_SEND (R29, R269): during fret 1 of each String, once, on every port that is up; `txOff` lists the TX_OFFSET of the flit on each
port. -/
def execPhaseSend (txOff : List W32) (s : State) : Res :=
  if fretOf s.str.time = 1 ∧ s.str.phaseSent ≠ stringOf s.str.time + 1 then
    let head := toBytes 6 (stringOf s.str.time) ++ [BitVec.ofNat 8 (s.ownStratum + 16 * fld s.tun.live.strFretLen 1 0)]
    let s := { s with str := { s.str with phaseSent := stringOf s.str.time + 1 } }
    .next (forEach s.upPorts s fun p s => s.queueCtl p 0x05 (head ++ toBytes 4 ((txOff[p]?).getD 0).toNat))
  else .next s

/-- PHASE (R29, R33, R269): `rxAt` is the receive time since the device's own last String boundary. A frame of stratum 15 tells that its
sender is no source and is used for nothing else. While LOCKED a frame of any stratum whose count differs is rejected and excludes its port,
as R33 makes no exception (log entry 125). -/
def execPhase (p : PortNo) (count : BitVec 48) (strat : BitVec 4) (len : BitVec 2) (txOff rxAt : W32) (s : State) : Res :=
  let f := tget {} s.str.fab p
  if (s.port p).st ≠ .up then .next s
  else if len.toNat ≠ fld s.tun.live.strFretLen 1 0 then .next (s.modPort p fun x => x.count 7)
  else if s.str.st = .locked ∧ count.toNat ≠ stringOf s.str.time then
    let s := { s with str := { s.str with fab := tset {} s.str.fab p { f with excluded := true, valid := false, consecutive := 0 } } }
    .next (s.ledger 0x0203 1 0x0A p none p count.toNat)
  else
    let d : Int := (rxAt.toNat : Int) - txOff.toNat - (s.port p).delay
    let dc : Int := (count.toNat : Int) - stringOf s.str.time
    let cons := if f.valid ∧ s.elapsed ≤ f.at_ + 2 * subPerString then f.consecutive + 1 else 1
    let f' : PhaseSrc :=
      { f with valid := true, count := count.toNat, stratum := strat.toNat, at_ := s.elapsed,
               consecutive := if strat = 15 then 0 else cons, off := if strat = 15 then f.off else 4 * (dc * s.refPeriod - d) }
    let s := { s with str := { s.str with fab := tset {} s.str.fab p f' } }
    if s.str.st = .locked ∧ s.str.source = .port p ∧ strat ≠ 15 then .next { s with str := { s.str with slew := s.toSub f'.off } } else .next s

end Sys2Proof.Machine
end

