-- ==== Sys2Proof/Machine/Link.lean ====
section
/-! DEFINITION. The link layer of an optical port (R249 to R258, R269 to R271, R273, R433): link down and training, flits, replay,
credits, link delay and link keys. -/

namespace Sys2Proof.Machine

/-! ### Flits as they are sent (R250, R254, R256, R270) -/

/-- The flit's CRC holds (Table 11.2). -/
def flitCrc (h : W32) (body : List Byte) : Nat := crc32c (toBytes 4 h.toNat ++ body)

/-- The additional authenticated data of a flit: its header with ACK, CVC and CCNT 0 (R270). -/
def flitAad (h : W32) : W32 := setFld h 15 0 0

def Port.credit (x : Port) (vc : Nat) : Nat := tget 0 x.credits vc

/-- The credits that a header returns: of the lowest channel that owes any, at most 3. -/
def Port.owing (x : Port) : Nat × Nat :=
  match (List.range 4).find? fun v => decide (0 < tget 0 x.owed v) with
  | some v => (v, min 3 (tget 0 x.owed v))
  | none => (0, 0)

/-- A header (Table 11.3). -/
def mkHdr (kind vc seq ack cvc ccnt : Nat) : W32 :=
  BitVec.ofNat 32 (kind * 2 ^ 30 + vc * 2 ^ 28 + seq * 2 ^ 16 + ack * 16 + cvc * 4 + ccnt)

/-- Drive a flit. -/
def State.emitFlit (s : State) (p : Nat) (h : W32) (body : List Byte) : State :=
  let c := flitCrc h body
  ((s.modPort p fun x => x.count 0).drive (.flit p h body (BitVec.ofNat 32 c))).encodeFlit p (toBytes 4 h.toNat ++ body ++ toBytes 4 c)

/-- The body on the line: the ciphertext and tag of an encrypted link (R270), or the data. -/
def State.lineBody (s : State) (p : Nat) (h : W32) (body : List Byte) : List Byte :=
  let l := (s.port p).link
  if s.encrypts p then (List.range 248).map (Config.linkCipher l.keyTx.key l.keyTx.salt l.txCount (flitAad h) (body.take 232)) else body

/-- One new sequenced flit. -/
def State.sendFlit (s : State) (p : Nat) (i : TxItem) : State :=
  let x := s.port p
  let (cv, cn) := x.owing
  let h := mkHdr i.kind i.vc x.txSeq ((x.rxSeq + 4095) % 4096) cv cn
  let body := s.lineBody p h i.body
  let f : Sent := { seq := x.txSeq, hdr := h, body := body, at_ := s.elapsed }
  let x := { x with txSeq := (x.txSeq + 1) % 4096, replay := x.replay ++ [f],
                    owed := tmod 0 x.owed cv (· - cn), credits := tmod 0 x.credits i.vc (· - 1),
                    link := { x.link with txCount := x.link.txCount + 1 } }
  let x := match i.vc with
    | 0 => { x with slots0 := x.slots0 + 1 }
    | 1 => { x.count 2 with slots1 := x.slots1 + 1 }
    | _ => { x with slots := x.slots + 1 }
  (s.setPort p x).emitFlit p h body

/-- The replay buffer is full, or the flit count of the link key is at its end (R254, R270): no new sequenced flit goes. -/
def State.flitsStop (s : State) (p : Nat) : Bool :=
  decide (2048 ≤ (s.port p).replay.length) || (s.encrypts p && decide (2 ^ 48 ≤ (s.port p).link.txCount + 1))

/-- A control message that goes at once, where it can (R257). -/
def State.sendLast (s : State) (p ctype : Nat) (bytes : List Byte) : State :=
  if s.flitsStop p || (s.port p).credit 0 == 0 then s else s.sendFlit p { kind := 1, vc := 0, body := ctlBody ctype bytes }

/-! ### Reasons (Table 11.17) and REASON-carrying failures -/

def rsLaser : Nat := 1
def rsChannel : Nat := 2
def rsFec : Nat := 3
def rsCredits : Nat := 4
def rsFret : Nat := 5
def rsCrypto : Nat := 6
def rsReplay : Nat := 7
def rsLateAck : Nat := 8
def rsSilent : Nat := 9
def rsDisabled : Nat := 10
def rsTimeout : Nat := 11

/-- A control message to the partner: queued as a control flit where the link is up, sent by training where it trains. -/
def State.sendCtl (s : State) (p ctype : Nat) (bytes : List Byte) : State :=
  match (s.port p).st with
  | .up => s.queueCtl p ctype bytes
  | .training => s.drive (.control p ctype (ctlBody ctype bytes))
  | _ => s

/-- The wait before the next attempt (R258): 1 ms, doubled by each failed attempt, at most 64 ms. -/
def retryMs (fails : Nat) : Nat := min 64 (2 ^ fails)

/-- The port after its link went down or its attempt failed: buffers are empty, plans and leases stay, the next attempt waits. -/
def Port.fallen (x : Port) (reason fails next : Nat) (st : PortState) : Port :=
  { x with st := st, reason := reason, fails := fails, replay := [], resend := [], nakOut := false, credits := [], owed := [], txq := [],
           sw := none, planTags := [], downSeen := x.downSeen || x.st == .up, link := { waitUntil := next }, pcs := {} }

/-- A best-effort get that waits on a port completes with LINK_DOWN (R258): its refill cannot reach its source (R208). -/
def State.bestDown (s : State) (p : Nat) : State :=
  forEach (s.best.filter fun b => b.port == p) s fun b s => s.refillFail b.block 1

/-- A failure of a port: the link goes down (R258), or the attempt fails (R271). `input` is the laser input for reason LASER, the crossed channel
for CHANNEL (R246, log entry 131); `sendDown` where the W7 takes the link down itself (R257), with `why` in DOWN: the reason, or 12 for a cause of
its own (Table 11.18). -/
def State.portFail (s : State) (p reason input : Nat) (sendDown : Bool) (why : Nat := reason) : State :=
  let up := (s.port p).st == .up
  let s := if sendDown ∧ up then s.sendLast p 0x0A [BitVec.ofNat 8 (if why = 0 then 12 else why)] else s
  let x := s.port p
  let fails := if up then 0 else min 8 (x.fails + 1)
  let st := if reason = rsDisabled ∧ sendDown then PortState.down else if 8 ≤ fails then .held else .wait
  let s := s.setPort p (x.fallen reason fails (s.elapsed + s.ns (1000000 * retryMs fails)) st)
  let s := s.ledger 0x0301 2 0x0A p none p reason input
  if up then
    let hit := fun (c : Coll) => c.scheduled && c.routes.any fun r => r.2.1 == p
    let s := if s.colls.any fun c => c.result.isNone && hit c then s.interruption 2 else s
    ((s.bestDown p).collsEnd hit stLinkDown).fabLost p
  else s

/-- Take an up link down for a condition of Table 11.6. -/
def State.takeDown (s : State) (p reason : Nat) (input : Nat := 0) : State :=
  if (s.port p).st = .up then s.portFail p reason input true else s

/-- A training attempt fails with a reason. -/
def State.attemptFails (s : State) (p reason : Nat) (input : Nat := 0) : State :=
  if (s.port p).st = .training then s.portFail p reason input false else s

/-- A link key exchange fails (R433): event 0x0B06 with its cause, 1 MAC, 2 no FMK, 3 time; training or the link fails with CRYPTO. For want of the
FMK the port stays down until RETRAIN is written. -/
def State.keyFail (s : State) (p cause : Nat) : State :=
  let s := (s.ledger 0x0B06 2 0x0A p none p cause).portFail p rsCrypto 0 true
  if cause = 2 then s.modPort p fun x => { x with st := .held } else s

/-! ### The own nonce of a key exchange (R433) -/

/-- A nonce of the W7: 256 bits of the random source. -/
def drawNonce (k : Nat) : BitVec 256 := Config.random k ++ Config.random (k + 1) ++ Config.random (k + 2) ++ Config.random (k + 3)

/-- The W7's own nonce for an exchange, sent once; the exchange takes the FMK that is set now (R434). -/
def State.sendNonce (s : State) (p : Nat) : State :=
  if (s.port p).link.nonceOwn.isSome then s
  else
    let n := drawNonce s.rnd
    let s := ({ s with rnd := s.rnd + 4 }).modPort p fun x => { x with link := { x.link with nonceOwn := some n, started := some s.elapsed, fmk := s.sec.fmk } }
    s.sendCtl p 0x09 (1 :: toBytes 32 n.toNat)

/-! ### Training (R271) -/

/-- Laser power of input `w` of an engine, in 0.01 dBm. -/
def State.laser (s : State) (p w : Nat) : Int := tget 0 s.pins.lasers (2 * p + w)

/-- The laser input that keeps a port from training or takes it down: below `lo`, or above +20 dBm (R18). Where both are, it is input 0 (DESIGN
CHOICE, log entry 151). -/
def State.laserBad (s : State) (p : Nat) (lo : Int) : Option Nat :=
  [0, 1].find? fun w => decide (s.laser p w < lo) || decide (2000 < s.laser p w)

/-- Minimum credits of a partner by virtual channel (Table 11.4), and what the W7 advertises. -/
def minCredits : List Nat := [64, 2048, 256, 256]
def ownCredits : List Nat := [64, 2048, 512, 512]

/-- The body of the W7's own TRAIN (Table 11.9). -/
def State.trainBody (s : State) (p : Nat) : List Byte :=
  toBytes 3 s.myId ++ [0, BitVec.ofNat 8 (fld s.tun.live.strFretLen 1 0), if s.encrypts p then 1 else 0] ++
    ownCredits.flatMap (toBytes 2) ++ toBytes 2 0

/-- A step of training begins. -/
def State.toStep (s : State) (p step : Nat) : State := s.modPort p fun x => { x with link := { x.link with step := step, began := s.elapsed } }

/-- An attempt starts: an enabled port of a device with a fabric ID (R273), whose engine has not failed (R19). Step 1 checks the laser inputs; the
next steps are the PHY's. -/
def State.trainStart (s : State) (p : Nat) : State :=
  if ¬ bitAt (s.fabCtl p) 31 ∨ s.myId = 0xFFFFF ∨ s.nv.health.engines.contains p then s
  else
    let s := (s.modPort p fun x => { x with st := .training, link := {} }).toStep p 1
    match s.laserBad p 1400 with
    | some w => s.attemptFails p rsLaser w
    | none => s.toStep p 2

/-- LASER_POWER_SAMPLE (R18): the two inputs of an engine, in 0.01 dBm. Above +20 dBm the port is taken down in training too. -/
def execLaserPowerSample (e : PortNo) (w0 w1 : Int) (s : State) : Res :=
  let s := { s with pins := { s.pins with lasers := tset 0 (tset 0 s.pins.lasers (2 * e.val) w0) (2 * e.val + 1) w1 } }
  match (s.port e).st, s.laserBad e 1300, [0, 1].find? fun w => decide (2000 < s.laser e w) with
  | .up, some w, _ => .next (s.takeDown e rsLaser w)
  | .training, _, some w => .next (s.attemptFails e rsLaser w)
  | _, _, _ => .next s

/-- After the link delay the key exchange, where ENCRYPT is 1. -/
def State.toKeys (s : State) (p : Nat) : State :=
  if s.encrypts p then (s.toStep p 8).sendNonce p else s.toStep p 9

/-- Step 6 begins: TRAIN goes out; where the partner's has come, the exchange is done. -/
def State.trainExchange (s : State) (p : Nat) : State :=
  let s := (s.toStep p 6).drive (.control p 0x03 (ctlBody 0x03 (s.trainBody p)))
  if (s.port p).link.trainIn then s.toStep p 7 else s

/-- A flit that arrives in training, its CRC good or not: 64 good ones in a row are flit lock (R271, step 5). -/
def State.trainFlit (s : State) (p : Nat) (ok : Bool) : State :=
  let l := (s.port p).link
  if l.step ≠ 2 ∧ l.step ≠ 5 then s
  else
    let s := if l.step = 2 ∧ ok then s.toStep p 5 else s
    let n := if ok then l.good + 1 else 0
    let s := s.modPort p fun x => { x with link := { x.link with good := n } }
    if 64 ≤ n then s.trainExchange p else s

/-- TRAIN (R271 step 6): fret length, credits and encryption are checked in turn. One that comes before the own flit lock counts when step 6
begins. -/
def execTrain (p : PortNo) (id : BitVec 20) (kind len : Byte) (enc : Bool) (c0 c1 c2 c3 lat : W16) (s : State) : Res :=
  if (s.port p).st ≠ .training ∨ 6 < (s.port p).link.step then .next s
  else if len.toNat ≠ fld s.tun.live.strFretLen 1 0 then .next (s.attemptFails p rsFret)
  else
    let cs := [c0, c1, c2, c3].map BitVec.toNat
    if (List.zip cs minCredits).any fun e => decide (e.1 < e.2) then .next (s.attemptFails p rsCredits)
    else if enc ≠ s.encrypts p then .next (s.attemptFails p rsCrypto)
    else
      let _ := lat
      let s := s.modPort p fun x =>
        { x with partner := kind.toNat % 4, credits := (List.zip (List.range 4) cs).foldl (fun t e => tset 0 t e.1 e.2) [],
                 link := { x.link with trainIn := true, partnerId := id.toNat } }
      .next (if (s.port p).link.step = 6 then s.toStep p 7 else s)

/-- What a step whose limit passed fails with (Table 11.13). -/
def stepReason : Nat → Nat
  | 1 => rsLaser
  | 2 => rsChannel
  | 3 => rsChannel
  | 4 => rsChannel
  | 8 => rsCrypto
  | _ => rsTimeout

/-- The limit of a step, in ns; step 1 has 2 frets. -/
def State.stepLimit (s : State) : Nat → Nat
  | 1 => 2 * s.fretNs
  | 2 => 1000000
  | 3 => 20000000
  | 4 => 100000
  | 5 => 10000
  | 6 => 100000
  | 7 => 1000000
  | _ => 10000000

/-- TRAINING_STEP_TIMEOUT (R246, R271): a step whose limit has passed fails the attempt; at step 4 `chan` is the channel found crossed. Step 8 also
bounds the exchange of a rekey (R433). -/
def execTrainingStepTimeout (p : PortNo) (step : Fin 10) (chan : Option (Fin 16)) (s : State) : Res :=
  let x := s.port p
  match x.st with
  | .training =>
    let here := x.link.step == step.val || (x.link.step == 2 && (step.val == 3 || step.val == 4))
    if here ∧ step.val < 9 ∧ x.link.began + s.ns (s.stepLimit step) ≤ s.elapsed then
      if step.val = 8 then .next (s.keyFail p (if x.link.fmk.isSome then 3 else 2))
      else .next (s.attemptFails p (stepReason step) (if step.val = 4 then (match chan with | some c => c.val | none => 0) else 0))
    else .next s
  | .up =>
    match x.link.started with
    | some t => if step.val = 8 ∧ t + s.ns 10000000 ≤ s.elapsed then .next (s.keyFail p (if x.link.fmk.isSome then 3 else 2)) else .next s
    | none => .next s
  | _ => .next s

/-- RETRAIN_BACKOFF_EXPIRY (R258). -/
def execRetrainBackoffExpiry (p : PortNo) (s : State) : Res :=
  if (s.port p).st = .wait ∧ (s.port p).link.waitUntil ≤ s.elapsed then .next (s.trainStart p) else .next s

/-- RETRAIN (R273, Table 11.16): training starts now and the failure count is cleared. Only the operator function sees the register. -/
def execRetrain (f : FnNo) (p : PortNo) (s : State) : Res :=
  if ¬ s.isOper f ∨ s.tun.boot ≠ .ready then .next s
  else
    let s := if (s.port p).st = .up then s.portFail p (s.port p).reason 0 true 12 else s
    .next ((s.modPort p fun x => { x with fails := 0 }).trainStart p)

/-- LINK_UP (R271 step 9): SEQ 0 at both ends, an all-best-effort plan. -/
def execLinkUp (p : PortNo) (s : State) : Res :=
  let x := s.port p
  if x.st = .training ∧ x.link.step = 9 then
    let s := s.setPort p
      { x with st := .up, fails := 0, activePlan := 0, plans := [{}, {}], leases := [], sw := none, planTags := [], txSeq := 0, rxSeq := 0,
               replay := [], resend := [], nakOut := false, owed := [], txq := [], rxAt := s.elapsed, lateAcks := 0, tagFails := 0 }
    .next { s with str := { s.str with fab := tset {} s.str.fab p {} } }
  else .next s

/-! ### Link keys (R270, R433) -/

/-- Both confirmations are through: the exchange ends. In training the next step is UP. -/
def State.keyDone (s : State) (p : Nat) : State :=
  let x := s.port p
  if x.link.confSent ∧ x.link.confIn then
    s.modPort p fun x => { x with link := { x.link with nonceOwn := none, nonceIn := none, confSent := false, confIn := false, started := none,
                                                        step := if x.st = .training ∧ x.link.step = 8 then 9 else x.link.step } }
  else s

/-- The key and salt of the direction from `a` to `b` (R433): 36 bytes from the FMK, the nonces, that of the lower fabric ID first, and the IDs. -/
def State.keyFrom (s : State) (fmk : BitVec 256) (l : Link) (a b : Nat) : LinkKey :=
  let own := l.nonceOwn.getD 0
  let other := l.nonceIn.getD 0
  let k := if s.myId ≤ l.partnerId then Config.linkKey fmk own other a b else Config.linkKey fmk other own a b
  { key := k.extractLsb' 32 256, salt := k.extractLsb' 0 32 }

/-- The W7's confirmation, once it holds both nonces; it accepts flits under the old key for one fret more. -/
def State.sendConfirm (s : State) (p : Nat) : State :=
  let l := (s.port p).link
  match l.nonceOwn, l.nonceIn, l.fmk with
  | some a, some b, some k =>
    if l.confSent then s
    else
      let mac := (List.range 48).map (Config.keyMac k a b s.myId l.partnerId)
      let s := s.sendCtl p 0x09 (2 :: (List.replicate 32 0 ++ mac))
      let s := s.modPort p fun x =>
        { x with link := { x.link with confSent := true, keyRx := s.keyFrom k l l.partnerId s.myId, rxCount := 0,
                                       oldRx := if x.st = .up then some (x.link.keyRx, x.link.rxCount, s.clock + subPerFret) else none } }
      s.keyDone p
  | some _, some _, none => s.keyFail p 2
  | _, _, _ => s

/-- KEY_NONCE: the partner's nonce; the W7 sends its own and, with both, its confirmation. -/
def execKeyNonce (p : PortNo) (n : BitVec 256) (s : State) : Res :=
  let x := s.port p
  if s.encrypts p ∧ (x.st = .up ∨ (x.st = .training ∧ x.link.step = 8)) then
    let s := s.modPort p fun x => { x with link := { x.link with nonceIn := some n } }
    .next ((s.sendNonce p).sendConfirm p)
  else .next s

/-- KEY_CONFIRMATION: a right one switches the transmitter to the new key with its count at 0; a wrong one fails with CRYPTO. -/
def execKeyConfirmation (p : PortNo) (ok : Bool) (s : State) : Res :=
  let x := s.port p
  if x.link.nonceOwn.isNone ∨ x.link.nonceIn.isNone then .next s
  else if ok then
    let key := match x.link.fmk with
      | some k => s.keyFrom k x.link s.myId x.link.partnerId
      | none => x.link.keyTx
    .next ((s.modPort p fun x => { x with link := { x.link with confIn := true, keyTx := key, txCount := 0 } }).keyDone p)
  else .next (s.keyFail p 1)

/-- REKEY (R270): a new exchange on an encrypted link that is up. -/
def execRekey (p : PortNo) (s : State) : Res :=
  if s.encrypts p ∧ (s.port p).st = .up then .next (s.sendNonce p) else .next s

/-- OLD_KEY_ACCEPT_EXPIRY (R433): one fret after the W7's own confirmation. -/
def execOldKeyAcceptExpiry (p : PortNo) (s : State) : Res :=
  match (s.port p).link.oldRx with
  | some (_, _, t) => if t ≤ s.clock then .next (s.modPort p fun x => { x with link := { x.link with oldRx := none } }) else .next s
  | none => .next s

/-! ### Link delay (R269) -/

/-- The delay measurement of step 7 is done: its round trip is kept for R255. -/
def State.delayDone (s : State) (p : Nat) : State :=
  if (s.port p).st = .training ∧ (s.port p).link.step = 7 then
    (s.modPort p fun x => { x with link := { x.link with trip := 2 * x.delay } }).toKeys p
  else s

/-- DELAY_MEASURE_START: 16 requests, at training and then once every 256 Strings. `ts` holds their transmit times. -/
def execDelayMeasureStart (p : PortNo) (ts : List W32) (s : State) : Res :=
  let x := s.port p
  let due := match x.st, x.link.measured with
    | .training, _ => x.link.step == 7
    | .up, some m => decide (m + 256 ≤ stringOf s.str.time)
    | .up, none => true
    | _, _ => false
  if due then
    let s := s.modPort p fun x => { x with link := { x.link with samples := [], measured := some (stringOf s.str.time) } }
    .next (forEach (List.range 16) s fun i s =>
      s.sendCtl p 0x04 ([1, BitVec.ofNat 8 i, 0] ++ toBytes 4 ((ts[i]?).getD 0).toNat))
  else .next s

/-- DELAY_REQ: answered with a DELAY_RSP of t1, t2 and t3. -/
def execDelayReq (p : PortNo) (idx : Fin 16) (t1 t2 t3 : W32) (s : State) : Res :=
  .next (s.sendCtl p 0x04 ([2, BitVec.ofNat 8 idx.val, 0] ++ toBytes 4 t1.toNat ++ toBytes 4 t2.toNat ++ toBytes 4 t3.toNat))

/-- Twice the link delay of one exchange: (t4 − t1) − (t3 − t2), modulo 2^32. -/
def delayTwice (t1 t2 t3 t4 : W32) : Int := sext 32 ((t4 - t1) - (t3 - t2)).toNat

/-- The median of 16 exchanges, each half of what is listed: the mean of the two in the middle, rounded down. -/
def medianDelay (l : List Int) : Nat :=
  let m := l.insertionSort (· ≤ ·)
  (((m[7]?).getD 0 + (m[8]?).getD 0) / 4).toNat

/-- DELAY_RSP: one exchange; the sixteenth gives the link delay. -/
def execDelayRsp (p : PortNo) (idx : Fin 16) (t1 t2 t3 t4 : W32) (s : State) : Res :=
  let x := s.port p
  if x.link.measured = none ∨ (x.link.samples.any fun e => e.1 == idx.val) then .next s
  else
    let l := x.link.samples ++ [(idx.val, delayTwice t1 t2 t3 t4)]
    let s := s.modPort p fun x => { x with link := { x.link with samples := l } }
    if l.length = 16 then .next ((s.modPort p fun x => { x with delay := medianDelay (l.map (·.2)) }).delayDone p) else .next s

/-! ### Receiving flits (R250 to R256) -/

def fKind (h : W32) : Nat := fld h 31 30
def fVc (h : W32) : Nat := fld h 29 28
def fSeq (h : W32) : Nat := fld h 27 16
def fAck (h : W32) : Nat := fld h 15 4
def fCvc (h : W32) : Nat := fld h 3 2
def fCcnt (h : W32) : Nat := fld h 1 0

/-- The control messages that Table 11.5 and Table 11.18 list, by CTYPE and byte 5. -/
def ctypeListed (ctype sub : Nat) : Bool :=
  match ctype with
  | 0x04 => sub == 1 || sub == 2
  | 0x06 => sub == 1 || sub == 2
  | 0x07 => sub == 1 || sub == 2
  | 0x09 => sub == 1 || sub == 2
  | n => decide (1 ≤ n ∧ n ≤ 0x0A)

/-- The flits of the replay buffer that a cumulative ACK leaves (R254). -/
def ackFlits (ack : Nat) (l : List Sent) : List Sent :=
  if l.any fun f => f.seq == ack then (l.dropWhile fun f => f.seq != ack).drop 1 else l

/-- ACK and credits of an accepted flit (R253). -/
def Port.take (x : Port) (h : W32) : Port :=
  let l := ackFlits (fAck h) x.replay
  { x with replay := l, resend := x.resend.filter fun f => l.any fun g => g.seq == f.seq,
           credits := tmod 0 x.credits (fCvc h) (· + fCcnt h) }

/-- A NAK naming the expected SEQ (R253): one until that SEQ arrives or 2 µs pass. -/
def State.sendNak (s : State) (p : Nat) : State :=
  if (s.port p).nakOut then s
  else (s.modPort p fun x => { x with nakOut := true, nakAt := s.elapsed }).queueCtl p 0x01 (toBytes 2 (s.port p).rxSeq)

/-- The FEC's outcome for a flit (R249): a codeword with up to 15 symbols in error is corrected, one with more is flagged. `errs` lists those of
the codewords that the flit touches. -/
def fecOk (f : Flit) : Bool := f.errs.all fun n => decide (n ≤ 15)
def fecCorrected (f : Flit) : Nat := (f.errs.filter fun n => decide (n ≤ 15)).sum
def fecUncorrectable (f : Flit) : Nat := (f.errs.filter fun n => decide (15 < n)).length

/-- The data of a received flit: decrypted on an encrypted link, under the old key where it came under it (R270, R433). -/
def State.flitData (s : State) (p : Nat) (f : Flit) : List Byte :=
  let l := (s.port p).link
  let (k, n) := match l.oldRx with
    | some (k, n, _) => if f.oldKey then (k, n) else (l.keyRx, l.rxCount)
    | none => (l.keyRx, l.rxCount)
  if s.encrypts p then (List.range 232).map (Config.linkPlain k.key k.salt n (flitAad f.hdr) f.body) else f.body

/-- A flit whose tag does not verify, under the receiver's key or the old one while that is accepted. -/
def State.tagBad (s : State) (p : Nat) (f : Flit) : Bool := !f.tagOk || (f.oldKey && (s.port p).link.oldRx.isNone)

/-- One more flit received under its key. -/
def Link.received (l : Link) (old : Bool) : Link :=
  match l.oldRx with
  | some (k, n, t) => if old then { l with oldRx := some (k, n + 1, t) } else { l with rxCount := l.rxCount + 1 }
  | none => { l with rxCount := l.rxCount + 1 }

/-- FLIT_RECEIVE (R251, R253, R254, R256, R270, R271). What an accepted flit carries to the layers above is commanded on its own. -/
def execFlitReceive (p : PortNo) (f : Flit) (s : State) : Res :=
  if (s.port p).st = .training then .next (s.trainFlit p (fecOk f && f.crc.toNat == flitCrc f.hdr f.body))
  else if (s.port p).st ≠ .up then .next s
  else
    let s := s.modPort p fun x => ((x.count 1).count 3 (fecCorrected f)).count 4 (fecUncorrectable f)
    let x := s.port p
    let seqd := fKind f.hdr < 2
    let good := fecOk f && f.crc.toNat == flitCrc f.hdr f.body && fKind f.hdr != 3
    let tagBad := good && seqd && s.encrypts p && s.tagBad p f
    let data := s.flitData p f
    if ¬ good then (if seqd then .next (s.sendNak p) else .next s)
    else if tagBad then
      let t := stringOf s.str.time
      .next ((s.modPort p fun x =>
        { x.count 7 with tagFails := if x.tagString = t then x.tagFails + 1 else 1, tagString := t }).sendNak p)
    else if ¬ seqd then .next (s.modPort p fun x => { x.take f.hdr with rxAt := s.elapsed })
    else if fSeq f.hdr ≠ x.rxSeq then .next (s.sendNak p)
    else
      let s := s.modPort p fun x =>
        { x.take f.hdr with rxAt := s.elapsed, rxSeq := (x.rxSeq + 1) % 4096, nakOut := false, owed := tmod 0 x.owed (fVc f.hdr) (· + 1),
                            link := x.link.received f.oldKey }
      if fKind f.hdr = 1 ∧ ¬ ctypeListed (recFld data 0 1) (recFld data 1 1) then .next (s.fabDiscard p 1 0 0 0) else .next s

/-- NAK_RESEND_TIMEOUT (R253): 2 µs without the expected SEQ. -/
def execNakResendTimeout (p : PortNo) (s : State) : Res :=
  let x := s.port p
  if x.st = .up ∧ x.nakOut ∧ x.nakAt + s.ns 2000 ≤ s.elapsed then .next ((s.modPort p fun x => { x with nakOut := false }).sendNak p) else .next s

/-- NAK (R254): every flit from SEQ onward is resent. -/
def execNak (p : PortNo) (seq : BitVec 12) (s : State) : Res :=
  if (s.port p).st = .up then .next (s.modPort p fun x => { x with resend := x.replay.dropWhile fun f => f.seq != seq.toNat }) else .next s

/-- CREDIT (R256). -/
def execCredit (p : PortNo) (c0 c1 c2 c3 : W16) (s : State) : Res :=
  if (s.port p).st = .up then
    .next (s.modPort p fun x => { x with credits := (List.zip (List.range 4) [c0, c1, c2, c3]).foldl (fun t e => tmod 0 t e.1 (· + e.2.toNat)) x.credits })
  else .next s

/-! ### Conditions that take a link down (R255, R257) -/

/-- A control flit of the port that its partner has not acknowledged within 160 ns and the round trip measured at training. One that waits to be
resent was not accepted. -/
def State.lateFlit (s : State) (p : Nat) : Option Sent :=
  let x := s.port p
  x.replay.find? fun f => fKind f.hdr == 1 && !f.late && !(x.resend.any fun g => g.seq == f.seq) && decide (f.at_ + s.ns (160 + cdiv x.link.trip 16) ≤ s.elapsed)

/-- LATE_ACK (R255). -/
def execLateAck (p : PortNo) (s : State) : Res :=
  if (s.port p).st ≠ .up then .next s
  else match s.lateFlit p with
    | some f =>
      let t := stringOf s.str.time
      .next (s.modPort p fun x =>
        { x.count 7 with lateAcks := if x.lateString = t then x.lateAcks + 1 else 1, lateString := t,
                         replay := x.replay.map fun g => if g.seq = f.seq then { g with late := true } else g })
    | none => .next s

/-- LATE_ACK_LIMIT (R255): 64 in one String. -/
def execLateAckLimit (p : PortNo) (s : State) : Res :=
  let x := s.port p
  if x.lateString = stringOf s.str.time ∧ 64 ≤ x.lateAcks then .next (s.takeDown p rsLateAck) else .next s

/-- REPLAY_LIMIT (R257): one SEQ replayed 16 times without acknowledgement. -/
def execReplayLimit (p : PortNo) (s : State) : Res :=
  if (s.port p).replay.any fun f => decide (16 ≤ f.resends) then .next (s.takeDown p rsReplay) else .next s

/-- FEC_LIMIT (R257): over one String a channel had `bad` uncorrectable codewords of `total`. -/
def execFecLimit (p : PortNo) (bad total : Nat) (s : State) : Res :=
  if total < bad * 1000000 then .next (s.takeDown p rsFec) else .next s

/-- TAG_FAILURE_LIMIT (R270): 4 in one String. -/
def execTagFailureLimit (p : PortNo) (s : State) : Res :=
  let x := s.port p
  if x.tagString = stringOf s.str.time ∧ 4 ≤ x.tagFails then .next (s.takeDown p rsCrypto) else .next s

/-- SILENT_TIMEOUT (R257): no accepted flit for 10 µs. -/
def execSilentTimeout (p : PortNo) (s : State) : Res :=
  if (s.port p).rxAt + s.ns 10000 ≤ s.elapsed then .next (s.takeDown p rsSilent) else .next s

/-- DOWN (R257): the partner takes the link down. Reason 12 has no REASON code and is reported as none. -/
def execDown (p : PortNo) (why : Byte) (s : State) : Res :=
  let r := if why.toNat ≤ 11 then why.toNat else 0
  match (s.port p).st with
  | .up => .next (s.portFail p r 0 false)
  | .training => .next (s.attemptFails p r)
  | _ => .next s

end Sys2Proof.Machine
end

