-- ==== Sys2Proof/Machine/Power.lean ====
section
/-! DEFINITION. Power and temperature (R211, R441 to R448): stretch, the slow loop, the cap, droop, the brake, throttling and the
thermal trip. Stretches are in 1/64, temperatures in 0.25 °C. -/

namespace Sys2Proof.Machine

def State.modPwr (s : State) (f : Pwr → Pwr) : State := { s with pwr := f s.pwr }

/-- PWR_ALERT SEEN bits (Table 18.5). -/
def seenCap : Nat := 0
def seenTherm : Nat := 1
def seenBrake : Nat := 2
def seenOpt : Nat := 3
def seenDroop : Nat := 4

def State.alertSee (s : State) (k : Nat) : State := s.modPwr fun x => { x with alertSeen := x.alertSeen ||| BitVec.ofNat 5 (2 ^ k) }

/-- The sources that hold ALERT_N asserted (R448): ledger, SEEN bits that are enabled, trip, boot stopped; the order of the bits is a
DESIGN CHOICE (log entry 152). -/
def State.alertSource (s : State) : Nat :=
  (if s.led.op.alert then 1 else 0) + 2 * (s.pwr.alertSeen &&& s.pwr.alertEn).toNat + (if s.pins.thermtrip then 64 else 0) +
    (if s.tun.boot = .stopped then 128 else 0)

/-- ALERT_N is asserted; with PWROK low it is released (R467). -/
def State.alertN (s : State) : Bool := s.pins.pwrok && s.alertSource != 0

/-- Trace data may leave the device (R406, R439): TRACE_EN, and debug level 1 or 2. -/
def State.traceOn (s : State) : Bool := bitAt s.tun.live.feat 31 && decide (1 ≤ s.sec.debug)

/-- What an output pin does: a level, released or not driven, or driven by what its interface does at the time. -/
inductive PinLevel where
  | low
  | high
  | released
  | undriven
  | busy
  deriving DecidableEq, Repr

/-- The output and bidirectional pins of Table 20.3, and the STR_OUT lands with what they carry (R406, R471). -/
structure PinView where
  thermtripN : PinLevel
  alertN : PinLevel
  mgmt : PinLevel
  nvmClk : PinLevel
  nvmCsN : PinLevel
  nvmIo : PinLevel
  tdo : PinLevel
  trcData : PinLevel
  strOut : PinLevel
  trcClk : Bool
  deriving DecidableEq, Repr

/-- The pins as the state has them: their reset levels while PWROK is low (R467, R470); TRC_DATA is low without trace output, and the STR_OUT lands carry
String boundaries under OUT_EN, TRC_CLK of 200 MHz under TRACE_EN, and are else low (Table 20.6). -/
def State.pinView (s : State) : PinView :=
  let on := s.pins.pwrok
  let drv (rest : PinLevel) : PinLevel := if on then .busy else rest
  let clk := on && bitAt s.tun.live.feat 31
  { thermtripN := if s.pins.thermtrip then .low else .released, alertN := if s.alertN then .low else .released, mgmt := drv .released,
    nvmClk := drv .low, nvmCsN := drv .high, nvmIo := drv .undriven, tdo := drv .undriven,
    trcData := if on && s.traceOn then .busy else .low, strOut := if on && (clk || bitAt s.tun.live.strCtl 17) then .busy else .low, trcClk := clk }

/-! ### Stretch (R441) -/

def Pwr.thermal (x : Pwr) (d : Nat) : Nat := max 64 (tget 0 x.thermStretch d)
def Pwr.droopStretch (x : Pwr) (d : Nat) : Nat := if tget .no x.droop d = .no then 64 else 128

/-- The effective stretch of a compute die: the largest of the four. -/
def Pwr.effective (x : Pwr) (d : Nat) : Nat := max (max x.pStretch x.brakeStretch) (max (x.thermal d) (x.droopStretch d))

/-! ### The cap and the slow loop (R442, R443) -/

/-- The cap in force: the lower of CAP_W and, where it is not 0, OVR_W, which acts as 1,200 below that. -/
def State.powerCap (s : State) : Nat :=
  let c := fld s.tun.live.pwrCap 11 0
  let o := fld s.pwr.capOvr 11 0
  if o = 0 then c else min c (max 1200 o)

/-- The new power stretch: at most 4/64 below the old one, within 1× and 4×. Where nothing is left for the compute dies it is 4×. -/
def newStretch (cap prev comp oth : Nat) : Nat :=
  let s := if cap ≤ oth then 256 else cdiv (prev * comp) (cap - oth)
  min 256 (max 64 (max s (prev - 4)))

/-- SLOW_POWER_LOOP (R443): on fret 0 of each String, item 6 of Table 2.4, from the power averaged over the last one. A loop that is due keeps
its remaining duration where String time is loaded or stepped (R39). -/
def execSlowPowerLoop (x : PowerIn) (s : State) : Res :=
  if ¬ s.gridOk 6 ∨ s.clock < s.pwr.loopDue then .next s
  else
    let comp := (x.pDie.take 4).sum
    let oth := (x.pDie.drop 4).sum + x.pOther
    let cap := s.powerCap
    let st := newStretch cap s.pwr.pStretch comp oth
    let unmet := st == 256 && decide (cap < comp + oth)
    let s := s.modPwr fun p =>
      { p with loopDue := s.clockOf (nextString ((p.loopDue : Int) + s.str.base).toNat), pStretch := st, capUnmet := unmet, devW := comp + oth,
               dieW := x.pDie.zipIdx.foldl (fun t e => tset 0 t e.2 e.1) p.dieW,
               energy := x.energy.zipIdx.foldl (fun t e => tmod 0 t e.2 (· + BitVec.ofNat 64 e.1)) p.energy }
    if unmet then .next ((s.alertSee seenCap).atMost 0x0A01 0 256 1 fun _ s => s.ledger 0x0A01 1 0x00 0 none cap (comp + oth))
    else .next s

/-- The endpoint hears a path (R450, R473): the bus once it answers, at address 0x4E or, on I3C, at the dynamic address that the bus controller has
assigned; PCIe VDM on a trained host port. -/
def State.mgmtUp (s : State) : MgmtPath → Bool
  | .smbus a => s.mgmtAwake && a == Config.mgmtAddr
  | .i3c a => s.mgmtAwake && a == s.pwr.i3cAddr.getD Config.mgmtAddr
  | .vdm p => s.mgmtAwake && s.hosts.l0.toNat.testBit p.val

/-- A management command that changes state is accepted on the bus, and by PCIe VDM on the operator function's host port (R451). -/
def State.mgmtMay (s : State) : MgmtPath → Bool
  | .smbus _ => true
  | .i3c _ => true
  | .vdm p => p.val == s.operFn / 1024

/-- A management reply. -/
def State.reply (s : State) (path : MgmtPath) (kind : String) (fields : List Int) : State := s.drive (.mgmt path kind fields)

/-- PWR_CAP_OVR_WRITE (R442, R451): by the operator function's register or by the management endpoint's effecter 1. -/
def execPwrCapOvrWrite (src : MgmtPath ⊕ FnNo) (v : W32) (s : State) : Res :=
  let set := fun (s : State) => s.modPwr fun p => { p with capOvr := v &&& 0xFFF }
  match src with
  | .inr f => if s.isOper f ∧ s.tun.boot = .ready then .next (set s) else .next s
  | .inl path => if ¬ s.mgmtUp path then .next s else if s.mgmtMay path then .next ((set s).reply path "SET_EFFECTER" [1]) else .next (s.reply path "ERROR_UNSUPPORTED" [])

/-! ### Droop (R444) -/

/-- DROOP: the supply of a compute die falls more than 5% below its set point. The events of a String are counted, and its entry comes at its end
(`State.droopReport`). -/
def execDroop (d : DieNo) (s : State) : Res :=
  if tget .no s.pwr.droop d = .drooping then .next s
  else .next ((s.modPwr fun p => { p with droop := tset .no p.droop d .drooping, droops := tmod 0 p.droops d (· + 1) }).alertSee seenDroop)

/-- DROOP_SUPPLY_RECOVERY: the hold of 64 ns begins. -/
def execDroopSupplyRecovery (d : DieNo) (s : State) : Res :=
  if tget .no s.pwr.droop d = .drooping then
    .next (s.modPwr fun p => { p with droop := tset .no p.droop d .holding, droopAt := tset 0 p.droopAt d s.elapsed })
  else .next s

/-- DROOP_HOLD_EXPIRY: 64 ns after the supply recovered the stretch drops to 64. -/
def execDroopHoldExpiry (d : DieNo) (s : State) : Res :=
  if tget .no s.pwr.droop d = .holding ∧ tget 0 s.pwr.droopAt d + s.ns 64 ≤ s.elapsed then
    .next (s.modPwr fun p => { p with droop := tset .no p.droop d .no, droopAt := tset 0 p.droopAt d 0 })
  else .next s

/-! ### The brake (R445, Table 18.1) -/

/-- PWRBRAKE_ASSERT: the pin falls. With BRAKE_EN = 0 it is only reported. -/
def execPwrbrakeAssert (s : State) : Res :=
  if s.pwr.brakePin then .next s
  else
    let b := s.tun.live.pwrBrake
    let on := bitAt b 31
    let st := min 256 (max 64 (fld b 8 0))
    let s := (s.modPwr fun p => { p with brakePin := true, brake := if on then .asserted else p.brake,
                                         brakeStretch := if on then st else p.brakeStretch }).alertSee seenBrake
    .next (s.ledger 0x0A03 0 0x00 0 none s.pwr.brakeStretch)

/-- PWRBRAKE_DEASSERT: PWR_STATUS.BRAKE clears and the wait of 10 µs starts. -/
def execPwrbrakeDeassert (s : State) : Res :=
  if s.pwr.brakePin then
    .next (s.modPwr fun p => { p with brakePin := false, brakeAt := s.elapsed, brake := if p.brake = .asserted then .releasing else p.brake })
  else .next s

/-- BRAKE_RELEASE: the pin has stayed high for 10 µs. -/
def execBrakeRelease (s : State) : Res :=
  if s.pwr.brake = .releasing ∧ s.pwr.brakeAt + s.ns 10000 ≤ s.elapsed then
    .next (s.modPwr fun p => { p with brake := .ramping, brakeAt := s.elapsed })
  else .next s

/-- BRAKE_RAMP_FRET: 4/64 less for every fret of the ramp, down to 1×; the first fall is one fret after BRAKE_RELEASE (DESIGN CHOICE, log
entry 153). -/
def execBrakeRampFret (s : State) : Res :=
  if s.pwr.brake = .ramping ∧ s.pwr.brakeAt + subPerFret ≤ s.elapsed then
    .next (s.modPwr fun p => { p with brakeStretch := max 64 (p.brakeStretch - 4), brakeAt := p.brakeAt + subPerFret,
                                      brake := if p.brakeStretch ≤ 68 then .idle else .ramping })
  else .next s

/-! ### The thermal trip (R447) -/

/-- A part reaches its trip point: THERMTRIP_N, core clocks stopped with whatever is in flight, HBM in self-refresh, DOWN on every
port that is up. -/
def State.thermTrip (s : State) (kind unit : Nat) (t : Int) : State :=
  if s.pwr.trip then s
  else
    let s := { s with pins := { s.pins with thermtrip := true } }
    let s := s.modPwr fun p => { p with trip := true, coreClocks := false, selfRefresh := true }
    let s := forEach (s.cores.map (·.1)) s fun c s => s.abandonCore c
    let s := forEach s.upPorts s fun p s => (s.portFail p 0 0 true).modPort p fun x => { x with st := .down }
    s.ledger 0x0A05 3 kind unit none (kind * 2 ^ 24 + unit) (t % (2 ^ 64 : Int)).toNat

/-! ### Throttling (R446, Table 18.2) -/

/-- Event 0x0A04, on entry (1) and exit (0). -/
def State.throttleEvent (s : State) (seen kind unit inOut : Nat) (t : Int) : State :=
  (s.alertSee seen).ledger 0x0A04 0 kind unit none (kind * 2 ^ 24 + unit) inOut (t % (2 ^ 64 : Int)).toNat

/-- A compute die: 4/64 more at its throttle point, up to 4×; 1/64 less below it by 2 °C, down to 1×. -/
def State.throttleDie (s : State) (d : Nat) (t : Int) : State :=
  let old := s.pwr.thermal d
  let new := if 400 ≤ t then min 256 (old + 4) else if t ≤ 392 then max 64 (old - 1) else old
  let s := s.modPwr fun p => { p with dieTemp := tset 0 p.dieTemp d t, thermStretch := tset 0 p.thermStretch d (if new = 64 then 0 else new),
                                      thermDies := setFld p.thermDies d d (if new = 64 then 0 else 1) }
  if old = 64 ∧ new ≠ 64 then s.throttleEvent seenTherm 0x01 d 1 t
  else if old ≠ 64 ∧ new = 64 then s.throttleEvent seenTherm 0x01 d 0 t
  else s

/-- A link die: its limit applies, or is removed. -/
def State.throttleLink (s : State) (l : Nat) (t : Int) : State :=
  let old := bitAt s.pwr.thermLink l
  let new := if 400 ≤ t then true else if t ≤ 392 then false else old
  let s := s.modPwr fun p => { p with dieTemp := tset 0 p.dieTemp (4 + l) t, thermLink := setFld p.thermLink l l (if new then 1 else 0) }
  if old = new then s else s.throttleEvent seenTherm 0x02 l (if new then 1 else 0) t

/-- An optical engine: best-effort flits take at most half the slots of best-effort frets. R446 has every part set THERM_SEEN, and Table 18.5 has OPT_SEEN for
an engine: both are set (log entry 115). -/
def State.throttleOptic (s : State) (e : Nat) (t : Int) : State :=
  let old := (s.port e).throttled
  let new := if 300 ≤ t then true else if t ≤ 292 then false else old
  let s := (s.modPwr fun p => { p with optTemp := tset 0 p.optTemp e t }).modPort e fun x => { x with throttled := new }
  if old = new then s else (s.alertSee seenOpt).throttleEvent seenTherm 0x0A e (if new then 1 else 0) t

/-- The thresholds of the HBM thermal steps (Table 9.8). -/
def stepAt : Nat → Int
  | 1 => 340
  | 2 => 360
  | 3 => 380
  | _ => 400

/-- The step after a reading: it rises when a threshold is reached and falls 2 °C below it. -/
def thermStep (old : Nat) (t : Int) : Nat :=
  let up := (List.range 5).foldl (fun a k => if 1 ≤ k ∧ stepAt k ≤ t then max a k else a) 0
  let keep := (List.range 5).foldl (fun a k => if 1 ≤ k ∧ k ≤ old ∧ stepAt k - 8 < t then max a k else a) 0
  max up keep

/-- A stack's reading (R211, R446): its step and its throttle point of 90 °C. -/
def State.stackSample (s : State) (k : Nat) (t : Int) : State :=
  let x := tget {} s.mem.stks k
  let n := thermStep x.therm t
  let s := s.modStk k fun x => { x with therm := n, temp := t }
  let s := if n = x.therm then s else s.ledger 0x050B 0 0x08 k none k x.therm n
  let s := if x.therm < 2 ∧ 2 ≤ n then s.throttleEvent seenTherm 0x08 k 1 t
    else if 2 ≤ x.therm ∧ n < 2 then s.throttleEvent seenTherm 0x08 k 0 t else s
  if 420 ≤ t then s.thermTrip 0x08 k t else s

/-- HBM_THERMAL_SAMPLE (R211). -/
def execHbmThermalSample (k : StackNo) (t : Int) (s : State) : Res := .next (s.stackSample k t)

/-- THERMAL_SAMPLE (R446, R447): the hottest reading of one part. -/
def execThermalSample (u : ThermUnit) (t : Int) (s : State) : Res :=
  match u with
  | .compute d => .next (if 440 ≤ t then (s.throttleDie d t).thermTrip 0x01 d t else s.throttleDie d t)
  | .link l => .next (if 440 ≤ t then (s.throttleLink l t).thermTrip 0x02 l t else s.throttleLink l t)
  | .stack k => .next (s.stackSample k t)
  | .optic e => .next (if 340 ≤ t then (s.throttleOptic e t).thermTrip 0x0A e t else s.throttleOptic e t)

end Sys2Proof.Machine
end

