-- ==== Sys2Proof/Machine/Plans.lean ====
section
/-! DEFINITION. The slot layer (R259 to R262, R355, R390): what fills a flit slot, fret plans, their exchange, switch and leases. -/

namespace Sys2Proof.Machine

/-! ### Filling a slot (R254, R256, R260, R261) -/

/-- Flit slots of a fret: 1,476 at the nominal 1 µs (R249). -/
def State.fretSlots (s : State) : Nat := s.fretNs * 1476 / 1000

/-- The entry in force for a fret of a port: 0b00 while String time is not LOCKED or HOLDOVER (R262). -/
def State.entryAt (s : State) (p f : Nat) : W16 := if s.onString then tget 0 (s.port p).active.entries (f % 256) else 0

/-- The entry that will be in force `k` frets on: of the plan that is active then, reverted where its lease ends by then (R261, R262, Table 2.4). -/
def State.entryAhead (s : State) (p k : Nat) : W16 :=
  let x := s.port p
  let t := (s.str.time / subPerFret + k) * subPerFret
  let c := s.clockOf t
  let turned : Bool := match x.sw with | some q => q.acked && decide (q.at_ ≤ c) | none => false
  let e := tget 0 (if turned then x.inactive else x.active).entries (fretOf t)
  if !s.onString || (!turned && x.leases.any fun l => entNames e l.flow && decide (l.due ≤ c)) then 0 else e

/-- The guard of a run leaves no slot (R261): GUARD × 10 ns before the end of its last fret. A run that fills the whole String has no end. -/
def State.guarded (s : State) (p : Nat) : Bool :=
  let e := s.entryAt p (fretOf s.str.time)
  match (List.range 256).find? fun k => !entNames (s.entryAhead p (k + 1)) (entFlow e) with
  | some k => decide ((256 * (k + 1) - s.str.time % 256) * s.fretNs ≤ 2560 * fld (s.fabCtl p) 9 0)
  | none => false

/-- What a slot of the port may carry now, by virtual channel (Table 11.8, Table 18.2); for VC 1 only the fret's flow. -/
def State.slotAllows (s : State) (p : Nat) (i : TxItem) : Bool :=
  let x := s.port p
  let e := s.entryAt p (fretOf s.str.time)
  let n := s.fretSlots
  match i.vc with
  | 0 => entMode e == 0 || decide (16 * (x.slots0 + 1) ≤ n)
  | 1 =>
    (match entMode e with
     | 1 => true
     | 2 => decide (64 * (x.slots1 + 1) ≤ entShare e * n)
     | _ => false) && entFlow e == i.flow && !s.guarded p
  | _ =>
    match entMode e with
    | 0 => !x.throttled || decide (2 * (x.slots + 1) ≤ n)
    | 2 => decide (64 * (x.slots + 1) ≤ (64 - entShare e) * n)
    | _ => false

/-- The first item of a virtual channel, with its place. -/
def Port.firstOf (x : Port) (vc flow : Nat) (anyFlow : Bool) : Option (Nat × TxItem) :=
  (x.txq.zipIdx.find? fun e => e.1.vc == vc && (anyFlow || e.1.flow == flow)).map fun e => (e.2, e.1)

/-- The flow of a packet on VC 1 of which only part has been sent: its flits stay contiguous (R263). -/
def Port.openFlow (x : Port) : Option Nat :=
  (((x.txq.filter fun i => i.vc == 1).map (·.flow)).dedup).find? fun f => match x.firstOf 1 f false with
    | some (_, i) => i.cont
    | none => false

/-- The next item of VC 1 in a fret of flow `flow`. -/
def Port.scheduled (x : Port) (flow : Nat) : Option (Nat × TxItem) :=
  match x.openFlow with
  | some f => if f = flow then x.firstOf 1 flow false else none
  | none => x.firstOf 1 flow false

/-- The items that may be sent, in the order of R260: VC 0, the fret's flow, VC 3, VC 2. -/
def State.candidates (s : State) (p : Nat) : List (Nat × TxItem) :=
  let x := s.port p
  let fl := entFlow (s.entryAt p (fretOf s.str.time))
  ([x.firstOf 0 0 true, x.scheduled fl, x.firstOf 3 0 true, x.firstOf 2 0 true].filterMap id).filter fun e => s.slotAllows p e.2

/-- The slot counts of the fret that runs. -/
def State.openFret (s : State) (p : Nat) : State :=
  let f := s.str.time / subPerFret
  if (s.port p).fretNo = f then s else s.modPort p fun x => { x with fretNo := f, slots := 0, slots0 := 0, slots1 := 0 }

/-- The item at place `k` of the queue sent as a new sequenced flit. -/
def State.sendNew (s : State) (p k : Nat) (i : TxItem) : State := (s.modPort p fun x => { x with txq := x.txq.eraseIdx k }).sendFlit p i

/-- An idle flit: ACK and credits; a flit held for credit is counted. -/
def State.sendIdle (s : State) (p : Nat) (held : Bool) : State :=
  let x := s.port p
  let (cv, cn) := x.owing
  let x := { x with owed := tmod 0 x.owed cv (· - cn) }
  let s := s.setPort p (if held then x.count 6 (Config.creditStall s.rnd) else x)
  (if held then s.fresh else s).emitFlit p (mkHdr 2 0 0 ((x.rxSeq + 4095) % 4096) cv cn) (List.replicate 248 0)

/-- FLIT_SLOT_TRANSMIT (R254, R256, R260, R261, R270): a resend first and unchanged, then what the fret plan and credits allow, then
an idle flit. -/
def execFlitSlotTransmit (p : PortNo) (s : State) : Res :=
  if (s.port p).st ≠ .up then .next s
  else
    let s := s.openFret p
    let x := s.port p
    match x.resend with
    | f :: t =>
      let s := s.setPort p { x.count 5 with resend := t, replay := x.replay.map fun g => if g.seq = f.seq then { g with resends := g.resends + 1, at_ := s.elapsed } else g }
      .next (s.emitFlit p f.hdr f.body)
    | [] =>
      if s.flitsStop p then .next (s.sendIdle p false)
      else
        let cs := s.candidates p
        match cs.find? fun e => decide (0 < x.credit e.2.vc) with
        | some (k, i) => .next (s.sendNew p k i)
        | none => .next (s.sendIdle p !cs.isEmpty)

/-! ### Plans from the partner (R252, R262) -/

/-- The inactive plan changed. -/
def Port.setInactive (x : Port) (y : Plan) : Port := { x with plans := x.plans.set (1 - x.activePlan) y }

/-- PLAN_ACK and PLAN_NAK bodies (Table 11.18). -/
def planAnswer (sub ctype tag first why : Nat) : List Byte :=
  [BitVec.ofNat 8 sub, BitVec.ofNat 8 ctype, 0] ++ toBytes 2 tag ++ [BitVec.ofNat 8 first, BitVec.ofNat 8 why]

def Plan.load (x : Plan) (es : List (Nat × W16)) (fs : List (Nat × FlowEnt)) : Plan :=
  { entries := es.foldl (fun t e => tset 0 t e.1 e.2) x.entries, flows := fs.foldl (fun t e => tset none t e.1 (some e.2)) x.flows }

/-- PLAN_ENTRIES: entries of the inactive plan, answered. -/
def execPlanEntries (p : PortNo) (tag : W16) (first count : Byte) (es : List W16) (s : State) : Res :=
  if (s.port p).st ≠ .up then .next s
  else if count.toNat = 0 ∨ 112 < count.toNat ∨ 256 < first.toNat + count.toNat then
    .next (s.queueCtl p 0x07 (planAnswer 2 6 tag.toNat first.toNat 3))
  else
    let l := (List.range count.toNat).map fun k => (first.toNat + k, (es[k]?).getD 0)
    .next ((s.modPort p fun x => x.setInactive (x.inactive.load l [])).queueCtl p 0x07 (planAnswer 1 6 tag.toNat 0 0))

/-- FLOW_ENTRIES: flow-table entries of the inactive plan, answered. -/
def execFlowEntries (p : PortNo) (tag : W16) (first count : Byte) (es : List FlowEnt) (s : State) : Res :=
  if (s.port p).st ≠ .up then .next s
  else if count.toNat = 0 ∨ 29 < count.toNat ∨ 256 < first.toNat + count.toNat then
    .next (s.queueCtl p 0x07 (planAnswer 2 6 tag.toNat first.toNat 3))
  else
    let l := (List.range count.toNat).map fun k => (first.toNat + k, (es[k]?).getD {})
    .next ((s.modPort p fun x => x.setInactive (x.inactive.load [] l)).queueCtl p 0x07 (planAnswer 1 6 tag.toNat 0 0))

/-- Event PLAN_REFUSED. -/
def State.planRefused (s : State) (p fret flow : Nat) (st : Option Nat) : State := s.ledger 0x0302 1 0x0A p st p fret flow

/-- The fret of String time that a switch boundary is. -/
def State.boundaryFret (s : State) (q : SwitchReq) : Nat := fretOf ((q.at_ : Int) + s.str.base).toNat

/-- The port's own plan in progress is withdrawn, with PLAN_REFUSED. -/
def State.ownWithdrawn (s : State) (p : Nat) : State :=
  match (s.port p).sw with
  | some q => if q.own then (s.modPort p fun x => { x with sw := none, planTags := [] }).planRefused p (s.boundaryFret q) 0 none else s
  | none => s

/-- A switch boundary at least 2 frets ahead, at a fret boundary of String time. -/
def State.switchOk (s : State) (at_ : Nat) : Bool := s.onString && decide (s.str.time + 2 * subPerFret ≤ at_)

/-- SWITCH: acknowledged, or refused as malformed or too near. Where it is acknowledged while the W7 changes the plan itself, its own change is
withdrawn, with PLAN_REFUSED (DESIGN CHOICE, log entry 165). -/
def execSwitch (p : PortNo) (tag : W16) (at_ : W64) (s : State) : Res :=
  if (s.port p).st ≠ .up then .next s
  else if fld at_ 7 0 ≠ 0 then .next (s.queueCtl p 0x07 (planAnswer 2 8 tag.toNat 0 3))
  else if ¬ s.switchOk at_.toNat then .next (s.queueCtl p 0x07 (planAnswer 2 8 tag.toNat 0 4))
  else
    .next (((s.ownWithdrawn p).modPort p fun x => { x with sw := some { tag := tag, at_ := s.clockOf at_.toNat, acked := true, own := false } }).queueCtl p 0x07
      (planAnswer 1 8 tag.toNat 0 0))

/-! ### Plans to the partner (R262, R355) -/

/-- Runs of consecutive numbers, at most `n` long: first and values. -/
def runsFrom {α : Type} (n : Nat) : List (Nat × α) → List (Nat × List α)
  | [] => []
  | (k, v) :: t =>
    match runsFrom n t with
    | (k', vs) :: r => if k' = k + 1 ∧ vs.length < n then (k, v :: vs) :: r else (k, [v]) :: (k', vs) :: r
    | [] => [(k, [v])]

/-- The bodies of PLAN messages (Table 11.18). -/
def planMsg (sub tag first count : Nat) (data : List Byte) : List Byte :=
  [BitVec.ofNat 8 sub] ++ toBytes 2 tag ++ [BitVec.ofNat 8 first, BitVec.ofNat 8 count, 0, 0] ++ data

def flowBytes (f : FlowEnt) : List Byte :=
  toBytes 4 (f.dst.toNat + f.stall.toNat * 2 ^ 20) ++ toBytes 2 f.coll.toNat ++ [0, 0]

/-- The flow of an entry, if it is a scheduled one. -/
def Plan.flowOf (x : Plan) (e : W16) : Option FlowEnt :=
  if entMode e = 1 ∨ entMode e = 2 then tget none x.flows (entFlow e) else none

/-- The first entry of a plan beyond the PLAN_SHARE of its stall (R355). -/
def State.planOver (s : State) (x : Plan) : Option (Nat × W16 × Nat) :=
  let rec go (used : Tbl Nat) : List (Nat × W16) → Option (Nat × W16 × Nat)
    | [] => none
    | (f, e) :: t =>
      match x.flowOf e with
      | some fl =>
        let st := fl.stall.toNat
        if st ≠ 0 ∧ (s.stall st).planShare < tget 0 used st + 1 then some (f, e, st)
        else go (tmod 0 used st (· + 1)) t
      | none => go used t
  go [] x.entries

/-- Message SWITCH goes out where its boundary is still 2 frets ahead; else the switch is withdrawn. -/
def State.sendSwitch (s : State) (p : Nat) (q : SwitchReq) : State :=
  if q.at_ < s.clock + 2 * subPerFret then (s.modPort p fun x => { x with sw := none }).planRefused p (s.boundaryFret q) 0 none
  else
    (s.modPort p fun x => { x with sw := some { q with sent := true } }).queueCtl p 0x08
      ([0, 0, 0] ++ toBytes 2 q.tag.toNat ++ List.replicate 6 0 ++ toBytes 8 ((q.at_ : Int) + s.str.base).toNat)

/-- PLAN_SEND: the inactive plan takes entries `es` and flows `fs` and goes to the partner, with SWITCH at `at_` to follow. A boundary less than 2 frets
ahead, or any while String time does not run (R40), is refused. -/
def execPlanSend (p : PortNo) (tag : W16) (es : List (Nat × W16)) (fs : List (Nat × FlowEnt)) (at_ : W64) (s : State) : Res :=
  let x := s.port p
  if x.st ≠ .up ∨ x.sw.isSome ∨ fld at_ 7 0 ≠ 0 then .next s
  else if ¬ s.switchOk at_.toNat then .next (s.planRefused p (fretOf at_.toNat) 0 none)
  else
    let y := x.inactive.load es fs
    match s.planOver y with
    | some (f, e, st) => .next (s.planRefused p f (entFlow e) (some st))
    | none =>
      let em := (runsFrom 112 es).map fun r => (1, r.1, r.2.length, r.2.flatMap fun e => toBytes 2 e.toNat)
      let fm := (runsFrom 29 fs).map fun r => (2, r.1, r.2.length, r.2.flatMap flowBytes)
      let ms := (em ++ fm).zipIdx
      let s := s.setPort p { (x.setInactive y) with
        sw := some { tag := tag, at_ := s.clockOf at_.toNat, sent := false },
        planTags := ms.map fun m => ((tag.toNat + 1 + m.2) % 65536, m.1.1 == 2) }
      let s := forEach ms s fun m s => s.queueCtl p 0x06 (planMsg m.1.1 ((tag.toNat + 1 + m.2) % 65536) m.1.2.1 m.1.2.2.1 m.1.2.2.2)
      match (s.port p).sw with
      | some q => .next (if ms.isEmpty then s.sendSwitch p q else s)
      | none => .next s

/-- PLAN_ACK: the last PLAN answered sends SWITCH; an answer to SWITCH at least 1 fret before its boundary
confirms it. -/
def execPlanAck (p : PortNo) (ctype : Byte) (tag : W16) (s : State) : Res :=
  let x := s.port p
  match x.sw with
  | some q =>
    if ¬ q.own then .next s
    else if ctype = 0x06 ∧ (x.planTags.any fun t => t.1 == tag.toNat) then
      let l := x.planTags.filter fun t => t.1 != tag.toNat
      let s := s.setPort p { x with planTags := l }
      .next (if l.isEmpty then s.sendSwitch p q else s)
    else if ctype = 0x08 ∧ q.sent ∧ q.tag = tag ∧ s.clock + subPerFret ≤ q.at_ then .next (s.setPort p { x with sw := some { q with acked := true } })
    else .next s
  | none => .next s

/-- PLAN_NAK: the switch is withdrawn, with PLAN_REFUSED. -/
def execPlanNak (p : PortNo) (ctype : Byte) (tag : W16) (first why : Byte) (s : State) : Res :=
  let x := s.port p
  let _ := why
  match x.sw with
  | some q =>
    let mine := x.planTags.find? fun t => t.1 == tag.toNat
    let s' := s.setPort p { x with sw := none, planTags := [] }
    if ¬ q.own then .next s
    else match mine with
      | some (_, flow) =>
        if ctype = 0x06 then .next (s'.planRefused p (if flow then 0 else first.toNat) (if flow then first.toNat else 0) none) else .next s
      | none => if ctype = 0x08 ∧ q.sent ∧ q.tag = tag then .next (s'.planRefused p (s.boundaryFret q) 0 none) else .next s
  | none => .next s

/-- SWITCH_WITHDRAW: not acknowledged 1 fret before its boundary. -/
def execSwitchWithdraw (p : PortNo) (s : State) : Res :=
  match (s.port p).sw with
  | some q =>
    if q.own ∧ ¬ q.acked ∧ q.at_ ≤ s.clock + subPerFret then
      .next ((s.modPort p fun x => { x with sw := none, planTags := [] }).planRefused p (s.boundaryFret q) 0 none)
    else .next s
  | none => .next s

/-! ### The switch and the leases (R262, R286, R390) -/

/-- When a flow's entries expire (Table 15.8): the DEADLINE fret of its collective, or 65,536 frets from now before it dispatches. -/
def State.flowDue (s : State) (f : FlowEnt) : Nat :=
  match s.coll? f.stall.toNat f.coll.toNat with
  | some c => c.deadline
  | none => s.clock + 65536 * subPerFret

/-- PLAN_SWITCH: at the boundary the inactive plan becomes active; a switch that nobody acknowledged is withdrawn. A sending collective whose route loses its entry ends with
PLAN_REFUSED. -/
def execPlanSwitch (p : PortNo) (s : State) : Res :=
  let x := s.port p
  match x.sw with
  | some q =>
    if ¬ s.gridOk 3 ∨ s.clock < q.at_ then .next s
    else if ¬ q.acked then .next ((s.setPort p { x with sw := none, planTags := [] }).planRefused p (s.boundaryFret q) 0 none)
    else if ¬ s.onString then .next (s.setPort p { x with sw := none, planTags := [] })
    else
      let y := { x with activePlan := 1 - x.activePlan, sw := none, planTags := [] }
      let ls := y.active.flows.filterMap fun e => e.2.map fun f => ({ flow := e.1, due := s.flowDue f } : FlowLease)
      let s := s.setPort p { y with leases := ls }
      .next (s.collsEnd (fun c => c.ph == .sending && c.routes.any fun r => r.2.1 == p.val && !s.routeHeld c r) stPlanRefused)
  | none => .next s

/-- PLAN_ENTRY_LEASE_EXPIRY (Table 15.8, kind 2). -/
def execPlanEntryLeaseExpiry (p : PortNo) (flow : Byte) (s : State) : Res :=
  let x := s.port p
  if s.gridOk 1 && x.leases.any (fun l => l.flow == flow.toNat && decide (l.due ≤ s.clock)) then
    let y := x.active
    let (st, coll) := match tget none y.flows flow.toNat with | some f => (f.stall.toNat, f.coll.toNat) | none => (0, 0)
    let used := y.entries.find? fun e => entNames e.2 flow.toNat
    let s := s.setPort p { x with plans := x.plans.set x.activePlan (y.free flow.toNat), leases := x.leases.filter fun l => l.flow != flow.toNat }
    match used with
    | some (f, _) => .next (s.ledger 0x0701 0 0x0A p (some st) 2 (st + coll * 65536) (p.val * 256 + f))
    | none => .next s
  else .next s

end Sys2Proof.Machine
end

