-- ==== Sys2Proof/Machine/Resets.lean ====
section
/-! DEFINITION. Resets of stalls, functions and host ports (R338, R343, R366, R419, R457, R472), the move of a TDI to CONFIG_UNLOCKED
(R438), and the host ports and VFs (R306 to R308). -/

namespace Sys2Proof.Machine

/-! ### Stall reset (R366, Table 14.9) -/

/-- A context of a stall under reset is gone: a fault that waited for its stop still has its entry (Table 15.7), no record is written. -/
def State.ctxReset (s : State) (n : Nat) (x : Ctx) : State :=
  let s := s.abortCtxColls n 0x20
  let s := match x.fault with
    | some f => s.faultEntry x f
    | none => s
  s.ctxFinish n x 0x20

/-- The rings of a stall that are not FREE. -/
def State.ringsOf (s : State) (st : Nat) : List Nat := (s.rings.filter fun e => e.2.st != .free && e.2.stall == st).map (·.1)

/-- The contexts of a stall, field tests apart. -/
def State.ctxsOf (s : State) (st : Nat) : List (Nat × Ctx) :=
  s.ctxs.filterMap fun e => match e.2 with
    | some x => if x.stall = st ∧ x.kind ≠ .test then some (e.1, x) else none
    | none => none

/-- What RESETTING ends: rings, contexts, collectives with LEAVE, reservations, the update, regions without add-back (their contents are undefined),
the commit hold, pipelines, taint and epochs (R366, R377, R379). Plan entries of the stall's flows revert at the next fret boundary. -/
def State.stallStop (s : State) (st : Nat) : State :=
  let s := s.modStall st fun x => { x with st := .resetting }
  let s := forEach (s.ringsOf st) s fun r s => s.freeRing r
  let s := forEach (s.ctxsOf st) s fun e s => s.ctxReset e.1 e.2
  let s := s.collsEnd (fun c => c.stall == st) 0x20
  let s := { s with colls := s.colls.filter fun c => c.stall != st, passDue := s.passDue.filter fun c => c.stall != st }
  let s := s.dropStores fun st' _ _ => st' == st
  let (s, p) := s.updMark st
  let s := forEach (s.stall st).regions s fun g s => s.undefRegion st g
  let s := s.modStall st fun x =>
    { x with qHold := false, upd := none, partial_ := x.partial_ || p, regions := [], pipes := [], tainted := false, failedEps := [], epoch := 1, lbHeld := 0,
             plansDue := some s.nextFret,
             steps := x.steps.map fun q => { q with epochs := [] } }
  let s := { s with mem := { s.mem with held := s.mem.held.filter fun h => h.who != Reader.engine st } }
  s.releaseHold st

/-- The reset of a stall ends: ACTIVE, its rings FREE. -/
def State.stallUp (s : State) (st : Nat) : State :=
  let s := forEach (s.ringsOf st) s fun r s => s.freeRing r
  let s := s.plansRevert st
  let s := if (s.stall st).resetCmd then { s with stl := { s.stl with busy := false, result := 0 } } else s
  s.modStall st fun x => { x with st := .active, resetCmd := false }

/-- STALL_RESET_DONE. A reset on the way to CONFIG_UNLOCKED ends with that move. -/
def execStallResetDone (st : StallNo) (s : State) : Res :=
  if (s.stall st).st = .resetting ∧ ¬ (s.fn (s.stall st).func).tdiBusy then .next (s.stallUp st) else .next s

/-! ### TDI states (R438, Table 17.5) -/

/-- The blocks that a stall owns. -/
def State.blocksOf (s : State) (st : Nat) : List Nat := (s.mem.owner.filter fun e => fld e.2 11 0 == st).map (·.1)

/-- A new memory key (R350): keys are told apart by number and never come again. -/
def State.newKey (s : State) (st : Nat) : State :=
  { s.modStall st fun x => { x with memKey := s.nextKey } with nextKey := s.nextKey + 1 }

/-- The lines of a stall leave every slice without write-back (R217, R218). -/
def State.dropStallLines (s : State) (st : Nat) : State := forEach (s.blocksOf st) s fun b s => s.dropLines (32 * b) 32

/-- The move to CONFIG_UNLOCKED begins: every stall of the VF is reset, and rekeyed after its lines are invalidated. -/
def State.tdiUnlock (s : State) (f : Nat) : State :=
  if (s.fn f).tdiBusy then s
  else forEach (s.stallsOf f) (s.modFn f fun x => { x with tdiBusy := true }) fun st s => ((s.stallStop st).dropStallLines st).newKey st

/-- TDI_UNLOCK_DONE: every block is written with zeros under the new key, the table records are released. -/
def execTdiUnlockDone (f : FnNo) (s : State) : Res :=
  if (s.fn f).tdiBusy then
    let s := forEach (s.stallsOf f) s fun st s => (forEach (s.blocksOf st) s fun b s => s.zeroBlock b).stallUp st
    .next (s.modFn f fun x => { x with tdi := .unlocked, tdiBusy := false, tdiBlocks := [], tdiStream := 0 })
  else .next s

/-- A TDI enters ERROR (event 0x0B07): the rings of its stalls enter CANCELLING. -/
def State.tdiError (s : State) (f cause : Nat) : State :=
  if (s.fn f).tdi = .unlocked ∨ (s.fn f).tdi = .error then s
  else
    let s := (s.modFn f fun x => { x with tdi := .error }).ledger 0x0B07 2 0x0F f none f cause
    forEach ((s.stallsOf f).flatMap s.ringsOf) s fun r s => s.ringCancel r (match (s.ring r).ds with
      | d :: _ => d.num
      | [] => (s.ring r).next)

/-! ### Functions and host ports (R338, R419, R457) -/

/-- Registers of scope function return to their reset values; quota and TDI state stay. -/
def State.fnRegsReset (s : State) (f : Nat) : State :=
  s.modFn f fun x =>
    { quotaBase := x.quotaBase, quotaCount := x.quotaCount, tdi := x.tdi, tdiStream := x.tdiStream, tdiBusy := x.tdiBusy,
      tdiBlocks := x.tdiBlocks, insecure := x.insecure }

/-- From the start of its reset a function gets no interrupt and no ledger entry (R338), the operator function none of the operator ledger (R419). -/
def State.fnMute (s : State) (f : Nat) : State :=
  let s := s.modFn f fun x => { x with msix := [], led := { x.led with ctl := setFld x.led.ctl 31 31 0 } }
  if s.isOper f then { s with led := { s.led with op := { s.led.op with ctl := setFld s.led.op.ctl 31 31 0, firstDone := false } } } else s

/-- The reset of one function (R338): its rings are destroyed, the stalls bound to it reset; a TDI moves to CONFIG_UNLOCKED. -/
def State.fnReset (s : State) (f : Nat) : State :=
  let s := s.fnMute f
  let s := forEach ((s.rings.filter fun e => e.2.st != .free && e.2.func == f).map (·.1)) s fun r s => s.freeRing r
  let s := if (s.fn f).tdi ≠ .unlocked then s.tdiUnlock f
    else forEach (s.stallsOf f) s fun st s => if (s.stall st).st = .active then s.stallStop st else s
  s.fnRegsReset f

/-- The functions of a host port that are enabled. -/
def State.portFns (s : State) (p : Nat) : List Nat := (List.range (tget 0 s.hosts.vfs p + 1)).map fun v => p * 1024 + v

/-- Every function of a host port is reset; its VFs are disabled. -/
def State.portReset (s : State) (p : Nat) : State :=
  let s := forEach (s.portFns p) s fun f s => s.fnReset f
  { s with hosts := { s.hosts with vfs := tset 0 s.hosts.vfs p 0 } }

/-- FLR (R338): a PF takes its VFs with it. -/
def execFlr (f : FnNo) (s : State) : Res :=
  .next (s.cfgAccess f fun s => if ¬ s.fnReady f then s else if f.val % 1024 = 0 then s.portReset (f.val / 1024) else s.fnReset f)

def setBit4 (v : BitVec 4) (i : Nat) (b : Bool) : BitVec 4 := setFld v i i b.toNat

/-- Host port `p` leaves L0. -/
def State.portDown (s : State) (p : Nat) : State :=
  ({ s with hosts := { s.hosts with l0 := setBit4 s.hosts.l0 p false } }).portReset p

/-- Host port `p` may train: it is provided, powered and out of reset (R306, R417, R472). -/
def State.portTrains (s : State) (p : Nat) : Bool :=
  s.pins.pwrok && !s.tun.noHost && (bifPorts s.tun.live).contains p && !s.pins.perst.toNat.testBit p

/-- PERST: PERSTp_N falls. While PWROK is low it resets nothing, and the level is what counts as PWROK rises (R417). -/
def execPerst (p : HostPortNo) (s : State) : Res :=
  if s.pins.perst.toNat.testBit p then .next s
  else
    let s := { s with pins := { s.pins with perst := setBit4 s.pins.perst p true } }
    .next (if s.pins.pwrok then (s.portDown p).drive (.link p false) else s)

/-- PERST_DEASSERT: the host-port reset ends and the port begins link training. -/
def execPerstDeassert (p : HostPortNo) (s : State) : Res :=
  if ¬ s.pins.perst.toNat.testBit p then .next s
  else
    let s := { s with pins := { s.pins with perst := setBit4 s.pins.perst p false } }
    .next (if s.portTrains p then s.drive (.link p true) else s)

/-- HOST_PORT_LEAVES_L0 (R338, event 0x0105): without a requested transition. -/
def execHostPortLeavesL0 (p : HostPortNo) (ltssm : W64) (s : State) : Res :=
  if ¬ s.hosts.l0.toNat.testBit p then .next s
  else .next ((s.ledger 0x0105 2 0x0B p none ltssm.toNat).portDown p)

/-- HOST_PORT_REACHES_L0: training ends in L0, or the partner has no Flit mode (Table 13.2). -/
def execHostPortReachesL0 (p : HostPortNo) (flitMode : Bool) (ltssm : W64) (s : State) : Res :=
  if ¬ s.portTrains p ∨ s.hosts.l0.toNat.testBit p then .next s
  else if flitMode then .next { s with hosts := { s.hosts with l0 := setBit4 s.hosts.l0 p true } }
  else .next (s.ledger 0x0105 2 0x0B p none ltssm.toNat)

/-- TotalVFs of a host port's PF. -/
def vfTotal (r : TunRegs) (p : Nat) : Nat := fld (tget 0 r.vfTotal p) 9 0

/-- VF_ENABLE (R307): a VF that is disabled is reset. -/
def execVfEnable (p : HostPortNo) (n : BitVec 10) (s : State) : Res :=
  .next (s.cfgAccess (p.val * 1024) fun s =>
    if ¬ s.fnReady (p.val * 1024) ∨ vfTotal s.tun.live p < n.toNat then s
    else
      let old := tget 0 s.hosts.vfs p
      let s := forEach (((List.range (old + 1)).filter fun v => decide (n.toNat < v)).map fun v => p.val * 1024 + v) s fun f s => s.fnReset f
      { s with hosts := { s.hosts with vfs := tset 0 s.hosts.vfs p n.toNat } })

/-- ATS_INVALIDATE (R308): the model keeps no translated host address, so the invalidation completes at once. -/
def execAtsInvalidate (f : FnNo) (itag : Byte) (s : State) : Res :=
  if s.regOk f then .next (s.drive (.cfgDone f itag.toNat)) else .next s

end Sys2Proof.Machine
end

