-- ==== Sys2Proof/Machine/Stalls.lean ====
section
/-! DEFINITION. STL_CMD and STL_FN_CMD (R340 to R355, R362, R363, R366 to R369): creating, resetting and destroying stalls, memory
ownership, shares, quotas, sharing and golden sources. -/

namespace Sys2Proof.Machine

def slOk : Nat := 0
def slBadStall : Nat := 1
def slBadState : Nat := 2
def slBadArg : Nat := 3
def slNoSpace : Nat := 4
def slDenied : Nat := 5

/-- STL_CMD's operation ends with a result. -/
def State.stlResult (s : State) (res : Nat) : State := { s with stl := { s.stl with busy := false, result := res } }

/-- A write of STL_CMD with operation `op` by the operator function; one that comes while BUSY is dropped (R341). -/
def State.stlOp (s : State) (f : Nat) (v : W32) (op : Nat) (go : State → Nat → State) : State :=
  if ¬ s.regOk f ∨ ¬ s.isOper f ∨ s.stl.busy ∨ fld v 27 24 ≠ op then s
  else go { s with stl := { s.stl with arg := fld v 11 0 } } (fld v 11 0)

/-- A word of the argument record. -/
def State.stlW (s : State) (k : Nat) : W64 := (s.stlCtx[k]?).getD 0

/-- The bound function is a TDI that has left CONFIG_UNLOCKED (R343, Table 17.5). -/
def State.tdiHolds (s : State) (st : Nat) : Bool := (s.fn (s.stall st).func).tdi != .unlocked

/-- An operation that stall 0 and a TDI's stalls are denied and that needs an ACTIVE stall. -/
def State.stlActive (s : State) (f : Nat) (v : W32) (op : Nat) (go : State → Nat → State) : State :=
  s.stlOp f v op fun s st =>
    if st = 0 ∨ s.tdiHolds st then s.stlResult slDenied
    else if (s.stall st).st ≠ .active then s.stlResult slBadState
    else go s st

/-! ### CREATE, RESET, DESTROY (R342, R350, R351, R366, R367) -/

/-- FUNC of Table 14.1. -/
def State.ctxFunc (s : State) : Nat := fld (s.stlW 5) 11 0

/-- CORE_MASK of Table 14.1. -/
def State.ctxMask (s : State) : BitVec 192 := s.stlW 4 ++ s.stlW 3 ++ s.stlW 2

/-- Shares of an argument record within their ranges. -/
def State.shareOk (s : State) : Bool :=
  let w := s.stlW 5
  decide (1 ≤ fld w 23 16) && decide (1 ≤ fld w 31 24) && decide (fld w 31 24 ≤ 192) && decide (1 ≤ fld w 47 32) && decide (fld w 63 48 ≤ 1536)

/-- The blocks of `n` × 4 KiB from a DPA are mapped, and each meets a test. -/
def State.blocksAll (s : State) (base n : Nat) (t : State → Nat → Bool) : Bool :=
  decide (base + 4096 * n ≤ 2 ^ 41) && (List.range n).all fun i => s.dpaMapped (base + 4096 * i) && t s (base / 4096 + i)

/-- The fields of a stall context keep Table 14.1. -/
def State.stallCtxOk (s : State) : Bool :=
  let w5 := s.stlW 5
  let w6 := s.stlW 6
  fld (s.stlW 0) 63 41 == 0 && fld (s.stlW 0) 11 0 == 0 && fld (s.stlW 1) 63 41 == 0 && fld (s.stlW 1) 21 0 == 0 && s.ctxMask != 0 &&
    fld w5 15 12 == 0 && decide (fld w5 9 0 ≤ 1020) && s.shareOk && fld w6 15 11 == 0 && fld w6 63 16 == 0 && fld (s.stlW 7) 7 0 == 0 &&
    s.fnEnabled s.ctxFunc &&
    s.blocksAll (s.stlW 1).toNat (1024 * popCount 192 s.ctxMask.toNat) fun s b => s.owner b == 0

/-- LB_SHARE of every stall but one, in bytes (R354). -/
def State.sharesBut (s : State) (st : Nat) : Nat :=
  ((s.stalls.filter fun e => e.1 != st && e.2.st != .free).map fun e => 0x40000 * (match e.2.newShare with
    | some n => n.lbShare
    | none => e.2.lbShare)).sum

/-- The new LB_SHARE of a stall fits the collective staging total. -/
def State.shareFits (s : State) (st : Nat) : Bool :=
  decide (s.sharesBut st + 0x40000 * fld (s.stlW 5) 63 48 ≤ stagingTotal s.tun.live)

/-- used[s] of the least used other ACTIVE stall (R357). -/
def State.leastUsed (s : State) (st : Nat) : Nat :=
  match (s.stalls.filter fun e => e.1 != st && e.2.st == .active).map fun e => e.2.used with
  | [] => 0
  | a :: t => t.foldl min a

/-- The Q fields that a new stall takes: the new tuning's while a change is MIXED (R410). -/
def State.qNow (s : State) : TunRegs :=
  match s.tun.change with
  | some c => if c.ph = .mixed then c.new else s.tun.live
  | none => s.tun.live

/-- The save region's blocks, given to the stall and written with zeros under its key. -/
def State.giveBlocks (s : State) (st base n : Nat) : State :=
  forEach ((List.range n).map fun i => base / 4096 + i) s fun b s => (s.setOwner b (BitVec.ofNat 16 st)).zeroBlock b

/-- A block of a range is recorded by a locked TDI, whose tables take no write (R438): an operation that would write it with zeros ends DENIED and
changes nothing (DESIGN CHOICE, log entry 169). -/
def State.recordedIn (s : State) (base n : Nat) : Bool :=
  s.fns.any fun e => e.2.tdiBlocks.any fun b => decide (base / 4096 ≤ b) && decide (b < base / 4096 + n)

/-- The stall that the argument record describes. -/
def State.newStall (s : State) (st : Nat) : Stall :=
  let w5 := s.stlW 5
  let w6 := s.stlW 6
  let q := s.qNow
  { st := .active, ptRoot := (s.stlW 0).toNat, saveBase := (s.stlW 1).toNat, coreMask := s.ctxMask, func := s.ctxFunc,
    weight := fld w5 23 16, maxCtx := fld w5 31 24, quantum := fld w5 47 32, lbShare := fld w5 63 48, planShare := fld w6 7 0,
    near := fld w6 10 8, winTable := (s.stlW 7).toNat, rkey := Config.random s.rnd, used := s.leastUsed st, qTimer := q.timer,
    qCheck := q.mtxCheck, qCheckNew := q.mtxCheck, qDone := s.tunState != 1, closeDue := s.closeAfter q.mtxCheck s.str.time, fraction := s.fractionSet st q.mtxCheck }

/-- STALL_CREATE (R342): keys, the zeroed save region, tallies 0; ACTIVE. -/
def execStallCreate (f : FnNo) (v : W32) (s : State) : Res :=
  .next (s.stlOp f v 1 fun s st =>
    if st = 0 ∨ ¬ s.tun.sealed_ ∨ s.sec.debug = 2 then s.stlResult slDenied
    else if (s.stall st).st ≠ .free then s.stlResult slBadState
    else if ¬ s.stallCtxOk then s.stlResult slBadArg
    else if ¬ s.shareFits st then s.stlResult slNoSpace
    else if s.recordedIn (s.stlW 1).toNat (1024 * popCount 192 s.ctxMask.toNat) then s.stlResult slDenied
    else
      let base := (s.stlW 1).toNat
      let n := 1024 * popCount 192 s.ctxMask.toNat
      (((s.setStall st (s.newStall st)).fresh.newKey st).giveBlocks st base n).stlResult slOk)

/-- An operator's RESET or DESTROY of a stall of a locked or running TDI puts the TDI into ERROR (Table 17.5). -/
def State.stlTdi (s : State) (st : Nat) : State := if s.tdiHolds st then s.tdiError (s.stall st).func 1 else s

/-- STALL_RESET (R366): BUSY until the reset ends. -/
def execStallReset (f : FnNo) (v : W32) (s : State) : Res :=
  .next (s.stlOp f v 2 fun s st =>
    if st = 0 then s.stlResult slDenied
    else if (s.stall st).st ≠ .active then s.stlResult slBadState
    else
      let s := ((s.stlTdi st).stallStop st).modStall st fun x => { x with resetCmd := true, used := s.leastUsed st }
      { s with stl := { s.stl with busy := true } })

/-- STALL_DESTROY (R367): the reset, then the key is erased, the stall's lines leave the slices without write-back and its blocks return to
stall 0. -/
def execStallDestroy (f : FnNo) (v : W32) (s : State) : Res :=
  .next (s.stlOp f v 3 fun s st =>
    if st = 0 then s.stlResult slDenied
    else if (s.stall st).st ≠ .active ∨ (s.blocksOf st).any s.shared then s.stlResult slBadState
    else
      let s := ((s.stlTdi st).stallStop st).plansRevert st
      let s := forEach (s.blocksOf st) s fun b s => s.dropLines (32 * b) 32
      let s := { s with mem := { s.mem with owner := tmapv 0 (fun _ e => if fld e 11 0 = st then 0 else e) s.mem.owner } }
      let s := { s with mtxShadow := tmod 0 s.mtxShadow (st / 8) fun w => setFld w (4 * (st % 8) + 3) (4 * (st % 8)) 0 }
      (s.setStall st {}).stlResult slOk)

/-! ### ASSIGN, INVAL, SET_SHARE, FN_QUOTA (R344, R348, R352, R354) -/

/-- The block range of an argument record: DPA base and count. -/
def State.argBase (s : State) : Nat := (s.stlW 0).toNat
def State.argCount (s : State) : Nat := (s.stlW 1).toNat

/-- A range of blocks is aligned and each block meets a test. -/
def State.argBlocks (s : State) (t : State → Nat → Bool) : Bool := s.argBase % 4096 == 0 && s.blocksAll s.argBase s.argCount t

/-- ASSIGN: blocks of stall 0 outside the reserved area, zeroed under the stall's key. -/
def execAssign (f : FnNo) (v : W32) (s : State) : Res :=
  .next (s.stlActive f v 4 fun s st =>
    if ¬ s.argBlocks (fun s b => s.owner b == 0 && !s.dpaReserved (4096 * b)) then s.stlResult slBadArg
    else if s.recordedIn s.argBase s.argCount then s.stlResult slDenied
    else (s.giveBlocks st s.argBase s.argCount).stlResult slOk)

/-- INVAL (R348): the model translates every access afresh, so no cached translation remains; it is in progress while a load of the range is in
flight. -/
def execInval (f : FnNo) (v : W32) (s : State) : Res :=
  .next (s.stlActive f v 5 fun s st => ({ s with stlInval := some (st, s.argBase, s.argCount), stl := { s.stl with busy := true } }).invalEnd)

/-- SET_SHARE: effective at the next fret boundary. -/
def execSetShare (f : FnNo) (v : W32) (s : State) : Res :=
  .next (s.stlActive f v 6 fun s st =>
    let w := s.stlW 5
    if ¬ s.shareOk then s.stlResult slBadArg
    else if ¬ s.shareFits st then s.stlResult slNoSpace
    else
      let n : NewShare := { weight := fld w 23 16, maxCtx := fld w 31 24, quantum := fld w 47 32, lbShare := fld w 63 48,
                            planShare := fld (s.stlW 6) 7 0, due := s.nextFret }
      (s.modStall st fun x => { x with newShare := some n }).stlResult slOk)

/-- Two ranges of rings overlap. -/
def quotaHits (a n b m : Nat) : Bool := decide (max a b < min (a + n) (b + m))

/-- FN_QUOTA (R352): STALL is ignored. -/
def execFnQuota (f : FnNo) (v : W32) (s : State) : Res :=
  .next (s.stlOp f v 9 fun s _ =>
    let w := s.stlW 0
    let n := fld w 63 32
    let base := fld w 31 16
    let g := fld w 11 0
    if s.rings.any fun e => e.2.st != .free && e.2.func == g then s.stlResult slBadState
    else if 65536 < base + n ∨ (s.fns.any fun e => e.1 != g && quotaHits base n e.2.quotaBase e.2.quotaCount) then s.stlResult slBadArg
    else (s.modFn g fun x => { x with quotaBase := base, quotaCount := n }).stlResult slOk)

/-! ### SHARE and UNSHARE (R362) -/

/-- Bits of an owner table entry (Table 9.2) set or cleared on blocks. -/
def State.markBlocks (s : State) (bs : List Nat) (bit : Nat) (on : Bool) : State :=
  forEach bs s fun b s => s.setOwner b (setFld (s.ownerEnt b) bit bit on.toNat)

def State.argRange (s : State) : List Nat := (List.range s.argCount).map fun i => s.argBase / 4096 + i

/-- SHARE: every block must be the stall's and OFFERED. -/
def execShare (f : FnNo) (v : W32) (s : State) : Res :=
  .next (s.stlActive f v 7 fun s st =>
    if ¬ s.argBlocks (fun s b => s.owner b == st && s.offered b) then s.stlResult slBadArg
    else (s.markBlocks s.argRange 12 true).stlResult slOk)

/-- A golden registration ends: GOLDEN is cleared on its blocks. -/
def State.goldenEnd (s : State) (st : Nat) (g : Golden) : State :=
  (s.modStall st fun x => { x with golden := x.golden.filter (· ≠ g) }).markBlocks g.blocks 13 false

/-- UNSHARE: SHARED and GOLDEN are cleared, and every golden registration that overlaps the range ends. -/
def execUnshare (f : FnNo) (v : W32) (s : State) : Res :=
  .next (s.stlActive f v 8 fun s st =>
    if ¬ s.argBlocks (fun s b => s.owner b == st) then s.stlResult slBadArg
    else
      let bs := s.argRange
      let s := (s.markBlocks bs 12 false).markBlocks bs 13 false
      (forEach ((s.stall st).golden.filter fun g => anyIn g.blocks bs) s fun g s => s.goldenEnd st g).stlResult slOk)

/-! ### STL_FN_CMD (R351, R362, R363, R369) -/

/-- STL_FN_CMD's operation ends with a result. -/
def State.stlFnResult (s : State) (f res : Nat) : State := s.modFn f fun x => { x with stl := { x.stl with busy := false, result := res } }

/-- The operation of STL_FN_CMD that waited for a held read can go on: the read is held no more (R207). -/
def State.stlResumes (s : State) (f op : Nat) : Bool :=
  (s.fn f).stlHeld == some op && !s.mem.held.any fun h => h.who == .fn f

/-- A write of STL_FN_CMD with operation `op`, or the operation in progress going on after a refill (log entry 164): STALL must be bound to the
function. -/
def State.stlFnOp (s : State) (f : Nat) (v : W32) (op : Nat) (go : State → Nat → State) : State :=
  if ¬ s.regOk f ∨ ((s.fn f).stl.busy ∧ ¬ s.stlResumes f op) ∨ fld v 27 24 ≠ op then s
  else
    let st := if (s.fn f).stl.busy then (s.fn f).stl.arg else fld v 11 0
    let s := s.modFn f fun x => { x with stl := { x.stl with arg := st }, stlHeld := none }
    if (s.stall st).st = .free ∨ (s.stall st).func ≠ f then s.stlFnResult f slBadStall else go s st

/-- SET_RKEY: it applies from the next dispatch (R65). -/
def execSetRkey (f : FnNo) (v : W32) (s : State) : Res :=
  .next (s.stlFnOp f v 1 fun s st => (s.modStall st fun x => { x with rkey := (s.fn f).stlArg }).stlFnResult f slOk)

/-- The blocks that a range of a stall's addresses translates to, where it translates wholly to blocks of the stall. -/
def State.ownBlocks (s : State) (st base n : Nat) : Option (List Nat) :=
  if 2 ^ 57 < base + 4096 * n then none
  else (List.range n).mapM fun i => match s.xlate st (base + 4096 * i) .read with
    | .ok (a, _) => if s.owner (a / 4096) = st then some (a / 4096) else none
    | .error _ => none

/-- Operation `op` with its record of `n` bytes at the canonical address in STL_FN_ARG0: a record that cannot be read is BAD_ARG, a poisoned one has
its entry (R205), and one in a GOLDEN block is waited for (R207). -/
def State.fnRecord (s : State) (f st op n : Nat) (go : State → List Byte → State) : State :=
  match devAddr (s.fn f).stlArg.toNat with
  | .ok a => match s.rdDva st a n with
    | .ok bs => go (s.didRead st a n) bs
    | .error m => match s.holdFor (.fn f) m with
      | some s => s.modFn f fun x => { x with stl := { x.stl with busy := true }, stlHeld := some op }
      | none => (s.noteErr 0x0F f st 0 m).stlFnResult f slBadArg
  | .error _ => s.stlFnResult f slBadArg

/-- The fields of a golden record keep Table 14.7. -/
def goldenOk (b : List Byte) : Bool :=
  let kind := recFld b 0x10 1
  let pasid := recFld b 0x14 4
  recFld b 0 8 % 4096 == 0 && recFld b 8 8 % 4096 == 0 && decide (4096 ≤ recFld b 8 8) && (kind == 1 || kind == 2) && recFld b 0x11 3 == 0 &&
    (if kind = 1 then decide (pasid < 2 ^ 21) else pasid == 0) && (if kind = 1 then recFld b 0x20 4 == 0 else decide (recFld b 0x20 4 < 2 ^ 20)) &&
    decide (recFld b 0x24 2 < 4096) && recFld b 0x27 1 == 0 && recFld b 0x30 16 == 0

/-- The registration of a golden record. -/
def goldenRec (b : List Byte) (blocks : List Nat) : Golden :=
  { base := recFld b 0 8, blocks := blocks, kind := recFld b 0x10 1, src := BitVec.ofNat 64 (recFld b 0x18 8),
    pasid := BitVec.ofNat 32 (recFld b 0x14 4), peer := recFld b 0x20 4, peerStall := recFld b 0x24 2, peerWin := recFld b 0x26 1,
    digest := recFld b 0x28 8 }

/-- GOLDEN_ADD (R363). -/
def execGoldenAdd (f : FnNo) (v : W32) (s : State) : Res :=
  .next (s.stlFnOp f v 2 fun s st => s.fnRecord f st 2 64 fun s b =>
      if ¬ goldenOk b then s.stlFnResult f slBadArg
      else match s.ownBlocks st (recFld b 0 8) (recFld b 8 8 / 4096) with
        | none => s.stlFnResult f slBadArg
        | some bs =>
          let all := s.stalls.flatMap fun e => e.2.golden
          if ¬ bs.all s.shared ∨ (all.any fun g => anyIn g.blocks bs) then s.stlFnResult f slBadArg
          else if 64 ≤ (s.stall st).golden.length ∨ 1024 ≤ all.length then s.stlFnResult f slNoSpace
          else ((s.modStall st fun x => { x with golden := x.golden ++ [goldenRec b bs] }).markBlocks bs 13 true).stlFnResult f slOk)

/-- GOLDEN_REMOVE: the registration whose region begins at STL_FN_ARG0. -/
def execGoldenRemove (f : FnNo) (v : W32) (s : State) : Res :=
  .next (s.stlFnOp f v 3 fun s st =>
    match (s.stall st).golden.find? fun g => g.base == (s.fn f).stlArg.toNat with
    | some g => (s.goldenEnd st g).stlFnResult f slOk
    | none => s.stlFnResult f slBadArg)

/-- The blocks of an offer record (R362). -/
def State.offerBlocks (s : State) (st : Nat) (b : List Byte) : Option (List Nat) :=
  if recFld b 0 8 % 4096 = 0 ∧ recFld b 8 8 % 4096 = 0 then s.ownBlocks st (recFld b 0 8) (recFld b 8 8 / 4096) else none

/-- SHARE_OFFER: OFFERED is set on each block. -/
def execShareOffer (f : FnNo) (v : W32) (s : State) : Res :=
  .next (s.stlFnOp f v 4 fun s st => s.fnRecord f st 4 16 fun s b =>
    match s.offerBlocks st b with
    | some bs => (s.markBlocks bs 14 true).stlFnResult f slOk
    | none => s.stlFnResult f slBadArg)

/-- SHARE_WITHDRAW: refused while any block is SHARED. -/
def execShareWithdraw (f : FnNo) (v : W32) (s : State) : Res :=
  .next (s.stlFnOp f v 5 fun s st => s.fnRecord f st 5 16 fun s b =>
    match s.offerBlocks st b with
    | some bs => if bs.any s.shared then s.stlFnResult f slBadState else (s.markBlocks bs 14 false).stlFnResult f slOk
    | none => s.stlFnResult f slBadArg)

end Sys2Proof.Machine
end

