-- ==== Sys2Proof/Machine/Switch.lean ====
section
/-! DEFINITION. Time-slicing and pre-emption (R99, R120 to R122, R172, R190, R357 to R360): quantum ends, the save of a context into
its stall's save region and its restore. -/

namespace Sys2Proof.Machine

/-! ### Quantum ends (R357) -/

/-- Pre-empt context `n` for context `m` (R357, R365): its shared cores are kept for `m`. Passes that have not started are not shadowed meanwhile. -/
def State.preempt (s : State) (n : Nat) (x : Ctx) (m : Nat) (y : Ctx) : State :=
  let s := (s.setCtx n (some { x with st := .saving })).tally x.stall 0x90 1
  let s := forEach x.cores s fun c s => s.modCore c fun k =>
    { k with passes := k.passes.map fun p => if p.phase = .queued then { p with shadow := [] } else p }
  forEach (x.cores.filter y.cores.contains) s fun c s => s.modCore c fun k => { k with reserved := some m }

/-- The oldest dispatchable context of a stall that needs a core of `x`. -/
def State.waitingFor (s : State) (x : Ctx) (t : Nat) : Option (Nat × Ctx) :=
  s.ctxs.findSome? fun e => match e.2 with
    | some y => if y.stall == t && y.stall != x.stall && s.dispatchable e.1 y && y.cores.any x.cores.contains then some (e.1, y) else none
    | none => none

/-- The stalls that wait for a core of `x`, ascending. -/
def State.waiters (s : State) (x : Ctx) : List Nat :=
  (s.stalls.map (·.1)).filter fun t => (s.waitingFor x t).isSome

/-- The choice at a quantum end (R357): least used by weight, a waiting stall before the holder, then the lowest ID. -/
def State.sliceChoice (s : State) (st : Nat) (w : List Nat) : Nat :=
  match w with
  | [] => st
  | t :: r =>
    let best := r.foldl (fun b t => if s.lessUsed t b then t else b) t
    if s.lessUsed st best then st else best

/-- QUANTUM_END: the quantum of the context on core `c` has ended. A field test pre-empts at the next fret boundary, whatever is left of
the quantum. -/
def execQuantumEnd (c : CoreNo) (s : State) : Res :=
  match s.ctxOf c with
  | some (n, x) =>
    if ¬ s.gridOk 4 then .next s
    else if x.st = .running ∧ x.kind ≠ .test ∧ (s.testFor x).isSome then
      match s.testFor x with
      | some (m, y) => .next (s.preempt n x m y)
      | none => .next s
    else
    if x.st ≠ .running ∨ x.kind = .test ∨ s.timerMode = 2 ∨ s.clock < s.quantumEnd x then .next s
    else
      let s := s.modStall x.stall fun y => { y with used := y.used + x.quantum * x.cores.length, lastQEnd := some s.clock }
      let again := s.setCtx n (some { x with start := s.quantumEnd x, quantum := s.quantumOf x.stall })
      if ¬ bitAt s.tun.live.timer 29 then .next again
      else
        match s.waitingFor x (s.sliceChoice x.stall (s.waiters x)) with
        | some (m, y) => .next (s.preempt n x m y)
        | none => .next again
  | none => .next s

/-! ### The save image (Tables 5.2, 8.6, 14.6) -/

/-- The base of the image of core `c` in the save region (R359). -/
def State.imageBase (s : State) (st c : Nat) : Nat :=
  (s.stall st).saveBase + 0x400000 * ((s.grantOf st).takeWhile (· ≠ c)).length

/-- Places for images of stall 0, which Polnik puts into the reserved area (R340; DESIGN CHOICE, log 140): above the largest owner table. -/
def State.places0 (s : State) : List Nat :=
  let used := s.ctxs.flatMap fun e => match e.2 with
    | some x => if x.stall = 0 ∧ x.st = .saved then x.images.map CoreImg.base else []
    | none => []
  ((List.range 160).map fun i => s.mapI - 0x28000000 + 0x400000 * i).filter fun a => !used.contains a

/-- Where the images of a context's cores go; none while too few places of stall 0 are free. -/
def State.savePlaces (s : State) (x : Ctx) : Option (List Nat) :=
  if x.stall ≠ 0 then some (x.cores.map (s.imageBase x.stall))
  else if s.places0.length < x.cores.length then none else some (s.places0.take x.cores.length)

/-- A quadrant state's first word (Table 5.3). -/
def Quad.word (q : Quad) : Nat := q.chain + q.seg * 2 ^ 25 + (if q.live then 2 ^ 42 else 0) + q.ns * 2 ^ 48

/-- A quadrant state from its first word. -/
def quadOfWord (v : Nat) : Quad := { chain := v % 2 ^ 25, seg := v / 2 ^ 25 % 2 ^ 17, live := v.testBit 42, ns := v / 2 ^ 48 % 65536 }

/-- The words of a descriptor as bytes. -/
def wordsBytes (ws : List W64) : List Byte := ws.flatMap fun w => toBytes 8 w.toNat

/-- Writes of the accumulator image (Table 5.2), by offset in it. -/
def Core.accImage (k : Core) : List (Nat × List Byte) :=
  (k.acc.map fun e => (8 * e.1, toBytes 4 e.2.hi.toNat ++ toBytes 4 e.2.lo.toNat)) ++
  (k.quads.map fun e => (0x40000 + 16 * e.1, toBytes 8 e.2.word)) ++
  ([0, 1].flatMap fun q =>
    let ps := k.passes.filter fun p => p.quad == q
    (ps.zipIdx.map fun p => (0x40800 + 0x200 * q + 0x40 * p.2, wordsBytes p.1.desc.words)) ++
      [(0x40C00 + 0x40 * q, [BitVec.ofNat 8 ps.length] ++ List.replicate 7 0 ++ ps.map fun p => BitVec.ofNat 8 p.slot)])

/-- FP32 codes of running RED values, lane order; a lane with none shows what RED gives for none (R181). -/
def redImage (sub : Nat) (run : List (Option FV)) : List Nat := run.map fun v => toF32 (v.getD (redEmpty sub))

/-- Writes of the vector image (Table 8.6): the descriptor in progress, which has run chunks before `next`, and the queued ones. -/
def Core.vecImage (k : Core) : List (Nat × List Byte) :=
  let q := k.vq.filter fun j => j.next == 0
  (match k.vq.find? fun j => j.next != 0 with
    | some j => [(0x000, wordsBytes j.desc.words), (0x080, toBytes 8 j.next), (0x088, j.counts.flatMap (toBytes 4)),
        (0x098, toBytes 4 j.amax), (0x09C, [BitVec.ofNat 8 j.slot]),
        (0x100, (redImage (vdOf j.desc.words).sub j.run).flatMap (toBytes 4))]
    | none => []) ++
  (q.zipIdx.map fun j => (0x900 + 128 * j.2, wordsBytes j.1.desc.words)) ++
    [(0xD00, BitVec.ofNat 8 q.length :: q.map fun j => BitVec.ofNat 8 j.slot)]

/-- The register file as this Polnik version lays it out (R359; DESIGN CHOICE, log entry 162): the word of register r of lane l of slot g at
(g × NREG + r) × 128 + 4 × l. Registers that nothing has written are 0 there. -/
def Core.regImage (k : Core) (nreg : Nat) : List (Nat × List Byte) :=
  k.groups.flatMap fun g => g.2.regs.filterMap fun e => e.2.map fun v =>
    ((g.1 * nreg + e.1 % 256) * 128 + 4 * (e.1 / 256), toBytes 4 v.toNat)

/-- Bytes of what a group holds an issue for. -/
def Held.bytes : Held → List Byte
  | .no => toBytes 1 0 ++ toBytes 8 0
  | .barrier b => toBytes 1 1 ++ toBytes 8 b
  | .token t l => toBytes 1 2 ++ toBytes 4 t ++ toBytes 4 l
  | .mxi d => toBytes 1 3 ++ toBytes 8 d.addr
  | .vxi d => toBytes 1 4 ++ toBytes 8 d.addr
  | .cxi d => toBytes 1 5 ++ toBytes 8 d.addr

/-- The group state of a slot in 1,024 bytes, in the same way: path stack, exited lanes, token counters, predicates, the held instruction and its
block. -/
def Group.stateBytes (g : Group) : List Byte :=
  toBytes 4 g.serial ++ toBytes 4 g.block ++ toBytes 4 g.idx ++ toBytes 4 g.exited ++ g.held.bytes ++ toBytes 1 (if g.yielded then 1 else 0) ++
    ((List.range 16).flatMap fun t => toBytes 1 (tget 0 g.tokens t)) ++
    ((List.range 8).flatMap fun p => toBytes 4 (maskOf ((List.range 32).filter fun l => tget none g.preds (l * 8 + p) == some true))) ++
    toBytes 1 g.paths.length ++ g.paths.flatMap fun e => toBytes 8 e.pc ++ toBytes 4 e.mask ++ toBytes 8 (e.rpc.getD (2 ^ 64 - 1))

/-- The core record, in the same way: context, blocks with their slots, and how many passes each quad's queue holds. -/
def Core.record (k : Core) : List Byte :=
  toBytes 4 (k.ctx.getD 0) ++ toBytes 8 k.cycles ++ toBytes 1 k.blocks.length ++
    (k.blocks.flatMap fun b => toBytes 4 b.1 ++ toBytes 4 b.2.ctx ++ toBytes 8 b.2.index ++ toBytes 8 (maskOf b.2.slots)) ++
    [0, 1].flatMap fun q => toBytes 1 (k.passes.filter fun p => p.quad == q).length

/-- A range of device memory made zero and poison-free under its owner's key, then written in places; its lines leave the slices (log entry 129). -/
def State.putImage (s : State) (base len : Nat) (ws : List (Nat × List Byte)) (bad : List Nat) : State :=
  let keys := (List.range (len / 4096)).foldl (fun m i => tset 0 m (base / 4096 + i) (s.blockKey (base / 4096 + i))) s.mem.blkKey
  let cells := ws.foldl (fun m w => tsetMany 0 m (base + w.1) w.2) (tclear base (base + len) s.mem.cells)
  let poison := s.mem.poison.filter fun u => decide (32 * u < base) || decide (base + len ≤ 32 * u)
  { s.dropLines (base / 128) (len / 128) with mem := { s.mem with cells := cells, blkKey := keys, poison := bad.foldl (fun l u => insertSorted (base / 32 + u) l) poison } }

/-- The image of a core as bytes, by offset (Table 14.6). -/
def Core.imageBytes (k : Core) (nreg : Nat) : List (Nat × List Byte) :=
  let off (o : Nat) (l : List (Nat × List Byte)) := l.map fun e => (o + e.1, e.2)
  (k.mem.map fun e => (e.1, [e.2])) ++ off 0x300000 (k.regImage nreg) ++ off 0x380000 k.accImage ++ off 0x3C1000 k.vecImage ++
    (k.groups.map fun g => (0x3C2000 + 1024 * g.1, g.2.stateBytes)) ++ [(0x3D2000, k.record)]

/-- The image of a core written at its place. -/
def State.writeImage (s : State) (c nreg base : Nat) : State :=
  s.putImage base 0x400000 ((s.core c).imageBytes nreg) (s.core c).poison

/-- What a saved core holds. -/
def Core.image (k : Core) (c base : Nat) : CoreImg :=
  { core := c, base := base, mem := k.mem, poison := k.poison, groups := k.groups, blocks := k.blocks, acc := k.acc, quads := k.quads,
    passes := k.passes, vq := k.vq, cycles := k.cycles, hits := k.hits }

/-- A core has reached its boundaries (R99, R172): started passes complete, loads returned. -/
def Core.atBoundary (k : Core) : Bool := k.loads.isEmpty && k.passes.all fun p => p.phase == .queued

/-- A shadow pass runs on an array of a core; it completes before the core's context is saved (R383). -/
def State.shadowOn (s : State) (c : Nat) : Bool := (List.range 8).any fun a => s.shadowBusy (8 * c + a)

/-- CONTEXT_SAVE: the context on core `c`, pre-empted, is saved and its cores scrubbed, its vector engines stopped first. A fault found there kills the
context and nothing is saved (R376). `bad`: a residue check of the accumulators fails (R386). -/
def execContextSave (c : CoreNo) (bad : Bool) (s : State) : Res :=
  match s.ctxOf c with
  | some (n, x) =>
    if x.st ≠ .saving ∨ x.cores.any s.heldOn ∨ ¬ x.cores.all fun i => (s.core i).atBoundary && !s.shadowOn i then .next s
    else if bad then .next (s.ctxFault n { cause := 0x12, core := c })
    else
      match s.savePlaces x with
      | none => .next s
      | some ps =>
        let s := forEach x.cores (s.countCores x.stall) fun i s => s.vecStop i n
        if (s.ctx? n).map Ctx.st ≠ some .saving then .next s
        else
          let imgs := (x.cores.zip ps).map fun i => (s.core i.1).image i.1 i.2
          let s := forEach (x.cores.zip ps) s fun i s => s.writeImage i.1 x.nreg i.2
          .next ((s.leaveCores n x).setCtx n (some { x with st := .saved, images := imgs }))
  | none => .next s

/-! ### Restore (R122, R190, R360) -/

/-- What a range of device memory lists, by offset. -/
def State.rangeCells (s : State) (base len : Nat) : List Host.Cell :=
  (s.mem.cells.filter fun e => decide (base ≤ e.1) && decide (e.1 < base + len)).map fun e => (e.1 - base, e.2)

def imgNum (m : List Host.Cell) (o n : Nat) : Nat := ofBytes (tgetMany 0 m o n)
def imgWords (m : List Host.Cell) (o n : Nat) : List W64 := (List.range n).map fun i => BitVec.ofNat 64 (imgNum m (o + 8 * i) 8)

/-- A pair holds R104: hi is an FP32 value nearest to hi + lo. Of two equally near ones R108 can leave either, and R120 has its chains resume, also
where the other one would be beyond the largest finite value (log 136). -/
def Pair.ok (p : Pair) : Bool :=
  match f32 p.hi.toNat with
  | .fin s m =>
    if m = 0 then p.lo == 0
    else
      let lo := f32 p.lo.toNat
      let v := fvAdd (.fin s m) lo
      !lo.isNan && match f32 (toF32 v) with
        | .fin t k => decide (ratAbs (v.toRat - (FV.fin s m).toRat) ≤ ratAbs (v.toRat - (FV.fin t k).toRat))
        | _ => m == fp32.maxMag && decide (ratAbs (v.toRat - (FV.fin s m).toRat) ≤ pow2 103)
  | _ => p.lo == 0

def imgPair (m : List Host.Cell) (key : Nat) : Pair :=
  { hi := BitVec.ofNat 32 (imgNum m (0x380000 + 8 * key) 4), lo := BitVec.ofNat 32 (imgNum m (0x380000 + 8 * key + 4) 4) }

/-- The pairs that an image lists. -/
def imgPairs (m : List Host.Cell) : Tbl Pair :=
  (((m.filter fun e => decide (0x380000 ≤ e.1) && decide (e.1 < 0x3C0000)).map fun e => (e.1 - 0x380000) / 8).dedup).foldl
    (fun t k => tset {} t k (imgPair m k)) []

/-- The quadrant states of an image. -/
def imgQuads (m : List Host.Cell) : Tbl Quad :=
  (List.range 128).foldl (fun t k => tset {} t k (quadOfWord (imgNum m (0x3C0000 + 16 * k) 8))) []

/-- The first offset from `a` on, of `n` bytes, whose byte of an image is not 0. -/
def imgNonzero (m : List Host.Cell) (o a n : Nat) : Option Nat := ((List.range n).find? fun i => imgNum m (o + a + i) 1 != 0).map (a + ·)

/-- The first offset of the accumulator image that R122 refuses; `wide` says whether the context has a wide buffer. It is that of a pair, of the word
of a quadrant state, of a descriptor or of a byte; bytes of a queue record that name groups of no pass are not checked beyond 63 (DESIGN CHOICE,
log entry 159). -/
def imgAccBad (m : List Host.Cell) (wide : Nat) : Option Nat :=
  let o := 0x380000
  let recAt (q : Nat) : Nat := 0x40C00 + 0x40 * q
  let pair := (imgPairs m).findSome? fun e => if e.2.ok then none else some (8 * e.1)
  let quad := (List.range 128).findSome? fun k =>
    let w := imgNum m (o + 0x40000 + 16 * k) 8
    if w / 2 ^ 43 % 32 ≠ 0 ∨ (w.testBit 42 ∧ wide = 0) then some (0x40000 + 16 * k)
    else if imgNum m (o + 0x40008 + 16 * k) 8 ≠ 0 then some (0x40008 + 16 * k) else none
  let desc := [0, 1].findSome? fun q => (List.range (min 8 (imgNum m (o + recAt q) 1))).findSome? fun i =>
    if mdCheck (imgWords m (o + 0x40800 + 0x200 * q + 0x40 * i) 8) then none else some (0x40800 + 0x200 * q + 0x40 * i)
  let queue := [0, 1].findSome? fun q =>
    let r := recAt q
    (if 8 < imgNum m (o + r) 1 then some r else none).or ((imgNonzero m o (r + 1) 7).or
      ((((List.range 8).find? fun i => decide (63 < imgNum m (o + r + 8 + i) 1)).map (r + 8 + ·)).or (imgNonzero m o (r + 16) 48)))
  ((((pair.or quad).or desc).or queue).or (if imgNum m (o + 0x40C80) 896 ≠ 0 then imgNonzero m o 0x40C80 896 else none))

/-- The first offset of the vector image that R190 refuses. -/
def imgVecBad (m : List Host.Cell) : Option Nat :=
  let o := 0x3C1000
  let n := imgNum m (o + 0xD00) 1
  let bad (a : Nat) : Option Nat := if vdCheck (imgWords m (o + a) 16) then none else some a
  ((if imgNum m (o + 0x80) 8 = 0 then none else bad 0).or (if imgNum m (o + 0x9D) 99 ≠ 0 then some 0x9D else none)).or
    (((List.range (min 8 n)).findSome? fun i => bad (0x900 + 128 * i)).or
      (if 8 < n then some 0xD00 else if imgNum m (o + 0xD10) 752 ≠ 0 then some 0xD10 else none))

/-- The first poisoned address of an image. -/
def State.imagePoison (s : State) (base : Nat) : Option Nat :=
  match s.mem.poison.find? fun u => decide (base ≤ 32 * u) && decide (32 * u < base + 0x400000) with
  | some u => some (32 * u)
  | none => if s.mem.stks.any (fun e => e.2.st == .failed) then (s.firstPoison base 0x400000).map (32 * ·) else none

/-- Why a core's image is refused: cause and syndrome. -/
def State.imageBad (s : State) (x : Ctx) (i : CoreImg) : Option (Nat × Nat) :=
  match s.imagePoison i.base with
  | some a => some (causePoison, a)
  | none =>
    let m := s.rangeCells i.base 0x400000
    match imgAccBad m x.wide with
    | some o => some (0x10, o)
    | none => (imgVecBad m).map fun o => (causeDesc, o)

/-- Pass `j` of quad `q` as an image gives it, on the restored core `k`: descriptor and issuing group are the image's; where they are those
that were saved, the rest is as Polnik keeps it. -/
def restPass (x : Ctx) (m : List Host.Cell) (i : CoreImg) (k : Core) (id q j : Nat) : Pass :=
  let ws := imgWords m (0x3C0800 + 0x200 * q + 0x40 * j) 8
  let g := imgNum m (0x3C0C00 + 0x40 * q + 8 + j) 1
  let ro := (mdOf ws).rdo
  let d : Desc := { words := ws, rdo := if ro = 0 then [] else k.words ro 8 }
  let new : Pass := { id := id, slot := g, serial := ((afind? i.groups g).getD {}).serial, quad := q, desc := d, rkey := x.rkey, dest := passDest d }
  match (i.passes.filter fun p => p.quad == q)[j]? with
  | some p => if p.desc.words = ws ∧ p.slot = g then p else new
  | none => new

/-- Vector job `j` of an image, `at_` its descriptor's and `g` its group's place in the vector image, `old` the saved one. -/
def restJob (x : Ctx) (m : List Host.Cell) (i : CoreImg) (at_ g : Nat) (old : Option VJob) : VJob :=
  let ws := imgWords m (0x3C1000 + at_) 16
  let g := imgNum m (0x3C1000 + g) 1
  let new : VJob := { slot := g, serial := ((afind? i.groups g).getD {}).serial, desc := { words := ws }, rkey := x.rkey, dest := (vdOf ws).dest }
  match old with
  | some p => if p.desc.words = ws ∧ p.slot = g then p else new
  | none => new

/-- The vector queue of an image: the descriptor in progress first, with its next chunk, counts, maximum and running values, then the queued ones. A
running value is the image's, or the saved one where the image still shows it. -/
def restJobs (x : Ctx) (m : List Host.Cell) (i : CoreImg) : List VJob :=
  let o := 0x3C1000
  let q := i.vq.filter fun j => j.next == 0
  let next := imgNum m (o + 0x80) 8
  let run := if next = 0 then []
    else
      let old := i.vq.find? fun j => j.next != 0
      let j := restJob x m i 0 0x9C old
      let d := vdOf j.desc.words
      let was := (old.map VJob.run).getD []
      let lanes := if d.op ≠ 8 ∨ next = d.chunks ∨ next % d.redSteps = 0 then 0 else if d.raxis = 0 then 1 else (d.stepAt next).n
      [{ j with done := next == d.chunks, next := next, amax := imgNum m (o + 0x98) 4,
                counts := (List.range 4).map fun n => imgNum m (o + 0x88 + 4 * n) 4,
                run := (List.range lanes).map fun l =>
                  let w := imgNum m (o + 0x100 + 4 * l) 4
                  let v := (was[l]?).getD none
                  if toF32 (v.getD (redEmpty d.sub)) = w then v else some (f32 w) }]
  run ++ (List.range (imgNum m (o + 0xD00) 1)).map fun n => restJob x m i (0x900 + 128 * n) (0xD01 + n) q[n]?

/-- A core restored from its image: memory, registers, pairs, quadrant states and queues as device memory holds them, the rest as Polnik keeps it. -/
def State.restoreCore (s : State) (x : Ctx) (i : CoreImg) : State :=
  let m := s.rangeCells i.base 0x400000
  let regs (g : Nat) (e : Nat × Option W32) : Nat × Option W32 :=
    (e.1, e.2.map fun _ => BitVec.ofNat 32 (imgNum m (0x300000 + (g * x.nreg + e.1 % 256) * 128 + 4 * (e.1 / 256)) 4))
  let s := s.modCore i.core fun k =>
    let k := { k with mem := m.filter (fun e => decide (e.1 < 0x300000)), poison := i.poison, blocks := i.blocks, hits := i.hits,
                      groups := i.groups.map fun (g : Nat × Group) => (g.1, { g.2 with regs := g.2.regs.map (regs g.1) }),
                      acc := imgPairs m, quads := imgQuads m, cycles := i.cycles, counted := i.cycles, lastRetire := s.clock }
    { k with
      passes := [0, 1].flatMap fun q => (List.range (imgNum m (0x3C0C00 + 0x40 * q) 1)).map fun j =>
        restPass x m i k (s.nextId + 1 + 8 * q + j) q j
      vq := restJobs x m i }
  { s with nextId := s.nextId + 16 }

/-- The group states and the core record of an image are those that were written: their integrity words hold (R360). -/
def State.imageIntact (s : State) (i : CoreImg) : Bool :=
  let m := s.rangeCells i.base 0x400000
  (i.groups.all fun g => tgetMany 0 m (0x3C2000 + 1024 * g.1) g.2.stateBytes.length == g.2.stateBytes)

/-- A restored pass that names a fenced array (R101, R388): its core, the pass and the array. -/
def State.restFenced (s : State) (cs : List Nat) : Option (Nat × Pass × Nat) :=
  cs.findSome? fun c => (s.core c).passes.findSome? fun p => (s.fencedArray c p.desc).map fun a => (c, p, a)

/-- CONTEXT_RESTORE: the saved context that has been given its cores, core `c` among them, is checked and resumes. `intact`: the
integrity words of the group state and the core record hold. `bad`: a residue check of the accumulators fails (R386). A restored pass that names an
array fenced meanwhile faults. -/
def execContextRestore (c : CoreNo) (intact : Bool) (bad : Bool) (s : State) : Res :=
  match s.ctxOf c with
  | some (n, x) =>
    if x.st ≠ .saved then .next s
    else
      match x.images.findSome? fun i => (s.imageBad x i).map fun b => (i.core, b) with
      | some (i, cause, a) => .next (s.ctxFault n { cause := cause, arg2 := a, core := i })
      | none =>
        if ¬ intact ∨ ¬ x.images.all s.imageIntact then .next (s.ctxFault n { cause := 0x10, core := c })
        else if bad then .next (s.ctxFault n { cause := 0x12, core := c })
        else
          let s := forEach x.images s fun i s => s.restoreCore x i
          let s := (s.setCtx n (some { x with st := .running, images := [], start := s.clock, quantum := s.quantumOf x.stall })).heldResults n
          match s.restFenced x.cores with
          | some (i, p, ar) => .next (s.ctxFault n { cause := 0x0F, pc := p.pc, mask := p.mask, slot := p.slot, arg2 := p.desc.addr, core := i, opc := 0x70,
                                                       array := some ar })
          | none => .next s
  | none => .next s

end Sys2Proof.Machine
end

