-- ==== Sys2Proof/Machine/TuningRegs.lean ====
section
/-! DEFINITION. The tuning registers (R394, R407, R459, Table 16.6) by their offset in BAR0 (Table 19.2): the bits that are tuning fields,
their apply classes and L groups, the ranges of their maps, and the registers that the records of a tuning image give (R399). -/

namespace Sys2Proof

/-! ### The registers by offset -/

/-- Offsets of the tuning registers, indexed ones apart. -/
def tunSingle : List Nat :=
  [0x100, 0x4200, 0x4204, 0x4208, 0x420C, 0x10010, 0x10014, 0x1001C, 0x11000, 0x11008, 0x12008, 0x13000, 0x13004, 0x14000, 0x20000]

/-- Offset of FAB_PORTn_CTL and of HIF_VF_TOTALp. -/
def fabCtlOff (p : Nat) : Nat := 0x21000 + 0x100 * p
def vfTotalOff (p : Nat) : Nat := 0x110 + 4 * p

/-- Every tuning register. -/
def tunOffsets : List Nat := tunSingle ++ (List.range 4).map vfTotalOff ++ (List.range 16).map fabCtlOff

/-- The port whose FAB_PORTn_CTL lies at an offset, and the host port whose HIF_VF_TOTALp does. -/
def fabCtlAt (off : Nat) : Option Nat := (List.range 16).find? fun p => fabCtlOff p == off
def vfTotalAt (off : Nat) : Option Nat := (List.range 4).find? fun p => vfTotalOff p == off

/-- The value of a tuning register; 0 for an offset that is none. -/
def TunRegs.get (r : TunRegs) (off : Nat) : W32 :=
  match off with
  | 0x100 => r.portCfg
  | 0x4200 => r.lbPart
  | 0x4204 => r.timer
  | 0x4208 => r.feat
  | 0x420C => r.bridge
  | 0x10010 => r.strFretLen
  | 0x10014 => r.strCtl
  | 0x1001C => r.strWire
  | 0x11000 => r.pwrCap
  | 0x11008 => r.pwrBrake
  | 0x12008 => r.secCtl
  | 0x13000 => r.memCfg
  | 0x13004 => r.pinLease
  | 0x14000 => r.mtxCheck
  | 0x20000 => r.fabId
  | _ => match fabCtlAt off, vfTotalAt off with
    | some p, _ => tget 0x3C r.fabCtl p
    | none, some p => tget 0 r.vfTotal p
    | none, none => 0

/-- A tuning register set. -/
def TunRegs.put (r : TunRegs) (off : Nat) (v : W32) : TunRegs :=
  match off with
  | 0x100 => { r with portCfg := v }
  | 0x4200 => { r with lbPart := v }
  | 0x4204 => { r with timer := v }
  | 0x4208 => { r with feat := v }
  | 0x420C => { r with bridge := v }
  | 0x10010 => { r with strFretLen := v }
  | 0x10014 => { r with strCtl := v }
  | 0x1001C => { r with strWire := v }
  | 0x11000 => { r with pwrCap := v }
  | 0x11008 => { r with pwrBrake := v }
  | 0x12008 => { r with secCtl := v }
  | 0x13000 => { r with memCfg := v }
  | 0x13004 => { r with pinLease := v }
  | 0x14000 => { r with mtxCheck := v }
  | 0x20000 => { r with fabId := v }
  | _ => match fabCtlAt off, vfTotalAt off with
    | some p, _ => { r with fabCtl := tset 0x3C r.fabCtl p v }
    | none, some p => { r with vfTotal := tset 0 r.vfTotal p v }
    | none, none => r

/-! ### Fields and classes (R407, Table 16.6) -/

/-- The bits of a register that are tuning fields. -/
def tunMask (off : Nat) : W32 :=
  match off with
  | 0x100 => 3
  | 0x4200 => 0xE0FFFFFF
  | 0x4204 => 0xF0FFFFFF
  | 0x4208 => 0x80000003
  | 0x420C => 0xFF
  | 0x10010 => 3
  | 0x10014 => 0xFFFBFFFF
  | 0x1001C => 0xF
  | 0x11000 => 0xFFF
  | 0x11008 => 0x800001FF
  | 0x12008 => 0xC0000000
  | 0x13000 => 0x000FFF0F
  | 0x13004 => 0x00FFFFFF
  | 0x14000 => 0x3FFFF0F7
  | 0x20000 => 0xFFFFF
  | _ => if (fabCtlAt off).isSome then 0xC00003FF else if (vfTotalAt off).isSome then 0x3FF else 0

/-- The bits of class B. -/
def tunMaskB (off : Nat) : W32 :=
  match off with
  | 0x100 => 3
  | 0x4204 => 0xC0000000
  | 0x4208 => 0x80000003
  | 0x10010 => 3
  | 0x10014 => 0x00020000
  | 0x12008 => 0x40000000
  | 0x13000 => 0x000F000F
  | 0x20000 => 0xFFFFF
  | _ => if (fabCtlAt off).isSome then 0x40000000 else if (vfTotalAt off).isSome then 0x3FF else 0

/-- The bits of class Q. -/
def tunMaskQ (off : Nat) : W32 :=
  match off with
  | 0x4204 => 0x00FFFFFF
  | 0x14000 => 0x3FFFF0F7
  | _ => 0

/-- The groups of Table 16.6 by a code: the group's place in the switch order, but for group 4, one per port (16 and the port). -/
def groupNo (g : Nat) : Nat := if 16 ≤ g then 4 else g

/-- The fields of an L group, by register and bits; group 3 is the route tables. -/
def lGroup (g : Nat) : List (Nat × W32) :=
  match g with
  | 1 => [(0x4200, 0xE0FFFFFF)]
  | 2 => [(0x420C, 0xFF)]
  | 5 => [(0x10014, 0xFFF9FFFF), (0x1001C, 0xF)]
  | 6 => [(0x13000, 0x0000FF00), (0x13004, 0x00FFFFFF)]
  | 7 => [(0x4204, 0x30000000)]
  | 8 => [(0x11000, 0xFFF)]
  | 9 => [(0x11008, 0x800001FF)]
  | 10 => [(0x12008, 0x80000000)]
  | _ => if 16 ≤ g then [(fabCtlOff (g - 16), 0x800003FF)] else []

/-- The L groups in switch order. -/
def lGroups : List Nat := [1, 2, 3] ++ (List.range 16).map (16 + ·) ++ [5, 6, 7, 8, 9, 10]

/-- Bits `m` of `a` replaced by those of `b`. -/
def maskMerge (m a b : W32) : W32 := (a &&& ~~~m) ||| (b &&& m)

/-- Fields given by register and bits, taken from `n` into `r`. -/
def TunRegs.take (r n : TunRegs) (l : List (Nat × W32)) : TunRegs :=
  l.foldl (fun r e => r.put e.1 (maskMerge e.2 (r.get e.1) (n.get e.1))) r

/-- Group `g` of `n` taken into `r`. -/
def TunRegs.takeGroup (r n : TunRegs) (g : Nat) : TunRegs :=
  if g = 3 then { r with route0 := n.route0, route1 := n.route1 } else r.take n (lGroup g)

/-- Group `g` differs. -/
def TunRegs.groupDiffers (r n : TunRegs) (g : Nat) : Bool :=
  if g = 3 then r.route0 != n.route0 || r.route1 != n.route1
  else (lGroup g).any fun e => (r.get e.1 &&& e.2) != (n.get e.1 &&& e.2)

/-- Every field of class B taken, of class Q taken. -/
def TunRegs.takeB (r n : TunRegs) : TunRegs := r.take n (tunOffsets.map fun o => (o, tunMaskB o))
def TunRegs.takeQ (r n : TunRegs) : TunRegs := r.take n (tunOffsets.map fun o => (o, tunMaskQ o))

/-- The first register whose class B fields differ. -/
def TunRegs.differsB (r n : TunRegs) : Option Nat := tunOffsets.find? fun o => (r.get o &&& tunMaskB o) != (n.get o &&& tunMaskB o)

/-! ### Ranges (R401 code 4) and conflicts (code 5, Table 16.4) -/

/-- The limits of TUN_LB_PART's sizes (R404). -/
def lbPartOk (v : W32) : Bool :=
  let red := fld v 23 16
  let hold := fld v 15 8
  let perm := fld v 7 0
  if bitAt v 31 then
    decide (4 ≤ red) && (if bitAt v 30 then decide (4 ≤ hold) else hold == 0) && (if bitAt v 29 then decide (4 ≤ perm) else perm == 0) &&
      decide (red + hold + perm ≤ 184)
  else red == 0 && hold == 0 && perm == 0

/-- A register's value keeps its map: no bit beside its tuning fields, each field within its range. -/
def tunRangeOk (off : Nat) (v : W64) : Bool :=
  let x : W32 := BitVec.ofNat 32 v.toNat
  v.toNat == (x &&& tunMask off).toNat &&
    match off with
    | 0x4200 => lbPartOk x
    | 0x420C => decide (1 ≤ fld x 7 4) && decide (1 ≤ fld x 3 0)
    | 0x1001C => x != 15
    | 0x11000 => decide (1200 ≤ fld x 11 0) && decide (fld x 11 0 ≤ 2400)
    | 0x11008 => decide (64 ≤ fld x 8 0) && decide (fld x 8 0 ≤ 256)
    | _ => true

/-- A byte of a route table: a port 0 to 15, or 31, in bits [4:0], and the others 0 (R269). -/
def routeOk (v : Nat) : Bool := decide (v < 16) || v == 31

/-- Enables that conflict under Table 16.4: the register at fault, none where two registers take part. -/
def tunConflict (r : TunRegs) : Option (Option Nat) :=
  let t := r.timer
  let bad := match fld t 31 30 with
    | 0 => bitAt t 28
    | 1 => fld t 23 0 != 0
    | 2 => bitAt t 29
    | _ => false
  if bitAt r.strCtl 17 && bitAt r.feat 31 then some none
  else if bad then some (some 0x4204)
  else if !bitAt r.lbPart 31 && bitAt r.lbPart 30 && bitAt r.lbPart 29 then some (some 0x4200)
  else none

/-! ### Images (R398, R399), least significant byte first (R6) -/

/-- The fields of Table 16.3. -/
def TunImg.keyset (x : TunImg) : Nat := recFld x.hdr 0x06 2
def TunImg.number (x : TunImg) : W32 := BitVec.ofNat 32 (recFld x.hdr 0x08 4)
def TunImg.device (x : TunImg) : BitVec 128 := BitVec.ofNat 128 (recFld x.hdr 0x10 16)
def TunImg.minFw (x : TunImg) : Nat := recFld x.hdr 0x20 4

/-- The 8 header bytes of a record, how many bytes of data it has, and the byte at a place of them. -/
def TunRec.hdr : TunRec → List Byte
  | .bytes l => l.take 8
  | .fill h _ _ _ => h
def TunRec.dataLen : TunRec → Nat
  | .bytes l => l.length - 8
  | .fill _ n _ _ => n
def TunRec.dataAt (r : TunRec) (i : Nat) : Byte :=
  match r with
  | .bytes l => (l[8 + i]?).getD 0
  | .fill _ _ b cells => tget b cells i

/-- The bytes a record takes in its image, and those bytes. -/
def TunRec.size (r : TunRec) : Nat := r.hdr.length + r.dataLen
def TunRec.toBytes (r : TunRec) : List Byte := r.hdr ++ (List.range r.dataLen).map r.dataAt

/-- The size of an image: header, body and two signatures (R398). -/
def TunImg.size (x : TunImg) : Nat := 64 + (x.recs.map TunRec.size).sum + 384 + 16224

/-- MAGIC, FORMAT, BODY_LEN and the Reserved bytes hold, and the body keeps the size of its slot (R398). -/
def TunImg.headerOk (x : TunImg) : Bool :=
  let n := recFld x.hdr 0x0C 4
  recFld x.hdr 0x00 4 == 0x4E555457 && recFld x.hdr 0x04 2 == 1 && n == (x.recs.map TunRec.size).sum && n % 8 == 0 &&
    decide (n ≤ 4177632) && recFld x.hdr 0x24 28 == 0

/-- KIND, with Reserved 0 and LEN the data there is: none for another header. -/
def TunRec.kind? (r : TunRec) : Option Nat :=
  if r.hdr.length = 8 ∧ recFld r.hdr 2 2 = 0 ∧ recFld r.hdr 4 4 = r.dataLen then some (recFld r.hdr 0 2) else none

/-- The offset and the value of a register record: KIND 1, Reserved 0, LEN 16, and its 16 bytes of data. -/
def TunRec.reg? (r : TunRec) : Option (Nat × Nat) :=
  if r.kind? = some 1 ∧ r.dataLen = 16 then
    let v (o : Nat) : Nat := ofBytes ((List.range 8).map fun i => r.dataAt (o + i))
    some (v 0, v 8)
  else none

/-- The link die whose route table a record is: KIND 2 or 3, Reserved 0, 1,048,576 bytes. -/
def TunRec.table? (r : TunRec) : Option Nat :=
  if r.dataLen = 0x100000 then (if r.kind? = some 2 then some 0 else if r.kind? = some 3 then some 1 else none) else none

/-- The record of a register, and that of a link die's route table (R269): byte i for destination i, 31 where it is unreachable. -/
def TunRec.reg (off v : Nat) : TunRec := .bytes (Sys2Proof.toBytes 2 1 ++ Sys2Proof.toBytes 2 0 ++ Sys2Proof.toBytes 4 16 ++ Sys2Proof.toBytes 8 off ++ Sys2Proof.toBytes 8 v)
def TunRec.table (die : Nat) (t : List (Nat × Nat)) : TunRec :=
  .fill (Sys2Proof.toBytes 2 (2 + die) ++ Sys2Proof.toBytes 2 0 ++ Sys2Proof.toBytes 4 0x100000) 0x100000 31 (t.map fun e => (e.1, BitVec.ofNat 8 e.2))

/-- What a record is for: a register's offset, or a route table, as a key of its own. -/
def TunRec.key (r : TunRec) : Option Nat :=
  match r.table? with
  | some die => some (1 + die)
  | none => match r.reg? with
    | some (off, _) => if tunOffsets.contains off then some off else none
    | none => none

/-- The body that register values and route tables form: the registers in the order of tunOffsets, then both tables (DESIGN CHOICE,
log 132: R399 allows any order). -/
def TunRegs.body (r : TunRegs) : List TunRec :=
  (tunOffsets.map fun o => TunRec.reg o (r.get o &&& tunMask o).toNat) ++ [TunRec.table 0 r.route0, TunRec.table 1 r.route1]

/-- The index of the first record that is unknown or a duplicate. -/
def recBad : Nat → List Nat → List TunRec → Option Nat
  | _, _, [] => none
  | i, seen, r :: t =>
    match r.key with
    | none => some i
    | some k => if seen.contains k then some i else recBad (i + 1) (k :: seen) t

/-- RECORD of TUN_VAL_ERR for the header or none. -/
def noRecord : BitVec 24 := 0xFFFFFF

/-- The record at fault under R399 (code 3); a missing one names none. -/
def TunImg.formFault (x : TunImg) : Option (BitVec 24) :=
  match recBad 0 [] x.recs with
  | some i => some (BitVec.ofNat 24 i)
  | none => if x.recs.length = tunOffsets.length + 2 then none else some noRecord

/-- The bytes of a record's data that are there: each that is given by place, and the byte of the others where there are others. -/
def TunRec.dataAll (r : TunRec) (p : Byte → Bool) : Bool :=
  match r with
  | .bytes l => (l.drop 8).all p
  | .fill _ n b cells => cells.all (fun e => p e.2) && (decide (n ≤ cells.length) || p b)

/-- A record keeps its ranges. -/
def TunRec.rangeOk (r : TunRec) : Bool :=
  if r.table?.isSome then r.dataAll fun b => routeOk b.toNat
  else match r.reg? with
    | some (off, v) => tunRangeOk off (BitVec.ofNat 64 v)
    | none => true

/-- The record at fault under code 4. -/
def TunImg.rangeFault (x : TunImg) : Option (BitVec 24) := (x.recs.findIdx? fun r => !r.rangeOk).map fun i => BitVec.ofNat 24 i

/-- The record of a register. -/
def TunImg.recOf (x : TunImg) (off : Option Nat) : BitVec 24 :=
  match off with
  | some o => match x.recs.findIdx? fun r => r.key == some o with
    | some i => BitVec.ofNat 24 i
    | none => noRecord
  | none => noRecord

/-- The destinations of a route table's record that are reachable, with their bytes, in rising order. -/
def TunRec.routes (r : TunRec) : List (Nat × Nat) :=
  match r with
  | .bytes _ => (List.range r.dataLen).filterMap fun i => if (r.dataAt i).toNat = 31 then none else some (i, (r.dataAt i).toNat)
  | .fill _ n b cells =>
    if b.toNat = 31 then cells.foldl (fun m e => tset 31 m e.1 e.2.toNat) []
    else (List.range n).filterMap fun i => if (r.dataAt i).toNat = 31 then none else some (i, (r.dataAt i).toNat)

/-- The register values and route tables that an image gives. -/
def TunImg.regs (x : TunImg) : TunRegs :=
  x.recs.foldl (fun r e => match e.table? with
    | some die => if die = 0 then { r with route0 := e.routes } else { r with route1 := e.routes }
    | none => match e.reg? with
      | some (off, v) => r.put off (BitVec.ofNat 32 v)
      | none => r) {}

/-- The sum of HIF_VF_TOTALp exceeds 1,020, OPER_PORT or a nonzero TOTAL names a host port that BIF does not provide, or a port is
enabled without a fabric ID (code 6, R307, R459). -/
def tunLimit (ports : List Nat) (r : TunRegs) : Bool :=
  let vf := fun p => fld (tget 0 r.vfTotal p) 9 0
  decide (1020 < ((List.range 4).map vf).sum) || !ports.contains (fld r.feat 1 0) ||
    ((List.range 4).any fun p => vf p != 0 && !ports.contains p) ||
    (r.fabId == 0xFFFFF && (List.range 16).any fun p => bitAt (tget 0x3C r.fabCtl p) 31)

/-! ### Firmware images, key records and debug tokens (R425, R431, R440) -/

/-- The fields of Table 17.2, least significant byte first (R6). -/
def FwImg.svn (x : FwImg) : Nat := recFld x.hdr 0x04 4
def FwImg.version (x : FwImg) : W32 := BitVec.ofNat 32 (recFld x.hdr 0x08 4)

/-- A bank header keeps Table 17.2, and with its body and signatures it fits a bank of 16 MiB (Table 16.1). -/
def FwImg.formOk (x : FwImg) : Bool :=
  let n := recFld x.hdr 0x0C 4
  x.hdr.length == 64 && x.body.length == n && x.rsaSig.length == 384 && x.slhSig.length == 16224 && recFld x.hdr 0x00 4 == 0x4D524657 && decide (x.svn < 64) && n % 8 == 0 && decide (64 + n + 384 + 16224 ≤ 0x1000000) &&
    recFld x.hdr 0x10 47 == 0

/-- The size of an image, and the SHA-384 of its header, with STATE taken as 0xFF, and body (R425, R429). -/
def FwImg.size (x : FwImg) : Nat := x.hdr.length + x.body.length + x.rsaSig.length + x.slhSig.length
def FwImg.digest (x : FwImg) : BitVec 384 := Config.sha384 ((x.hdr.set 0x3F 0xFF ++ x.body).map BitVec.toNat)

/-- The fields of a record: slot, nonce, and for KEY_ADD the modulus and the SLH-DSA key; and the slot that signs (byte 1 of the prefix). -/
def KeyRec.slot (k : KeyRec) : Nat := recFld k.body 0 1
def KeyRec.nonce (k : KeyRec) : BitVec 256 := BitVec.ofNat 256 (recFld k.body 32 32)
def KeyRec.modulus (k : KeyRec) : BitVec 3072 := BitVec.ofNat 3072 (recFld k.body 64 384)
def KeyRec.slhKey (k : KeyRec) : BitVec 384 := BitVec.ofNat 384 (recFld k.body 448 48)
def KeyRec.signer (k : KeyRec) : Nat := recFld k.pre 1 1

/-- A record of `n` signed bytes whose bytes 1 to 31 are 0. -/
def KeyRec.formOk (k : KeyRec) (n : Nat) : Bool := k.body.length == n && recFld k.body 1 31 == 0

/-- The fields of a token: its level, the device it names and the nonce. -/
def DebugTok.level (t : DebugTok) : Nat := recFld t.body 0 1
def DebugTok.device (t : DebugTok) : BitVec 128 := BitVec.ofNat 128 (recFld t.body 16 16)
def DebugTok.nonce (t : DebugTok) : BitVec 256 := BitVec.ofNat 256 (recFld t.body 32 32)

end Sys2Proof
end

