-- ==== Sys2Proof/Machine/Tunings.lean ====
section
/-! DEFINITION. Tunings (R394 to R415): the slot directory, validation, staging, live changes with their L groups and Q points, rollback,
and the other operations of TUN_CMD but a device reset. -/

namespace Sys2Proof.Machine

/-! ### Results (Table 16.10) -/

def trOk : Nat := 0
def trBadSig : Nat := 1
def trInvalid : Nat := 2
def trBadState : Nat := 3
def trFlash : Nat := 4
def trDenied : Nat := 5
def trBadArg : Nat := 6
def trRolledBack : Nat := 7

/-- TUN_CMD's operation ends with a result. -/
def State.tunResult (s : State) (res : Nat) : State := { s with tun := { s.tun with cmd := { s.tun.cmd with busy := false, result := res } } }

/-- TUN_CMD is BUSY until its operation ends. -/
def State.tunBusy (s : State) : State := { s with tun := { s.tun with cmd := { s.tun.cmd with busy := true } } }

def State.setChange (s : State) (c : Option Change) : State := { s with tun := { s.tun with change := c } }
def State.modChange (s : State) (f : Change → Change) : State := s.setChange (s.tun.change.map f)

/-- A write of TUN_CMD by the operator function (R421); while BUSY it is dropped (R413, R463). -/
def State.tunCmd (s : State) (f : Nat) (go : State → State) : State :=
  if ¬ s.regOk f ∨ ¬ s.isOper f ∨ s.tun.cmd.busy then s else go s

/-! ### The slot directory (R397, Table 16.2) -/

/-- A slot as a byte of the directory, 0xFF for none, and the slot that a byte names. -/
def slotByte (k : Option (Fin 3)) : Nat := match k with | some k => k.val | none => 0xFF
def byteSlot (v : Nat) : Option (Fin 3) := if h : v < 3 then some ⟨v, h⟩ else none

/-- The 60 bytes of a directory record before its CRC. -/
def Dir.body (d : Dir) : List Byte :=
  toBytes 4 0x54445257 ++ (toBytes 4 d.gen.toNat ++ (toBytes 1 (slotByte d.cur) ++ (toBytes 1 (slotByte d.prev) ++ (toBytes 1 (slotByte d.pend) ++
    (toBytes 1 d.pendState ++ (toBytes 4 d.curNum.toNat ++ (toBytes 4 d.prevNum.toNat ++ (toBytes 4 d.pendNum.toNat ++ List.replicate 36 0))))))))

/-- The 64 bytes of a directory copy, least significant byte first (R6). -/
def Dir.bytes (d : Dir) : List Byte := d.body ++ toBytes 4 (crc32c d.body)

/-- The record of a copy whose CRC-32C is valid. -/
def dirOf (b : List Byte) : Option Dir :=
  if b.length = 64 ∧ crc32c (b.take 60) = recFld b 0x3C 4 then
    some { gen := BitVec.ofNat 32 (recFld b 0x04 4), cur := byteSlot (recFld b 0x08 1), prev := byteSlot (recFld b 0x09 1),
           pend := byteSlot (recFld b 0x0A 1), pendState := recFld b 0x0B 1, curNum := BitVec.ofNat 32 (recFld b 0x0C 4),
           prevNum := BitVec.ofNat 32 (recFld b 0x10 4), pendNum := BitVec.ofNat 32 (recFld b 0x14 4) }
  else none

/-- What directory copy `i` says, none where its CRC does not hold. -/
def Nv.copy (n : Nv) (i : Nat) : Option Dir := (n.dirs[i]?).bind dirOf

/-- The copy in force: valid, with the higher GEN. -/
def Nv.dirIdx (n : Nv) : Option Nat :=
  match n.copy 0, n.copy 1 with
  | some a, some b => if b.gen ≤ a.gen then some 0 else some 1
  | some _, none => some 0
  | none, some _ => some 1
  | none, none => none

def Nv.dir (n : Nv) : Option Dir := n.dirIdx.bind n.copy

/-- The directory as it stands; an empty one where no copy is valid. -/
def State.dir (s : State) : Dir := s.nv.dir.getD {}

/-- A directory write: GEN rises by 1, and the copy that is not in force takes it. -/
def State.writeDir (s : State) (d : Dir) : State :=
  let i := match s.nv.dirIdx with
    | some i => 1 - i
    | none => 0
  { s with nv := { s.nv with dirs := s.nv.dirs.set i { d with gen := s.dir.gen + 1 }.bytes } }

/-- The image in a slot. -/
def State.slotImg (s : State) (k : Option (Fin 3)) : Option TunImg := k.bind fun k => (s.nv.slots[k.val]?).bind id

def State.setSlot (s : State) (k : Nat) (x : Option TunImg) : State := { s with nv := { s.nv with slots := s.nv.slots.set k x } }

/-- No pending tuning. -/
def Dir.drop (d : Dir) : Dir := { d with pend := none, pendState := 0, pendNum := 0 }

/-! ### Validation (R400, R401) -/

/-- Both signatures verify under an operator key pair that is programmed and not revoked. -/
def State.signedOk (s : State) (x : TunImg) : Bool :=
  decide (x.keyset < 4) && s.nv.slotProg.toNat.testBit x.keyset && !s.nv.slotRev.toNat.testBit x.keyset && x.rsaOk && x.slhOk

/-- The sum of LB_SHARE over the stalls exceeds a tuning's collective staging total. -/
def State.sharesExceed (s : State) (r : TunRegs) : Bool := decide (stagingTotal r < s.sharesBut 4096)

/-- A check of R401 that an image fails, with the record it names. -/
def State.tunFails (s : State) (x : TunImg) (apply : Bool) (code : Nat) : Option (BitVec 24) :=
  let r := x.regs
  match code with
  | 1 => if s.signedOk x then none else some noRecord
  | 2 => if x.headerOk ∧ x.number ≠ 0 ∧ (x.device = 0 ∨ x.device = s.sec.device) then none else some noRecord
  | 3 => x.formFault
  | 4 => x.rangeFault
  | 5 => (tunConflict r).map x.recOf
  | 6 => if tunLimit (bifPorts r) r || (apply && s.sharesExceed r) then some noRecord else none
  | 7 => (s.tun.live.differsB r).map fun o => x.recOf (some o)
  | 8 => if (s.dir.cur.isSome ∧ x.number = s.dir.curNum) ∨ (s.dir.prev.isSome ∧ x.number = s.dir.prevNum) then some noRecord else none
  | 9 => if x.minFw ≤ s.sec.svn then none else some noRecord
  | _ => none

/-- The first failing check. -/
def State.tunCheck (s : State) (x : TunImg) (apply : Bool) (codes : List Nat) : Option (Nat × BitVec 24) :=
  codes.findSome? fun c => (s.tunFails x apply c).map fun r => (c, r)

/-- TUN_VAL_ERR. -/
def State.setVal (s : State) (code : Nat) (r : BitVec 24) : State := { s with tun := { s.tun with valCheck := code, valRecord := r } }

/-- A tuning rejected (event 0x0902): nothing else changes. -/
def State.tunRejected (s : State) (num : W32) (code : Nat) (r : BitVec 24) (op : Nat) : State :=
  (s.setVal code r).ledger 0x0902 1 0x00 0 none num.toNat code r.toNat op

/-- An operation goes on where the tuning passes its checks; otherwise it ends with BAD_SIG or INVALID. -/
def State.tunValid (s : State) (x : TunImg) (apply : Bool) (codes : List Nat) (op : Nat) (go : State → State) : State :=
  match s.tunCheck x apply codes with
  | some (c, r) => (s.tunRejected x.number c r op).tunResult (if c = 1 then trBadSig else trInvalid)
  | none => go (s.setVal 0 noRecord)

/-! ### STAGE (R408) -/

/-- The slot that is neither current nor previous, the lowest where there are two. -/
def Dir.free (d : Dir) : Fin 3 :=
  if d.cur ≠ some 0 ∧ d.prev ≠ some 0 then 0 else if d.cur ≠ some 1 ∧ d.prev ≠ some 1 then 1 else 2

/-- The image of TUN_ARG1 bytes is read from TUN_ARG0, without PASID. -/
def State.imageRead (s : State) (f : Nat) : State := s.hostReads f 0 s.tun.arg0.toNat s.tun.arg1.toNat

/-- STAGE: the image is verified, validated and written to its slot, which holds no tuning until the write ends. One of another size than TUN_ARG1 is no
image (code 2; DESIGN CHOICE, log entry 104). -/
def execStage (f : FnNo) (img : HostGot TunImg) (s : State) : Res :=
  .next (s.tunCmd f fun s =>
    let s := s.imageRead f
    match img with
    | .fail => s.tunResult trBadArg
    | .got x =>
      if x.size ≠ s.tun.arg1.toNat then (s.tunRejected x.number 2 noRecord 1).tunResult trInvalid
      else s.tunValid x false [1, 2, 3, 4, 5, 6, 8, 9] 1 fun s =>
        let k := s.dir.free
        let s := (s.setSlot k.val none).tunBusy
        { s with tun := { s.tun with staging := some (k, x) } })

/-- STAGE_DONE: the directory names the slot as pending, staged; a flash error leaves no pending tuning. -/
def execStageDone (flashOk : Bool) (s : State) : Res :=
  match s.tun.staging with
  | none => .next s
  | some (k, x) =>
    let s := { s with tun := { s.tun with staging := none } }
    if flashOk then
      .next (((s.setSlot k.val (some x)).writeDir { s.dir with pend := some k, pendState := 1, pendNum := x.number }).tunResult trOk)
    else .next ((s.writeDir s.dir.drop).tunResult trFlash)

/-! ### Live changes (R409 to R412) -/

/-- The stalls that exist. -/
def State.liveStalls (s : State) : List Nat := (s.stalls.filter fun e => e.2.st != .free).map (·.1)

/-- Q_LEFT: stalls not yet switched, or not yet reverted (R411). -/
def State.qLeft (s : State) : Nat := (s.stalls.filter fun e => e.2.st != .free && !e.2.qDone).length

/-- Every stall runs the fields that the phase asks for. -/
def State.qAll (s : State) : Bool := s.qLeft == 0

/-- A change starts (event 0x0903): PREPARING, BUSY until commit or rollback. -/
def State.changeStart (s : State) (x : TunImg) (exchange : Bool) : State :=
  let a := s.tun.applyCtl.toNat
  let at_ := a / 256 * 256
  let q := a % 256
  let c : Change :=
    { ph := .preparing, oldNum := s.tun.curNum, newNum := x.number, old := s.tun.live, new := x.regs, newDigest := x.digest,
      at_ := if at_ = 0 then none else some (s.clockOf at_), qLimit := if q = 0 then 16 else q, exchange := exchange }
  let s := forEach s.liveStalls s fun st s => s.modStall st fun x => { x with qDone := false }
  ((s.setChange (some c)).tunBusy).ledger 0x0903 0 0x00 0 none c.oldNum.toNat c.newNum.toNat at_

/-- AT of TUN_APPLY_CTL may be used: 0, or at least 1,024 frets ahead on String time (R40, R409). -/
def State.atResult (s : State) : Nat :=
  let at_ := s.tun.applyCtl.toNat / 256 * 256
  if at_ = 0 then trOk
  else if ¬ s.onString then trBadState
  else if at_ < s.str.time + 1024 * subPerFret then trBadArg
  else trOk

/-- The pending tuning that an operation may take: staged, or marked for the next reset. -/
def State.pending? (s : State) : Option TunImg := if s.dir.pendState = 1 ∨ s.dir.pendState = 2 then s.slotImg s.dir.pend else none

/-- APPLY_LIVE: the checks, then the prepare phase. -/
def State.applyLive (s : State) : State :=
  match s.pending? with
  | none => s.tunResult trBadState
  | some x =>
    if s.atResult ≠ trOk then s.tunResult s.atResult
    else s.tunValid x true [1, 2, 3, 4, 5, 6, 7, 9] 2 fun s => s.changeStart x false

def execApplyLive (f : FnNo) (s : State) : Res := .next (s.tunCmd f State.applyLive)

/-- The change is over: STABLE under the old number, event 0x0905. A pending tuning is marked failed. -/
def State.rolledBack (s : State) (c : Change) : State :=
  let s := if s.dir.pend.isSome ∧ ¬ c.exchange then s.writeDir { s.dir with pendState := 4 } else s
  ((s.setChange none).ledger 0x0905 2 0x00 0 none c.oldNum.toNat c.newNum.toNat c.failPhase c.failArg).tunResult trRolledBack

/-- ROLLING_BACK ends once every group and stall runs the old values. -/
def State.tryRolled (s : State) : State :=
  match s.tun.change with
  | some c => if c.ph = .rollingBack ∧ c.lDone ∧ ¬ c.stuck ∧ s.qAll then s.rolledBack c else s
  | none => s

/-- A change fails (R412): switched groups and stalls revert, stalls not yet switched keep the old fields and go on. -/
def State.changeFails (s : State) (phase arg : Nat) : State :=
  match s.tun.change with
  | none => s
  | some c =>
    let sw := c.switched.isSome
    let s := forEach s.liveStalls s fun st s => s.modStall st fun x => { x with qDone := c.ph != .mixed || !x.qDone, qHold := false }
    (s.setChange (some { c with ph := .rollingBack, failPhase := phase, failArg := arg, lDone := !sw, at_ := some s.nextFret,
                                switched := c.switched.map fun _ => s.clock })).tryRolled

/-- A revert fails (R412): event 0x0908, and the state stays ROLLING_BACK. -/
def State.revertFails (s : State) (c : Change) (arg : Nat) : State :=
  (s.setChange (some { c with stuck := true })).ledger 0x0908 3 0x00 0 none c.oldNum.toNat c.newNum.toNat arg

/-- TUNING_PREPARE_DONE: the shadow copies are loaded, or the prepare fails. -/
def execTuningPrepareDone (ok : Bool) (s : State) : Res :=
  match s.tun.change with
  | some c =>
    if c.ph ≠ .preparing ∨ ¬ s.pwr.coreClocks then .next s
    else if ok then .next (s.setChange (some { c with ph := .ready, at_ := some (max (c.at_.getD 0) s.nextFret) }))
    else .next (s.changeFails 1 0)
  | none => .next s

/-- A port whose ENABLE changes: it goes down with DISABLED, or begins training (Table 11.6, R271). -/
def State.enableChange (s : State) (p : Nat) (old new : W32) : State :=
  if bitAt old 31 ∧ ¬ bitAt new 31 then
    match (s.port p).st with
    | .up => s.takeDown p rsDisabled
    | .down => s
    | _ => s.modPort p fun x => x.fallen rsDisabled x.fails 0 .down
  else if ¬ bitAt old 31 ∧ bitAt new 31 then s.trainStart p
  else s

/-- The brake as PWR_BRAKE's fields in effect have it (R445): none with BRAKE_EN = 0, its stretch while PWRBRAKE_N is low.
That a switch acts at once is a DESIGN CHOICE (log entry 153). -/
def State.brakeNow (s : State) : State :=
  let b := s.tun.live.pwrBrake
  if ¬ bitAt b 31 then { s with pwr := { s.pwr with brake := .idle, brakeStretch := 64 } }
  else if s.pwr.brakePin then { s with pwr := { s.pwr with brake := .asserted, brakeStretch := min 256 (max 64 (fld b 8 0)) } }
  else s

/-- L group `g` of `n` comes into effect. -/
def State.switchGroup (s : State) (n : TunRegs) (g : Nat) : State :=
  let old := s.tun.live
  let s := { s with tun := { s.tun with regs := s.tun.regs.takeGroup n g, live := s.tun.live.takeGroup n g } }
  if 16 ≤ g then s.enableChange (g - 16) (tget 0x3C old.fabCtl (g - 16)) (tget 0x3C s.tun.live.fabCtl (g - 16))
  else if g = 9 then s.brakeNow else s

/-- The changed groups switch in order, up to one whose readback fails. -/
def State.switchGroups (s : State) (n : TunRegs) (gs : List Nat) : State := forEach gs s fun g s => s.switchGroup n g

/-- The groups that a change changes, and those that switch before a failed readback stops it, that one included. -/
def changedGroups (a b : TunRegs) : List Nat := lGroups.filter (a.groupDiffers b)
def upTo (bad : Option (Fin 32)) (gs : List Nat) : List Nat :=
  match bad with
  | some b => gs.takeWhile (· ≠ b.val) ++ gs.filter (· = b.val)
  | none => gs

/-- A named group is one of those that switch. -/
def badIn (bad : Option (Fin 32)) (gs : List Nat) : Option Nat := bad.bind fun b => if gs.contains b.val then some b.val else none

/-- TUNING_SWITCH (R409): item 2 of AT. Each changed group switches and is read back; every stall then awaits its Q point. -/
def execTuningSwitch (bad : Option (Fin 32)) (s : State) : Res :=
  match s.tun.change with
  | some c =>
    if ¬ s.gridOk 2 ∨ ¬ s.pwr.coreClocks ∨ c.ph ≠ .ready ∨ s.clock < c.at_.getD 0 then .next s
    else
      let gs := changedGroups s.tun.live c.new
      let s := (s.switchGroups c.new (upTo bad gs)).setChange (some { c with switched := some s.clock })
      match badIn bad gs with
      | some g => .next (s.relatchStr.changeFails 2 (groupNo g))
      | none =>
        .next (s.modChange fun c => { c with ph := .mixed })
  | none => .next s

/-- A context that holds its cores and is not stopped. -/
def Ctx.onCores (x : Ctx) : Bool := x.st == .running || x.st == .saving || x.st == .killing

/-- The contexts of a stall that run. -/
def State.runningOf (s : State) (st : Nat) : List Ctx := s.ctxs.filterMap fun e => match e.2 with
  | some x => if x.stall = st ∧ x.onCores then some x else none
  | none => none

/-- Every context of the stall is at a pass boundary (R99, R410). -/
def State.passBoundary (s : State) (st : Nat) : Bool :=
  (s.runningOf st).all fun x => x.cores.all fun c => (s.core c).passes.all fun p => p.phase == .queued

/-- The stall is at a Q point (R410): no context runs, or one of its quantum ends has fallen since the switch; item 4 of the boundary comes before it. -/
def State.atQPoint (s : State) (c : Change) (st : Nat) : Bool :=
  let q := match (s.stall st).lastQEnd, c.switched with
    | some t, some w => decide (w ≤ t)
    | _, _ => false
  (s.runningOf st).isEmpty || q

/-- Q_LIMIT Strings have passed since the switch. -/
def State.qLimitPassed (s : State) (c : Change) : Bool :=
  match c.switched with
  | some w => decide (w + c.qLimit * subPerString ≤ s.clock)
  | none => false

/-- A stall's Q fields loaded: MTX_CHECK is used from its next window close (R381). -/
def State.loadQ (s : State) (st : Nat) (r : TunRegs) : State :=
  s.modStall st fun x => { x with qTimer := r.timer, qCheckNew := r.mtxCheck, qDone := true, qHold := false }

/-- The stall's contexts pause, its Q fields are loaded and read back. -/
def State.qSwitch (s : State) (st : Nat) (ok : Bool) : State :=
  match s.tun.change with
  | none => s
  | some c =>
    match c.ph with
    | .mixed => if ok then (s.loadQ st c.new).modChange fun c => { c with lastQ := s.str.time } else s.changeFails 3 st
    | .rollingBack => if ok then (s.loadQ st c.old).tryRolled else s.revertFails c st
    | _ => s

/-- A stall that has yet to run the fields of the phase. -/
def State.qDue (s : State) (st : Nat) : Bool := (s.stall st).st == .active && !(s.stall st).qDone && s.pwr.coreClocks

/-- A stall reaches its Q point at a fret boundary, after items 1 to 4 of Table 2.4: issue stops until its contexts are at a pass boundary, and then its Q
fields are loaded (R410). -/
def State.qPoint (s : State) (st : Nat) (ok point : Bool) : State :=
  if ¬ s.qDue st ∨ ¬ ((s.stall st).qHold ∨ (s.gridOk 5 ∧ point)) then s
  else if s.passBoundary st then s.qSwitch st ok
  else s.modStall st fun x => { x with qHold := true }

/-- Q_POINT (R410), and the pass boundary that a stall at its Q point waits for. -/
def execQPoint (st : StallNo) (ok : Bool) (s : State) : Res :=
  match s.tun.change with
  | some c => if c.switched.isSome then .next (s.qPoint st ok (s.atQPoint c st)) else .next s
  | none => .next s

/-- Q_LIMIT_EXPIRY (R410). -/
def execQLimitExpiry (st : StallNo) (ok : Bool) (s : State) : Res :=
  match s.tun.change with
  | some c => if c.switched.isSome then .next (s.qPoint st ok (s.qLimitPassed c)) else .next s
  | none => .next s

/-- The directory after a commit: the new tuning is current, the old one previous. -/
def Dir.commit (d : Dir) (exchange : Bool) (n : W32) : Dir :=
  { d with cur := if exchange then d.prev else d.pend, prev := d.cur, curNum := n, prevNum := d.curNum, pend := none, pendState := 0,
           pendNum := 0 }

/-- TUNING_COMMIT (R409): every stall has switched. The device is sealed (R415). -/
def execTuningCommit (flashOk : Bool) (s : State) : Res :=
  match s.tun.change with
  | some c =>
    if c.ph ≠ .mixed ∨ ¬ s.qAll ∨ ¬ s.pwr.coreClocks then .next s
    else if flashOk then
      let s := s.writeDir (s.dir.commit c.exchange c.newNum)
      let s := { s with tun := { s.tun with regs := c.new, live := c.new, curNum := c.newNum, curDigest := c.newDigest, sealed_ := true,
                                            change := none, dirty := false } }
      .next ((s.ledger 0x0904 0 0x00 0 none c.oldNum.toNat c.newNum.toNat c.lastQ).tunResult trOk)
    else .next (s.changeFails 4 0)
  | none => .next s

/-- TUNING_REVERT (R412): at the next fret boundary the switched L groups run the old values. -/
def execTuningRevert (bad : Option (Fin 32)) (s : State) : Res :=
  match s.tun.change with
  | some c =>
    if ¬ s.gridOk 2 ∨ ¬ s.pwr.coreClocks ∨ c.ph ≠ .rollingBack ∨ c.lDone ∨ c.stuck ∨ s.clock < c.at_.getD 0 then .next s
    else
      let gs := changedGroups s.tun.live c.old
      let s := s.switchGroups c.old (upTo bad gs)
      match badIn bad gs with
      | some g => .next (s.revertFails c (groupNo g))
      | none => .next ((s.setChange (some { c with lDone := true })).tryRolled)
  | none => .next s

/-! ### The other operations of TUN_CMD (R414, R415) -/

/-- APPLY_AT_RESET: the pending tuning is marked for the next reset; check 7 is skipped. -/
def State.applyAtReset (s : State) : State :=
  match s.pending? with
  | none => s.tunResult trBadState
  | some x => s.tunValid x true [1, 2, 3, 4, 5, 6, 9] 3 fun s => (s.writeDir { s.dir with pendState := 2 }).tunResult trOk

def execApplyAtReset (f : FnNo) (s : State) : Res := .next (s.tunCmd f State.applyAtReset)

/-- ROLLBACK in STABLE: live where every class B field agrees, else at the next reset. A staged tuning is dropped. -/
def State.rollbackStable (s : State) : State :=
  match s.slotImg s.dir.prev with
  | none => s.tunResult trBadState
  | some x =>
    if (s.tun.live.differsB x.regs).isNone then
      if s.atResult ≠ trOk then s.tunResult s.atResult
      else s.tunValid x true [1, 2, 3, 4, 5, 6, 9] 4 fun s =>
        (if s.dir.pend.isSome then s.writeDir s.dir.drop else s).changeStart x true
    else s.tunValid x true [1, 2, 3, 4, 5, 6, 9] 4 fun s =>
      (s.writeDir { s.dir with pend := s.dir.prev, pendState := 2, pendNum := s.dir.prevNum }).tunResult trOk

/-- ROLLBACK: while PREPARING or MIXED the change fails (R412); while it rolls back already, nothing changes. -/
def State.rollback (s : State) : State :=
  match s.tun.change with
  | some c =>
    match c.ph with
    | .preparing => s.changeFails 1 0
    | .ready => s.changeFails 1 0
    | .mixed => s.changeFails 3 0
    | .rollingBack => s
  | none => if s.tun.cmd.busy then s else s.rollbackStable

def execRollback (f : FnNo) (s : State) : Res :=
  if ¬ s.regOk f ∨ ¬ s.isOper f then .next s else .next s.rollback

/-- DISCARD: no pending tuning remains. -/
def State.discard (s : State) : State :=
  if s.dir.pend.isSome then (s.writeDir s.dir.drop).tunResult trOk else s.tunResult trBadState

def execDiscard (f : FnNo) (s : State) : Res := .next (s.tunCmd f State.discard)

/-- CAPTURE: the unsigned body of the present register values and route tables, the records of R399 with their bytes, goes to TUN_ARG0, on an unsealed
device only. -/
def execCapture (f : FnNo) (s : State) : Res :=
  .next (s.tunCmd f fun s =>
    if s.tun.sealed_ then s.tunResult trDenied else (s.drive (.capture f s.tun.arg0 s.tun.regs.body)).tunResult trOk)

/-- UNSEALED_FIELD_APPLY (R415): written L and Q fields take effect at the next fret boundary; B fields wait for a tuning and a reset. -/
def execUnsealedFieldApply (s : State) : Res :=
  if ¬ s.gridOk 2 ∨ ¬ s.pwr.coreClocks ∨ ¬ s.tun.dirty ∨ s.tun.sealed_ ∨ s.clock < s.tun.dirtyAt then .next s
  else
    let s := s.switchGroups s.tun.regs (changedGroups s.tun.live s.tun.regs)
    let s := { s with tun := { s.tun with live := s.tun.live.takeQ s.tun.regs, dirty := false } }
    .next (forEach s.liveStalls s fun st s => s.modStall st fun x => { x with qTimer := s.tun.live.timer, qCheckNew := s.tun.live.mtxCheck })

end Sys2Proof.Machine
end

