-- ==== Sys2Proof/Machine/Boot.lean ====
section
/-! DEFINITION. Start-up and device-wide resets (R10, R220, R389, R416 to R419, R426, R428, R439, R470): power-on, the choice of a
firmware bank and of a tuning, boot stops, READY, device reset, power-down. -/

namespace Sys2Proof.Machine

/-! ### What a reset leaves (Table 16.12) -/

/-- Every register at its reset value, no stall, memory zero. The NV image, the pins and what the block has driven stay; a device reset
also keeps the internal ledger buffer. THERMTRIP_N and the stop of the core clocks outlast a reset (R447). -/
def State.afterReset (s : State) (keepBuf : Bool) : State :=
  { State.reset with
    pending := s.pending, out := s.out, rnd := s.rnd, nv := s.nv, pins := s.pins, keyEra := s.keyEra + 1
    led := { buf := if keepBuf then s.led.buf else [] }
    pwr := { brakePin := s.pwr.brakePin, trip := s.pins.thermtrip, coreClocks := s.pins.pwrok && !s.pins.thermtrip, selfRefresh := s.pins.thermtrip } }

/-! ### Boot stops (R418) -/

/-- The boot stops: STOPPED, the cause, event 0x0901. ALERT_N follows from the state. -/
def State.bootStop (s : State) (cause unit : Nat) : State :=
  ({ s with tun := { s.tun with boot := .stopped, bootCause := cause } }).ledger 0x0901 3 0x00 0 none cause unit

/-! ### Firmware banks (R425, R426) -/

def State.bank (s : State) (i : Nat) : Bank := (s.nv.banks[i]?).getD ({} : Bank)
def State.setBank (s : State) (i : Nat) (b : Bank) : State := { s with nv := { s.nv with banks := s.nv.banks.set i b } }
def State.bankState (s : State) (i : Nat) (v : Byte) : State := s.setBank i { s.bank i with state := v }

/-- A firmware image is usable: its form holds, both signatures verify and its SVN is at or above the floor. -/
def State.fwUsable (s : State) (x : FwImg) : Bool := x.formOk && x.rsaOk && x.slhOk && decide (s.nv.floor ≤ x.svn)

/-- VERSION of a usable bank with a given STATE. -/
def State.bankCand (s : State) (v : Byte) (i : Nat) : Option Nat :=
  match (s.bank i).img with
  | some x => if s.fwUsable x ∧ (s.bank i).state = v then some x.version.toNat else none
  | none => none

/-- The usable bank with STATE `v` and the higher VERSION. -/
def State.bankWith (s : State) (v : Byte) : Option Nat :=
  match s.bankCand v 0, s.bankCand v 1 with
  | some a, some b => if a < b then some 1 else some 0
  | some _, none => some 0
  | none, some _ => some 1
  | none, none => none

/-- The bank that runs, and its SVN. -/
def State.runBank (s : State) (i : Nat) : State :=
  { s with sec := { s.sec with bank := i, svn := match (s.bank i).img with
    | some x => x.svn
    | none => 0 } }

/-- A bank whose try never reached READY is failed (R426). -/
def State.bankFails (s : State) : State := forEach [0, 1] s fun i s => if (s.bank i).state = 0x7F then s.bankState i 0 else s

/-- BANK_CHOOSE, after that: a new bank, a good one, or the superseded one with event 0x0B01. -/
def State.bankChoose (s : State) : Option State :=
  match s.bankWith 0xFF with
  | some i => some ((s.bankState i 0x7F).runBank i)
  | none =>
    match s.bankWith 0x3F with
    | some i => some (s.runBank i)
    | none =>
      match s.bankWith 0x1F with
      | some i => some ((s.runBank i).ledger 0x0B01 2 0x00 0 none i (1 - i))
      | none => none

/-! ### The choice of a tuning (R416) -/

/-- usable(s): every check but 7 and 8; a tuning found not usable is an event 0x0902 with ARG3 = 0x10. Answers the failing check. -/
def State.usable (s : State) (k : Option (Fin 3)) (num : W32) : State × Option TunImg × Nat :=
  match k with
  | none => (s, none, 0)
  | some _ =>
    match s.slotImg k with
    | none => (s.tunRejected num 2 noRecord 0x10, none, 2)
    | some x =>
      match s.tunCheck x false [1, 2, 3, 4, 5, 6, 9] with
      | some (c, r) => (s.tunRejected x.number c r 0x10, none, c)
      | none => (s, some x, 0)

/-- TUN_STATUS.SOURCE. -/
def srcCur : Nat := 0
def srcPrev : Nat := 1
def srcPend : Nat := 2
def srcFactory : Nat := 3

/-- What the procedure chooses: the state, the tuning (none: factory), its source, the tunings intended but not booted with their check
codes, and whether event 0x0907 is due. -/
structure Chosen where
  s : State
  img : Option TunImg
  source : Nat
  missed : List (W32 × Nat) := []
  unsealed : Bool := false

/-- The last steps of the procedure: current, then previous, then factory. -/
def State.chooseOld (s : State) (missed : List (W32 × Nat)) : Chosen :=
  let d := s.dir
  let (s, a, ca) := s.usable d.cur d.curNum
  match a with
  | some x => { s := s, img := some x, source := srcCur, missed := missed }
  | none =>
    let (s, b, _) := s.usable d.prev d.prevNum
    match b with
    | some x => { s := s, img := some x, source := srcPrev, missed := missed ++ [(d.curNum, ca)] }
    | none => { s := s, img := none, source := srcFactory, missed := missed, unsealed := true }

/-- choose(). -/
def State.choose (s : State) : Chosen :=
  match s.nv.dir with
  | none => { s := s, img := none, source := srcFactory }
  | some d =>
    let s := if d.pendState = 3 then s.writeDir { d with pendState := 4 } else s
    let m := if d.pendState = 3 then [(d.pendNum, 0)] else []
    if d.pendState = 2 then
      let s := s.writeDir { d with pendState := 3 }
      let (s, a, c) := s.usable d.pend d.pendNum
      match a with
      | some x => { s := s, img := some x, source := srcPend }
      | none => (s.writeDir { s.dir with pendState := 4 }).chooseOld [(d.pendNum, c)]
    else s.chooseOld m

/-- TUNING_CHOOSE: the events that the choice writes, the registers at the tuning's values, class B in effect. -/
def State.tuningChoose (s : State) : State :=
  let c := s.choose
  let num : W32 := match c.img with
    | some x => x.number
    | none => 0
  let r : TunRegs := match c.img with
    | some x => x.regs
    | none => {}
  let dig := match c.img with
    | some x => x.digest
    | none => Config.sha384 (c.s.nv.factory.tuning.map BitVec.toNat)
  let s := forEach c.missed c.s fun e s => s.ledger 0x0906 2 0x00 0 none e.1.toNat num.toNat e.2
  let s := if c.unsealed then s.ledger 0x0907 1 0x00 0 none else s
  let s := { s with tun := { s.tun with regs := r, live := s.tun.live.takeB r, source := c.source, curNum := num, curDigest := dig } }
  if fld r.portCfg 1 0 = 3 then s.cfgDropped s.operFn 0x100 3 else s

/-! ### Dies, stacks and fences (R10, R219, R220, R389) -/

/-- The die that fails its self-test, as a unit; of several the first, compute dies before link dies (DESIGN CHOICE, log entry 158: R10 speaks of one). -/
def badDie (b : BootIn) : Option Nat :=
  match (List.range 6).find? fun d => !b.diesOk.toNat.testBit d with
  | some d => some (if d < 4 then unitCode 0x01 d else unitCode 0x02 (d - 4))
  | none => none

/-- A stack that fails PHY training: event 0x0504, the health record. -/
def State.stackUntrained (s : State) (k : Nat) : State :=
  if tget 0 s.nv.health.stks k = 2 then s
  else (s.setHealth { s.nv.health with stks := tset 0 s.nv.health.stks k 2 }).ledger 0x0504 3 0x08 k none k 1

/-- The state of a stack as the health record has it, with its hard pins. -/
def Health.stack (h : Health) (k : Nat) : Stack :=
  { st := match tget 0 h.stks k with
      | 0 => .healthy
      | 1 => .degraded
      | _ => .failed
    hard := (h.hard.filter fun e => e.1 == k).map (·.2) }

/-- Failed stacks leave the map, fence maps and stack states are those of the health record. -/
def State.loadHealth (s : State) : State :=
  let h := s.nv.health
  { s with
    mem := { s.mem with stks := (List.range 12).foldl (fun t k => tset {} t k (h.stack k)) [],
                        mapStks := (List.range 12).filter fun k => tget 0 h.stks k != 2 }
    led := { s.led with arrFenced := h.arrays, coreFenced := h.cores } }

/-- Optical engines found failed, reported in the health record (R19). -/
def State.enginesLost (s : State) (es : List Nat) : State :=
  s.setHealth { s.nv.health with engines := es.foldl (fun l e => insertSorted e l) s.nv.health.engines }

/-- The first failed stack. -/
def State.failedStack (s : State) : Nat := ((List.range 12).find? fun k => tget 0 s.nv.health.stks k == 2).getD 0

/-! ### The boot sequence (R417, Table 16.11) -/

/-- Host ports ready to train begin link training. -/
def State.hostTrain (s : State) : State := forEach ((List.range 4).filter s.portTrains) s fun p s => s.drive (.link p true)

/-- A stopped boot: the trained host ports' PFs enumerate where link die 0 passed. -/
def State.stopped (s : State) (cause unit : Nat) (b : BootIn) : State :=
  let t := s.bootStop cause unit
  ({ t with tun := { t.tun with noHost := !b.diesOk.toNat.testBit 4 } }).hostTrain

/-- The digest of the running bank. -/
def State.bankDigest (s : State) : BitVec 384 := match (s.bank s.sec.bank).img with | some x => x.digest | none => 0

/-- The SHA-384 of the factory layer's boot block and factory firmware (R429, Table 17.4). -/
def FactoryLayer.digest (x : FactoryLayer) : BitVec 384 := Config.sha384 ((x.bootBlock ++ x.firmware).map BitVec.toNat)

/-- The key pair of a CDI (R429): the SLH-DSA seeds are the first 72 bytes of the DRBG's output, the RSA primes come from the bytes that follow. -/
def keyPair (cdi : BitVec 384) : KeyPair := { rsa := Config.rsaKeyGen cdi 72, slh := Config.slhKeyGen ((List.range 72).map (Config.drbg cdi)) }

/-- The ROM reads the UDS, once, and locks it (R423); CDI_0 is over the factory layer, and from it come the DeviceID and its digest (R429, R430). -/
def State.romStart (s : State) : State :=
  let c := Config.hmac384 s.nv.uds [s.nv.factory.digest.toNat]
  let k := keyPair c
  { s with sec := { s.sec with udsLocked := true, cdi0 := c, deviceId := k, device := (Config.sha384 (Config.rsaSpki k.rsa)).extractLsb' 0 128 } }

/-- The Alias layer (R429): CDI_1 is over the running bank, its SVN and the debug level; the Alias certificates are signed by the DeviceID keys. -/
def State.identity (s : State) : State :=
  let c := Config.hmac384 s.sec.cdi0 [s.bankDigest.toNat, s.sec.svn, s.sec.debug]
  let k := keyPair c
  let body := [k.rsa.toNat, k.slh.toNat]
  { s with sec := { s.sec with cdi1 := c, aliasId := k,
                               aliasCert := body ++ [Config.rsaSign s.sec.cdi0 "CERTIFICATE" body, Config.slhSign s.sec.cdi0 "CERTIFICATE" body] } }

/-- The factory layer verifies (R424): its keys have the digests in fuses, and both signatures hold. -/
def State.factoryOk (s : State) (b : BootIn) : Bool := b.rsaKey == s.nv.vendorRsa && b.slhKey == s.nv.vendorSlh && b.rsaOk && b.slhOk

/-- The sequence up to the point where READY is due, or a boot stop. `level2`: a vendor debug token was accepted before the reset. -/
def State.boot (s : State) (b : BootIn) (level2 : Bool) : State :=
  let s := s.romStart
  if ¬ s.factoryOk b then s.stopped 4 0 b
  else
    let s := s.bankFails
    match s.bankChoose with
    | none => s.stopped 3 0 b
    | some s =>
      let s := { s with sec := { s.sec with debug := if level2 || !s.nv.production then 2 else 0 } }
      let s := s.identity.tuningChoose
      match badDie b with
      | some u => s.stopped 1 u b
      | none =>
        let s := forEach ((List.range 12).filter fun k => !b.stacksOk.toNat.testBit k) s fun k s => s.stackUntrained k
        let s := (s.enginesLost ((List.range 16).filter fun e => !b.enginesOk.toNat.testBit e)).loadHealth
        if s.mem.mapStks.length ≤ 8 then s.stopped 2 (unitCode 0x08 s.failedStack) b else s.hostTrain

/-- Host ports in L0 leave it. -/
def State.portsLeave (t : State) (l0 : BitVec 4) : State := forEach ((List.range 4).filter fun p => l0.toNat.testBit p) t fun p t => t.drive (.link p false)

/-- A device reset (R419): every host port leaves L0, a tuning change is abandoned with event 0x0905, cause 4, and the boot runs. -/
def State.deviceReset (s : State) (b : BootIn) : State :=
  let t := (s.afterReset true).portsLeave s.hosts.l0
  let t := match s.tun.change with
    | some c => t.ledger 0x0905 2 0x00 0 none c.oldNum.toNat c.newNum.toNat 4
    | none => t
  t.boot b s.sec.debugNext

/-- RESET_DEVICE: TUN_CMD's reset. -/
def execResetDevice (f : FnNo) (b : BootIn) (s : State) : Res := .next (s.tunCmd f fun s => s.deviceReset b)

/-- POWER_ON: PWROK rises. -/
def execPowerOn (b : BootIn) (s : State) : Res :=
  if s.pins.pwrok then .next s
  else .next (({ s with pins := { s.pins with pwrok := true } }).afterReset false |>.boot b false)

/-- BOOT_TIMEOUT: READY is not reached 2 s after power good; the W7 resets itself. -/
def execBootTimeout (b : BootIn) (s : State) : Res :=
  if s.pins.pwrok ∧ s.tun.boot = .booting ∧ s.ns 2000000000 ≤ s.elapsed then .next (s.deviceReset b) else .next s

/-! ### READY (R415 to R417, R426, R428) -/

/-- Stall 0: every core, bound to the operator function (R340). -/
def State.stallZero (s : State) : State :=
  s.setStall 0
    { st := .active, func := s.operFn, coreMask := BitVec.ofNat 192 (2 ^ 192 - 1), maxCtx := 192, quantum := 4096, qTimer := s.tun.live.timer,
      qCheck := s.tun.live.mtxCheck, qCheckNew := s.tun.live.mtxCheck, fraction := s.fractionSet 0 s.tun.live.mtxCheck,
      rkey := Config.random s.rnd }

/-- The bank that booted is good; the other one, if it was, is superseded. -/
def State.bankReady (s : State) : State :=
  let i := s.sec.bank
  if (s.bank i).state = 0x7F then
    let s := s.bankState i 0x3F
    if (s.bank (1 - i)).state = 0x3F then s.bankState (1 - i) 0x1F else s
  else s

/-- The SVN floor rises to the running bank's SVN (event 0x0B02); it never falls. -/
def State.raiseFloor (s : State) : State :=
  if s.nv.floor < s.sec.svn then
    ({ s with nv := { s.nv with floor := s.sec.svn } }).ledger 0x0B02 0 0x00 0 none s.nv.floor s.sec.svn
  else s

/-- COMMIT_SVN is allowed: the running bank is good. -/
def State.svnMay (s : State) : Bool := (s.bank s.sec.bank).state == 0x3F

/-- A tuning that was tried is current from READY on. -/
def State.triedCommit (s : State) : State :=
  if s.tun.source = srcPend ∧ s.dir.pendState = 3 then s.writeDir (s.dir.commit false s.tun.curNum) else s

/-- Every field of the chosen tuning takes effect; sealed where a user tuning runs. -/
def State.fieldsReady (s : State) : State :=
  let s := { s with tun := { s.tun with live := s.tun.regs, boot := .ready, sealed_ := s.tun.source != srcFactory } }
  { s with str := { s.str with ctlUsed := s.tun.live.strCtl, wireUsed := s.tun.live.strWire } }

/-- The directory, the bank and, with AUTO_SVN, the SVN floor are committed. -/
def State.bootCommit (s : State) : State :=
  let s := s.triedCommit.bankReady
  if bitAt s.tun.live.secCtl 31 ∧ s.svnMay then s.raiseFloor else s

/-- BOOT_READY: class L and Q fields in effect, stall 0 created, directory, bank and SVN committed, enabled ports begin training. -/
def execBootReady (s : State) : Res :=
  if ¬ s.pins.pwrok ∨ s.tun.boot ≠ .booting then .next s
  else .next (forEach (List.range 16) s.fieldsReady.stallZero.fresh.brakeNow.bootCommit fun p s => s.trainStart p)

/-! ### Power-down (R470) -/

/-- POWER_DOWN: PWROK falls. Every clock stops and the outputs go to their reset states, whatever is in flight. -/
def execPowerDown (s : State) : Res :=
  if s.pins.pwrok then .next ((({ s with pins := { s.pins with pwrok := false } }).afterReset false).portsLeave s.hosts.l0) else .next s

/-- CORE_RAIL_REMOVE: every core rail is below 50% of nominal, and THERMTRIP_N is released. -/
def execCoreRailRemove (s : State) : Res := .next { s with pins := { s.pins with thermtrip := false } }

end Sys2Proof.Machine
end

