-- ==== Sys2Proof/Machine/CollDispatch.lean ====
section
/-! DEFINITION. The dispatch of collectives in both forms (R278 to R281, R288, R299): checks, reservation, and CXI. -/

namespace Sys2Proof.Machine

/-! ### The check (R275, R276, R279, R280) -/

/-- Words 1 to 7 of the descriptor (Table 12.2, R279): the byte offset of the first word at fault. -/
def Coll.wordBad (c : Coll) : Option Nat :=
  let w := fun i hi lo => fld (c.w i) hi lo
  let red := c.op ≤ 1
  if 6 < c.op ∨ c.red = 3 ∨ ¬ (c.dfmt ≤ 4 ∨ c.dfmt = 15) ∨ (red ∧ 4 < c.dfmt) ∨ (¬ red ∧ (c.red ≠ 0 ∨ c.wfmt ∨ c.acc)) ∨ c.sealMode = 3 ∨
      (c.op = 5 ∧ c.dfmt ≠ 0) ∨ (c.op = 6 ∧ (c.dfmt ≠ 0 ∨ ¬ c.gated)) ∨ (c.op ≠ 2 ∧ (c.sealMode ≠ 0 ∨ c.policy ∨ c.keep)) ∨ w 1 46 32 ≠ 0 then some 8
  else if w 2 63 57 ≠ 0 ∨ c.setAddr % 64 ≠ 0 then some 16
  else if w 3 63 57 ≠ 0 ∨ c.extAddr % 16 ≠ 0 ∨ (c.op = 6 ∧ c.extAddr ≠ 0) then some 24
  else if w 4 63 57 ≠ 0 ∨ (c.op = 6 ∧ c.src ≠ 0) then some 32
  else if w 5 63 57 ≠ 0 ∨ (c.op = 6 ∧ c.dst ≠ 0) then some 40
  else if w 6 7 0 ≠ 0 ∨ (c.op = 6 ∧ c.w 6 ≠ 0) then some 48
  else if (if c.op = 6 then c.w 7 ≠ 0 else w 7 63 48 = 0 ∨ w 7 47 28 = 0) ∨ (c.op ≠ 3 ∧ c.root ≠ 0) then some 56
  else none

/-- The rules that need the tables: the offset of the first field at fault. -/
def State.tablesBad (s : State) (c : Coll) : Option Nat :=
  let x := s.stall c.stall
  let routed := fun (p : Piece) => p.bytes = 0 ∨ p.member = c.me ∨ c.routes.any fun r => r.1 == p.member
  let ds := c.dstSpans.filter fun d => d.2 != 0
  let inSet : Bool := match x.setFor c.step with | some ms => c.members.all ms.contains | none => false
  if c.ringOp ∧ c.nstripe = 0 ∧ 1 < c.n then some 10
  else if c.op = 3 ∧ c.n ≤ c.root then some 56
  else if c.op = 3 ∧ (if c.me = c.root then c.dst else c.src) ≠ 0 then some (if c.me = c.root then 40 else 32)
  else match c.sends.findIdx? fun p => !decide (routed p) with
    | some i => some (if c.op = 4 then 16 * i else 16 + 32 * i)
    | none =>
      if c.op ≠ 6 ∧ c.step ≠ 0 ∧ ¬ inSet then some 8
      else if c.acc ∧ ¬ c.dstSpans.all fun d => x.regionHolds d.1 d.2 then some 40
      else if ¬ c.acc ∧ ds.any fun d => x.regionHit d.1 d.2 then some 40
      else if c.op ≠ 6 ∧ (s.coll? c.stall c.num).isSome then some 56
      else none

/-- The check at dispatch: the collective with its tables, or a status, the offset at fault, and what was read of the collective by then (its
set gets the LEAVE of R301). -/
def State.collCheck (s : State) (c : Coll) : Except (MemErr × Coll) Coll :=
  match c.wordBad with
  | some o => .error (badTab o, c)
  | none => match s.rankSet c with
    | .error e => .error (e, c)
    | .ok c => match s.extTable c with
      | .error e => .error (e, c)
      | .ok c => match s.tablesBad c with
        | some o => .error (badTab o, c)
        | none => .ok c

/-! ### Dispatch (R281, R288, R299, R379) -/

/-- What a member lands from itself is landed; a set of one is then complete (R281). -/
def State.collLand (s : State) (c : Coll) : State :=
  match s.landOwn c with
  | .ok s c =>
    let s := s.setColl c
    if 1 < c.n then s
    else if ¬ c.allLanded then s
    else if c.op = 5 then s.permuteEnd c
    else s.collFinish c
  | .fail m => s.collErr c m
  | .full => s.collEnd { c with fenced := c.missing.take 1 } stIncomplete
  | .size => s.collEnd c stSizeMismatch

/-- A collective that passed its check is dispatched: its step is open, its reservation made, or it ends at once. -/
def State.collAccept (s : State) (c : Coll) : State :=
  let start := s.clockOf (c.w 6).toNat
  let c := { c with start := start, deadline := start + 256 * fld (c.w 7) 47 28, attempt := (s.stall c.stall).attemptOf c.step }
  if c.op = 6 then (s.modStall c.stall fun x => { x with stepSet := some (c.step, c.members) }).collEnd c 0
  else
    let s := if c.step = 0 then s else s.modStall c.stall fun x => x.setStep { x.stepRec c.step with open_ := true }
    let lb := c.wantLb
    let hold (c : Coll) : State := ({ s with colls := s.colls ++ [c] }).modStall c.stall fun x => { x with lbHeld := x.lbHeld + lb }
    if c.n ≤ 1 then
      let c := { c with start := s.clock, lb := lb }
      if s.canReserve c lb then (hold c).collLand { c with ph := .sending } else s.collEnd { c with lb := 0 } stStagingShort
    else if ¬ s.onString ∨ s.clock < s.str.acceptFrom then s.collEnd c stStringLost (quiet := true)
    else if c.start < s.clock + subPerFret then s.collEnd c stLateStart
    else if ¬ s.canReserve c lb then s.collEnd c stStagingShort
    else
        let s := forEach c.routes s fun r s => s.modPort r.2.1 fun x =>
          { x with leases := x.leases.map fun l => if l.flow = r.2.2 ∧ s.routeHeld c r then { l with due := c.deadline } else l }
        ({ s with colls := s.colls ++ [{ c with lb := lb }] }).modStall c.stall fun x => { x with lbHeld := x.lbHeld + lb }

/-- A collective as its descriptor gives it. -/
def mkColl (id stall : Nat) (ws : List W64) (ring : Option (Nat × W32)) (issue : Option Issue) : Coll :=
  { id := id, stall := stall, num := fld ((ws[7]?).getD 0) 63 48, words := ws, ring := ring, issue := issue }

/-- The ring form: the head descriptor of ring `r`, of OP `op` (a reserved OP fails its check whatever row commands it). -/
def State.ringColl (s : State) (r op : Nat) : State :=
  match s.headOf r 5 with
  | some d =>
    let st := (s.ring r).stall
    let c := mkColl (s.nextId + 1) st d.words (some (r, d.num)) none
    if ¬ (c.op = op ∨ 6 < c.op) ∨ ¬ s.collRoom then s
    else if hdrBad d.words then s.descInvalid r d.num 0
    else
      let up (s : State) : State := ({ s with nextId := s.nextId + 1 }).dispatchDesc r d.num
      match s.collCheck c with
      | .error (m, c) =>
        match s.holdFor (.desc r d.num) m with
        | some s => s
        | none => if m.cause = causeDesc then (up s).descInvalid r d.num m.addr else (up s).collFault c m
      | .ok c => (up s).collAccept c
  | none => s

/-- ALL_REDUCE (R282). -/
def execAllReduce (r : RingNo) (s : State) : Res := .next (s.ringColl r 0)
/-- REDUCE_SCATTER (R282). -/
def execReduceScatter (r : RingNo) (s : State) : Res := .next (s.ringColl r 1)
/-- ALL_GATHER (R282). -/
def execAllGather (r : RingNo) (s : State) : Res := .next (s.ringColl r 2)
/-- BROADCAST (R282). -/
def execBroadcast (r : RingNo) (s : State) : Res := .next (s.ringColl r 3)
/-- ALL_TO_ALL (R285). -/
def execAllToAll (r : RingNo) (s : State) : Res := .next (s.ringColl r 4)
/-- PERMUTE (R290). -/
def execPermute (r : RingNo) (s : State) : Res := .next (s.ringColl r 5)
/-- STEPSET (R299). -/
def execStepset (r : RingNo) (s : State) : Res := .next (s.ringColl r 6)

/-! ### The issue form (R157, R158, R278) -/

/-- Word 0 of the issue form. -/
def cxiRes (d : Desc) : Nat := fld ((d.words[0]?).getD 0) 63 40
def cxiTok (d : Desc) : Nat := fld ((d.words[0]?).getD 0) 35 32
def cxiBad (d : Desc) : Bool :=
  let w := (d.words[0]?).getD 0
  fld w 39 36 != 0 || fld w 31 0 != 0 || cxiRes d == 0 || cxiRes d % 16 != 0 || decide (localEnd < cxiRes d + 16)

/-- The issue can dispatch: its token counter is below 255 and the device has room. -/
def State.cxiRoom (s : State) (gr : Group) (d : Desc) : Bool := decide (gr.token (cxiTok d) < Config.tokenMax) && s.collRoom

/-- An issue whose tables lie in a poisoned unit of a GOLDEN block: the read is held (R207), and the issue with it. -/
def State.cxiHeld (s : State) (st : Nat) (d : Desc) : Option State :=
  match s.collCheck (mkColl 0 st d.words none none) with
  | .error (m, _) => if cxiBad d then none else s.holdFor (.engine st) m
  | .ok _ => none

/-- The collective of an issue is dispatched and its token counter rises; a failed check faults the context. -/
def State.cxiEnter (s : State) (c slot n : Nat) (x : Ctx) (gr : Group) (d : Desc) (pc mask : Nat) : State :=
  let i : Issue := { core := c, slot := slot, serial := gr.serial, ctx := n, res := cxiRes d, token := cxiTok d }
  let q := mkColl (s.nextId + 1) x.stall d.words none (some i)
  let bad (off : Nat) (s : State) : State :=
    s.ctxFault n { cause := causeDesc, pc := pc, mask := mask, slot := slot, arg2 := d.addr + off * 2 ^ 32, core := c, opc := 0x72 }
  if cxiBad d then bad 0 s
  else
    let up (s : State) : State :=
      ({ s with nextId := s.nextId + 1 }).setGroup c slot { gr with tokens := tmod 0 gr.tokens (cxiTok d) (· + 1) }
    match s.collCheck q with
    | .error (m, q) => if m.cause = causeDesc then bad m.addr s else (up s).collFault q m
    | .ok q => (up s).collAccept q

/-- CXI. -/
def execCxi (c : CoreNo) (g : SlotNo) (w : W64) (s : State) : Res :=
  .next (s.issue c g w 0x72 { form := .fG, listed := wMod w == 0, a := .reg } fun e s =>
    match e.ex with
    | [] => e.retire e.gr s
    | l :: _ =>
      match e.uniform with
      | none => e.fault 0x0D (e.rA l) s
      | some a =>
        let k := s.core e.c
        if a % 64 ≠ 0 ∨ localEnd < a + 64 then e.fault causeDesc a s
        else if k.poisoned a 64 then e.fault causePoison a s
        else
          let d : Desc := { addr := a, words := (List.range 8).map fun i => BitVec.ofNat 64 (ofBytes (k.rd (a + 8 * i) 8)) }
          let waits (s : State) : State := s.setGroup e.c e.g { e.gr with held := .cxi d }
          if s.cxiRoom e.gr d then
            match s.cxiHeld e.x.stall d with
            | some s => waits s
            | none =>
            let s := e.retire e.gr s
            match s.group? e.c e.g with
            | some gr => s.cxiEnter e.c e.g e.n e.x gr d e.pc e.act
            | none => s
          else waits s)

/-- HELD_ISSUE_RETRY (R158, R90, R91): an issue held on a full queue, a token counter at 255 or the number of collectives enters once
there is room; a pass that waited names no array fenced meanwhile, or faults (R101). In slot 0 it also resumes a copy that a golden refill held (R207). -/
def execHeldIssueRetry (c : CoreNo) (g : SlotNo) (s : State) : Res :=
  match s.ctxOf c, s.group? c g with
  | some (n, x), some gr =>
    let k := s.core c
    let go (s : State) : State :=
      match s.group? c g with
      | some gr => (s.setGroup c g gr.release).modCore c fun k => { k with lastRetire := s.clock }
      | none => s
    if x.st ≠ .running ∨ ¬ s.issues x.stall then .next s
    else match gr.held with
      | .mxi d =>
        match s.fencedArray c d with
        | some ar =>
          let (pc, mask) := gr.topPath
          .next (s.ctxFault n { cause := 0x0F, pc := pc, mask := mask, slot := g, arg2 := d.addr, core := c, opc := 0x70, array := some ar })
        | none => if k.mtxRoom gr d then .next (go (s.mtxEnter c g x gr d)) else .next s
      | .vxi d => if k.vecRoom gr d then .next (go (s.vecEnter c g x gr d)) else .next s
      | .cxi d =>
        if s.cxiRoom gr d then
          match s.cxiHeld x.stall d with
          | some s => .next s
          | none =>
            let (pc, mask) := gr.topPath
            let s := go s
            match s.group? c g with
            | some gr => .next (s.cxiEnter c g n x gr d pc mask)
            | none => .next s
        else .next s
      | _ => if x.kind ≠ .kernel ∧ g.val = 0 ∧ x.entriesLeft ≠ [] then .next (s.streamIssue c n x x.entriesLeft) else .next s
  | some (n, x), none => if x.st = .running ∧ g.val = 0 ∧ x.copyHeld.contains c then .next (s.copyResume n x c) else .next s
  | none, _ => .next s

end Sys2Proof.Machine
end

