-- ==== Sys2Proof/Machine/CollMove.lean ====
section
/-! DEFINITION. The movement of a collective's data (R277, R282 to R287, R290, R292, R302): START, segments sent and packets received. -/

namespace Sys2Proof.Machine

/-- COLLECTIVE_START (R286): at the START boundary the routes are checked, own pieces land and sending begins. -/
def execCollectiveStart (st : StallNo) (n : W16) (s : State) : Res :=
  match s.coll? st n.toNat with
  | some c =>
    if ¬ s.gridOk 3 ∨ ¬ s.startsNow c then .next s
    else if 1 < c.n ∧ ¬ c.routes.all (s.routeHeld c) then .next (s.collEnd c stPlanRefused)
    else .next (s.collLand { c with ph := .sending })
  | none => .next s

/-! ### Sending (R282, R283, R285) -/

def Coll.seg? (c : Coll) (k : SegKind) (r off : Nat) : Option Seg := c.segs.find? fun g => g.kind == k && g.shard == r && g.off == off
def Coll.dropSeg (c : Coll) (g : Seg) : Coll := { c with segs := c.segs.filter (· ≠ g) }
def Coll.stripeRoute (c : Coll) (r e : Nat) : Nat × Nat × Nat := (c.routes[c.stripeOf r e]?).getD (0, 0, 0)

/-- Send a partial sum of shard `r` from element `e` (R283): FP32, or rounded into DFMT with WFMT. -/
def State.sendSum (s : State) (c : Coll) (r e : Nat) (vs : List Nat) : State × Coll :=
  let (bs, k) := if c.wfmt then narrowAll c.dfmt vs else (f32Bytes vs, {})
  (s.tallyCounts c.stall [k.clip, k.nan]).sendSeg c (c.stripeRoute r e) 3 ((if c.wfmt then c.dfmt else 0) * 16 + c.red)
    (((c.ext r).1 + e) * c.psz) bs (0, r, e) vs.length

/-- Send delivered elements of shard `r` from element `e`. -/
def State.sendData (s : State) (c : Coll) (r e : Nat) (bs : List Byte) : State × Coll :=
  s.sendSeg c (c.stripeRoute r e) 1 0 (((c.ext r).1 + e) * c.dsz) bs (1, r, e) (bs.length / c.dsz)

/-- The first segment that starts at element `e`, of those a member sends from its own values: its element count. -/
def Coll.origin (c : Coll) (r e z : Nat) : Option Nat := ((c.segsOf r z).find? fun g => g.2.1 == e).map fun g => g.2.2

/-- A delivery and what it comes to. -/
def State.afterDeliver (s : State) (c : Coll) (next : State → Coll → State) : Delivered → State
  | .ok s c => next s c
  | .fail m => s.collErr c m
  | .full => s.collEnd { c with fenced := c.missing.take 1 } stIncomplete
  | .size => s.collEnd c stSizeMismatch

/-- The member adds its own values of its own shard last and delivers it (R282, R283); an ALL_REDUCE then gathers it. -/
def State.finalSum (s : State) (c : Coll) (e : Nat) (vs own : List Nat) : State :=
  let k := vs.length
  let (d, bs) := s.deliverSum c e (List.zipWith (reduceOp c.red) vs own)
  s.afterDeliver c (fun s c =>
    let c := { c with landed := tmod 0 c.landed 0 (· + k) }
    let cuts := (chop c.dsz (k + 1) (((c.ext c.me).1 + e) * c.dsz) 0 k).map fun g =>
      { kind := .deliver, shard := c.me, off := e + g.1, bytes := (bs.drop (g.1 * c.dsz)).take (g.2 * c.dsz) : Seg }
    s.setColl (if c.op = 0 then { c with segs := c.segs ++ cuts } else c)) d

/-- Own values of a segment read, counted (Table 14.8). -/
def State.withOwn (s : State) (c : Coll) (r e n : Nat) (f : State → List Nat → State) : State :=
  match s.ownVals c r e n with
  | .ok own => f (s.didRead c.stall (c.ownAt r e) (n * c.esz)) own
  | .error m => s.collErr c m

/-- Where the piece of a send entry begins in the receiver's DST (R286). -/
def Coll.sendBase (c : Coll) (p : Piece) : Nat := if c.op = 4 then Config.peerOffset c.stall c.num p.member else p.dstOff

/-- The segments of a piece by where they begin in it. -/
def Coll.cutsOf (c : Coll) (p : Piece) : List (Nat × Nat) := chop 1 (p.bytes + 1) (c.sendBase p) 0 p.bytes

/-- The send entries of the pieces that go over a route's port and flow, in the order of R285: member index from MY_RANK + 1, wrapping, and
the list's order for one member. -/
def Coll.routeOrder (c : Coll) (port flow : Nat) : List (Nat × Piece) :=
  let viaThis (p : Piece) : Bool := match c.routes.find? fun r => r.1 == p.member with | some r => r.2.1 == port && r.2.2 == flow | none => false
  let key (p : Piece) : Nat := (p.member + c.n - c.me) % max 1 c.n
  (((c.sends.zipIdx.filter fun p => p.1.bytes != 0 && p.1.member != c.me && viaThis p.1).map fun p => (p.2, p.1)).insertionSort fun a b => key a.2 ≤ key b.2)

/-- The segment that a route sends next (R285): its send entry and where it begins there. -/
def Coll.nextCut (c : Coll) (port flow : Nat) : Option (Nat × Nat) :=
  (c.routeOrder port flow).findSome? fun p => ((c.cutsOf p.2).find? fun g => !c.sent.contains (2, p.1, g.1)).map fun g => (p.1, g.1)

/-- A piece of a direct operation (R285): `i` is the send entry, `off` where the segment begins in it; only the next of its route goes. -/
def State.sendPiece (s : State) (c : Coll) (i off : Nat) : State :=
  match c.sends[i]? with
  | none => s
  | some p =>
    if p.member = c.me then s
    else
      match (c.cutsOf p).find? fun g => g.1 == off, c.routes.find? fun r => r.1 == p.member with
      | some (_, n), some route =>
        if c.nextCut route.2.1 route.2.2 ≠ some (i, off) then s
        else match s.rdDva c.stall (c.src + p.srcOff + off) n with
        | .error m => s.collErr c m
        | .ok bs =>
          let (s, c) := (s.didRead c.stall (c.src + p.srcOff + off) n).sendSeg c route (if c.op = 4 then 1 else 4) 0 (c.sendBase p + off) bs (2, i, off) n
          s.setColl c
      | _, _ => s

/-- What the member sends from its own memory: partial sums of its predecessor's shard, its own shard of a gather, the root's data. -/
def State.sendOwn (s : State) (c : Coll) (r e : Nat) : State :=
  if c.op ≤ 1 then
    match c.origin r e c.psz with
    | some n =>
      if r ≠ c.prev ∨ c.sent.contains (0, r, e) then s
      else s.withOwn c r e n fun s own => let (s, c) := s.sendSum c r e own; s.setColl c
    | none => s
  else if c.op ≤ 3 then
    match c.origin r e c.esz with
    | some n =>
      if ¬ (if c.op = 2 then r = c.me else r = 0 ∧ c.me = c.root) ∨ c.sent.contains (1, r, e) then s
      else match s.rdDva c.stall (c.src + e * c.esz) (n * c.esz) with
        | .error m => s.collErr c m
        | .ok bs => let (s, c) := (s.didRead c.stall (c.src + e * c.esz) bs.length).sendData c r e bs; s.setColl c
    | none => s
  else s.sendPiece c r e

/-- A staged segment is read, with symbols in error in its first unit (R201, R204): a poisoned unit ends the collective (R302). -/
def State.readStaged (s : State) (c : Coll) (g : Seg) (errs : SymErrs) (f : State → List Byte → State) : State :=
  let (s, bs, bad) := s.decodeStaged c.unit c.stall (c.stagedAt g) 0 errs g.bytes g.bad
  match bad with
  | [] => f s bs
  | i :: _ => s.collFault c ⟨causePoison, c.stagedAt g + 32 * i, 0⟩

/-- SEGMENT_FORWARD (R282): one segment is sent as soon as its input and the member's own values are held. `shard` and `off` name the
shard and its first element, or the send entry and the first byte of a direct operation; `errs` are the symbols in error in the first staged
unit that is read, `res` what the residue checks of the slice adder find where a final sum is added into DST (R386). -/
def execSegmentForward (st : StallNo) (n : W16) (shard off : Nat) (errs : SymErrs) (res : Fin 3) (s : State) : Res :=
  match s.coll? st n.toNat with
  | some c =>
    if c.ph ≠ .sending ∨ c.endWith.isSome ∨ c.n ≤ 1 then .next s
    else match c.seg? .partialSum shard off with
      | some g =>
        .next (s.readStaged c g errs fun s bs =>
          let vs := wordsOf 4 bs.length bs
          s.withOwn c shard off vs.length fun s own =>
            if shard = c.me then
              s.collResidue c (if c.missing = [] then some (c.dstAt shard off) else none) res.val fun s => s.finalSum (c.dropSeg g) off vs own
            else let (s, c) := s.sendSum (c.dropSeg g) shard off (List.zipWith (reduceOp c.red) vs own); s.setColl c)
      | none => match c.seg? .deliver shard off with
        | some g => .next (s.readStaged c g errs fun s bs => let (s, c) := s.sendData (c.dropSeg g) shard off bs; s.setColl c)
        | none => .next (s.sendOwn c shard off)
  | none => .next s

/-! ### Receiving (R277, R287, R290, R297, R302) -/

/-- A collective packet or notice discarded (R287): one entry per collective number per String. -/
def State.collDiscard (s : State) (p : Nat) (x : Pkt) : State := s.fabDiscard p 4 (pFrom x) (pColl x) (pColl x)

/-- The shard that holds `k` elements from element `o` of the tensor. -/
def Coll.shardOf (c : Coll) (o k : Nat) : Option Nat := c.extents.findIdx? fun e => decide (e.1 ≤ o ∧ o + k ≤ e.1 + e.2)

/-- Data of a ring operation accepted from the member before: partial sums (`typ` 3) or delivered elements. -/
def State.landRing (s : State) (c : Coll) (typ r e : Nat) (bs : List Byte) : State :=
  if typ = 3 then
    let vs := if c.wfmt then elems c.dfmt bs else wordsOf 4 bs.length bs
    let held (s : State) : State := s.setColl { c with segs := c.segs ++ [{ kind := .partialSum, shard := r, off := e, bytes := f32Bytes vs }] }
    if r ≠ c.me then held s
    else match s.ownVals c r e vs.length with
      | .ok own => (s.didRead c.stall (c.ownAt r e) (vs.length * c.esz)).finalSum c e vs own
      | .error m =>
        match s.holdFor (.engine c.stall) m with
        | some s => held s
        | none => s.collFault c m
  else
    s.afterDeliver c (fun s c =>
      let c := { c with landed := tmod 0 c.landed 1 (· + bs.length / c.dsz) }
      s.setColl (if c.next = (if c.op = 3 then c.root else r) then c
        else { c with segs := c.segs ++ [{ kind := .deliver, shard := r, off := e, bytes := bs }] })) (s.deliver c r e bs)

/-- Data of a direct operation from member `m`, from byte `off` of DST (R286). -/
def State.landDirect (s : State) (c : Coll) (m off : Nat) (bs : List Byte) : State :=
  let n := tget 0 c.landed m + bs.length
  let c' := { c with landed := tset 0 c.landed m n }
  if c.op = 4 then
    match s.wrDva c.stall (c.dst + off) bs with
    | .ok s => s.setColl { c' with written := c.written ++ [(c.dst + off, bs.length)] }
    | .error e => s.collFault c e
  else if c.expectFrom m < n then s.collEnd c stSizeMismatch
  else s.setColl { c' with segs := c.segs ++ [{ kind := .staged, shard := m, off := off, bytes := bs }] }

/-- The member that is asked for a shard. -/
def SealQ.member (q : SealQ) (n : Nat) : Nat := (q.shard + q.asked) % n

/-- A whole copy of a shard compared with its recorded seal (R292): it replaces the shard, or the next member is asked. -/
def State.sealCheck (s : State) (c : Coll) (q : SealQ) : State :=
  match s.rdDva c.stall (c.sealAt q.shard) 8 with
  | .error e =>
    match s.holdFor (.engine c.stall) e with
    | some s => s.setColl { c with sealQ := some q }
    | none => s.collFault c e
  | .ok e =>
    if crc64 q.got ≠ ofBytes e then s.askSeal c q.shard (q.asked + 1)
    else match s.wrDva c.stall (c.dst + (c.ext q.shard).1 * c.esz) q.got with
      | .error e => s.collFault c e
      | .ok s =>
        let s := s.ledger 0x0402 1 c.unit.1 c.unit.2 (some c.stall) c.num q.shard (q.member c.n) (oper := 0x5000)
        s.sealNext { c with sealQ := none, sealOk := c.sealOk ++ [q.shard] }

/-- All of the shard that was asked for has come. -/
def Coll.sealWhole (c : Coll) (q : SealQ) : Bool := decide ((c.ext q.shard).2 * c.esz ≤ q.got.length)

/-- A part of a copy of a shard for seal repair from the member that was asked (R292). -/
def State.sealData (s : State) (c : Coll) (q : SealQ) (bs : List Byte) : State :=
  let q := { q with got := q.got ++ bs }
  if c.sealWhole q then s.sealCheck c q else s.setColl { c with sealQ := some q }

/-- Where a packet's bytes belong, if its sender may send them (R287): the shard and element of a ring operation, the byte of a direct one. -/
def Coll.admits (c : Coll) (typ m off n : Nat) : Option (Nat × Nat) :=
  if n = 0 then none
  else if c.ringOp then
    let z := if typ = 3 then c.psz else c.dsz
    let ok := if typ = 3 then c.op ≤ 1 else typ = 1 ∧ c.op ≠ 1
    if m ≠ c.prev ∨ ¬ ok ∨ off % z ≠ 0 ∨ n % z ≠ 0 then none
    else match c.shardOf (off / z) (n / z) with
      | some r =>
        if (if typ = 3 then r = c.prev else if c.op = 3 then c.me = c.root else r = c.me) then none
        else some (r, off / z - (c.ext r).1)
      | none => none
  else if c.op = 4 then
    let q := (c.recvs[m]?).getD { member := m, bytes := 0 }
    if typ = 1 ∧ m ≠ c.me ∧ q.dstOff ≤ off ∧ off + n ≤ q.dstOff + q.bytes then some (m, off) else none
  else if c.op = 5 then (if typ = 4 ∧ m ≠ c.me then some (m, off) else none)
  else none

/-- Where the data of a packet that is admitted is added into DST at once. -/
def Coll.addsAt (c : Coll) (typ r e : Nat) : Option Nat :=
  if c.ringOp ∧ c.missing = [] ∧ (typ = 1 ∨ r = c.me) then some (c.dstAt r e) else none

/-- A collective packet that is performed; `res` is what the residue checks of the slice adder find where it is added into DST (R386). -/
def State.collPacket (s : State) (p : Nat) (x : Pkt) (res : Nat) : State :=
  match s.coll? (pDstall x) (pColl x) with
  | none => s.collDiscard p x
  | some c =>
    let lead := pAux x % 64
    let trail := pAux x / 256 % 64
    let n := x.data.length - lead - trail
    let bs := (x.data.drop lead).take n
    let off := pOffset x + lead
    match c.members.findIdx? (· == (pSrc x, pSstall x)) with
    | none => s.collDiscard p x
    | some m =>
      if (s.stall c.stall).st ≠ .active ∨ 31 < lead ∨ 31 < trail ∨ x.data.length < lead + trail then s.collDiscard p x
      else if (pAux x).testBit 15 then
        match c.sealQ with
        | some q =>
          if pType x = 1 ∧ m = q.member c.n ∧ q.asked ≤ 4 ∧ off = (c.ext q.shard).1 * c.esz + q.got.length ∧
              q.got.length + n ≤ (c.ext q.shard).2 * c.esz then
            let s := s.tally c.stall 0x40 x.data.length
            if x.poisoned then s.collFault c ⟨causePoison, c.dst + off, 0⟩ else s.sealData c q bs
          else s.collDiscard p x
        | none => s.collDiscard p x
      else match c.admits (pType x) m off n with
        | none => s.collDiscard p x
        | some (r, e) =>
          let s := s.tally c.stall 0x40 x.data.length
          if x.poisoned then s.collFault c ⟨causePoison, c.dst + off, 0⟩
          else if c.ringOp then s.collResidue c (c.addsAt (pType x) r e) res fun s => s.landRing c (pType x) r e bs
          else s.landDirect c r e bs

/-- A collective packet at its receiver: one on VC 2, a part of a copy for seal repair, in the order of its source (R265). -/
def State.collReceive (s : State) (p : Nat) (x : Pkt) (res : Nat := 0) : State :=
  if (pAux x).testBit 15 then s.inOrder p x fun s => s.collPacket p x res else s.collPacket p x res

/-- COLLECTIVE_PACKET_RECEIVE (R287): a PUT, REDUCE_PUT or PERMUTE packet with COLL ≠ 0. -/
def execCollectivePacketReceive (p : PortNo) (x : Pkt) (res : Fin 3) (s : State) : Res :=
  if ¬ s.arrives p x ∨ pColl x = 0 ∨ ¬ (pType x = 1 ∨ pType x = 3 ∨ pType x = 4) then .next s
  else if pDst x ≠ s.myId then .next (s.fabDiscard p 2 (pFrom x) 0 0)
  else .next (s.collReceive p x res.val)

end Sys2Proof.Machine
end

