-- ==== Sys2Proof/Machine/CollNotice.lean ====
section
/-! DEFINITION. The notices of the collective engine (R292 to R304, R391) and the ends of collectives: PASS, STEP_PASS, RETRACT, LEAVE,
seal queries, commit, completion, deadline. -/

namespace Sys2Proof.Machine

/-! ### Fields of a notice (R304) -/

def nKind (x : Pkt) : Nat := pAux x % 256
def nStep (x : Pkt) : Nat := recFld x.data 0 4
def nAttempt (x : Pkt) : Nat := recFld x.data 4 1
def nReason (x : Pkt) : Nat := recFld x.data 5 1
def nMember (x : Pkt) : Nat := recFld x.data 8 4
def nCrc (x : Pkt) : Nat := recFld x.data 16 8

/-- A notice of kind `k` that a port can have received for this device; `f` acts on it, in the order of its source (R265). A
poisoned one is not used. -/
def State.notice (s : State) (p : Nat) (x : Pkt) (k : Nat) (f : State → State) : State :=
  if ¬ s.arrives p x ∨ pType x ≠ 5 ∨ pLen x ≠ 1 ∨ nKind x ≠ k then s
  else if pDst x ≠ s.myId then s.fabDiscard p 2 (pFrom x) 0 0
  else if x.poisoned then s.collDiscard p x
  else s.inOrder p x fun s => f (s.tally (pDstall x) 0x40 32)

/-- A notice about an active collective from a member of its set: `f` gets the collective and the member. -/
def State.collNotice (s : State) (p : Nat) (x : Pkt) (f : Coll → Nat → State) : State :=
  match s.coll? (pDstall x) (pColl x) with
  | none => s.collDiscard p x
  | some c =>
    match c.members.findIdx? (· == (pSrc x, pSstall x)) with
    | some m => if (s.stall c.stall).st = .active then f c m else s.collDiscard p x
    | none => s.collDiscard p x

/-- A notice about a step from a member of the stall's step set. -/
def State.stepNotice (s : State) (p : Nat) (x : Pkt) (f : State) : State :=
  match (s.stall (pDstall x)).setFor (nStep x) with
  | some ms => if ms.contains (pSrc x, pSstall x) ∧ (s.stall (pDstall x)).st = .active then f else s.collDiscard p x
  | none => s.collDiscard p x

/-- PASS (R294, R295, R391). `us`: units of the collective's reservation in error as held data is added; `res`: what the residue checks of the slice
adder find then. -/
def execPass (p : PortNo) (x : Pkt) (us : UnitErrs) (res : Fin 3) (s : State) : Res :=
  .next (s.notice p x 0x01 fun s => s.collNotice p x fun c m =>
    if c.step ≠ 0 ∧ newerAttempt c.attempt (nAttempt x) then s.raiseStep c.stall c.step (nAttempt x)
    else if nAttempt x = c.attempt ∨ c.step = 0 then s.covered { c with passFrom := insertSorted m c.passFrom } us res.val
    else s)

/-- The STEP_PASS of a member for a step is held. -/
def State.heldPass (s : State) (st n : Nat) (m : Nat × Nat) : State :=
  s.modStall st fun y => let q := y.stepRec n; y.setStep { q with passFrom := if q.passFrom.contains m then q.passFrom else q.passFrom ++ [m] }

/-- STEP_PASS (R299, R391). -/
def execStepPass (p : PortNo) (x : Pkt) (s : State) : Res :=
  .next (s.notice p x 0x02 fun s => s.stepNotice p x
    (let st := pDstall x
     let a := (s.stall st).attemptOf (nStep x)
     if newerAttempt a (nAttempt x) then (s.raiseStep st (nStep x) (nAttempt x)).heldPass st (nStep x) (pSrc x, pSstall x)
     else if nAttempt x = a then s.heldPass st (nStep x) (pSrc x, pSstall x)
     else s))

/-- RETRACT (R298): of the current attempt, or of a newer one than this stall knows. -/
def execRetract (p : PortNo) (x : Pkt) (s : State) : Res :=
  .next (s.notice p x 0x03 fun s => s.stepNotice p x
    (let st := pDstall x
     let a := (s.stall st).attemptOf (nStep x)
     if nAttempt x = a ∨ newerAttempt a (nAttempt x) then s.raiseStep st (nStep x) (nAttempt x + 1) else s))

/-- LEAVE (R301): the sender is fenced and the collective ends at the next fret boundary. -/
def execLeave (p : PortNo) (x : Pkt) (s : State) : Res :=
  .next (s.notice p x 0x04 fun s => s.collNotice p x fun c m =>
    s.setColl { c with fenced := insertSorted m c.fenced, endWith := c.endWith.or (some (stIncomplete, s.nextFret)) })

/-! ### Seal repair (R292) -/

/-- The shard of a seal store sent as PUT packets on VC 2 with AUX[15] = 1, from byte `off` of the whole tensor, each tagged with the
current epoch (R293): on the collective while it is in progress, on its step in any case. -/
def State.sendKept (s : State) (x : Pkt) (k : Kept) : State :=
  let ep := s.epochNow k.stall
  let s := if k.step = 0 then s else s.modStall k.stall fun y => let q := y.stepRec k.step.toNat; y.setStep { q with epochs := addEpoch ep q.epochs }
  let s := match s.coll? k.stall k.coll with | some c => s.setColl { c with epochs := addEpoch ep c.epochs } | none => s
  forEach (chop 1 (k.bytes.length + 1) k.base 0 k.bytes.length) s fun g s =>
    let bs := (k.bytes.drop g.1).take g.2
    let off := k.base + g.1
    let lead := off % 32
    let trail := (32 - (lead + bs.length) % 32) % 32
    let q : Pkt :=
      { w0 := BitVec.ofNat 64 (1 * 2 ^ 60 + (lead + bs.length + trail) / 32 * 2 ^ 52 + pSstall x * 2 ^ 40 + pSrc x * 2 ^ 20 + s.myId)
        w1 := BitVec.ofNat 64 ((off - lead) % 2 ^ 48)
        w2 := BitVec.ofNat 64 (ep * 2 ^ 32 + k.stall)
        w3 := BitVec.ofNat 64 (pColl x * 2 ^ 48 + 0x8000 + lead + trail * 256)
        data := List.replicate lead 0 ++ bs ++ List.replicate trail 0 }
    s.sendPkt k.stall 2 (pSrc x) q

/-- SEAL_QUERY (R292): answered from a copy kept under KEEP, or with SEAL_NONE. `errs`: the symbols in error in the first unit of the copy; a poisoned
copy is not sent (R302). -/
def execSealQuery (p : PortNo) (x : Pkt) (errs : SymErrs) (s : State) : Res :=
  .next (s.notice p x 0x05 fun s =>
    let st := pDstall x
    let none_ (s : State) : State := s.notify st [(pSrc x, pSstall x)] (pColl x) 0 0x06 (nStep x) (nAttempt x) 0 (nMember x)
    match s.kept.find? fun k => k.stall == st && k.coll == pColl x && k.shard == nMember x with
    | some k =>
      if ¬ k.members.contains (pSrc x, pSstall x) then s.collDiscard p x
      else
        let (s, bs, bad) := s.decodeStaged (0x00, 0) st 0 0 errs k.bytes k.bad
        let k' := { k with bytes := bs, bad := bad }
        let s := { s with kept := s.kept.map fun h => if h = k then k' else h }
        match bad with
        | [] => s.sendKept x k'
        | i :: _ => none_ (s.noteErr 0x00 0 st 0 ⟨causePoison, 32 * i, 0⟩)
    | none =>
      match s.coll? st (pColl x), s.kept.find? fun k => k.stall == st && k.coll == pColl x with
      | some c, _ => if c.members.contains (pSrc x, pSstall x) then none_ s else s.collDiscard p x
      | none, some k => if k.members.contains (pSrc x, pSstall x) then none_ s else s.collDiscard p x
      | none, none => s.collDiscard p x)

/-- SEAL_NONE (R292): the next member is asked. -/
def execSealNone (p : PortNo) (x : Pkt) (s : State) : Res :=
  .next (s.notice p x 0x06 fun s => s.collNotice p x fun c m =>
    match c.sealQ with
    | some q => if q.shard = nMember x ∧ m = q.member c.n ∧ q.asked ≤ 4 then s.askSeal c q.shard (q.asked + 1) else s
    | none => s)

/-- SEAL_QUERY_TIMEOUT (R292): a member that was asked has not answered in 2 frets. -/
def execSealQueryTimeout (st : StallNo) (n : W16) (s : State) : Res :=
  match s.coll? st n.toNat with
  | some c =>
    match c.sealQ with
    | some q => if q.asked ≤ 4 ∧ ¬ c.sealWhole q ∧ q.since + 2 * subPerFret ≤ s.clock then .next (s.askSeal c q.shard (q.asked + 1)) else .next s
    | none => .next s
  | none => .next s

/-! ### PASS and STEP_PASS sent (R294, R299, R391) -/

/-- All the member has to send is sent and every epoch it tagged has passed. -/
def State.passReady (s : State) (c : Coll) : Bool :=
  c.sentN == c.sendAll && (s.stall c.stall).allPassed c.epochs

def State.sendPass (s : State) (c : Coll) : State :=
  s.notify c.stall c.passTo c.num (c.epochs.foldl max 0) 0x01 c.step c.attempt 0 0

/-- PASS_SEND (R294): for a collective in progress, or one that completed before its PASS was due. `us` and `res` as for
PASS. -/
def execPassSend (st : StallNo) (n : W16) (us : UnitErrs) (res : Fin 3) (s : State) : Res :=
  let due := s.passDue.find? fun c => c.stall == st.val && c.num == n.toNat && s.passReady c
  match due with
  | some c => .next (({ s with passDue := s.passDue.filter fun d => d.id != c.id }).sendPass c)
  | none =>
    match s.coll? st n.toNat with
    | some c =>
      if c.ph = .sending ∧ 1 < c.n ∧ ¬ c.passSent ∧ c.endWith.isNone ∧ s.passReady c then
        .next ((s.sendPass c).covered { c with passSent := true } us res.val)
      else .next s
    | none => .next s

/-- STEP_PASS of a step sent to its step set; the stall holds its own. -/
def State.sendStepPass (s : State) (st n : Nat) : State :=
  let x := s.stall st
  let q := x.stepRec n
  let ms := ((x.setFor n).getD []).filter fun m => m != (s.myId, st)
  s.notify st ms 0 (q.epochs.foldl max 0) 0x02 n q.attempt 0 0

/-- STEP_PASS_SEND (R299): the stall's APPLY has passed its hold and every epoch of its step has passed. -/
def execStepPassSend (st : StallNo) (s : State) : Res :=
  let x := s.stall st
  match x.upd with
  | some j =>
    let n := fld ((j.words[1]?).getD 0) 31 0
    let q := x.stepRec n
    if j.op = .apply ∧ j.ph = .gate ∧ ¬ q.sent ∧ x.allPassed q.epochs then
      .next (((s.sendStepPass st n).heldPass st n (s.myId, st)).modStall st fun y => y.setStep { y.stepRec n with sent := true })
    else .next s
  | none => .next s

/-- STEP_PASS_RESEND (R391): once per String until 256 Strings after the step's commit. -/
def execStepPassResend (st : StallNo) (s : State) : Res :=
  let now := stringOf s.str.time
  let due := (s.stall st).steps.filter fun q => match q.committed with
    | some t => q.sent && decide (now ≤ t + 256) && decide (t < now) && q.resent != some now
    | none => false
  .next (forEach due s fun q s => (s.sendStepPass st q.step).modStall st fun y => y.setStep { y.stepRec q.step with resent := some now })

/-! ### Ends (R290, R295, R298, R300, R301) -/

/-- All has landed and is sent, and a gated collective holds PASS of every contributor, its own included. -/
def Coll.complete (c : Coll) : Bool :=
  c.ph == .sending && c.endWith.isNone && c.allLanded && c.sentN == c.sendAll && c.missing.isEmpty

/-- PERMUTE_COMMIT (R290): the staged bytes are written to DST, then the collective completes. `us`: units of its reservation in error. -/
def execPermuteCommit (st : StallNo) (n : W16) (us : UnitErrs) (s : State) : Res :=
  match s.coll? st n.toNat with
  | some c =>
    if c.op ≠ 5 ∨ ¬ c.complete ∨ s.deadlineDue c ∨ s.delays c.stall then .next s
    else .next (s.permuteEnd c us)
  | none => .next s

/-- COLLECTIVE_COMPLETE (R295, R296, R291), once no write of the stall waits for a refill (R209); a copy of a shard whose check a refill held up is
checked (R292). `us` and `res` as for PASS. -/
def execCollectiveComplete (st : StallNo) (n : W16) (us : UnitErrs) (res : Fin 3) (s : State) : Res :=
  match s.coll? st n.toNat with
  | some c =>
    if c.op = 5 ∨ ¬ c.complete ∨ s.deadlineDue c ∨ s.delays c.stall then .next s
    else match c.sealQ with
      | some q => .next (if c.sealWhole q then s.sealCheck c q else s)
      | none => .next (s.collFinish c us res.val)
  | none => .next s

/-- A collective that ends INCOMPLETE: with ACC = 0 the ranges of DST not written are undefined (R300), those of a PERMUTE unchanged. -/
def State.incomplete (s : State) (c : Coll) : State :=
  let us := if c.acc ∨ c.op = 5 then [] else c.unwritten
  (forEach us s fun u s => s.undefRange c.stall u.1 u.2).collEnd c stIncomplete

/-- COLLECTIVE_DEADLINE (R300, R390), item 1 of Table 2.4: the reservation is reclaimed, silent members are fenced, each lease with its event. -/
def execCollectiveDeadline (st : StallNo) (n : W16) (s : State) : Res :=
  match s.coll? st n.toNat with
  | some c =>
    if ¬ s.gridOk 1 ∨ ¬ s.deadlineDue c then .next s
    else
      let s := if c.lb = 0 then s
        else forEach [0, 1] s fun d s => s.ledger 0x0701 0 0x02 d (some st.val) 1 (st.val + c.num * 65536) (d * 2 ^ 56 + c.lb / 2)
      if c.sealQ.isSome then .next (s.sealFail c)
      else
        let gone := c.lacksData ++ c.lacksPass
        let s := if gone.isEmpty then s else s.ledger 0x0701 0 c.unit.1 c.unit.2 (some st.val) 3 (st.val + c.num * 65536)
        .next (s.incomplete { c with fenced := (c.fenced ++ gone).foldl (fun l m => insertSorted m l) [] })
  | none => .next s

/-- An end that waits for the next fret boundary. -/
def State.dueEnd (s : State) (st n status : Nat) : State :=
  match s.coll? st n with
  | some c =>
    match c.endWith with
    | some (x, t) => if x ≠ status ∨ s.clock < t then s else if x = stIncomplete then s.incomplete c else s.collEnd c x
    | none => s
  | none => s

/-- RETRACTED_COLLECTIVE_END (R298). -/
def execRetractedCollectiveEnd (st : StallNo) (n : W16) (s : State) : Res := .next (s.dueEnd st n.toNat stRetracted)
/-- LEAVE_END (R301). -/
def execLeaveEnd (st : StallNo) (n : W16) (s : State) : Res := .next (s.dueEnd st n.toNat stIncomplete)

end Sys2Proof.Machine
end

