-- ==== Sys2Proof/Machine/Memory.lean ====
section
/-! DEFINITION. Events of the memory system (R203, R207 to R209, R215, R219, R390): the patrol, loss of a stack, golden refills, and
the lease of pinned lines. -/

namespace Sys2Proof.Machine

/-- The DPA at an offset of a stack (R193, inverted). -/
def dpaFrom (h : List Nat) (k base off : Nat) : Nat :=
  let m := h.length
  let q := off / 4096
  let j := (h.findIdx? (· == k)).getD 0
  let r := (j + 2 * m - q % m - q / m % m) % m
  base + 4096 * (q * m + r) + off % 4096

/-- The DPA of a byte of a stack: the interleaved part first, then the near-die window of its die. -/
def State.stackDpa (s : State) (k off : Nat) : Nat :=
  let near := 64 * 2 ^ 30 - s.nearG
  if off < near then dpaFrom s.mem.mapStks k 0 off else dpaFrom (s.dieStks (k / 3)) k (winBase (k / 3)) (off - near)

/-- PATROL_READ (R203): the unit at byte `off` of a stack that has not failed; SCRUB_HOURS 0 turns the patrol off. -/
def execPatrolRead (k : StackNo) (off : Nat) (errs : SymErrs) (s : State) : Res :=
  if fld s.tun.live.memCfg 15 8 = 0 ∨ (tget {} s.mem.stks k).st = .failed ∨ k.val ∉ s.mem.mapStks ∨ 64 * 2 ^ 30 ≤ off ∨ off % 32 ≠ 0 then .next s
  else
    let u := s.stackDpa k off / 32
    let s := s.decodeUnit u errs
    .next (if s.hbmPoisoned u ∧ s.goldenHolds u then s.queueRefill (u / 128) none else s)

/-- The number of a condition in the list of R219. -/
def stackCauseCode : StackCause → Nat
  | .phy => 1
  | .linkDrop => 2
  | .silent => 3
  | .uncorrectable => 4
  | .secondPin => 5

/-- STACK_FAIL (R219). -/
def execStackFail (k : StackNo) (cause : StackCause) (s : State) : Res := .next (s.failStack k (stackCauseCode cause))

/-! ### Refills (R207 to R209, R363, R364) -/

/-- The best-effort get of a golden block from a peer's window: 128 units. -/
def goldenGet (s : State) (st : Nat) (g : Golden) (i tag : Nat) : Pkt :=
  { w0 := BitVec.ofNat 64 (0x2 * 2 ^ 60 + g.peerStall * 2 ^ 40 + g.peer * 2 ^ 20 + s.myId)
    w1 := BitVec.ofNat 64 (g.peerWin * 2 ^ 56 + (g.src.toNat + 4096 * i) % 2 ^ 48)
    w2 := BitVec.ofNat 64 (tag * 2 ^ 16 + st)
    w3 := 127 }

/-- The fetch of a block's copy: from host memory through the owner's function, or from a peer W7. -/
def State.refillFetch (s : State) (blk : Nat) : State :=
  match s.goldenOf blk with
  | none => s.refillFail blk 1
  | some (st, g, i) =>
    if g.kind = 1 then
      s.drive (.hostRead (s.stall st).func (if bitAt g.pasid 20 then g.pasid else 0) (g.src.toNat + 4096 * i) 4096)
    else
      let port := s.routeOf g.peer
      if port < 16 ∧ (s.port port).st = .up then
        let tag := s.nextId % 65536
        let b : BestEffort := { tag := tag, port := port, block := blk }
        ({ s with nextId := s.nextId + 1, best := s.best ++ [b] }).sendPkt st 2 g.peer (goldenGet s st g i tag)
      else s.refillFail blk 1

/-- REFILL_START: the oldest refill that waits, while fewer than 8 run. -/
def execRefillStart (s : State) : Res :=
  if 8 ≤ (s.mem.refills.filter (·.running)).length then .next s
  else match s.mem.refills.find? fun r => !r.running with
    | some r =>
      let rs := s.mem.refills.map fun q => if q.block = r.block then { q with running := true } else q
      .next (({ s with mem := { s.mem with refills := rs } }).refillFetch r.block)
    | none => .next s

/-- The digest of a block holds, or none is registered: false where it differs or its table cannot be read (R208, R364). -/
def State.digestOk (s : State) (st : Nat) (g : Golden) (i : Nat) (data : List Byte) : Bool :=
  if g.digest = 0 then true
  else match s.rdDva st (g.digest + 8 * i) 8 with
    | .ok bs => ofBytes bs == crc64 data
    | .error _ => false

/-- The block's bytes arrived: checked, written whole under the owner's key, the held reads go on, event 0x0509. -/
def State.refillData (s : State) (blk : Nat) (data : List Byte) : State :=
  match s.goldenOf blk with
  | none => s.refillFail blk 1
  | some (st, g, i) =>
    if data.length ≠ 4096 then s.refillFail blk 2
    else if ¬ s.digestOk st g i data then s.refillFail blk 3
    else
      let s := (s.endRefill blk).wrDpa (4096 * blk) data
      let s := if g.kind = 1 then s.tally st 0x28 4096 else s
      ((forEach (s.heldAt blk) s fun h s => s.releaseHeld h).ledger 0x0509 0 0x00 0 (some st) g.base blk).afterRefill

/-- REFILL_FETCH_DONE: the fetch of a running refill ends. -/
def execRefillFetchDone (b : Nat) (r : FetchEnd) (s : State) : Res :=
  if s.mem.refills.any fun q => q.block == b && q.running then
    match r with
    | .data l => .next (s.refillData b l)
    | .unreachable => .next (s.refillFail b 1)
    | .error => .next (s.refillFail b 2)
  else .next s

/-- HELD_READ_TIMEOUT (R207, R208, Table 15.8 kind 7): 200 µs after a read was held it completes with POISON_CONSUMED; the read
that started the refill takes the refill with it. -/
def execHeldReadTimeout (k : Nat) (s : State) : Res :=
  match s.mem.held[k]? with
  | some h =>
    if s.elapsed < h.since + s.ns 200000 then .next s
    else
      let blk := h.unit / 128
      if (s.mem.refills.any fun r => r.block == blk && r.trigger == some h.who) then
        .next ((s.refillFail blk 4).ledger 0x0701 0 0x00 0 (some (s.owner blk)) 7 (s.owner blk) (4096 * blk))
      else .next (s.poisonHeld h).drain
  | none => .next s

/-! ### Pinned lines (R390) -/

/-- PIN_LEASE_EXPIRY (Table 15.8 kind 6): every pinned line of the region is added back and unpinned; the region stays open. -/
def execPinLeaseExpiry (st : StallNo) (base : Nat) (s : State) : Res :=
  match (s.stall st).regions.find? fun r => r.base == base with
  | some r =>
    match s.pinsOf st base with
    | [] => .next s
    | l :: _ =>
      if ¬ s.gridOk 1 ∨ s.clock < r.last + 256 * s.pinLease then .next s
      else .next ((s.addBackAll st base).ledger 0x0701 0 0x00 0 (some st.val) 6 st.val (128 * l))
  | none => .next s

end Sys2Proof.Machine
end

