-- ==== Sys2Proof/Machine/Packets.lean ====
section
/-! DEFINITION. Best-effort transactions at their destination and their responses at the source (R264 to R267, R356, R390), and the
packets of collectives by their type. -/

namespace Sys2Proof.Machine

/-- A listed TYPE (Table 11.11). -/
def typeListed (t : Nat) : Bool := (decide (1 ≤ t) && decide (t ≤ 5)) || t == 8 || t == 9

/-- A packet of type `typ` that arrives (R264, R269): a reserved type and another device's packet are discarded. -/
def State.packet (s : State) (p : Nat) (x : Pkt) (typ : Nat) (f : State → State) : State :=
  if ¬ s.arrives p x then s
  else if ¬ typeListed (pType x) then s.fabDiscard p 1 (pFrom x) 0 0
  else if pType x ≠ typ then s
  else if pDst x ≠ s.myId then s.fabDiscard p 2 (pFrom x) 0 0
  else f s

/-- PUT (R264, R265). -/
def execPut (p : PortNo) (x : Pkt) (s : State) : Res :=
  .next (s.packet p x 1 fun s =>
    if pColl x ≠ 0 then s.collReceive p x
    else s.bestArrives p x)

/-- GET_REQ (R264). `us`: units that it reads in error, by DPA / 32. -/
def execGetReq (p : PortNo) (x : Pkt) (us : UnitErrs) (s : State) : Res :=
  .next (s.packet p x 2 fun s =>
    let n := 32 * (pAux x % 65536 + 1)
    let s := match (if s.behind x then none else s.winCheck x 49 n) with
      | some a => s.readDvas (pDstall x) a n us
      | none => s
    s.bestArrives p x)

/-- REDUCE_PUT (R264). An OPF that Table 11.10 does not list is discarded as reserved. `res`: what the residue checks of the slice adder find where it
is performed at once (R386). -/
def execReducePut (p : PortNo) (x : Pkt) (res : Fin 3) (s : State) : Res :=
  .next (s.packet p x 3 fun s =>
    if pColl x ≠ 0 then s.collReceive p x
    else if 11 < pOpf x / 16 ∨ 2 < pOpf x % 16 then s.fabDiscard p 1 (pFrom x) 0 0
    else s.bestArrives p x res.val)

/-- PERMUTE_PACKET (R264): data of a PERMUTE, staged under R287; COLL = 0 names no collective. -/
def execPermutePacket (p : PortNo) (x : Pkt) (s : State) : Res := .next (s.packet p x 4 fun s => s.collReceive p x)

/-- GET_RSP (R266): data for an outstanding get of a golden block; a status other than 0 is a fetch error (R208). -/
def execGetRsp (p : PortNo) (x : Pkt) (s : State) : Res :=
  .next (s.packet p x 8 fun s =>
    match s.best.find? fun b => b.tag == pTag x with
    | none => s
    | some b =>
      let s := if 4 < pStatus x ∧ pStatus x ≠ 0xA ∧ pStatus x ≠ 0xB then s.modPort p fun y => y.count 7 else s
      if pStatus x ≠ 0 ∨ x.poisoned then s.refillFail b.block 2
      else
        let s := s.tally (s.owner b.block) 0x40 x.data.length
        let got := b.got ++ x.data
        if got.length < 4096 then { s with best := s.best.map fun q => if q.tag = b.tag then { q with got := got } else q }
        else s.refillData b.block got)

/-- PUT_DONE (R266): the W7 issues no put that asks for one, so no transaction waits; an unlisted status is counted. -/
def execPutDone (p : PortNo) (x : Pkt) (s : State) : Res :=
  .next (s.packet p x 9 fun s =>
    if 4 < pStatus x ∧ pStatus x ≠ 0xA ∧ pStatus x ≠ 0xB then s.modPort p fun y => y.count 7 else s)

/-! ### Leases (R390) -/

/-- WINDOW_LEASE_EXPIRY (Table 15.8, kind 4): the window's EXPIRY is reached, once; later accesses are refused by the window check. -/
def execWindowLeaseExpiry (st : StallNo) (win : Byte) (s : State) : Res :=
  match s.winEntry st win.toNat with
  | some e =>
    let t := recFld e 24 8
    let l := s.winLease st win.toNat t
    if s.gridOk 1 ∧ (s.stall st).st = .active ∧ recFld e 8 8 ≠ 0 ∧ t ≠ 0 ∧ s.winDue st win.toNat t ≤ s.clock ∧ ¬ l.told then
      .next ((s.modStall st fun x => { x with winLeases := tset {} x.winLeases win.toNat { l with told := true } }).ledger 0x0701 0 0x00 0
        (some st.val) 4 st.val win.toNat)
    else .next s
  | none => .next s

/-- HELD_GET_LEASE_EXPIRY (Table 15.8, kind 5): a get held 4 frets is answered LEASE_EXPIRED. -/
def execHeldGetLeaseExpiry (st : StallNo) (s : State) : Res :=
  match (s.stall st).heldGets with
  | (p, x, due) :: t =>
    if s.gridOk 1 ∧ due ≤ s.clock then
      .next (((s.modStall st fun y => { y with heldGets := t }).respond x 8 0xB).ledger 0x0701 0 0x0A p (some st.val) 5 st.val (pTag x)).drain
    else .next s
  | [] => .next s

end Sys2Proof.Machine
end

