-- ==== Sys2Proof/Machine/FretGrid.lean ====
section
/-! DEFINITION. What a String boundary does as a whole (R26, R31, R36), the items that fire when String time steps forward (R43, Table 2.4),
and the passage of time on an empty queue. -/

namespace Sys2Proof.Machine

/-- The state after a command's meaning, where it answers a next state. -/
def Res.state (s : State) : Res → State
  | .next t => t
  | _ => s

/-- One item of Table 2.4 for each unit of a list. -/
def fireAll {α : Type} (l : List α) (f : α → State → Res) (s : State) : State := forEach l s fun x s => (f x s).state s

/-- A command that fires again and again while it is due, at most `fuel` times. -/
def fireWhile (due : State → Bool) (f : State → Res) : Nat → State → State
  | 0, s => s
  | fuel + 1, s => if due s then fireWhile due f fuel ((f s).state s) else s

/-- Item 1: the leases on pinned lines, plan entries, windows, held gets and collectives. -/
def State.fireLeases (s : State) : State :=
  let pins := s.stalls.flatMap fun e => e.2.regions.map fun r => (e.1, r.base)
  let flows := s.ports.flatMap fun e => e.2.leases.map fun l => (e.1, l.flow)
  let s := fireAll pins (fun e => execPinLeaseExpiry (Fin.ofNat 4096 e.1) e.2) s
  let s := fireAll flows (fun e => execPlanEntryLeaseExpiry (Fin.ofNat 16 e.1) (BitVec.ofNat 8 e.2)) s
  let wins := s.stalls.flatMap fun e =>
    if e.2.winTable = 0 then [] else (List.range 256).map fun w => (e.1, w)
  let s := fireAll wins (fun e => execWindowLeaseExpiry (Fin.ofNat 4096 e.1) (BitVec.ofNat 8 e.2)) s
  let s := fireAll (s.stalls.flatMap fun e => e.2.heldGets.map fun _ => e.1) (fun n => execHeldGetLeaseExpiry (Fin.ofNat 4096 n)) s
  fireAll (s.colls.map fun c => (c.stall, c.num)) (fun e => execCollectiveDeadline (Fin.ofNat 4096 e.1) (BitVec.ofNat 16 e.2)) s

/-- Item 2: class L fields switch or revert, and read back as loaded. -/
def State.fireTunings (s : State) : State :=
  fireAll [execTuningSwitch none, execTuningRevert none, execUnsealedFieldApply] (fun f => f) s

/-- Item 3: collectives start, fret plans switch. -/
def State.firePhases (s : State) : State :=
  let s := fireAll (List.range 16) (fun p => execPlanSwitch (Fin.ofNat 16 p)) s
  fireAll (s.colls.map fun c => (c.stall, c.num)) (fun e => execCollectiveStart (Fin.ofNat 4096 e.1) (BitVec.ofNat 16 e.2)) s

/-- The quantum of the context on core `c` has ended. -/
def State.quantumOver (c : Nat) (s : State) : Bool :=
  match s.ctxOf c with
  | some (_, x) => x.st == .running && x.kind != .test && ((s.testFor x).isSome || (s.timerMode != 2 && decide (s.quantumEnd x ≤ s.clock)))
  | none => false

/-- Items 4 to 6: quanta end and check windows close, each as often as it fell due in the `n` frets that the step skipped, and the slow power
loop runs for each String that began in them, on what it measures then. -/
def State.fireQuanta (n : Nat) (s : State) : State :=
  forEach (s.cores.map (·.1)) s fun c s => fireWhile (State.quantumOver c) (execQuantumEnd (Fin.ofNat 192 c)) n s
def State.fireWindows (n : Nat) (s : State) : State :=
  forEach (s.stalls.map (·.1)) s fun st s =>
    fireWhile (fun s => (s.stall st).st == .active && decide ((s.stall st).closeDue ≤ s.clock)) (execWindowClose (Fin.ofNat 4096 st)) n s
def State.fireLoop (n : Nat) (s : State) : State :=
  fireWhile (fun s => decide (s.pwr.loopDue ≤ s.clock))
    (fun s => execSlowPowerLoop
      { pDie := (List.range 6).map (Config.powerSample s.rnd), pOther := Config.powerSample s.rnd 6,
        energy := (List.range 6).map fun i => Config.powerSample s.rnd (7 + i) } s.fresh) n s

/-- Every item whose due time fell within the `n` frets that a step skipped fires at the step, in the order of Table 2.4 (R43). -/
def State.fireDue (n : Nat) (s : State) : State := ((s.fireLeases.fireTunings.firePhases.fireQuanta n).fireWindows n).fireLoop n

/-- A String boundary, with what fires where String time steps forward at it, and the shares that fall due. -/
def State.beginString (s : State) : State :=
  let t := s.atBoundary
  (if t.str.stepped = some t.str.time ∧ t.str.time ≠ s.str.time then t.fireDue ((t.str.time - s.str.time) / subPerFret + 1) else t).sharesDue

/-- One sub-fret passes (R26). What step does on an empty queue; with PWROK low every clock stands (R470). -/
def State.tick (s : State) : State :=
  if ¬ s.pins.pwrok then s
  else
  let s := { s with str := { s.str with time := s.str.time + 1 } }
  if s.str.time % subPerString = 0 then s.beginString else if s.str.time % subPerFret = 0 then s.sharesDue else s

/-- The start of the next String is reached. -/
def State.toNextString (s : State) : State := ({ s with str := { s.str with time := nextString s.str.time } }).beginString

/-- STRING_BOUNDARY: the next String begins now (R26, R31). -/
def execStringBoundary (s : State) : Res := if s.pins.pwrok then .next s.toNextString else .next s

/-- HOLDOVER_EXPIRY (R36): the boundary at which HOLDOVER_USED would exceed HOLDOVER_STRINGS, in the value that takes effect there (R45). It is a
String boundary like every other. -/
def execHoldoverExpiry (s : State) : Res :=
  let u := { s with str := { s.str with time := nextString s.str.time } }
  if s.pins.pwrok ∧ s.str.st = .holdover ∧ holdoverLimit u.strRegs.strCtl ≤ s.str.holdoverUsed then .next s.toNextString else .next s

end Sys2Proof.Machine
end

