-- ==== Sys2Proof/Machine/RingOps.lean ====
section
/-! DEFINITION. Copies, events and fences, and tally reads (R322, R324, R325, R330, R331). -/

namespace Sys2Proof.Machine

/-- A descriptor without a context fails an access (R205, R345); a read of a poisoned unit of a GOLDEN block is held (R207). -/
def State.descFault (s : State) (r : Nat) (d : RDesc) (m : MemErr) : State :=
  match s.holdFor (.desc r d.num) m with
  | some s => s
  | none => (s.noteErr 0x0E r (s.ring r).stall (d.type * 4096) m).descDone r d.num m.cause 0 |>.noteLevel r d.num m

/-- Status of a descriptor whose data access to host memory fails (R336). -/
def stHostFault : Nat := 0x2F

/-! ### Copies (R322, Table 13.10) -/

/-- The head copy descriptor of a ring in a mode; the reserved mode fails its check whatever row commands it. -/
def State.copyHead (s : State) (r mode : Nat) : Option RDesc :=
  match s.headOf r 2 with
  | some d => if cMode d.words = mode ∨ cMode d.words = 3 then some d else none
  | none => none

/-- The word at fault in a copy descriptor of stall `st`. A fill has no source end. -/
def State.copyBad (s : State) (st : Nat) (w : List W64) : Option Nat :=
  if hdrBad w then some 0
  else if wf w 1 59 40 ≠ 0 ∨ cLen w = 0 ∨ cMode w = 3 ∨ (cMode w ≠ 2 ∧ cSrcHost w ∧ cDstHost w) ∨
      (cMode w = 1 ∧ (cLen w % 4 ≠ 0 ∨ cDstHost w)) then some 8
  else if cMode w = 1 ∧ cSrc w % 4 ≠ 0 then some 16
  else if cMode w = 1 ∧ (cDst w % 4 ≠ 0 ∨ ¬ (s.stall st).regionHolds (devAddr' (cDst w)) (cLen w)) then some 24
  else ((List.range 4).find? fun i => wf w (4 + i) 63 0 != 0).map fun i => 32 + 8 * i

/-- The 64-bit pattern of a fill, repeated over `n` bytes. -/
def fillBytes (p n : Nat) : List Byte := (List.range n).map fun i => ((toBytes 8 p)[i % 8]?).getD 0

/-- What a copy ends with. -/
inductive CopyEnd where
  | host
  | err (m : MemErr)
  | done (s : State)

/-- The data of a copy is read: from the descriptor, from host memory or from device memory. `x` is what the host answers. -/
def State.copyRead (s : State) (q : Ring) (w : List W64) (x : HostBytes) (k : State → List Byte → CopyEnd) : CopyEnd :=
  if cMode w = 2 then k s (fillBytes (cSrc w) (cLen w))
  else if cSrcHost w then
    match x with
    | .fail _ => .host
    | .bytes l => k ((s.hostReads q.func q.pasid (cSrc w) (cLen w)).tally q.stall 0x28 (cLen w)) (l.take (cLen w))
  else match devAddr (cSrc w) >>= fun a => s.rdDva q.stall a (cLen w) with
    | .error m => .err m
    | .ok bs => k (s.didRead q.stall (devAddr' (cSrc w)) (cLen w)) bs

/-- The data of a copy is written: to host memory, into an open region, or to device memory. -/
def State.copyWrite (s : State) (q : Ring) (w : List W64) (x : HostBytes) (bs : List Byte) : CopyEnd :=
  if cDstHost w then
    match x with
    | .fail _ => .host
    | .bytes _ => .done ((s.hostWrites q.func q.pasid (cDst w) bs q.roData).tally q.stall 0x30 bs.length)
  else match devAddr (cDst w) >>= fun a => if cMode w = 1 then s.accAll q.stall a (wordsOf 4 bs.length bs) else s.wrDva q.stall a bs with
    | .error m => .err m
    | .ok s => .done s

/-- The first word of an accumulating copy fails the residue check of its slice adder (R386). -/
def State.addResidue (s : State) (q : Ring) (w : List W64) (res : Nat) : State :=
  match devAddr (cDst w) >>= fun a => s.xlate q.stall a .write with
  | .ok (d, _) => s.sliceResidue q.stall 0x2000 2 d (decide (res = 2))
  | .error _ => s

/-- The host's answer has the length that was asked for. -/
def copyAnswers (w : List W64) (x : HostBytes) : Bool :=
  match x with
  | .bytes l => !(cMode w != 2 && cSrcHost w) || l.length == cLen w
  | .fail _ => true

/-- A copy descriptor runs: its check, then its data moves and it completes. A write to a block under refill waits (R209). -/
def State.copyRun (s : State) (r mode : Nat) (x : HostBytes) (res : Nat := 0) (us : UnitErrs := []) : State :=
  match s.copyHead r mode with
  | some d =>
    let q := s.ring r
    let w := d.words
    match s.copyBad q.stall w with
    | some o => s.descInvalid r d.num o
    | none =>
      if ¬ copyAnswers w x ∨ (¬ cDstHost w ∧ s.writeWaits q.stall (devAddr' (cDst w)) (cLen w)) then s
      else if res = 2 then (s.addResidue q w res).descDone r d.num causePoison 0
      else
        let s := if cMode w = 2 ∨ cSrcHost w then s else s.readDvas q.stall (devAddr' (cSrc w)) (cLen w) us
        match (if res = 0 then s else s.addResidue q w res).copyRead q w x fun s bs => s.copyWrite q w x bs with
        | .host => s.descDone r d.num stHostFault 0
        | .err m => s.descFault r d m
        | .done s => s.descDone r d.num 0 0
  | none => s

/-- COPY (R322). `us`, here and below: units of its source in device memory in error, by DPA / 32. -/
def execCopy (r : RingNo) (x : HostBytes) (us : UnitErrs) (s : State) : Res := .next (s.copyRun r 0 x 0 us)
/-- ACCUM_COPY (R322): FP32 accumulating writes into an open region. `res`: what the residue checks of the slice adder find (R386). -/
def execAccumCopy (r : RingNo) (x : HostBytes) (res : Fin 3) (us : UnitErrs) (s : State) : Res := .next (s.copyRun r 1 x res.val us)
/-- FILL (R322): the 64-bit pattern of word 2. -/
def execFill (r : RingNo) (x : HostBytes) (s : State) : Res := .next (s.copyRun r 2 x)

/-! ### Events and fences (R324, Table 13.12) -/

def eOp (w : List W64) : Nat := wf w 1 63 60
def eTimeout (w : List W64) : Nat := wf w 1 31 0
def eAddr (w : List W64) : Nat := wf w 2 56 0
def eValue (w : List W64) : Nat := wf w 3 63 0

/-- The word at fault in an event-and-fence descriptor. -/
def eventBad (w : List W64) : Option Nat :=
  if hdrBad w then some 0
  else if 3 < eOp w ∨ wf w 1 59 32 ≠ 0 then some 8
  else if wf w 2 63 57 ≠ 0 ∨ eAddr w % 8 ≠ 0 ∨ ((eOp w = 0 ∨ eOp w = 3) ∧ eAddr w ≠ 0) then some 16
  else ((List.range 4).find? fun i => wf w (4 + i) 63 0 != 0).map fun i => 32 + 8 * i

/-- The head event descriptor of a ring with OP `op`; a reserved OP fails its check whatever row commands it. -/
def State.eventHead (s : State) (r op : Nat) : Option RDesc :=
  match s.headOf r 7 with
  | some d => if eOp d.words = op ∨ 3 < eOp d.words then some d else none
  | none => none

/-- A head event descriptor that may start: its check, then its effect. FENCE and SIGNAL start only when every earlier descriptor has
completed (R324, R330). -/
def State.eventRun (s : State) (r op : Nat) (f : State → RDesc → State) : State :=
  match s.eventHead r op with
  | some d =>
    if op < 2 ∧ ¬ (s.ring r).allBefore d.num then s
    else match eventBad d.words with
      | some o => s.descInvalid r d.num o
      | none => f s d
  | none => s

/-- The dispatched event descriptor of a ring with OP `op`. -/
def Ring.waiting (x : Ring) (op : Nat) : Option RDesc := x.ds.find? fun d => d.ph == .running && d.type == 7 && eOp d.words == op

/-- FENCE_DESC (R330). -/
def execFenceDesc (r : RingNo) (s : State) : Res := .next (s.eventRun r 0 fun s d => s.descDone r d.num 0 0)

/-- SIGNAL: max(event, VALUE) is written indivisibly. -/
def execSignal (r : RingNo) (s : State) : Res :=
  .next (s.eventRun r 1 fun s d =>
    let st := (s.ring r).stall
    let a := eAddr d.words
    if s.writeWaits st a 8 then s
    else match s.rdDva st a 8 with
      | .error m => s.descFault r d m
      | .ok bs =>
        match (s.didRead st a 8).wrDva st a (toBytes 8 (max (ofBytes bs) (eValue d.words))) with
        | .error m => s.descFault r d m
        | .ok s => s.descDone r d.num 0 0)

/-- WAIT: begins waiting; an event that cannot be read ends it at once. -/
def execWait (r : RingNo) (s : State) : Res :=
  .next (s.eventRun r 2 fun s d =>
    match s.rdDva (s.ring r).stall (eAddr d.words) 8 with
    | .error m => s.descFault r d m
    | .ok _ => s.dispatchDesc r d.num)

/-- EVENT_WAIT_SATISFIED: the event is at least VALUE. -/
def execEventWaitSatisfied (r : RingNo) (s : State) : Res :=
  match (s.ring r).waiting 2 with
  | some d =>
    let st := (s.ring r).stall
    match s.rdDva st (eAddr d.words) 8 with
    | .error m => .next (s.descFault r d m)
    | .ok bs => if eValue d.words ≤ ofBytes bs then .next ((s.didRead st (eAddr d.words) 8).descDone r d.num 0 0) else .next s
  | none => .next s

/-- WAIT_TIME: refused with STRING_LOST unless LOCKED or HOLDOVER (R40); else due at the first fret boundary at or after VALUE. -/
def execWaitTime (r : RingNo) (s : State) : Res :=
  .next (s.eventRun r 3 fun s d =>
    if s.onString then s.dispatchDesc r d.num (s.clockOf (Machine.fretCeil (eValue d.words))) else s.descDone r d.num stStringLost 0)

/-- WAIT_TIME_REACHED. -/
def execWaitTimeReached (r : RingNo) (s : State) : Res :=
  match (s.ring r).waiting 3 with
  | some d => if d.aux ≤ s.clock then .next (s.descDone r d.num 0 0) else .next s
  | none => .next s

/-- EVENT_WAIT_TIMEOUT: TIMEOUT frets after the wait began. -/
def execEventWaitTimeout (r : RingNo) (s : State) : Res :=
  match (s.ring r).ds.find? fun d => d.ph == .running && d.type == 7 with
  | some d =>
    if eTimeout d.words ≠ 0 ∧ d.since + 256 * eTimeout d.words ≤ s.clock then .next (s.descDone r d.num 0x30 0) else .next s
  | none => .next s

/-! ### Tally reads (R325, R365) -/

/-- The tally block of a stall at this instant (Table 14.8). -/
def State.tallyBlock (s : State) (st : Nat) : List Byte :=
  ((List.range 21).flatMap fun i => toBytes 8 (tget 0 (s.stall st).tally (8 * i))) ++ toBytes 8 s.str.time ++ List.replicate 80 0

/-- The word at fault in a tally-read descriptor (Table 13.13). -/
def tallyBad (w : List W64) : Option Nat :=
  if hdrBad w then some 0
  else if wf w 1 61 0 ≠ 0 then some 8
  else if wf w 2 63 0 % 64 ≠ 0 then some 16
  else ((List.range 5).find? fun i => wf w (3 + i) 63 0 != 0).map fun i => 24 + 8 * i

/-- TALLY_READ: one snapshot, cleared in the same instant where CLEAR is 1. `x` tells whether a host destination took it. -/
def execTallyRead (r : RingNo) (x : HostBytes) (s : State) : Res :=
  match s.headOf r 8 with
  | some d =>
    let q := s.ring r
    let w := d.words
    match tallyBad w with
    | some o => .next (s.descInvalid r d.num o)
    | none =>
      let host := wf w 1 63 63 = 1
      let a := wf w 2 63 0
      if ¬ host ∧ s.writeWaits q.stall (devAddr' a) 256 then .next s
      else
        let s := s.countCores q.stall
        let bs := s.tallyBlock q.stall
        let s := if wf w 1 62 62 = 1 then s.modStall q.stall fun y => { y with tally := [] } else s
        if host then
          match x with
          | .fail _ => .next (s.descDone r d.num stHostFault 0)
          | .bytes _ => .next (((s.hostWrites q.func q.pasid a bs q.roData).tally q.stall 0x30 256).descDone r d.num 0 0)
        else match devAddr a >>= fun a => s.wrDva q.stall a bs with
          | .error m => .next (s.descFault r d m)
          | .ok s => .next (s.descDone r d.num 0 0)
  | none => .next s

end Sys2Proof.Machine
end

