-- ==== Sys2Proof/Machine/Security.lean ====
section
/-! DEFINITION. Security and attestation (R425 to R440): SEC_FW_CMD, operator keys, debug, SPDM and its vendor requests, IDE and TDISP. -/

namespace Sys2Proof.Machine

/-! ### SEC_FW_CMD (Table 17.7) -/

def State.secResult (s : State) (res : Nat) : State := { s with sec := { s.sec with cmd := { s.sec.cmd with busy := false, result := res } } }

/-- A write of SEC_FW_CMD by the operator function, dropped while BUSY. -/
def State.secCmd (s : State) (f : Nat) (go : State → State) : State :=
  if ¬ s.regOk f ∨ ¬ s.isOper f ∨ s.sec.cmd.busy then s else go s

/-- WRITE begins (R427): an image that verifies is to be written to the bank that is not running, which is erased; BUSY until that ends. One that
is not usable has its result at once. `mgmt`: it came by PLDM (R463). -/
def State.fwBegin (s : State) (mgmt : Bool) (x : FwImg) : State × Option Nat :=
  if ¬ x.rsaOk ∨ ¬ x.slhOk then (s, some trBadSig)
  else if ¬ s.fwUsable x then (s, some trInvalid)
  else
    let s := s.setBank (1 - s.sec.bank) {}
    ({ s with sec := { s.sec with cmd := { s.sec.cmd with busy := true }, writing := some (x, mgmt) } }, none)

/-- The write in progress ends: the bank holds the image with STATE 0xFF, or a flash error leaves it erased. -/
def State.fwEnd (s : State) (mgmt flashOk : Bool) : State × Option Nat :=
  match s.sec.writing with
  | some (x, m) =>
    if m ≠ mgmt then (s, none)
    else
      let s := { s with sec := { s.sec with cmd := { s.sec.cmd with busy := false }, writing := none } }
      if flashOk then (s.setBank (1 - s.sec.bank) { img := some x, state := 0xFF }, some trOk) else (s, some trFlash)
  | none => (s, none)

/-- FW_WRITE: SEC_FW_CMD WRITE, and its end. An image of another size than TUN_ARG1 is not usable. -/
def execFwWrite (f : FnNo) (x : FwStep) (s : State) : Res :=
  let ended (r : State × Option Nat) : State := match r.2 with | some n => r.1.secResult n | none => r.1
  match x with
  | .start img =>
    .next (s.secCmd f fun s =>
      let s := s.imageRead f
      match img with
      | .fail => s.secResult trBadArg
      | .got x => if x.size ≠ s.tun.arg1.toNat then s.secResult trInvalid else ended (s.fwBegin false x))
  | .finish flashOk => .next (ended (s.fwEnd false flashOk))

/-- COMMIT_SVN (R428): the running bank must be good. -/
def State.commitSvn (s : State) : State := if s.svnMay then s.raiseFloor.secResult trOk else s.secResult trBadState

def execCommitSvn (f : FnNo) (s : State) : Res := .next (s.secCmd f State.commitSvn)

/-- NONCE (R431): 32 fresh bytes go to TUN_ARG0; an earlier nonce is gone. -/
def State.nonceNew (s : State) (f : Nat) : State :=
  let n := drawNonce s.rnd
  (({ s with rnd := s.rnd + 4, sec := { s.sec with nonce := some n } }).drive (.bytesTo f s.tun.arg0 n)).secResult trOk

def execNonce (f : FnNo) (s : State) : Res := .next (s.secCmd f fun s => s.nonceNew f)

/-! ### Operator keys (R431) -/

/-- The bytes that the operations read at TUN_ARG0 besides a signature block: its prefix and its two signatures. -/
def sigBytes : Nat := 8 + 384 + 16224

/-- The record, token or image at TUN_ARG0 is read, `n` bytes, without PASID. -/
def State.argRead (s : State) (f n : Nat) : State := s.hostReads f 0 s.tun.arg0.toNat n

def State.slotProgrammed (s : State) (k : Nat) : Bool := s.nv.slotProg.toNat.testBit k
def State.slotRevoked (s : State) (k : Nat) : Bool := s.nv.slotRev.toNat.testBit k

/-- A slot that may sign. -/
def State.slotSigns (s : State) (k : Nat) : Bool := decide (k < 4) && s.slotProgrammed k && !s.slotRevoked k

/-- A record of `n` signed bytes, in form, that carries the NONCE uses it (R431); another one leaves it. -/
def State.useNonce (s : State) (k : KeyRec) (n : Nat) : State × Bool :=
  if k.formOk n ∧ s.sec.nonce = some k.nonce then ({ s with sec := { s.sec with nonce := none } }, true) else (s, false)

/-- Both signatures of a record hold, by a slot that may sign. -/
def State.keySigned (s : State) (k : KeyRec) : Bool := s.slotSigns k.signer && k.rsaOk && k.slhOk

/-- Event 0x0B04. -/
def State.keyEvent (s : State) (slot what : Nat) : State := s.ledger 0x0B04 1 0x00 0 none slot what

/-- The fuses of a slot that is added. -/
def State.programSlot (s : State) (k : KeyRec) : State :=
  let i := k.slot
  { s with nv := { s.nv with slotProg := s.nv.slotProg ||| BitVec.ofNat 4 (2 ^ i), keys := tset (0, 0) s.nv.keys i (k.modulus, k.slhKey) } }

/-- KEY_ADD: the first needs no signature and an unsealed device, every other both signatures of a slot. -/
def execKeyAdd (f : FnNo) (k : HostGot KeyRec) (s : State) : Res :=
  .next (s.secCmd f fun s =>
    let s := s.argRead f (496 + sigBytes)
    match k with
    | .fail => s.secResult trBadArg
    | .got k =>
      let (s, ok) := s.useNonce k 496
      if 4 ≤ k.slot ∨ ¬ ok then s.secResult trBadArg
      else if s.slotProgrammed k.slot then s.secResult trBadState
      else if s.nv.slotProg = 0 then
        if s.tun.sealed_ then s.secResult trDenied else ((s.programSlot k).keyEvent k.slot 1).secResult trOk
      else if ¬ s.keySigned k then s.secResult trBadSig
      else ((s.programSlot k).keyEvent k.slot 1).secResult trOk)

/-- KEY_REVOKE: another slot signs, and an unrevoked slot must remain. -/
def execKeyRevoke (f : FnNo) (k : HostGot KeyRec) (s : State) : Res :=
  .next (s.secCmd f fun s =>
    let s := s.argRead f (64 + sigBytes)
    match k with
    | .fail => s.secResult trBadArg
    | .got k =>
      let (s, ok) := s.useNonce k 64
      let i := k.slot
      let rest := (List.range 4).any fun j => j != i && s.slotSigns j
      if 4 ≤ i ∨ ¬ ok then s.secResult trBadArg
      else if ¬ s.slotSigns i then s.secResult trBadState
      else if ¬ rest then s.secResult trBadArg
      else if k.signer = i ∨ ¬ s.keySigned k then s.secResult trBadSig
      else
        let s := { s with nv := { s.nv with slotRev := s.nv.slotRev ||| BitVec.ofNat 4 (2 ^ i) } }
        (s.keyEvent i 2).secResult trOk)

/-! ### Debug (R439, R440) -/

/-- A token that is right in every part. -/
def State.tokenOk (s : State) (t : DebugTok) : Bool :=
  t.body.length == 64 && recFld t.body 1 15 == 0 && t.device == s.sec.device && s.sec.nonce == some t.nonce && t.rsaOk && t.slhOk &&
    (match t.level, t.signer with
      | 1, some k => s.slotSigns k.val && bitAt s.tun.live.secCtl 30
      | 2, none => true
      | _, _ => false)

/-- The bits of a bypass register of one bit, which captures 0 (IEEE 1149.1). -/
def bypassOut (tdi : List Bool) : List Bool := (false :: tdi).take tdi.length

/-- A scan of the TAP (R439, R473): IDCODE least significant bit first, BYPASS; another instruction selects BYPASS below level 2. -/
def State.tapScan (s : State) : TapScan → State
  | .idcode => s.drive (.tdo ((List.range 32).map Config.idcode.getLsbD))
  | .bypass tdi => s.drive (.tdo (bypassOut tdi))
  | .other _ tdi =>
    if s.sec.debug < 2 then s.drive (.tdo (bypassOut tdi))
    else s.fresh.drive (.tdo ((List.range tdi.length).map fun i => Config.tapBit s.rnd i))

/-- A debug token: level 1 at once until the next reset, level 2 from the next device reset for one boot. A token wrong in any part changes nothing. -/
def State.debugToken (s : State) (f : FnNo) (t : HostGot DebugTok) : State :=
  s.secCmd f fun s =>
    let s := s.argRead f (64 + sigBytes)
    match t with
    | .fail => s.secResult trBadArg
    | .got t =>
      if ¬ s.tokenOk t then s.secResult trBadSig
      else
        let who := match t.signer with
          | some k => k.val
          | none => 0xFF
        let s := ({ s with sec := { s.sec with nonce := none } }).ledger 0x0B03 1 0x00 0 none t.level who
        let s := if t.level = 1 then { s with sec := { s.sec with debug := max 1 s.sec.debug } } else { s with sec := { s.sec with debugNext := true } }
        s.secResult trOk

/-- DEBUG_UNLOCK. -/
def execDebugUnlock (f : FnNo) (t : DebugReq) (s : State) : Res :=
  match t with
  | .token t => .next (s.debugToken f t)
  | .tap r => .next (if s.pins.pwrok then s.tapScan r else s)

/-! ### SPDM (R436, R437) -/

/-- The number of a connection. -/
def connNo : SpdmConn → Nat
  | .doe f => f
  | .mctp => 4096

/-- The responder answers: over DOE once a function's registers do, over MCTP once the management endpoint does. -/
def State.spdmUp (s : State) : SpdmConn → Bool
  | .doe f => s.regOk f
  | .mctp => s.mgmtAwake

def State.spdmReply (s : State) (c : SpdmConn) (kind : String) (l : List Nat) : State := s.drive (.spdm c kind l)

def State.modSec (s : State) (f : Sec → Sec) : State := { s with sec := f s.sec }

def addTo (n : Nat) (l : List Nat) : List Nat := if l.contains n then l else l ++ [n]
def dropFrom (n : Nat) (l : List Nat) : List Nat := l.filter (· != n)

/-- An SPDM or vendor request is taken by the responder; over DOE before READY it meets Request Retry Status (R417). -/
def State.spdmTake (s : State) (c : SpdmConn) (go : State → State) : State :=
  if s.spdmUp c then go s else match c with
    | .doe f => if s.tun.boot = .booting then s.cfgAccess f id else s
    | .mctp => s

def State.newNum (s : State) : Nat := match s.tun.change with | some c => c.newNum.toNat | none => 0

/-- A VF: a function with a nonzero VF number. -/
def isVf (f : Nat) : Bool := f % 1024 != 0

/-- The version of the running bank. -/
def State.fwVersion (s : State) : Nat := match (s.bank s.sec.bank).img with | some x => x.version.toNat | none => 0

/-- The tables that a stall's page-table root reaches, by block: `n` levels below the table at `a`. -/
def State.tableBlocks (s : State) : Nat → Nat → List Nat
  | 0, a => [a / 4096]
  | n + 1, a =>
    a / 4096 :: ((List.range 512).flatMap fun i =>
      match s.pte 0 (a + 8 * i) (n + 1) with
      | .ok e => match tableNext e (if n = 0 then 256 else 4096) with
        | some t => s.tableBlocks n t
        | none => []
      | .error _ => [])

/-- The bytes of a block, for its digest. -/
def State.blockNums (s : State) (b : Nat) : List Nat := (bytesAt s (4096 * b) 4096).map BitVec.toNat

/-- The record of one stall in the interface report (R438), with the digest of the recorded tables in DPA order. -/
def State.stallReport (s : State) (st : Nat) : List Nat :=
  let x := s.stall st
  let tb := (s.tableBlocks 4 x.ptRoot).foldl (fun l b => insertSorted b l) []
  [st, x.coreMask.toNat, x.weight, x.quantum, x.lbShare, x.planShare, x.near, (Config.sha384 (tb.flatMap s.blockNums)).toNat]

/-- A range of the interface report: BAR, first 4 KiB page in it, pages (Table 19.1). Where the host puts a BAR is no part of it. -/
def barRange (bar bytes : Nat) : List Nat := [bar, 0, bytes / 4096]

/-- The interface report: the VF's BAR0 and BAR2 ranges (Table 19.1) and its stalls' records. -/
def State.ifReport (s : State) (f : Nat) : List Nat := barRange 0 0x10000 ++ barRange 2 0x1000 ++ (s.stallsOf f).flatMap s.stallReport

/-- A measurement block (Table 17.4): its index and content. -/
def State.measure (s : State) (c : SpdmConn) (i : Nat) : Option (List Nat) :=
  match i with
  | 1 => some [1, (Config.sha384 [1]).toNat]
  | 2 => some [2, s.nv.factory.digest.toNat]
  | 3 => some [3, s.bankDigest.toNat, s.sec.svn, s.fwVersion]
  | 4 => some [4, s.tunState, s.tun.curNum.toNat, s.newNum, s.tun.curDigest.toNat]
  | 5 => some [5, s.nv.floor, s.nv.slotProg.toNat, s.nv.slotRev.toNat, s.sec.debug, s.tun.sealed_.toNat]
  | 0x10 => match c with
    | .doe f => if isVf f then some [0x10, (Config.sha384 (s.ifReport f)).toNat] else none
    | .mctp => none
  | _ => none

/-- The blocks that a connection is offered. -/
def measureList (c : SpdmConn) : List Nat :=
  [1, 2, 3, 4, 5] ++ (match c with
    | .doe f => if isVf f then [0x10] else []
    | .mctp => [])

/-- A response signed with the Alias RSA key (R436), whose signing input PQ_SIGN may then sign. -/
def State.spdmSigned (s : State) (c : SpdmConn) (kind : String) (l : List Nat) : State :=
  (s.modSec fun x => { x with signed := (connNo c, kind, l) :: x.signed.filter (·.1 != connNo c) }).spdmReply c kind
    (l ++ [Config.rsaSign s.sec.cdi1 kind l])

/-- SPDM_REQUEST: a standard request is answered with what R436 offers. -/
def execSpdmRequest (conn : SpdmConn) (q : SpdmReq) (s : State) : Res :=
  let n := connNo conn
  if ¬ s.spdmUp conn then .next (s.spdmTake conn id)
  else match q with
    | .version => .next (s.spdmReply conn "VERSION" [0x12, 0x13])
    | .capabilities => .next (s.spdmReply conn "CAPABILITIES" [1, 1, 2, 1, 1, 1, 1])
    | .algorithms => .next (s.spdmReply conn "ALGORITHMS" [3072, 384, 384, 256])
    | .digests => .next (s.spdmReply conn "DIGESTS" [1])
    | .certificate slot off len =>
      if slot = 0 then .next (s.spdmReply conn "CERTIFICATE" [0, off.toNat, len.toNat]) else .next (s.spdmReply conn "ERROR InvalidRequest" [])
    | .challenge slot =>
      if slot = 0 then .next (s.spdmSigned conn "CHALLENGE_AUTH" ((measureList conn).flatMap fun i => (s.measure conn i).getD []))
      else .next (s.spdmReply conn "ERROR InvalidRequest" [])
    | .measurements idx signed =>
      let body : Option (List Nat) :=
        if idx = 0 then some [(measureList conn).length]
        else if idx = 0xFF then some ((measureList conn).flatMap fun i => (s.measure conn i).getD [])
        else s.measure conn idx.toNat
      match body with
      | some l => .next (if signed then s.spdmSigned conn "MEASUREMENTS" l else s.spdmReply conn "MEASUREMENTS" l)
      | none => .next (s.spdmReply conn "ERROR InvalidRequest" [])
    | .keyExchange => .next ((s.modSec fun x => { x with hand := addTo n x.hand }).spdmSigned conn "KEY_EXCHANGE_RSP" [])
    | .finish =>
      if s.sec.hand.contains n then
        .next ((s.modSec fun x => { x with hand := dropFrom n x.hand, sess := addTo n x.sess }).spdmReply conn "FINISH_RSP" [])
      else .next (s.spdmReply conn "ERROR UnexpectedRequest" [])
    | .keyUpdate =>
      if s.sec.sess.contains n then .next (s.spdmReply conn "KEY_UPDATE_ACK" []) else .next (s.spdmReply conn "ERROR UnexpectedRequest" [])
    | .endSession =>
      if s.sec.sess.contains n then
        .next ((s.modSec fun x => { x with sess := dropFrom n x.sess }).spdmReply conn "END_SESSION_ACK" [])
      else .next (s.spdmReply conn "ERROR UnexpectedRequest" [])
    | .other code => .next (s.spdmReply conn "ERROR UnsupportedRequest" [code.toNat])

/-- A vendor-defined request (R437): one whose StandardID and vendor ID are not PCI-SIG's and the PF's (`ours` false) is not supported. -/
def State.vendorTake (s : State) (c : SpdmConn) (ours : Bool) (go : State → State) : State :=
  s.spdmTake c fun s => if ours then go s else s.spdmReply c "ERROR UnsupportedRequest" [0xFE]

/-- SET_FABRIC_KEY (R434): by the operator function, inside a secured session. Links that are up keep their keys until they rekey. -/
def execSetFabricKey (conn : SpdmConn) (ours : Bool) (key : BitVec 256) (s : State) : Res :=
  .next (s.vendorTake conn ours fun s => match conn with
    | .doe f =>
      if s.isOper f ∧ s.sec.sess.contains f.val then (s.modSec fun x => { x with fmk := some key }).spdmReply conn "SET_FABRIC_KEY_RSP" []
      else s.spdmReply conn "ERROR UnexpectedRequest" []
    | .mctp => s.spdmReply conn "ERROR UnexpectedRequest" [])

/-- PQ_SIGN (R437): the SLH-DSA half over the signing input of the most recent signed response; once for each. -/
def execPqSign (conn : SpdmConn) (ours : Bool) (s : State) : Res :=
  .next (s.vendorTake conn ours fun s =>
    match s.sec.signed.find? fun e => e.1 == connNo conn with
    | some (_, kind, l) =>
      (s.modSec fun x => { x with signed := x.signed.filter (·.1 != connNo conn) }).spdmReply conn "PQ_SIGNATURE" [Config.slhSign s.sec.cdi1 kind l]
    | none => s.spdmReply conn "ERROR UnexpectedRequest" [])

/-- GET_PQ_CERT (R437): a piece of at most 64 KiB of the SLH-DSA chain. -/
def execGetPqCert (conn : SpdmConn) (ours : Bool) (off len : W32) (s : State) : Res :=
  .next (s.vendorTake conn ours fun s => s.spdmReply conn "PQ_CERT" [off.toNat, min 0x10000 len.toNat])

/-! ### IDE (R432, R435) -/

/-- The place of a direction and sub-stream, and that of its key in a set. -/
def idePlace (rx : Bool) (sub : Nat) : Nat := 3 * rx.toNat + sub
def ideKeyPlace (set rx : Bool) (sub : Nat) : Nat := idePlace rx sub + 6 * set.toNat

def State.ide? (s : State) (p stream : Nat) : Option IdeStream := s.sec.ide.find? fun x => x.port == p && x.stream == stream

/-- A stream is keyed: a set is in use for every direction and sub-stream; it is secure where no integrity failure has come since. -/
def IdeStream.keyed (x : IdeStream) : Bool := (List.range 6).all fun i => (tget none x.use i).isSome
def State.ideKeyed (s : State) (p stream : Nat) : Bool := match s.ide? p stream with | some x => x.keyed | none => false
def State.ideSecure (s : State) (p stream : Nat) : Bool := s.ideKeyed p stream && !(s.fn (1024 * p)).insecure.contains stream

def State.setIde (s : State) (x : IdeStream) : State :=
  s.modSec fun y => { y with ide := x :: y.ide.filter fun z => !(z.port == x.port && z.stream == x.stream) }

/-- IDE_KM: the keys of a selective stream, over secured SPDM. A set goes into use once it is programmed; the insecure state of a stream ends where
every set in use is programmed anew. -/
def execIdeKm (f : FnNo) (stream : Fin 32) (m : IdeKm) (ok : Bool) (s : State) : Res :=
  let p := f.val / 1024
  .next (s.spdmTake (.doe f) fun s =>
    if ¬ ok ∨ ¬ s.sec.sess.contains f.val then s.spdmReply (.doe f) "ERROR UnexpectedRequest" []
    else
      let x := (s.ide? p stream).getD { port := p, stream := stream }
      match m with
      | .prog set rx sub key =>
        (s.setIde { x with keys := tset none x.keys (ideKeyPlace set rx sub) (some key) }).spdmReply (.doe f) "KP_ACK" [stream.val]
      | .go set rx sub =>
        let x := if (tget none x.keys (ideKeyPlace set rx sub)).isNone then x else { x with use := tset none x.use (idePlace rx sub) (some set) }
        let s := s.setIde x
        let s := if x.keyed then s.modFn (1024 * p) fun y => { y with insecure := dropFrom stream.val y.insecure } else s
        s.spdmReply (.doe f) "K_GOSTOP_ACK" [stream.val]
      | .stop rx sub =>
        let s := match tget none x.use (idePlace rx sub) with
          | some set => s.setIde { x with use := tset none x.use (idePlace rx sub) none, keys := tset none x.keys (ideKeyPlace set rx sub) none }
          | none => s
        s.spdmReply (.doe f) "K_GOSTOP_ACK" [stream.val])

/-- IDE_INTEGRITY_FAILURE: the TLP is dropped, its stream is insecure and its keys are used no more (event 0x0B05), the function's TDI enters ERROR. -/
def execIdeIntegrityFailure (p : HostPortNo) (stream : Fin 32) (f : FnNo) (s : State) : Res :=
  if ¬ s.ideKeyed p stream then .next s
  else
    let s := s.modFn (1024 * p.val) fun x => { x with insecure := addTo stream.val x.insecure }
    let s := s.modSec fun y => { y with ide := y.ide.filter fun z => !(z.port == p.val && z.stream == stream.val) }
    let s := s.ledger 0x0B05 2 0x0B p none p stream
    .next (if f.val / 1024 = p.val then s.tdiError f 2 else s)

/-! ### TDISP (R438, Table 17.5) -/

/-- A TDISP request of a VF; while it moves to CONFIG_UNLOCKED it is answered Busy. A PF cannot be a TDI. -/
def State.tdisp (s : State) (f : FnNo) (go : State) : State :=
  if ¬ s.regOk f then s
  else if ¬ isVf f then s.spdmReply (.doe f) "TDISP_ERROR InvalidInterface" []
  else if (s.fn f).tdiBusy then s.spdmReply (.doe f) "TDISP_ERROR Busy" []
  else go

/-- LOCK_INTERFACE's conditions: CONFIG_UNLOCKED, a keyed stream that is secure, every stall of the VF ACTIVE and at least one. -/
def State.lockMay (s : State) (f stream : Nat) : Bool :=
  (s.fn f).tdi == .unlocked && s.ideSecure (f / 1024) stream &&
    !(s.stallsOf f).isEmpty && (s.stallsOf f).all fun st => (s.stall st).st == .active

/-- LOCK_INTERFACE: the stalls' table blocks are recorded. -/
def execLockInterface (f : FnNo) (stream : Fin 32) (s : State) : Res :=
  .next (s.tdisp f (
    if ¬ s.lockMay f stream.val then s.spdmReply (.doe f) "TDISP_ERROR InvalidInterfaceState" []
    else
      let bs := ((s.stallsOf f).flatMap fun st => s.tableBlocks 4 (s.stall st).ptRoot).foldl (fun l b => insertSorted b l) []
      (s.modFn f fun x => { x with tdi := .locked, tdiStream := stream.val, tdiBlocks := bs }).spdmReply (.doe f) "LOCK_INTERFACE_RSP" []))

/-- START_INTERFACE: CONFIG_LOCKED to RUN. -/
def execStartInterface (f : FnNo) (s : State) : Res :=
  .next (s.tdisp f (
    if (s.fn f).tdi = .locked then (s.modFn f fun x => { x with tdi := .run }).spdmReply (.doe f) "START_INTERFACE_RSP" []
    else s.spdmReply (.doe f) "TDISP_ERROR InvalidInterfaceState" []))

/-- STOP_INTERFACE: the move to CONFIG_UNLOCKED. -/
def execStopInterface (f : FnNo) (s : State) : Res :=
  .next (s.tdisp f ((if (s.fn f).tdi = .unlocked then s else s.tdiUnlock f).spdmReply (.doe f) "STOP_INTERFACE_RSP" []))

/-- GET_INTERFACE_REPORT: of a locked or running interface. -/
def execGetInterfaceReport (f : FnNo) (s : State) : Res :=
  .next (s.tdisp f (
    if (s.fn f).tdi = .locked ∨ (s.fn f).tdi = .run then s.spdmReply (.doe f) "INTERFACE_REPORT" (s.ifReport f)
    else s.spdmReply (.doe f) "TDISP_ERROR InvalidInterfaceState" []))

end Sys2Proof.Machine
end

