-- ==== Sys2Proof/Machine/Registers.lean ====
section
/-! DEFINITION. The set-up registers (R7, R9, R455 to R463, Table 19.2): where each lies, who sees it, what it reads as and what a write
does that has no row of its own. -/

namespace Sys2Proof.Machine

/-! ### The register list (R458, Table 19.2) -/

/-- A register: its offset, whether it is 64 bits wide, and whether only the operator function sees it. -/
structure RegInfo where
  base : Nat
  wide : Bool
  op : Bool
  deriving DecidableEq, Repr

/-- Registers that stand alone. -/
def regSingles : List RegInfo :=
  [⟨0x0, false, false⟩, ⟨0x8, true, false⟩, ⟨0x10, false, false⟩, ⟨0x14, false, false⟩, ⟨0x18, true, false⟩, ⟨0x20, false, false⟩,
   ⟨0x100, false, true⟩, ⟨0x1000, true, false⟩, ⟨0x2000, false, false⟩, ⟨0x2004, false, false⟩, ⟨0x2008, true, false⟩,
   ⟨0x2010, false, false⟩, ⟨0x2014, false, false⟩, ⟨0x2018, false, false⟩, ⟨0x2100, false, true⟩, ⟨0x2104, false, true⟩] ++
  [⟨0x2108, true, true⟩, ⟨0x2110, false, true⟩, ⟨0x2114, false, true⟩, ⟨0x2118, false, true⟩, ⟨0x2200, false, true⟩, ⟨0x2208, true, true⟩,
   ⟨0x2210, false, true⟩, ⟨0x3000, false, false⟩, ⟨0x3008, true, false⟩, ⟨0x3100, false, true⟩, ⟨0x4000, false, false⟩,
   ⟨0x4004, false, false⟩, ⟨0x4008, false, false⟩, ⟨0x400C, false, true⟩, ⟨0x4010, false, true⟩, ⟨0x4100, false, true⟩] ++
  [⟨0x4104, false, true⟩, ⟨0x4108, true, true⟩, ⟨0x4110, true, true⟩, ⟨0x4118, true, true⟩, ⟨0x4200, false, true⟩, ⟨0x4204, false, true⟩,
   ⟨0x4208, false, true⟩, ⟨0x420C, false, true⟩, ⟨0x10000, true, true⟩, ⟨0x10008, true, true⟩, ⟨0x10010, false, true⟩,
   ⟨0x10014, false, true⟩, ⟨0x10018, false, true⟩, ⟨0x1001C, false, true⟩, ⟨0x11000, false, true⟩, ⟨0x11004, false, true⟩] ++
  [⟨0x11008, false, true⟩, ⟨0x1100C, false, true⟩, ⟨0x11010, false, true⟩, ⟨0x12000, false, true⟩, ⟨0x12004, false, true⟩,
   ⟨0x12008, false, true⟩, ⟨0x13000, false, true⟩, ⟨0x13004, false, true⟩, ⟨0x14000, false, true⟩, ⟨0x15000, false, true⟩,
   ⟨0x20000, false, true⟩]

/-- Indexed registers: first offset, stride, count, and the rest as above. -/
def regArrays : List (Nat × Nat × Nat × Bool × Bool) :=
  [(0x110, 4, 4, false, true), (0x1040, 8, 8, true, false), (0x3140, 8, 8, true, true), (0x5000, 4, 48, false, false),
   (0x5100, 4, 6, false, false), (0x11020, 4, 6, false, true), (0x11040, 8, 6, true, true), (0x13040, 4, 12, false, true),
   (0x14800, 4, 512, false, true), (0x15004, 4, 2, false, true), (0x21000, 0x100, 16, false, true), (0x21004, 0x100, 16, false, true)] ++
  ((List.range 8).map fun c => (0x21008 + 8 * c, 0x100, 16, true, true))

/-- The offset lies in the register. -/
def RegInfo.has (r : RegInfo) (off : Nat) : Bool := decide (r.base ≤ off) && decide (off < r.base + (if r.wide then 8 else 4))

/-- The register of an indexed set that holds an offset, with its index. -/
def arrayAt (a : Nat × Nat × Nat × Bool × Bool) (off : Nat) : Option (RegInfo × Nat) :=
  if off < a.1 then none
  else
    let k := (off - a.1) / a.2.1
    let r : RegInfo := ⟨a.1 + a.2.1 * k, a.2.2.2.1, a.2.2.2.2⟩
    if k < a.2.2.1 ∧ r.has off then some (r, k) else none

/-- The register that holds an offset. -/
def regAt (off : Nat) : Option RegInfo :=
  (regSingles.find? fun r => r.has off).or (regArrays.findSome? fun a => (arrayAt a off).map (·.1))

/-- The index of a register in an indexed set that begins at `first`. -/
def idxIn (first off : Nat) : Option Nat :=
  match regArrays.find? fun a => a.1 == first with
  | some a => match arrayAt a off with
    | some (r, k) => if r.base = off then some k else none
    | none => none
  | none => none

/-- A function sees a register (R455), and while a boot is stopped R418's registers answer: TUN_STATUS and the TUN number registers. -/
def State.regSeen (s : State) (f : Nat) (r : RegInfo) : Bool :=
  s.fnEnabled f &&
    (if s.tun.boot = .stopped then [0x4000, 0x4004, 0x4008, 0x400C, 0x4010].contains r.base
     else s.tun.boot == .ready && (!r.op || s.isOper f))

/-- 64-bit registers of access RO, whose low half latches the high one (R456). -/
def roWide (base : Nat) : Bool :=
  base == 0x8 || base == 0x10000 || (idxIn 0x11040 base).isSome || ((List.range 8).any fun c => (idxIn (0x21008 + 8 * c) base).isSome)

/-! ### What each reads as -/

/-- BUSY, RESULT and the argument field of a command register. -/
def CmdReg.word (c : CmdReg) : Nat := (if c.busy then 2 ^ 31 else 0) + c.result * 2 ^ 28 + c.arg

/-- TUN_STATUS (Table 16.10). -/
def State.tunStatus (s : State) : Nat :=
  s.tunState * 2 ^ 29 + (if s.tun.sealed_ then 2 ^ 28 else 0) + (match s.tun.boot with
    | .booting => 0
    | .ready => 1
    | .stopped => 2) * 2 ^ 26 + s.tun.source * 2 ^ 24 + s.tun.bootCause * 2 ^ 20 + s.dir.pendState % 8 * 2 ^ 17 + (if s.tun.change.isSome then s.qLeft else 0)

/-- LDG_STATUS and LDG_FN_STATUS (Table 15.6). -/
def LedgerRegs.status (r : LedgerRegs) (op : Bool) : Nat :=
  (if r.overflow then 2 ^ 31 else 0) + (if op && r.alert then 2 ^ 30 else 0) + (if r.writeFail then 2 ^ 29 else 0)

/-- STR_STATUS (Table 2.8). -/
def State.strStatus (s : State) : Nat :=
  s.str.st.code * 2 ^ 29 + s.str.source.code * 2 ^ 24 + s.ownStratum * 2 ^ 20 + (if s.str.lostSeen then 2 ^ 19 else 0) +
    (if s.str.straySeen then 2 ^ 18 else 0) + s.str.holdoverUsed % 2 ^ 13

/-- PWR_STATUS and PWR_ALERT (Table 18.5). -/
def Pwr.status (x : Pwr) : Nat :=
  x.pStretch * 2 ^ 23 + (if x.capUnmet then 2 ^ 22 else 0) + (if x.brakePin then 2 ^ 21 else 0) + x.thermDies.toNat * 2 ^ 17 +
    x.thermLink.toNat * 2 ^ 15 + min 0x7FFF x.devW

def Pwr.alert (x : Pwr) : Nat := x.alertEn.toNat * 2 ^ 16 + x.alertSeen.toNat

/-- SEC_STATUS (Table 17.8). -/
def State.secStatus (s : State) : Nat :=
  s.sec.svn * 2 ^ 26 + s.nv.floor * 2 ^ 20 + s.sec.bank * 2 ^ 19 + s.sec.debug * 2 ^ 17 + s.nv.slotProg.toNat * 2 ^ 13 + s.nv.slotRev.toNat * 2 ^ 9 +
    (if s.sec.fmk.isSome then 2 ^ 8 else 0)

def StackState.code : StackState → Nat
  | .healthy => 0
  | .degraded => 1
  | .failed => 2

/-- MEM_STACKi (Table 9.11). -/
def Stack.word (x : Stack) : Nat := x.st.code * 2 ^ 30 + x.therm * 2 ^ 27 + min 0xFFFF x.ce

def PortState.code : PortState → Nat
  | .down => 0
  | .training => 1
  | .up => 2
  | .wait => 3
  | .held => 4

/-- FAB_PORTn_STATUS (Table 11.17). -/
def Port.status (x : Port) : Nat :=
  x.st.code * 2 ^ 29 + x.reason * 2 ^ 25 + x.partner * 2 ^ 23 + x.activePlan * 2 ^ 22 + (if x.downSeen then 2 ^ 21 else 0) + x.fails * 2 ^ 17 +
    min 0x1FFFF x.delay

/-- Fence bits 32i to 32i + 31 of a list of fenced units. -/
def fenceWord (l : List Nat) (i : Nat) : Nat := maskOf ((l.filter fun n => n / 32 == i).map (· % 32))

/-- COL_LB_FREE: collective staging of one link die that is not reserved, in 256 KiB; reservations split evenly (R288, R404). -/
def State.lbFree (s : State) : Nat :=
  let u := s.drawn
  (stagingTotal s.tun.live - (u.1 + u.2.1 + u.2.2)) / 2 / 0x40000

/-- PWR_DIEi: temperature and power. -/
def State.dieWord (s : State) (i : Nat) : Nat :=
  ((tget 0 s.pwr.dieTemp i) % (65536 : Int)).toNat * 65536 + min 0xFFFF (tget 0 s.pwr.dieW i)

/-- A register of the function pages. -/
def State.readFn (s : State) (f base : Nat) : Nat :=
  let x := s.fn f
  match base with
  | 0x0 => 0x000700B0
  | 0x8 => x.quotaCount * 2 ^ 32 + x.quotaBase * 2 ^ 16 + (if s.isOper f then 2 ^ 15 else 0) + f
  | 0x10 => if x.kickOnly then 2 ^ 31 else 0
  | 0x14 => 0x20000000
  | 0x18 => x.dbBase.toNat
  | 0x20 => x.dbPasid.toNat
  | 0x1000 => x.ringCount.toNat * 2 ^ 32 + x.ringCmd.word
  | 0x2000 => x.led.ctl.toNat
  | 0x2004 => x.led.status false
  | 0x2008 => x.led.base.toNat
  | 0x2010 => x.led.prod.toNat
  | 0x2014 => x.led.cons.toNat
  | 0x2018 => x.led.dropped.toNat
  | 0x3000 => x.stl.word
  | 0x3008 => x.stlArg.toNat
  | 0x4000 => s.tunStatus
  | 0x4004 => s.tun.curNum.toNat
  | 0x4008 => s.newNum
  | _ => match idxIn 0x1040 base, idxIn 0x5000 base, idxIn 0x5100 base with
    | some k, _, _ => ((x.ringCtx[k]?).getD 0).toNat
    | none, some k, _ => fenceWord s.led.arrFenced k
    | none, none, some k => fenceWord s.led.coreFenced k
    | none, none, none => 0

/-- A single register of the operator pages. -/
def State.readOp (s : State) (base : Nat) : Option Nat :=
  match base with
  | 0x2100 => some s.led.op.ctl.toNat
  | 0x2104 => some (s.led.op.status true)
  | 0x2108 => some s.led.op.base.toNat
  | 0x2110 => some s.led.op.prod.toNat
  | 0x2114 => some s.led.op.cons.toNat
  | 0x2118 => some s.led.op.dropped.toNat
  | 0x2200 => some (s.led.testCmd.word + (if s.led.testAuto then 2 ^ 23 else 0) + s.led.testKind * 2 ^ 19)
  | 0x2208 => some s.led.testArg.toNat
  | 0x2210 => some s.led.testFail.toNat
  | 0x3100 => some s.stl.word
  | 0x400C => some (if s.dir.prev.isSome then s.dir.prevNum.toNat else 0)
  | 0x4010 => some (if s.dir.pend.isSome then s.dir.pendNum.toNat else 0)
  | 0x4100 => some s.tun.cmd.word
  | 0x4104 => some (s.tun.valCheck * 2 ^ 24 + s.tun.valRecord.toNat)
  | 0x4108 => some s.tun.arg0.toNat
  | 0x4110 => some s.tun.arg1.toNat
  | 0x4118 => some s.tun.applyCtl.toNat
  | 0x10000 => some (s.str.time % 2 ^ 64)
  | 0x10018 => some s.strStatus
  | 0x11004 => some s.pwr.capOvr.toNat
  | 0x1100C => some s.pwr.status
  | 0x11010 => some s.pwr.alert
  | 0x12000 => some s.sec.cmd.word
  | 0x12004 => some s.secStatus
  | 0x15000 => some (s.colls.filter fun c => c.result.isNone).length
  | _ => none

/-- An indexed register of the operator pages. -/
def State.readOpArr (s : State) (base : Nat) : Nat :=
  match idxIn 0x3140 base, idxIn 0x11020 base, idxIn 0x11040 base, idxIn 0x13040 base, idxIn 0x14800 base, idxIn 0x15004 base, idxIn 0x21004 base with
  | some k, _, _, _, _, _, _ => (s.stlW k).toNat
  | _, some k, _, _, _, _, _ => s.dieWord k
  | _, _, some k, _, _, _, _ => (tget 0 s.pwr.energy k).toNat
  | _, _, _, some k, _, _, _ => (tget {} s.mem.stks k).word
  | _, _, _, _, some k, _, _ => (tget 0 s.mtxShadow k).toNat
  | _, _, _, _, _, some _, _ => s.lbFree
  | _, _, _, _, _, _, some p => (s.port p).status
  | _, _, _, _, _, _, _ =>
    match (List.range 8).findSome? fun c => (idxIn (0x21008 + 8 * c) base).map fun p => (c, p) with
    | some (c, p) => tget 0 (s.port p).cnt c
    | none => 0

/-- What a register that the function sees reads as. -/
def State.regRead (s : State) (f : Nat) (r : RegInfo) : Nat :=
  if ¬ r.op then s.readFn f r.base
  else if tunOffsets.contains r.base then (s.tun.regs.get r.base).toNat
  else match s.readOp r.base with
    | some v => v
    | none => s.readOpArr r.base

/-! ### The MSI-X table and its pending bits (R334, Table 19.1) -/

/-- A 32-bit word of the MSI-X pages at an offset of BAR0: pending bits from 0x7000, entries of four words from 0x8000. -/
def Fn.msixWord (x : Fn) (off : Nat) : Option W32 :=
  if 0x7000 ≤ off ∧ off < 0x7100 then some (BitVec.ofNat 32 ((x.pba.map fun v => if v / 32 = (off - 0x7000) / 4 then 2 ^ (v % 32) else 0).sum))
  else if 0x8000 ≤ off ∧ off < 0x10000 then
    let e := tget {} x.msix ((off - 0x8000) / 16)
    some (match off / 4 % 4 with
      | 0 => BitVec.ofNat 32 e.addr.toNat
      | 1 => BitVec.ofNat 32 (fld e.addr 63 32)
      | 2 => e.data
      | _ => e.ctl)
  else none

/-- A 32-bit word written to the MSI-X table; a vector unmasked with its pending bit set is sent. The pending bits take no write. -/
def State.msixWrite (s : State) (f off : Nat) (v : W32) : State :=
  if off < 0x8000 then s
  else
    let k := (off - 0x8000) / 16
    let s := s.modFn f fun x => { x with msix := tmod {} x.msix k fun e =>
      match off / 4 % 4 with
      | 0 => { e with addr := setFld e.addr 31 0 (v.toNat / 4 * 4) }
      | 1 => { e with addr := setFld e.addr 63 32 v.toNat }
      | 2 => { e with data := v }
      | _ => { e with ctl := v &&& 1 } }
    if (s.fn f).pba.contains k ∧ ¬ bitAt (tget {} (s.fn f).msix k).ctl 0 then (s.modFn f fun x => { x with pba := x.pba.erase k }).msix f k else s

/-- The function answers reads of its BAR: it runs, or its boot is stopped, where every register but R418's reads 0. -/
def State.readsOk (s : State) (f : Nat) : Bool := s.fnEnabled f && s.tun.boot != .booting

/-- What a read of `size` bytes of the MSI-X pages returns: a word, or two (PRESUMED, log entry 168); 0 for another size or alignment. -/
def State.msixRead (s : State) (f off size : Nat) : Nat :=
  let w (o : Nat) : Nat := (((s.fn f).msixWord o).getD 0).toNat
  if s.tun.boot = .stopped ∨ off % size ≠ 0 then 0 else if size = 4 then w off else if size = 8 then w off + w (off + 4) * 2 ^ 32 else 0

/-- How an access's size and alignment fit a register (R456): the part it names. -/
def regPart (r : RegInfo) (off size : Nat) : Option RegPart :=
  if r.wide then
    if off = r.base ∧ size = 8 then some .whole
    else if off = r.base ∧ size = 4 then some .low
    else if off = r.base + 4 ∧ size = 4 then some .high
    else none
  else if off = r.base ∧ size = 4 then some .low else none

/-- The latched high half of a register is used up. -/
def Fn.unlatch (x : Fn) (base : Nat) : Fn := { x with latch := x.latch.filter fun e => e.1 != base }

/-- What a read of a part of a register returns, and the state it leaves: of a 64-bit RO register the low half latches the high half, which the next
read of the high half returns. -/
def State.readPart (s : State) (f : Nat) (r : RegInfo) (p : RegPart) : State × Nat :=
  let v := s.regRead f r
  match p with
  | .whole => (s, v)
  | .low => (if roWide r.base then s.modFn f fun x => { x.unlatch r.base with latch := (r.base, BitVec.ofNat 32 (v / 2 ^ 32)) :: (x.unlatch r.base).latch } else s,
      v % 2 ^ 32)
  | .high =>
    match (s.fn f).latch.find? fun e => e.1 == r.base with
    | some (_, h) => (s.modFn f fun x => x.unlatch r.base, h.toNat)
    | none => (s, v / 2 ^ 32)

/-- LOW_HALF_READ_LATCH (R456): a read of `size` bytes. A register that the function does not see (R455, R418), and an access of another size or
alignment, reads as 0. -/
def execLowHalfReadLatch (f : FnNo) (off size : Nat) (via : Option (Fin 32)) (s : State) : Res :=
  s.barAccess f via fun s =>
  let answer (s : State) (v : Nat) : Res := .next (s.drive (.regData f off (BitVec.ofNat 64 v)))
  if ¬ s.readsOk f then .next s
  else match regAt off with
    | none => answer s (s.msixRead f off size)
    | some r =>
      match if s.regSeen f r then regPart r off size else none with
      | some p => let (s, v) := s.readPart f r p; answer s v
      | none => answer s 0

/-! ### Writes -/

/-- Some ring of a function is not FREE. -/
def State.ringsBusy (s : State) (f : Nat) : Bool := s.rings.any fun e => e.2.st != .free && e.2.func == f

/-- HIF_FN_CFG, HIF_DB_BASE and HIF_DB_PASID (R460, Table 19.3): dropped with event 0x0106 while a ring of the function is not FREE. -/
def State.dbWrite (s : State) (f base off : Nat) (p : RegPart) (v : W64) : State :=
  if s.ringsBusy f then s.cfgDropped f off v.toNat
  else s.modFn f fun x =>
    match base with
    | 0x10 => { x with kickOnly := bitAt v 31 }
    | 0x18 => { x with dbBase := setFld (setPart x.dbBase p v) 11 0 0 }
    | _ => { x with dbPasid := BitVec.ofNat 32 (fld v 20 0) }

/-- DOORBELL_CONFIG_WRITE. -/
def execDoorbellConfigWrite (f : FnNo) (off size : Nat) (v : W64) (s : State) : Res :=
  match regAt off with
  | some r =>
    if ¬ s.regOk f ∨ ¬ (r.base = 0x10 ∨ r.base = 0x18 ∨ r.base = 0x20) then .next s
    else match regPart r off size with
      | some p => .next (s.dbWrite f r.base off p v)
      | none => .next (s.cfgDropped f off v.toNat)
  | none => .next s

/-- The RWL fields of a tuning register (R9, R415, R459): kept on a sealed device, with event 0x0106 where the write would change one;
otherwise set, to take effect at the next fret boundary. -/
def State.tunWrite (s : State) (f off : Nat) (v : W32) : State :=
  let old := s.tun.regs.get off
  let new := maskMerge (tunMask off) old v
  if s.tun.sealed_ then (if new = old then s else s.cfgDropped f off v.toNat)
  else { s with tun := { s.tun with regs := s.tun.regs.put off new, dirty := true, dirtyAt := s.nextFret } }

/-- The state that an operation's own command leaves. -/
def viaRow (s : State) (r : Res) : State :=
  match r with
  | .next t => t
  | _ => s

/-- A write of RING_CMD's low half: OP 0 only sets RING, a reserved OP is BAD_ARG (Table 19.4). -/
def State.ringCmdWrite (s : State) (f : FnNo) (v : W32) : State :=
  match fld v 27 24 with
  | 1 => viaRow s (execRingCreate f v s)
  | 2 => viaRow s (execRingStop f v s)
  | 3 => viaRow s (execRingResume f v s)
  | 4 => viaRow s (execRingDestroy f v s)
  | n =>
    if (s.fn f).ringCmd.busy then s
    else
      let s := s.modFn f fun x => { x with ringCmd := { x.ringCmd with arg := fld v 15 0 } }
      if n = 0 then s else s.ringResult f rcBadArg

/-- A write of STL_CMD (Table 14.2). -/
def State.stlCmdWrite (s : State) (f : FnNo) (v : W32) : State :=
  match fld v 27 24 with
  | 1 => viaRow s (execStallCreate f v s)
  | 2 => viaRow s (execStallReset f v s)
  | 3 => viaRow s (execStallDestroy f v s)
  | 4 => viaRow s (execAssign f v s)
  | 5 => viaRow s (execInval f v s)
  | 6 => viaRow s (execSetShare f v s)
  | 7 => viaRow s (execShare f v s)
  | 8 => viaRow s (execUnshare f v s)
  | 9 => viaRow s (execFnQuota f v s)
  | 0 => s.stlOp f v 0 fun s _ => s
  | n => s.stlOp f v n fun s _ => s.stlResult slBadArg

/-- A write of STL_FN_CMD (Table 14.11). GOLDEN_ADD carries host data in its own command. -/
def State.stlFnWrite (s : State) (f : FnNo) (v : W32) : State :=
  match fld v 27 24 with
  | 1 => viaRow s (execSetRkey f v s)
  | 2 => viaRow s (execGoldenAdd f v s)
  | 3 => viaRow s (execGoldenRemove f v s)
  | 4 => viaRow s (execShareOffer f v s)
  | 5 => viaRow s (execShareWithdraw f v s)
  | n => s.stlFnOp f v n fun s _ => s.stlFnResult f slBadArg

/-- A write of LDG_TEST_CMD (Table 15.10). -/
def State.testWrite (s : State) (f : FnNo) (v : W32) : State :=
  match fld v 27 24 with
  | 1 => viaRow s (execRun f v s)
  | 2 => viaRow s (execFenceUnit f v s)
  | 3 => viaRow s (execCancel f v s)
  | n => s.testCmd f v n fun s => s.testResult s.led.testCmd.busy 2

/-- A write of TUN_CMD (Table 16.10). STAGE and RESET_DEVICE carry what comes from outside in their own commands. -/
def State.tunCmdWrite (s : State) (f : FnNo) (v : W32) : State :=
  match fld v 27 24 with
  | 1 => s
  | 2 => viaRow s (execApplyLive f s)
  | 3 => viaRow s (execApplyAtReset f s)
  | 4 => viaRow s (execRollback f s)
  | 5 => viaRow s (execDiscard f s)
  | 6 => viaRow s (execCapture f s)
  | 7 => s
  | _ => s.tunCmd f fun s => s.tunResult trBadArg

/-- A write of SEC_FW_CMD (Table 17.7). Operations that read a record or an image carry it in their own commands. -/
def State.secCmdWrite (s : State) (f : FnNo) (v : W32) : State :=
  match fld v 27 24 with
  | 1 => s
  | 2 => viaRow s (execCommitSvn f s)
  | 3 => viaRow s (execNonce f s)
  | 4 => s
  | 5 => s
  | 6 => s
  | _ => s.secCmd f fun s => s.secResult trBadArg

/-- W1C of a ledger's status register. -/
def LedgerRegs.clear (r : LedgerRegs) (op : Bool) (v : W32) : LedgerRegs :=
  { r with overflow := r.overflow && !bitAt v 31, alert := r.alert && !(op && bitAt v 30), writeFail := r.writeFail && !bitAt v 29 }

/-- A write to a register of the function pages. -/
def State.writeFn (s : State) (f : FnNo) (base off : Nat) (p : RegPart) (v : W64) : State :=
  let lo : W32 := BitVec.ofNat 32 v.toNat
  match base with
  | 0x10 => s.dbWrite f base off p v
  | 0x18 => s.dbWrite f base off p v
  | 0x20 => s.dbWrite f base off p v
  | 0x1000 => if p = .high then s else s.ringCmdWrite f lo
  | 0x2000 => viaRow s (execLdgCtlWrite f true lo s)
  | 0x2004 => s.modFn f fun x => { x with led := x.led.clear false lo }
  | 0x2008 => viaRow s (execLdgBaseWrite f true p v s)
  | 0x2014 => s.modFn f fun x => { x with led := { x.led with cons := lo } }
  | 0x3000 => s.stlFnWrite f lo
  | 0x3008 => s.modFn f fun x => { x with stlArg := setPart x.stlArg p v }
  | _ => match idxIn 0x1040 base with
    | some k => s.modFn f fun x => { x with ringCtx := x.ringCtx.set k (setPart ((x.ringCtx[k]?).getD 0) p v) }
    | none => s

/-- A write to a single register of the operator pages; `none` for another one. -/
def State.writeOp (s : State) (f : FnNo) (base : Nat) (p : RegPart) (v : W64) : Option State :=
  let lo : W32 := BitVec.ofNat 32 v.toNat
  match base with
  | 0x2100 => some (viaRow s (execLdgCtlWrite f false lo s))
  | 0x2104 => some { s with led := { s.led with op := s.led.op.clear true lo } }
  | 0x2108 => some (viaRow s (execLdgBaseWrite f false p v s))
  | 0x2114 => some { s with led := { s.led with op := { s.led.op with cons := lo } } }
  | 0x2200 => some (s.testWrite f lo)
  | 0x2208 => some { s with led := { s.led with testArg := (setPart s.led.testArg p v) &&& 0xFFFFFFFF } }
  | 0x3100 => some (s.stlCmdWrite f lo)
  | 0x4100 => some (s.tunCmdWrite f lo)
  | 0x4108 => some { s with tun := { s.tun with arg0 := setPart s.tun.arg0 p v } }
  | 0x4110 => some { s with tun := { s.tun with arg1 := setPart s.tun.arg1 p v } }
  | 0x4118 => some { s with tun := { s.tun with applyCtl := setPart s.tun.applyCtl p v } }
  | 0x10008 => some (viaRow s (execStrCountLoadWrite f p v s))
  | 0x10018 => some { s with str := { s.str with lostSeen := s.str.lostSeen && !bitAt lo 19, straySeen := s.str.straySeen && !bitAt lo 18 } }
  | 0x11004 => some (viaRow s (execPwrCapOvrWrite (.inr f) lo s))
  | 0x11010 => some (s.modPwr fun x => { x with alertEn := BitVec.ofNat 5 (fld lo 20 16), alertSeen := x.alertSeen &&& ~~~(BitVec.ofNat 5 (fld lo 4 0)) })
  | 0x12000 => some (s.secCmdWrite f lo)
  | _ => none

/-- A write to an indexed register of the operator pages. -/
def State.writeOpArr (s : State) (base : Nat) (p : RegPart) (v : W64) : State :=
  let lo : W32 := BitVec.ofNat 32 v.toNat
  match idxIn 0x3140 base, idxIn 0x14800 base, idxIn 0x21004 base with
  | some k, _, _ => { s with stlCtx := s.stlCtx.set k (setPart (s.stlW k) p v) }
  | none, some k, _ => { s with mtxShadow := tset 0 s.mtxShadow k lo }
  | none, none, some n => s.modPort n fun x => { x with downSeen := x.downSeen && !bitAt lo 21 }
  | none, none, none => s

/-- A write to a tuning register: its RWL fields, and RETRAIN of FAB_PORTn_CTL, which does not lock (R459). -/
def State.writeTun (s : State) (f : FnNo) (off : Nat) (v : W32) : State :=
  let s := s.tunWrite f off v
  match idxIn 0x21000 off with
  | some p => if bitAt v 29 then viaRow s (execRetrain f (Fin.ofNat 16 p) s) else s
  | none => s

/-- A write of `p` of a register that the function sees. -/
def State.regWrite (s : State) (f : FnNo) (r : RegInfo) (off : Nat) (p : RegPart) (v : W64) : State :=
  if ¬ r.op then s.writeFn f r.base off p v
  else if tunOffsets.contains r.base then s.writeTun f r.base (BitVec.ofNat 32 v.toNat)
  else match s.writeOp f r.base p v with
    | some t => t
    | none => s.writeOpArr r.base p v

/-- REGISTER_WRITE (R9, R455, R456): a write to a register that the function does not see, or to a Reserved offset, is dropped; one of the
wrong size or alignment is dropped with event 0x0106; any other acts by the register's access codes. -/
def execRegisterWrite (f : FnNo) (off size : Nat) (v : W64) (via : Option (Fin 32)) (s : State) : Res :=
  s.barAccess f via fun s =>
  match regAt off with
  | none =>
    if ¬ s.regOk f ∨ ((s.fn f).msixWord off).isNone then .next s
    else if off % size ≠ 0 then .next s
    else if size = 4 then .next (s.msixWrite f off (BitVec.ofNat 32 v.toNat))
    else if size = 8 then .next ((s.msixWrite f off (BitVec.ofNat 32 v.toNat)).msixWrite f (off + 4) (BitVec.ofNat 32 (fld v 63 32)))
    else .next s
  | some r =>
    if ¬ s.regOk f ∨ ¬ s.regSeen f r then .next s
    else match regPart r off size with
      | some p => .next (s.regWrite f r off p v)
      | none => .next (s.cfgDropped f off v.toNat)

end Sys2Proof.Machine
end

