-- ==== Sys2Proof/Machine/Mgmt.lean ====
section
/-! DEFINITION. The management endpoint (R450, R451, R463, Tables 18.6 and 18.7): MCTP control, PLDM base, sensors, the reset effecter,
firmware update, LEDGER_READ and TUN_OP. -/

namespace Sys2Proof.Machine

/-- A message that is read only. -/
def State.mgmtRead (s : State) (path : MgmtPath) (kind : String) (l : List Int) : State := if s.mgmtUp path then s.reply path kind l else s

/-- A message that changes state: refused on a host port that is not the operator function's. -/
def State.mgmtWrite (s : State) (path : MgmtPath) (go : State → State) : State :=
  if ¬ s.mgmtUp path then s else if s.mgmtMay path then go s else s.reply path "ERROR_UNSUPPORTED" []

/-- MCTP_CONTROL: discovery, and assignment of the endpoint ID by the bus owner. On I3C the bus controller assigns a dynamic address, which answers
nothing. -/
def execMctpControl (path : MgmtPath) (q : MctpReq) (s : State) : Res :=
  if ¬ s.mgmtUp path then .next s
  else match q with
    | .setEid e => .next ((s.modPwr fun x => { x with eid := some e }).reply path "SET_ENDPOINT_ID" [e.toNat])
    | .getEid => .next (s.reply path "ENDPOINT_ID" [match s.pwr.eid with | some e => (e.toNat : Int) | none => 0])
    | .setAddr a => match path with
      | .i3c _ => .next (s.modPwr fun x => { x with i3cAddr := some a })
      | _ => .next s

/-- PLDM_BASE_DISCOVERY: the types served. -/
def execPldmBaseDiscovery (path : MgmtPath) (s : State) : Res := .next (s.mgmtRead path "PLDM_TYPES" [0, 2, 5])

/-- A sensor of Table 18.7: its values. -/
def State.sensor (s : State) (id : Nat) : Option (List Int) :=
  if id = 1 then some [s.pwr.devW]
  else if 2 ≤ id ∧ id ≤ 7 then some [((tget 0 s.pwr.dieW (id - 2) : Nat) : Int)]
  else if 8 ≤ id ∧ id ≤ 13 then some [tget 0 s.pwr.dieTemp (id - 8)]
  else if 14 ≤ id ∧ id ≤ 25 then some [(tget {} s.mem.stks (id - 14)).temp, (tget {} s.mem.stks (id - 14)).therm]
  else if 26 ≤ id ∧ id ≤ 41 then some [tget 0 s.pwr.optTemp (id - 26)]
  else if 42 ≤ id ∧ id ≤ 73 then some [tget 0 s.pins.lasers (id - 42)]
  else if id = 74 then some ((s.pwr.pStretch : Int) :: (List.range 4).map fun d => (s.pwr.effective d : Int))
  else if id = 75 then some [s.str.st.code, s.tunStatus]
  else if id = 76 then some [s.alertSource]
  else if id = 77 then some ((List.range 6).map fun k => ((tget 0 s.nv.health.counts k : Nat) : Int))
  else none

/-- PLDM_GET_SENSOR: a sensor's reading, or the bus owner enables or disables platform event messages. -/
def execPldmGetSensor (path : MgmtPath) (q : PlatformReq) (s : State) : Res :=
  match q with
  | .sensor id => match s.sensor id.toNat with
    | some l => .next (s.mgmtRead path "SENSOR" l)
    | none => .next (s.mgmtRead path "INVALID_SENSOR_ID" [])
  | .events on =>
    if ¬ s.mgmtUp path then .next s
    else .next ((s.modPwr fun x => { x with eventsTo := if on then some path else none }).reply path "EVENT_RECEIVER" [])

/-- DEVICE_RESET_EFFECTER: state effecter 2. -/
def execDeviceResetEffecter (path : MgmtPath) (b : BootIn) (s : State) : Res :=
  .next (s.mgmtWrite path fun s => (s.reply path "SET_EFFECTER" [2]).deviceReset b)

/-- PLDM_FW_UPDATE: the bank that is not running, as WRITE does; refused with NOT_READY while SEC_FW_CMD is BUSY (R463). -/
def execPldmFwUpdate (path : MgmtPath) (x : FwStep) (s : State) : Res :=
  let ended (r : State × Option Nat) : State := match r.2 with | some n => r.1.reply path "FW_UPDATE" [n] | none => r.1
  match x with
  | .start img =>
    .next (s.mgmtWrite path fun s =>
      if s.sec.cmd.busy then s.reply path "NOT_READY" []
      else match img with
        | .fail => s.reply path "FW_UPDATE" [trBadArg]
        | .got x => ended (s.fwBegin true x))
  | .finish flashOk => .next (ended (s.fwEnd true flashOk))

/-- The fields of a ledger entry (Table 15.1). -/
def Entry.fields (e : Entry) : List Int :=
  [e.time, e.seq.toNat, e.event, e.severity, e.local_.toNat, e.count, e.kind, e.unit, (match e.stall with | some n => n | none => 0x1000), e.temp,
   e.volt, e.oper, e.arg0, e.arg1, e.arg2, e.arg3]

/-- LEDGER_READ: the entry of the internal buffer with a SEQ. -/
def execLedgerRead (path : MgmtPath) (seq : W32) (s : State) : Res :=
  match s.led.buf.find? fun e => e.seq == seq with
  | some e => .next (s.mgmtRead path "LEDGER_ENTRY" e.fields)
  | none => .next (s.mgmtRead path "NO_ENTRY" [])

/-- The operations that TUN_OP offers: APPLY_LIVE, APPLY_AT_RESET, ROLLBACK, DISCARD, RESET_DEVICE. -/
def tunOpRun (op : Nat) (b : BootIn) (s : State) : Option State :=
  match op with
  | 2 => some s.applyLive
  | 3 => some s.applyAtReset
  | 4 => some s.rollback
  | 5 => some s.discard
  | 7 => some (s.deviceReset b)
  | _ => none

/-- TUN_OP (R451, R463): ERROR_NOT_READY while BUSY, but for ROLLBACK. Before READY, and while a boot is stopped, only RESET_DEVICE runs. -/
def execTunOp (path : MgmtPath) (op : BitVec 4) (b : BootIn) (s : State) : Res :=
  .next (s.mgmtWrite path fun s =>
    match tunOpRun op.toNat b s with
    | none => s.reply path "ERROR_UNSUPPORTED" []
    | some t =>
      if (s.tun.cmd.busy ∧ op ≠ 4) ∨ (s.tun.boot ≠ .ready ∧ op ≠ 7) then s.reply path "ERROR_NOT_READY" []
      else t.reply path "TUN_OP" [t.tun.cmd.busy.toNat, t.tun.cmd.result])

end Sys2Proof.Machine
end

