-- ==== Sys2Proof/Machine/ThreadMem.lean ====
section
/-! DEFINITION. Memory instructions of a group (R161 to R167): local and global loads and stores, the near cache, fences
and atomics; and the return of a global load. -/

namespace Sys2Proof.Machine

/-! ### The near cache (R163) -/

/-- The near cache's copy of the line of a DPA. -/
def State.nearLine (s : State) (c a : Nat) : Option (List Byte) :=
  match tget [] (s.core c).near (a / 128) with
  | [] => none
  | l => some l

/-- Of some lines those leave the near cache that the W7 has dropped: a clean line may be dropped at any time. -/
def State.nearDrops (s : State) (c : Nat) (ls : List Nat) : State :=
  ({ s with rnd := s.rnd + ls.length }).modCore c fun k =>
    { k with near := ls.zipIdx.foldl (fun (t : Tbl (List Byte)) (l : Nat × Nat) => if Config.pick (s.rnd + l.2) 2 = 0 then tset [] t l.1 [] else t) k.near }

/-- A line filled; where the cache is full, which line goes is not defined. -/
def State.nearFill (s : State) (c a : Nat) (line : List Byte) : State :=
  (s.modCore c fun k =>
    let t := if Config.nearLines ≤ k.near.length ∧ tget [] k.near (a / 128) = [] then
        k.near.eraseIdx (Config.pick s.rnd k.near.length % k.near.length)
      else k.near
    { k with near := tset [] t (a / 128) line }).fresh

/-- A store's bytes in the core's own copy of the line, if it is present. -/
def Core.nearWrite (k : Core) (a : Nat) (bs : List Byte) : Core :=
  match tget [] k.near (a / 128) with
  | [] => k
  | l => { k with near := tset [] k.near (a / 128) (l.take (a % 128) ++ bs ++ l.drop (a % 128 + bs.length)) }

/-- A line of memory as a load sees it, its poisoned units as they stand. -/
def State.lineBytes (s : State) (st dva dpa : Nat) : List Byte := s.pieceBytes st (dva - dva % 128) (dpa - dpa % 128) 128

/-! ### Local memory -/

/-- The first poisoned unit among lanes' local accesses. -/
def Core.poisonedLane (k : Core) (n : Nat) (as : List Nat) : Option Nat := as.find? fun a => k.poisoned a n

/-- Lanes' bytes cover a 32-byte unit. -/
def lanesCover (ls : List (Nat × List Byte)) (u : Nat) : Bool :=
  (List.range 32).all fun i => ls.any fun e => decide (e.1 ≤ 32 * u + i) && decide (32 * u + i < e.1 + e.2.length)

/-- The units that lanes' bytes touch. -/
def laneUnits (ls : List (Nat × List Byte)) : List Nat := (ls.flatMap fun e => unitsOf e.1 e.2.length).dedup

/-- The store of one instruction to local memory, lanes in ascending order: its lanes together clear the poison of a unit that they cover, and
are discarded where they cover a poisoned unit in part (R164, R206). -/
def State.storeLocal (s : State) (c : Nat) (ls : List (Nat × List Byte)) : State :=
  let bad := (laneUnits ls).filter (s.core c).poison.contains
  if bad.isEmpty then forEach ls s fun e s => s.wrLocal c e.1 e.2
  else
    let part := bad.filter fun u => !lanesCover ls u
    let s := s.modCore c fun k => { k with poison := k.poison.filter fun u => !(bad.contains u && lanesCover ls u) }
    let s := forEach part s fun u s => s.ledger 0x0508 0 0x03 c none (32 * u) 2
    forEach (ls.filter fun e => !part.contains (e.1 / 32)) s fun e s => s.wrLocal c e.1 e.2

/-- The store of one instruction to device memory, lanes in ascending order, in the same way. -/
def State.storeGlobal (s : State) (ls : List (Nat × List Byte)) : State :=
  let bad := (laneUnits ls).filter fun u => s.mem.poison.contains u && !s.stackFailed (32 * u)
  if bad.isEmpty then forEach ls s fun e s => s.wrDpa e.1 e.2
  else
    let part := bad.filter fun u => !lanesCover ls u
    let s := { s with mem := { s.mem with poison := s.mem.poison.filter fun u => !(bad.contains u && lanesCover ls u) } }
    let s := forEach part s fun u s => s.ledger 0x0508 0 0x00 0 none (32 * u) (s.unitPlace u)
    forEach (ls.filter fun e => !part.contains (e.1 / 32)) s fun e s => s.wrDpa e.1 e.2

/-- What an instruction with executing lanes does where the residue check of its address generation fails (`bad`, R386): nothing is written, and the
context faults with RESIDUE_MISMATCH. -/
def IEnv.addressed (e : IEnv) (bad : Bool) (body : State → State) (s : State) : State :=
  if bad && !e.ex.isEmpty then e.fault 0x12 0 s else body s

/-- LDL; `errs` are the symbols in error in the unit that its lowest lane reads. `bad`, here and below: the residue check of its addresses fails. -/
def execLdl (c : CoreNo) (g : SlotNo) (w : W64) (bad : Bool) (errs : SymErrs) (s : State) : Res :=
  let m := wMod w
  .next (s.issue c g w 0x40 { form := .fM, listed := decide (m ≤ 6), d := memUse m, a := .reg } fun e => e.addressed bad fun s =>
    let ad := e.localAddr (wOffM w)
    match firstErr (fun l => localCheck (ad l) (memSize m)) e.ex with
    | some (cause, a) => e.fault cause a s
    | none =>
      let s := match e.ex with | l :: _ => s.readLocalUnit e.c (ad l / 32) errs | [] => s
      match (s.core e.c).poisonedLane (memSize m) (e.ex.map ad) with
      | some a => e.fault causePoison a s
      | none => e.retire (e.ex.foldl (fun gr l => gr.setWords l (wD w) (memExtend m ((s.core e.c).rd (ad l) (memSize m)))) e.gr) s)

/-- STL: lanes store in ascending order, so the highest lane's value remains (R164). -/
def execStl (c : CoreNo) (g : SlotNo) (w : W64) (bad : Bool) (s : State) : Res :=
  let m := wMod w
  .next (s.issue c g w 0x41 { form := .fM, listed := decide (m ≤ 6), d := memUse m, a := .reg } fun e => e.addressed bad fun s =>
    let ad := e.localAddr (wOffM w)
    match firstErr (fun l => localCheck (ad l) (memSize m)) e.ex with
    | some (cause, a) => e.fault cause a s
    | none => e.retire e.gr (s.storeLocal e.c (e.ex.map fun l => (ad l, e.gr.bytes l (wD w) (memSize m)))))

/-! ### Global loads and stores -/

/-- LDG: every lane is checked, then the load is in flight until GLOBAL_LOAD_RETURN. -/
def execLdg (c : CoreNo) (g : SlotNo) (w : W64) (bad : Bool) (s : State) : Res :=
  let m := wMod w
  .next (s.issue c g w 0x42 { form := .fM, listed := decide (m % 8 ≤ 6), d := memUse m, a := .pair } fun e => e.addressed bad fun s =>
    match s.checkLanes e.x.stall (memSize m) .read (e.globalAddr (wOffM w)) e.ex with
    | .error m => e.fails m s
    | .ok [] => e.retire e.gr s
    | .ok ls =>
      e.retire e.gr (s.modCore e.c fun k =>
        { k with loads := k.loads ++ [{ slot := e.g, serial := e.gr.serial, d := wD w, pc := e.pc, mode := m, act := e.act, lanes := ls }] }))

/-- A line that a load misses is filled where no unit of it is poisoned. -/
def State.fills (s : State) (st : Nat) (e : Nat × Nat × Nat) : Bool :=
  (s.readPoison st (e.2.1 - e.2.1 % 128) (e.2.2 - e.2.2 % 128) 128).isNone

/-- Fill the lines of a load that went through the near cache. -/
def State.fillLines (s : State) (c st : Nat) (ls : List (Nat × Nat × Nat)) : State :=
  forEach ls s fun e s => if s.fills st e then s.nearFill c e.2.2 (s.lineBytes st e.2.1 e.2.2) else s

/-- Bytes that a load of mode `m` reads at the memory-side cache for the lanes that miss (Table 14.8): whole lines where it fills them, else its
lanes' own (log entry 163). -/
def State.missBytes (s : State) (st m : Nat) (ls : List (Nat × Nat × Nat)) : Nat :=
  let (fill, own) := ls.partition fun e => decide (m < 8) && s.fills st e
  128 * (fill.map fun e => e.2.2 / 128).dedup.length + memSize m * own.length

/-- The near cache's line that a lane of a load hits; a load with MOD[3] = 1 hits none. -/
def State.laneLine (s : State) (c m : Nat) (e : Nat × Nat × Nat) : Option (List Byte) := if m < 8 then s.nearLine c e.2.2 else none

/-- The lanes of a load that read the memory-side cache. -/
def State.misses (s : State) (c : Nat) (l : Load) : List (Nat × Nat × Nat) := l.lanes.filter fun e => (s.laneLine c l.mode e).isNone

/-- The units that a load reads: those of its lanes, then the rest of the lines that it fills. -/
def loadUnits (m : Nat) (ls : List (Nat × Nat × Nat)) : List Nat :=
  ((ls.flatMap fun e => unitsOf e.2.2 (memSize m)) ++ if m < 8 then ls.flatMap fun e => unitsOf (e.2.2 / 128 * 128) 128 else []).dedup

/-- The units read and decoded, `errs` in the first of them. -/
def State.readUnits (s : State) : List Nat → SymErrs → State
  | [], _ => s
  | u :: t, errs => ((s.readUnit u errs).touch false (u / 4)).readUnits t []

/-- Lanes of two accesses of `n` and `m` bytes meet in a byte of device memory. -/
def lanesMeet (n m : Nat) (a b : List (Nat × Nat × Nat)) : Bool :=
  a.any fun p => b.any fun q => decide (p.2.2 < q.2.2 + m) && decide (q.2.2 < p.2.2 + n)

/-- An earlier load of the same group from the same bytes is still in flight: load `l`, at place `k`, takes effect after it (R164). -/
def Core.loadAfter (q : Core) (k : Nat) (l : Load) : Bool :=
  (q.loads.take k).any fun o => o.serial == l.serial && lanesMeet (memSize o.mode) (memSize l.mode) o.lanes l.lanes

/-- GLOBAL_LOAD_RETURN (R163, R164, R205, R207): load `k` of the core returns; `errs` are the symbols in error in the first unit that it reads from the
memory-side cache. -/
def execGlobalLoadReturn (c : CoreNo) (k : Nat) (errs : SymErrs) (s : State) : Res :=
  match (s.core c).loads[k]?, s.ctxOf c with
  | some l, some (n, x) =>
    if (s.core c).loadAfter k l ∨ s.mem.held.any fun h => h.who == .load c l.mark then .next s
    else
      let m := l.mode
      let s := if m < 8 then s.nearDrops c ((l.lanes.map fun e => e.2.2 / 128).dedup) else s
      let miss := s.misses c l
      let hits := l.lanes.filterMap fun e => (s.laneLine c m e).map fun b => (e.1, memExtend m ((b.drop (e.2.2 % 128)).take (memSize m)))
      let s := s.readUnits (loadUnits m miss) errs
      match miss.findSome? fun e => s.readPoison x.stall e.2.1 e.2.2 (memSize m) with
      | some u =>
        if s.goldenHolds u then
          let s := (s.queueRefill (u / 128) (some (.load c l.mark))).modCore c fun q => { q with loads := q.loads.set k { l with held := true } }
          .next (s.holdLoad n c u l.mark)
        else
          .next (s.ctxFault n { cause := causePoison, pc := l.pc, mask := l.act, slot := l.slot, arg2 := 32 * u, core := c.val, opc := 0x42, src := s.poisonSource u })
      | none =>
        let vals := hits ++ miss.map fun e => (e.1, memExtend m (s.pieceBytes x.stall e.2.1 e.2.2 (memSize m)))
        let s' := s.tally x.stall 0x18 (s.missBytes x.stall m miss)
        let s' := match s'.group? c l.slot with
          | some gr =>
            if gr.serial = l.serial then s'.setGroup c l.slot (vals.foldl (fun gr (v : Nat × List Byte) => gr.setWords v.1 l.d v.2) gr) else s'
          | none => s'
        let s' := s'.modCore c fun q => { q with loads := q.loads.eraseIdx k }
        .next (if m < 8 then s'.fillLines c x.stall miss else s').invalEnd
  | _, _ => .next s

/-- A store or atomic of a lane into an open region that does not take it (R214). -/
def regionBars (x : Stall) (n : Nat) (ls : List (Nat × Nat × Nat)) : Option Nat :=
  (ls.find? fun e => x.regionHit e.2.1 n).map fun e => e.2.1

/-- A store or atomic waits: for an earlier load of the group from the same bytes, which is still in flight (R164), or for a refill (R209). -/
def IEnv.waits (e : IEnv) (ls : List (Nat × Nat × Nat)) (n : Nat) (s : State) : Bool :=
  (ls.any fun q => s.refilling q.2.2 n) ||
    (s.core e.c).loads.any fun l => l.serial == e.gr.serial && lanesMeet (memSize l.mode) n l.lanes ls

/-- STG: through to the memory-side cache, and into the core's own line if present. -/
def execStg (c : CoreNo) (g : SlotNo) (w : W64) (bad : Bool) (s : State) : Res :=
  let m := wMod w
  .next (s.issue c g w 0x43 { form := .fM, listed := decide (m ≤ 6), d := memUse m, a := .pair } fun e => e.addressed bad fun s =>
    match s.checkLanes e.x.stall (memSize m) .write (e.globalAddr (wOffM w)) e.ex with
    | .error m => e.fails m s
    | .ok ls =>
      match regionBars (s.stall e.x.stall) (memSize m) ls with
      | some a => e.fault causeProt a s
      | none =>
        if e.waits ls (memSize m) s then s
        else
          let ws := ls.map fun q => (q.2.2, e.gr.bytes q.1 (wD w) (memSize m))
          e.retire e.gr ((forEach ws (s.storeGlobal ws) fun p s => s.modCore e.c fun k => k.nearWrite p.1 p.2).tally e.x.stall 0x20
            (memSize m * ls.length)))

/-- FENCE: FENCE.D waits for the group's loads in flight; stores and atomics are performed as they issue. -/
def execFence (c : CoreNo) (g : SlotNo) (w : W64) (s : State) : Res :=
  .next (s.issue c g w 0x44 { form := .fR, listed := decide (wMod w ≤ 1) } fun e s =>
    if wMod w = 1 ∧ (s.core e.c).loads.any (fun l => l.serial == e.gr.serial) then s else e.retire e.gr s)

/-- NCINV: the core's near cache holds nothing. -/
def execNcinv (c : CoreNo) (g : SlotNo) (w : W64) (s : State) : Res :=
  .next (s.issue c g w 0x45 { form := .fR, listed := wMod w == 0 } fun e s =>
    if e.ex.isEmpty then e.retire e.gr s else e.retire e.gr (s.modCore e.c fun k => { k with near := [] }))

/-- PREF: the line is filled where the address translates, the owner check passes and no unit is poisoned; else nothing. `us`, here and below: the
units of device memory in error, by DPA / 32. -/
def execPref (c : CoreNo) (g : SlotNo) (w : W64) (bad : Bool) (us : UnitErrs) (s : State) : Res :=
  .next (s.issue c g w 0x46 { form := .fM, listed := wMod w == 0, a := .pair } fun e => e.addressed bad fun s =>
    e.retire e.gr (forEach e.ex s fun l s =>
      match s.globalCheck e.x.stall (e.globalAddr (wOffM w) l) 1 .read with
      | .ok (v, d) =>
        let s := (s.readUnits (unitsOf (d / 128 * 128) 128) []).readDpas [(d / 128 * 128, 128)] us
        if s.fills e.x.stall (l, v, d) then (s.fillLines e.c e.x.stall [(l, v, d)]).tally e.x.stall 0x18 128 else s
      | .error _ => s))

/-! ### Atomics (R166, R167, R212) -/

/-- The bytes of an operation's word. -/
def atomSize (op : Nat) : Nat := if op = 1 ∨ op = 13 then 8 else 4

/-- One operand against a value: the value that remains (R166, R212). -/
def atomStep (op old v cmp : Nat) : Nat :=
  match op with
  | 0 => (old + v) % 2 ^ 32
  | 1 => (old + v) % 2 ^ 64
  | 2 => f32Add old v
  | 3 => bf16x2Add old v
  | 4 => if sext 32 v < sext 32 old then v else old
  | 5 => if sext 32 old < sext 32 v then v else old
  | 6 => min old v
  | 7 => max old v
  | 8 => old &&& v
  | 9 => old ||| v
  | 10 => old ^^^ v
  | 11 => v
  | 12 => if old = cmp then v else old
  | 13 => if old = cmp then v else old
  | 14 => f32Min old v
  | _ => f32Max old v

/-- Adjacent pairs added once. -/
def pairUp (f : Nat → Nat → Nat) : List Nat → List Nat
  | a :: b :: t => f a b :: pairUp f t
  | l => l

/-- The lane-order pairwise tree of R166 over up to 32 operands. -/
def pairTree (f : Nat → Nat → Nat) (l : List Nat) : Nat := ((List.range 5).foldl (fun l _ => pairUp f l) l).headD 0

/-- The serial prefixes of R167: what each lane would have seen, and what would remain. -/
def atomSerial (op : Nat) : Nat → List (Nat × Nat) → List Nat × Nat
  | old, [] => ([], old)
  | old, (v, cmp) :: t =>
    let (r, fin) := atomSerial op (atomStep op old v cmp) t
    (old :: r, fin)

/-- The combined operand of a floating-point add (R166). -/
def atomTree (op : Nat) (vs : List Nat) : Nat := if op = 2 then pairTree f32Add vs else pairTree bf16x2Add vs

/-- One request: lanes' returns and the value that remains. -/
def atomRequest (op old : Nat) (ops : List (Nat × Nat)) : List Nat × Nat :=
  let (r, fin) := atomSerial op old ops
  if op = 2 ∨ op = 3 then (r, atomStep op old (atomTree op (ops.map (·.1))) 0) else (r, fin)

/-- Operand B and compare value C of a lane. -/
def IEnv.atomArgs (e : IEnv) (op l : Nat) : Nat × Nat :=
  if atomSize op = 8 then (e.pB l, if op = 13 then e.pC l else 0) else (e.rB l, if op = 12 then e.rC l else 0)

/-- Return values written to D. -/
def setReturns (op d : Nat) (gr : Group) (rs : List (Nat × Nat)) : Group :=
  rs.foldl (fun gr r => if atomSize op = 8 then gr.setPair r.1 d r.2 else gr.setReg r.1 d r.2) gr

/-- The fields an atomic uses. -/
def atomUses (op : Nat) (a : FieldUse) (ret : Bool) : Uses :=
  let k := if atomSize op = 8 then FieldUse.pair else .reg
  { form := .fA, listed := true, d := if ret then k else .no, a := a, b := k, c := if op = 12 ∨ op = 13 then k else .no }

/-- One combined request at the memory-side cache, for the lanes that name DPA `dpa`. -/
def State.atomAt (s : State) (e : IEnv) (op : Nat) (ls : List (Nat × Nat × Nat)) (dva dpa : Nat) :
    Except MemErr (State × List (Nat × Nat)) :=
  let st := e.x.stall
  let n := atomSize op
  let mine := (ls.filter fun q => q.2.2 = dpa).map (·.1)
  let ops := mine.map (e.atomArgs op)
  if (s.stall st).regionHit dva n then
    match s.accumulate st dva (atomTree 2 (ops.map (·.1))) with
    | .ok (s', old) => .ok (s', List.zip mine (atomSerial 2 old ops).1)
    | .error m => .error m
  else
    let s := s.readPlain (dpa / 32)
    let old := ofBytes (bytesAt s dpa n)
    let (r, fin) := atomRequest op old ops
    .ok (((s.wrDpa dpa (toBytes n fin)).tally st 0x20 n).tally st 0x18 n, List.zip mine r)

/-- The requests of one instruction, one per distinct address. -/
def State.atomAll (s : State) (e : IEnv) (op : Nat) (ls : List (Nat × Nat × Nat)) :
    List (Nat × Nat) → Except MemErr (State × List (Nat × Nat))
  | [] => .ok (s, [])
  | (dva, dpa) :: t =>
    match s.atomAt e op ls dva dpa with
    | .error x => .error x
    | .ok (s', r) =>
      match (s'.modCore e.c fun k => { k with near := tset [] k.near (dpa / 128) [] }).atomAll e op ls t with
      | .error x => .error x
      | .ok (s'', r') => .ok (s'', r ++ r')

/-- The distinct addresses of lanes, each by its DPA and the virtual address of its lowest lane. -/
def distinctAt : List (Nat × Nat × Nat) → List (Nat × Nat)
  | [] => []
  | e :: t => e.2 :: (distinctAt t).filter fun a => a.2 != e.2.2

/-- A global atomic: all lanes checked for translation, region and poison before any is performed (R161, R205, R214). -/
def IEnv.atomG (e : IEnv) (ret : Bool) (us : UnitErrs) (s : State) : State :=
  let op := wMod e.w
  let n := atomSize op
  match s.checkLanes e.x.stall n .write (e.globalAddr (wOffA e.w)) e.ex with
  | .error m => e.fails m s
  | .ok ls =>
    let x := s.stall e.x.stall
    match (if op = 2 then none else regionBars x n ls) with
    | some a => e.fault causeProt a s
    | none =>
      let s := s.readDpas (ls.map fun q => (q.2.2, n)) us
      match ls.findSome? fun q => if ret || !x.regionHit q.2.1 n then s.readPoison e.x.stall q.2.1 q.2.2 n else none with
      | some u => e.poison (32 * u) s
      | none =>
        if e.waits ls n s then s
        else
          match s.atomAll e op ls (distinctAt ls) with
          | .error m => e.fails m s
          | .ok (s', rs) => e.retire (if ret then setReturns op (wD e.w) e.gr rs else e.gr) s'

/-- A global atomic at whose lowest lane the residue check of the slice adder fails (R386): `res` 1, the repetition holds; 2, it fails as well. -/
def IEnv.atomRes (e : IEnv) (ret : Bool) (res : Nat) (us : UnitErrs) (s : State) : State :=
  match e.ex with
  | [] => e.atomG ret us s
  | l :: _ =>
    match s.globalCheck e.x.stall (e.globalAddr (wOffA e.w) l) (atomSize (wMod e.w)) .write with
    | .error _ => e.atomG ret us s
    | .ok (_, d) =>
      if res = 0 then e.atomG ret us s
      else
        let s' := s.sliceResidue e.x.stall (0x1000 * e.x.kind.type + wOpc e.w) (wMod e.w) d (decide (res = 2))
        if res = 2 then e.fault causePoison (d / 32 * 32) s' 4 else e.atomG ret us s'

/-- ATOMG: the old value to D. `res`: what the residue checks of its slice adder find (R386). -/
def execAtomg (c : CoreNo) (g : SlotNo) (w : W64) (bad : Bool) (res : Fin 3) (us : UnitErrs) (s : State) : Res :=
  .next (s.issue c g w 0x50 (atomUses (wMod w) .pair true) fun e => e.addressed bad (e.atomRes true res.val us))

/-- REDG: no return. -/
def execRedg (c : CoreNo) (g : SlotNo) (w : W64) (bad : Bool) (res : Fin 3) (us : UnitErrs) (s : State) : Res :=
  .next (s.issue c g w 0x51 (atomUses (wMod w) .pair false) fun e => e.addressed bad (e.atomRes false res.val us))

/-- ATOML: in local memory. -/
def execAtoml (c : CoreNo) (g : SlotNo) (w : W64) (bad : Bool) (s : State) : Res :=
  .next (s.issue c g w 0x52 (atomUses (wMod w) .reg true) fun e => e.addressed bad fun s =>
    let op := wMod w
    let n := atomSize op
    let ad := e.localAddr (wOffA w)
    match firstErr (fun l => localCheck (ad l) n) e.ex with
    | some (cause, a) => e.fault cause a s
    | none =>
      match (s.core e.c).poisonedLane n (e.ex.map ad) with
      | some a => e.fault causePoison a s
      | none =>
        let (s', rs) := ((e.ex.map ad).dedup).foldl (fun (acc : State × List (Nat × Nat)) a =>
          let mine := e.ex.filter fun l => ad l = a
          let (r, fin) := atomRequest op (ofBytes ((acc.1.core e.c).rd a n)) (mine.map (e.atomArgs op))
          (acc.1.wrLocal e.c a (toBytes n fin), acc.2 ++ List.zip mine r)) (s, [])
        e.retire (setReturns op (wD w) e.gr rs) s')

end Sys2Proof.Machine
end

