-- ==== Sys2Proof/Machine/Update.lean ====
section
/-! DEFINITION. The update engines (R214, R216, R225 to R229, R236 to R244) and the choice of a pipeline's next kernel (R227). -/

namespace Sys2Proof.Machine

/-! ### Dispatch -/

/-- The head update descriptor of ring `r` with OP `op` (a reserved OP fails its check whatever row commands it), where its stall's
update unit is free and fewer than 16 stalls run one (R229). -/
def State.updHead (s : State) (r op : Nat) : Option RDesc :=
  match s.headOf r 6 with
  | some d =>
    if (uOp d.words = op ∨ 5 < uOp d.words) ∧ s.updRoom (s.ring r).stall then
      some d
    else none
  | none => none

/-- An update descriptor that fails its check: the offset, and the index of the tensor record at fault where there is one (R232), in its
own entry as in that of its status (R244). -/
def State.updInvalid (s : State) (r : Nat) (d : RDesc) (off : Nat) (rec_ : Option Nat := none) : State :=
  (s.ledger 0x0801 2 0x0E r (some (s.ring r).stall) (rec_.getD 0) 0 0 causeDesc (oper := 0x6000)).descInvalid r d.num
    off

/-- An update descriptor that an access stops before it writes anything. -/
def State.updFault (s : State) (r : Nat) (d : RDesc) (m : MemErr) : State :=
  match s.holdFor (.desc r d.num) m with
  | some s => s
  | none =>
    let st := (s.ring r).stall
    ((s.noteErr 0x0E r st 0x6000 m).ledger 0x0801 2 0x0E r (some st) 0 0 0 m.cause (oper := 0x6000)).descDone r d.num m.cause 0 |>.noteLevel r d.num m

/-- The update unit of the ring's stall takes a descriptor. -/
def State.updStart (s : State) (r : Nat) (d : RDesc) (op : UpdOp) (ph : UpdPhase) (hyp : List W32 := []) : State :=
  let st := (s.ring r).stall
  let j : UpdJob := { op := op, ring := r, num := d.num, words := d.words, ph := ph, start := s.clock, hyp := hyp,
                      rkey := (s.stall st).rkey.toNat }
  (s.dispatchDesc r d.num).modStall st fun x => { x with upd := some j }

/-- The tensor records of a descriptor read and checked. -/
def State.updTensors (s : State) (r : Nat) (d : RDesc) (f : State → State) : State :=
  match s.tensors (s.ring r).stall d.words with
  | .error m => s.updFault r d m
  | .ok ts =>
    match ts.findIdx? fun t => !t.ok with
    | some i => s.updInvalid r d 16 (some i)
    | none => f s

/-! ### OPEN and CLOSE (R214 to R216) -/

/-- OPEN: the region is open from its completion. -/
def execOpen (r : RingNo) (s : State) : Res :=
  match s.updHead r 0 with
  | some d =>
    let st := (s.ring r).stall
    let x := s.stall st
    match updBad d.words with
    | some o => .next (s.updInvalid r d o)
    | none =>
      let len := 128 * uCount d.words
      if x.regionHit (uAddr d.words) len ∨ 16 ≤ x.regions.length then .next (s.updInvalid r d 16)
      else
        let g : Region := { base := uAddr d.words, len := len, zero := wf d.words 1 59 59 == 1 }
        .next (((s.dispatchDesc r d.num).modStall st fun x => { x with regions := x.regions ++ [g] }).descDone r d.num 0 0)
  | none => .next s

/-- CLOSE: its add-backs begin. -/
def execClose (r : RingNo) (s : State) : Res :=
  match s.updHead r 1 with
  | some d =>
    let st := (s.ring r).stall
    match updBad d.words with
    | some o => .next (s.updInvalid r d o)
    | none =>
      if ¬ (s.stall st).regions.any fun g => g.base == uAddr d.words then .next (s.updInvalid r d 16)
      else .next ((s.updStart r d .close .work).modStall st fun x =>
        { x with regions := x.regions.map fun g => if g.base = uAddr d.words then { g with closing := true } else g })
  | none => .next s

/-- CLOSE_ADD_BACK_DONE: every pinned line has been added back, those under refill once that has ended (R209); lost partials give POISON_CONSUMED. -/
def execCloseAddBackDone (st : StallNo) (s : State) : Res :=
  match (s.stall st).upd with
  | some j =>
    if j.op ≠ .close then .next s
    else match (s.stall st).regions.find? fun g => g.base == uAddr j.words with
      | some g =>
        let s := s.addBackAll st g.base 0x6000
        if s.pinsOf st g.base ≠ [] then .next s
        else
        let lost := (s.stall st).regions.any fun q => q.base == g.base && q.lost
        .next ((s.modStall st fun x => { x with regions := x.regions.filter fun q => q.base != g.base }).updEnd st
          (if lost then causePoison else 0))
      | none => .next (s.updEnd st 0)
  | none => .next s

/-! ### Lines and engines (R240) -/

/-- The engine that takes a line: that of its home slice. A line that does not translate falls to engine 0, which stops at it. -/
def State.lineEngine (s : State) (st a : Nat) : Nat :=
  match s.xlate st a .read with
  | .ok (d, _) => s.homeSlice d
  | .error _ => 0

/-- The lines of engine `e`, in order: tensor, row, line. `base` chooses masters or gradients. -/
def State.engineLines (s : State) (st : Nat) (ts : List Tensor) (base : Tensor → Nat) (e : Nat) : List (Nat × Nat × Nat) :=
  ts.zipIdx.flatMap fun t => (List.range t.1.r).flatMap fun i => (List.range t.1.rowLines).filterMap fun l =>
    if s.lineEngine st (base t.1 + i * t.1.pitch + 128 * l) = e then some (t.2, i, l) else none

/-! ### NORM (R236) -/

def insertKey (k v : Nat) : List (Nat × Nat) → List (Nat × Nat)
  | [] => [(k, v)]
  | (k', v') :: t => if k ≤ k' then (k, v) :: (k', v') :: t else (k', v') :: insertKey k v t

/-- A sum by memory-side add.f32 in an order that the W7 does not define. -/
def sumAny (rnd : Nat) (vs : List Nat) : Nat :=
  ((vs.zipIdx.foldl (fun l e => insertKey (Config.sumOrder rnd e.2) e.1 l) []).map (·.2)).foldl f32Add 0

/-- An access that fails, with the tensor, row and line concerned (R242). -/
abbrev LineErr := MemErr × Nat × Nat × Nat

/-- An access of a tensor's row or line. -/
def atLine (ti i l : Nat) : Except MemErr α → Except LineErr α
  | .ok a => .ok a
  | .error m => .error (m, ti, i, l)

/-- The squares of a tensor's gradients, by row. -/
def State.squares (s : State) (st ti : Nat) (t : Tensor) : Nat → Except LineErr (List (List Nat))
  | 0 => .ok []
  | n + 1 => do
    let i := t.r - (n + 1)
    let bs ← atLine ti i 0 (s.rdDva st (t.grad + i * t.pitch) (4 * t.c))
    let rest ← s.squares st ti t n
    .ok ((wordsOf 4 bs.length bs).map (fun g => f32Mul g g) :: rest)

/-- ROWSQ and COLSQ of one tensor written, each sum in an order of its own; its squares. -/
def State.normTensor (s : State) (st ti : Nat) (t : Tensor) : Except LineErr (State × List (List Nat)) := do
  let sq ← s.squares st ti t t.r
  let rows := sq.mapIdx fun i r => sumAny (s.rnd + i) r
  let cols := (List.range t.c).map fun j => sumAny (s.rnd + t.r + j) (sq.map fun r => (r[j]?).getD 0)
  let s := s.didReads st ((List.range t.r).map fun i => (t.grad + i * t.pitch, 4 * t.c))
  let s1 ← atLine ti 0 0 (s.wrDva st t.rowsq (f32Bytes rows))
  let s2 ← atLine ti 0 0 (s1.wrDva st t.colsq (f32Bytes (cols ++ [sumAny (s.rnd + t.r + t.c) sq.flatten])))
  .ok ({ s2 with rnd := s2.rnd + t.r + t.c + 1 }, sq)

def State.normAll (s : State) (st : Nat) : Nat → List Tensor → Except LineErr (State × List (List (List Nat)))
  | _, [] => .ok (s, [])
  | ti, t :: ts => do
    let (s1, q) ← s.normTensor st ti t
    let (s2, qs) ← s1.normAll st (ti + 1) ts
    .ok (s2, q :: qs)

/-- LOCAL_SQ: the engines' shares as hi and lo pairs, added in ascending engine order (R236). -/
def State.localSq (s : State) (st : Nat) (ts : List Tensor) (sq : List (List (List Nat))) : Nat :=
  let share := fun e => (s.engineLines st ts (fun t => t.grad) e).foldl (fun (p : Pair) (l : Nat × Nat × Nat) =>
    match ts[l.1]? with
    | some t =>
      if t.normExcl then p
      else ((((((sq[l.1]?).getD [])[l.2.1]?).getD []).drop (32 * l.2.2)).take 32).foldl (fun p v => p.fold (f32 v)) p
    | none => p) {}
  toF32 ((List.range 64).foldl (fun (p : Pair) e => p.fold (share e).val) {}).val

/-- NORM: its checks; while the record or the stall is PARTIAL it is invalid (R242). -/
def execNorm (r : RingNo) (s : State) : Res :=
  match s.updHead r 2 with
  | some d =>
    let st := (s.ring r).stall
    match updBad d.words with
    | some o => .next (s.updInvalid r d o)
    | none =>
      match s.srec st (uSrec d.words) with
      | .error m => .next (s.updFault r d m)
      | .ok q =>
        if (s.stall st).partial_ ∨ q.st = 2 then .next (s.updInvalid r d 24)
        else .next (s.updTensors r d fun s => s.updStart r d .norm .work)
  | none => .next s

/-- The tensor records of the job a stall runs. -/
def State.jobTensors (s : State) (st : Nat) (j : UpdJob) : List Tensor :=
  match s.tensors st j.words with
  | .ok ts => ts
  | .error _ => []

/-- A job of the update engines that an access stops without a state to resume (R242): `us` are the ranges left undefined. -/
def State.updStop (s : State) (st : Nat) (j : UpdJob) (m : MemErr) (at_ : Nat × Nat × Nat) (us : List (Nat × Nat)) : State :=
  let s := forEach us (s.noteErr 0x0E j.ring st 0x6000 m) fun u s => s.undefRange st u.1 u.2
  (s.updEnd st m.cause false at_).noteLevel j.ring j.num m

/-- NORM_DONE: the sums of every tensor and LOCAL_SQ are written and NORM completes. `us`, here and below: units that it reads in error, by DPA / 32. -/
def execNormDone (st : StallNo) (us : UnitErrs) (s : State) : Res :=
  match (s.stall st).upd with
  | some j =>
    if j.op ≠ .norm ∨ ¬ s.pwr.coreClocks then .next s
    else
      let s := s.readOwned st us
      let ts := s.jobTensors st j
      let out : Except LineErr State := do
        let (s1, sq) ← s.normAll st 0 ts
        atLine 0 0 0 (s1.wrDva st (uSrec j.words) (toBytes 4 (s.localSq st ts sq)))
      match out with
      | .ok s => .next (s.updEnd st 0)
      | .error (m, at_) =>
        match s.holdFor (.engine st) m with
        | some s => .next s
        | none => .next (s.updStop st j m at_
            ((uSrec j.words, 4) :: ts.flatMap fun t => [(t.rowsq, 4 * t.r), (t.colsq, 4 * (t.c + 1))]))
  | none => .next s

/-! ### APPLY: checks, hold and gate (R233, R237, R240, R241, R380) -/

/-- The step check of R240: IDLE and the step after the last, or PARTIAL and the step that is active. -/
def stepOk (q : SRec) (step : Nat) : Bool :=
  (q.st == 0 && decide (step = (q.done + 1) % 2 ^ 32)) || (q.st == 2 && decide (step = q.active))

/-- APPLY: its checks, then the hold begins and the step is open (R379). While a record of the stall is PARTIAL only an APPLY that resumes
one is valid (R242). -/
def execApply (r : RingNo) (s : State) : Res :=
  match s.updHead r 3 with
  | some d =>
    let st := (s.ring r).stall
    match updBad d.words with
    | some o => .next (s.updInvalid r d o)
    | none =>
      match s.srec st (uSrec d.words), s.rdDva st (uHyp d.words) 64 with
      | .error m, _ => .next (s.updFault r d m)
      | _, .error m => .next (s.updFault r d m)
      | .ok q, .ok h =>
        if ¬ hypOk h then .next (s.updInvalid r d 32)
        else if ¬ stepOk q (uStep d.words) ∨ ((s.stall st).partial_ ∧ q.st ≠ 2) then .next (s.updInvalid r d 8)
        else .next (s.updTensors r d fun s =>
          (s.updStart r d .apply .drain ((List.range 6).map fun i => BitVec.ofNat 32 (recFld h (4 * i) 4))).modStall st fun x =>
            { x.setStep { x.stepRec (uStep d.words) with open_ := true } with hold := true })
  | none => .next s

/-- Every kernel, stream and collective descriptor of the stall already dispatched has completed. -/
def State.drained (s : State) (st : Nat) : Bool :=
  s.rings.all fun e => e.2.stall != st || e.2.st == .free ||
    e.2.ds.all fun d => d.ph != .running || !(d.type == 1 || d.type == 3 || d.type == 4 || d.type == 5)

/-- APPLY_HOLD_DRAINED. -/
def execApplyHoldDrained (st : StallNo) (s : State) : Res :=
  match (s.stall st).upd with
  | some j =>
    if j.op = .apply ∧ j.ph = .drain ∧ s.drained st then .next (s.modStall st fun x => { x with upd := some { j with ph := .gate } })
    else .next s
  | none => .next s

/-- A step has cleared (R299): every epoch that the stall tagged in it has passed, and STEP_PASS of it is held from every member of its
step set. -/
def Stall.cleared (x : Stall) (p : Step) : Bool := x.allPassed p.epochs && ((x.setFor p.step).getD []).all p.passFrom.contains

/-- The epochs of every step at or below `step` have cleared (R240): of that step and of each earlier one that is open. -/
def State.gateClear (s : State) (st step : Nat) : Bool :=
  let x := s.stall st
  x.cleared (x.stepRec step) && x.steps.all fun p => decide (step ≤ p.step) || !p.open_ || x.cleared p

/-- FP32 constants of a tensor's sizes. -/
def f32Nat (n : Nat) : Nat := toF32 (FV.ofRat (n : Rat))

/-- The clipping factor (R237). -/
def clipFactor (clip n2 : Nat) : Nat :=
  let c := f32 clip
  let lim := f32 (f32Mul clip clip)
  if c.isZero ∨ fvLt (f32 n2) lim ∨ fvEq (f32 n2) lim then f32One else f32Div clip (f32Sqrt n2)

/-- β2·old + (1 − β2)·x. -/
def blend (h : Hyp) (old x : Nat) : Nat := f32Add (f32Mul h.b2 old) (f32Mul (f32Sub f32One h.b2) x)

/-- The statistics of one tensor, from half `cur` into the other (R237). -/
def State.statTensor (s : State) (st cur f : Nat) (h : Hyp) (t : Tensor) : Except MemErr State := do
  let ff := f32Mul f f
  let c := f32Nat t.c
  let rt := f32Nat t.rt
  let w := fun (bs : List Byte) => wordsOf 4 bs.length bs
  let rsq ← s.rdDva st t.rowsq (4 * t.r)
  let csq ← s.rdDva st t.colsq (4 * (t.c + 1))
  let ro ← s.rdDva st (t.rowst + 4 * t.r * cur) (4 * t.r)
  let co ← s.rdDva st (t.colst + 4 * (t.c + 1) * cur) (4 * (t.c + 1))
  let r' := List.zipWith (fun o q => blend h o (f32Add (f32Div (f32Mul ff q) c) h.eps)) (w ro) (w rsq)
  let c' := (List.zipWith (fun o q => (o, q)) (w co) (w csq)).zipIdx.map fun e =>
    if e.2 < t.c then blend h e.1.1 (f32Add (f32Div (f32Mul ff e.1.2) rt) h.eps)
    else blend h e.1.1 (f32Add (f32Div (f32Mul ff e.1.2) c) (f32Mul rt h.eps))
  let s := s.didReads st [(t.rowsq, 4 * t.r), (t.colsq, 4 * (t.c + 1)), (t.rowst + 4 * t.r * cur, 4 * t.r),
    (t.colst + 4 * (t.c + 1) * cur, 4 * (t.c + 1))]
  let s1 ← s.wrDva st (t.rowst + 4 * t.r * (1 - cur)) (f32Bytes r')
  s1.wrDva st (t.colst + 4 * (t.c + 1) * (1 - cur)) (f32Bytes c')

def State.statAll (s : State) (st cur f : Nat) (h : Hyp) : Nat → List Tensor → Except LineErr State
  | _, [] => .ok s
  | ti, t :: ts => do
    let s1 ← atLine ti 0 0 (s.statTensor st cur f h t)
    s1.statAll st cur f h (ti + 1) ts

/-- APPLY stops at a line boundary (R242): STATE = PARTIAL, the hold stays. -/
def State.applyStop (s : State) (st : Nat) (j : UpdJob) (m : MemErr) (at_ : Nat × Nat × Nat) : State :=
  match s.holdFor (.engine st) m with
  | some s => s
  | none => (((s.noteErr 0x0E j.ring st 0x6000 m).srecWr st (uSrec j.words + 0x14) [2]).updCountsStop st j).updEnd st m.cause true at_ |>.noteLevel j.ring j.num m

/-- The commit begins (R240 step 4, R237): a GLOBAL_SQ that is not finite ends APPLY with GRAD_NONFINITE; else STATE and STEP_ACTIVE are
written and the statistics computed. -/
def State.applyCommit (s : State) (st : Nat) (j : UpdJob) : State :=
  let a := uSrec j.words
  match s.srec st a with
  | .error m => s.applyStop st j m (0, 0, 0)
  | .ok q =>
    if ¬ (f32 q.globalSq).isFin then
      match s.wrDva st (a + 0x0C) (toBytes 4 (uStep j.words)) with
      | .error m => s.updStop st j m (0, 0, 0) []
      | .ok s => (s.modStall st fun x => x.setStep { x.stepRec (uStep j.words) with open_ := false }).updEnd st 0x2C
    else
      let h := hypOf j.hyp
      let f := clipFactor h.clip q.globalSq
      match s.wrDva st (a + 0x10) (toBytes 4 (uStep j.words) ++ [1]) with
      | .error m => s.applyStop st j m (0, 0, 0)
      | .ok s =>
        match s.statAll st q.cur f h 0 (s.jobTensors st j) with
        | .error (m, at_) => s.applyStop st j m at_
        | .ok s => s.modStall st fun x => { x with upd := some { j with ph := .work, f := BitVec.ofNat 32 f } }

/-- APPLY_GATE_OPEN: every epoch has cleared; a tainted stall retracts the step in place of it (R380). -/
def execApplyGateOpen (st : StallNo) (s : State) : Res :=
  match (s.stall st).upd with
  | some j =>
    if j.op ≠ .apply ∨ j.ph ≠ .gate ∨ ¬ s.gateClear st (uStep j.words) then .next s
    else if (s.stall st).tainted then
      .next ((s.retractStep st (uStep j.words) 1 (s.stall st).epoch).modStall st fun x => { x with tainted := false })
    else .next (s.applyCommit st j)
  | none => .next s

/-- GATE_TIMEOUT (R241): GATE_FRETS frets after the hold began. -/
def execGateTimeout (st : StallNo) (s : State) : Res :=
  match (s.stall st).upd with
  | some j =>
    if j.op = .apply ∧ j.ph ≠ .work ∧ j.start + 256 * uGate j.words ≤ s.clock then .next (s.updEnd st 0x2B) else .next s
  | none => .next s

/-! ### Lines of APPLY and EMIT (R237, R238, R240) -/

/-- A working copy of a tensor: its planes. -/
def Tensor.plane (t : Tensor) (k : Nat) : Plane :=
  let f := if k = 0 then t.fmt0 else t.fmt1
  { fmt := f, addr := if k = 0 then t.wc0 else t.wc1, stride := t.pitch * fmtBits f / 32, scl := if k = 0 then t.scl0 else t.scl1,
    res := if k = 0 then t.res0 else 0, mask := if k = 0 then t.mask0 else 0 }

/-- Writes of one block or line of a working copy, with its mask bit where it has one. -/
structure WcOut where
  writes : List (Nat × List Byte) := []
  mask : Option (Nat × Nat × Bool) := none
  counts : Counts := {}

/-- Line `l` of row `i` of a working copy from the masters' values (R134, R138, R238). -/
def Tensor.wcLine (t : Tensor) (k key seed : Nat) (stoch : Bool) (i l : Nat) (xs : List FV) : WcOut :=
  let p := t.plane k
  if p.fmt = 0 then {}
  else
    let bb := blockBytes p.fmt
    let rm := fun pu j => rmodeOf stoch key seed pu ((i * t.c + 32 * l + j) % 2 ^ 32)
    let q : QMode := { ovf := false, imm := none, sel := t.sel, resMode := t.resMode, resThr := t.resThr, rm := rm }
    let o := ({ p with addr := p.addr + bb * l, scl := p.scl + l }).line q .nan i xs
    if p.fmt = 8 then
      let flag := o.blocks.any QBlock.cand
      let res := o.blocks.flatMap fun b => if b.cand then [(p.res + i * p.stride + bb * l, packBits 4 (padBlock b.res))] else []
      { writes := o.writes ++ res, mask := some (p.mask + 4 * (i / 32 * (p.stride / bb) + l), i % 32, flag),
        counts := { o.counts with flagged := if flag then 1 else 0 } }
    else { writes := o.writes, counts := o.counts }

def State.wrAll (s : State) (st : Nat) : List (Nat × List Byte) → Except MemErr State
  | [] => .ok s
  | (a, bs) :: t => do
    let s1 ← s.wrDva st a bs
    s1.wrAll st t

/-- What a working copy writes, its mask bit by a memory-side atomic. -/
def State.wcWrite (s : State) (st : Nat) (o : WcOut) : Except MemErr State := do
  let s1 ← s.wrAll st o.writes
  match o.mask with
  | none => .ok s1
  | some (a, b, v) => do
    let w ← s1.rdDva st a 4
    let m := (maskList 32 (ofBytes w)).filter (· ≠ b)
    s1.wrDva st a (toBytes 4 (maskOf (if v then b :: m else m)))

/-- The momentum and master of one element (R237): m1 and w1. -/
def applyElem (h : Hyp) (f lrs rt rsum : Nat) (noDecay : Bool) (w m g r c : Nat) : Nat × Nat :=
  let v := f32Div (f32Mul (f32Mul rt r) c) rsum
  let u := if (f32 v).isZero then 0 else f32Div (f32Mul f g) (f32Sqrt v)
  let m1 := f32Add (f32Mul h.b1 m) (f32Mul (f32Sub f32One h.b1) u)
  let wd := if noDecay then 0 else h.wd
  (m1, f32Sub w (f32Mul (f32Mul h.lr lrs) (f32Add m1 (f32Mul wd w))))

/-- The counts of a line. -/
def addCounts (l : List Nat) (c : Counts) : List Nat := List.zipWith (· + ·) l [c.clip, c.nan, c.flagged, c.written]

/-- Both working copies of a line. -/
def State.wcBoth (s : State) (st : Nat) (j : UpdJob) (t : Tensor) (ti i l : Nat) (ws : List Nat) : Except MemErr (State × Counts) := do
  let seed := fun k => (uSeed j.words + 4 * ti + 1 + k) % 2 ^ 32
  let xs := ws.map f32
  let o0 := t.wcLine 0 j.rkey (seed 0) (uRnd j.words) i l xs
  let o1 := t.wcLine 1 j.rkey (seed 1) (uRnd j.words) i l xs
  let s1 ← s.wcWrite st o0
  let s2 ← s1.wcWrite st o1
  .ok (s2, o0.counts.add o1.counts)

/-- One line of APPLY, by engine `e` that has done `done`: every input is read before any output is written, the HWM advances last, and the
rounding of the momentum counts as any conversion does (R71). -/
def State.applyLine (s : State) (st : Nat) (j : UpdJob) (cur e done : Nat) (t : Tensor) (ti i l : Nat) : Except MemErr (State × Counts) := do
  let n := t.lineLen l
  let h := hypOf j.hyp
  let new := 1 - cur
  let col := t.colst + 4 * (t.c + 1) * new
  let wa := t.master + i * t.pitch + 128 * l
  let ma := t.mom + i * (t.pitch / 2) + 64 * l
  let wb ← s.rdDva st wa (4 * n)
  let mb ← s.rdDva st ma (2 * n)
  let gb ← s.rdDva st (t.grad + i * t.pitch + 128 * l) (4 * n)
  let rb ← s.rdDva st (t.rowst + 4 * t.r * new + 4 * i) 4
  let cb ← s.rdDva st (col + 4 * (32 * l)) (4 * n)
  let sb ← s.rdDva st (col + 4 * t.c) 4
  let at_ := fun (z : Nat) (bs : List Byte) (k : Nat) => ofBytes ((bs.drop (z * k)).take z)
  let out := (List.range n).map fun k =>
    applyElem h j.f.toNat t.lrs (f32Nat t.rt) (ofBytes sb) t.noDecay (at_ 4 wb k) (toF32 (bf16.decode (at_ 2 mb k))) (at_ 4 gb k)
      (ofBytes rb) (at_ 4 cb k)
  let ms := out.mapIdx fun k e =>
    encPlain 1 false (rmodeOf (uRnd j.words) j.rkey ((uSeed j.words + 4 * ti) % 2 ^ 32) 0 ((i * t.c + 32 * l + k) % 2 ^ 32)) (f32 e.1)
  let s := s.didReads st [(wa, 4 * n), (ma, 2 * n), (t.grad + i * t.pitch + 128 * l, 4 * n), (t.rowst + 4 * t.r * new + 4 * i, 4),
    (col + 128 * l, 4 * n), (col + 4 * t.c, 4)]
  let s1 ← s.wrDva st wa (f32Bytes (out.map (·.2)))
  let s2 ← s1.wrDva st ma (ms.flatMap fun e => toBytes 2 e.code)
  let (s3, c) ← s2.wcBoth st j t ti i l (out.map (·.2))
  let s4 ← s3.wrDva st (uSrec j.words + 0x40 + 4 * e) (toBytes 4 (done + 1))
  .ok (s4, c.add { clip := (ms.map Enc.clip).sum, nan := (ms.map Enc.nan).sum })

/-- One line of EMIT: the working copies of the current masters. -/
def State.emitLine (s : State) (st : Nat) (j : UpdJob) (t : Tensor) (ti i l : Nat) : Except MemErr (State × Counts) := do
  let wb ← s.rdDva st (t.master + i * t.pitch + 128 * l) (4 * t.lineLen l)
  (s.didRead st (t.master + i * t.pitch + 128 * l) wb.length).wcBoth st j t ti i l (wordsOf 4 wb.length wb)

/-- What a stopped EMIT leaves undefined: the working copies of its tensors. -/
def Tensor.wcRanges (t : Tensor) : List (Nat × Nat) :=
  [0, 1].flatMap fun k =>
    let p := t.plane k
    if p.fmt = 0 then []
    else
      let per := p.stride / blockBytes p.fmt
      (List.range t.r).flatMap fun i =>
        (p.addr + i * p.stride, if fmtBlock p.fmt then blockBytes p.fmt * t.rowLines else packLen p.fmt t.c) ::
        (if fmtBlock p.fmt then [(p.scl + i * per, t.rowLines)] else []) ++
        (if p.fmt = 8 then [(p.res + i * p.stride, blockBytes p.fmt * t.rowLines), (p.mask + 4 * (i / 32 * per), 4 * t.rowLines)] else [])

/-- The next line of engine `e`: how many it has done, and the line. -/
def State.nextLine (s : State) (st e done : Nat) (ts : List Tensor) : Option (Nat × Nat × Nat) :=
  (s.engineLines st ts (fun t => t.master) e)[done]?

/-- Lines an engine has done: HWM of the step record for APPLY, the job's own count for EMIT. -/
def State.linesDone (s : State) (st : Nat) (j : UpdJob) (e : Nat) : Nat :=
  if j.op = .apply then (match s.srec st (uSrec j.words) with | .ok q => (q.hwm[e]?).getD 0 | .error _ => 0) else tget 0 j.hwm e

/-- UPDATE_ENGINE_LINE: engine `e` takes its next line of the stall's APPLY or EMIT. -/
def execUpdateEngineLine (st : StallNo) (e : EngineNo) (us : UnitErrs) (s : State) : Res :=
  match (s.stall st).upd with
  | some j =>
    if j.ph ≠ .work ∨ ¬ s.pwr.coreClocks ∨ ¬ (j.op = .apply ∨ j.op = .emit) then .next s
    else
      let s := s.readOwned st us
      let ts := s.jobTensors st j
      let done := s.linesDone st j e
      match s.nextLine st e done ts with
      | none => .next s
      | some (ti, i, l) =>
        match ts[ti]? with
        | none => .next s
        | some t =>
          let cur := match s.srec st (uSrec j.words) with | .ok q => q.cur | .error _ => 0
          let put (s : State) (c : Counts) (j : UpdJob) : State :=
            s.modStall st fun x => { x with upd := some { j with counts := addCounts j.counts c } }
          if j.op = .apply then
            match s.applyLine st j cur e done t ti i l with
            | .ok (s', c) => .next (put s' c j)
            | .error m => .next (s.applyStop st j m (ti, i, l))
          else
            match s.emitLine st j t ti i l with
            | .ok (s', c) => .next (put s' c { j with hwm := tset 0 j.hwm e (done + 1) })
            | .error m =>
              match s.holdFor (.engine st) m with
              | some s => .next s
              | none => .next ((s.updCountsStop st j).updStop st j m (ti, i, l) (ts.flatMap Tensor.wcRanges))
  | none => .next s

/-- Every engine has done all its lines. -/
def State.allLines (s : State) (st : Nat) (j : UpdJob) : Bool :=
  let ts := s.jobTensors st j
  (List.range 64).all fun e => (s.nextLine st e (s.linesDone st j e) ts).isNone

/-- APPLY_COMMIT_DONE: STEP_DONE = STEP, CUR = new, all HWM = 0, STATE = IDLE; the hold is released and APPLY completes,
once no write of the stall waits for a refill (R209). -/
def execApplyCommitDone (st : StallNo) (s : State) : Res :=
  match (s.stall st).upd with
  | some j =>
    if j.op ≠ .apply ∨ j.ph ≠ .work ∨ ¬ s.pwr.coreClocks ∨ ¬ s.allLines st j ∨ s.delays st then .next s
    else
      let a := uSrec j.words
      let step := uStep j.words
      let out : Except MemErr State := do
        let q ← s.srec st a
        let s1 ← s.updCounts st j
        let s2 ← s1.wrDva st (a + 0x0C) (toBytes 4 step)
        let s3 ← s2.wrDva st (a + 0x40) (List.replicate 256 0)
        s3.wrDva st (a + 0x14) [0, BitVec.ofNat 8 (1 - q.cur)]
      match out with
      | .error m => .next (s.applyStop st j m (0, 0, 0))
      | .ok s =>
      let s := s.modStall st fun x => x.setStep { x.stepRec step with open_ := false, committed := some (stringOf s.str.time), passFrom := [] }
      .next (s.updEnd st 0)
  | none => .next s

/-- EMIT: its checks. -/
def execEmit (r : RingNo) (s : State) : Res :=
  match s.updHead r 4 with
  | some d =>
    match updBad d.words with
    | some o => .next (s.updInvalid r d o)
    | none =>
      if (s.stall (s.ring r).stall).partial_ then .next (s.updInvalid r d 8)
      else .next (s.updTensors r d fun s => s.updStart r d .emit .work)
  | none => .next s

/-- EMIT_DONE: every line is converted; its counts are added and EMIT completes. -/
def execEmitDone (st : StallNo) (s : State) : Res :=
  match (s.stall st).upd with
  | some j =>
    if j.op ≠ .emit ∨ ¬ s.pwr.coreClocks ∨ ¬ s.allLines st j ∨ s.delays st then .next s
    else match s.updCounts st j with
      | .ok s => .next (s.updEnd st 0)
      | .error m => .next (s.updStop st j m (0, 0, 0) ((s.jobTensors st j).flatMap Tensor.wcRanges))
  | none => .next s

/-- ABANDON (R243): the record is IDLE again, the hold is released. -/
def execAbandon (r : RingNo) (s : State) : Res :=
  match s.updHead r 5 with
  | some d =>
    let st := (s.ring r).stall
    match updBad d.words with
    | some o => .next (s.updInvalid r d o)
    | none =>
      match s.srec st (uSrec d.words) with
      | .error m => .next (s.updFault r d m)
      | .ok q =>
        if q.st ≠ 2 ∨ q.active ≠ uStep d.words then .next (s.updInvalid r d 8)
        else
          let out : Except MemErr State := do
            let s1 ← s.wrDva st (uSrec d.words + 0x14) [0]
            s1.wrDva st (uSrec d.words + 0x40) (List.replicate 256 0)
          match out with
          | .error m => .next (s.updFault r d m)
          | .ok s =>
            let s := (s.dispatchDesc r d.num).modStall st fun x => { x with partial_ := false }
            .next ((s.releaseHold st).descDone r d.num 0 0)
  | none => .next s

/-! ### Pipelines (R226, R227) -/

/-- A kernel is ready: the head of its ring, which the scheduler could dispatch now. -/
def State.readyRing (s : State) : Option (Nat × Ring) → Option Nat
  | some (r, _) => if (s.headReady r).any fun d => d.type == 1 then some r else none
  | none => none

/-- Submitted Bw kernels that have not been dispatched: a descriptor that is not read yet counts as one (log 142). -/
def bwPending : Option (Nat × Ring) → Nat
  | some (_, x) => (x.ds.filter fun d => (d.words.isEmpty || d.type == 1) && d.ph != .running && d.ph != .done).length
  | none => 0

/-- choose(p) of R227: the pipeline after the choice and the ring chosen. -/
def State.choosePipe (s : State) (st p : Nat) (x : Pipe) : Pipe × Option Nat :=
  let f := s.classRing st p 1
  let bx := s.classRing st p 2
  let bw := s.classRing st p 3
  let lag := match bw with | some (_, q) => q.bwLag | none => 0
  let bubble := (x, s.readyRing bw)
  if 0 < lag ∧ lag ≤ bwPending bw ∧ (s.readyRing bw).isSome then bubble
  else if ¬ x.full then
    match s.readyRing bx, s.readyRing f with
    | some r, _ => ({ x with full := true, turnBx := false }, some r)
    | none, some r => (x, some r)
    | none, none => bubble
  else
    let t := if x.turnBx then bx else f
    let o := if x.turnBx then f else bx
    match s.readyRing t with
    | some r => ({ x with turnBx := !x.turnBx }, some r)
    | none =>
      match (if emptyRing t then s.readyRing o else none) with
      | some r => (x, some r)
      | none => bubble

/-- PIPELINE_CHOOSE: while no choice of the pipeline waits for its cores. -/
def execPipelineChoose (st : StallNo) (pipe : Fin 16) (s : State) : Res :=
  let x := tget {} (s.stall st).pipes pipe
  if x.chosen.isSome then .next s
  else
    let (y, r) := s.choosePipe st pipe x
    .next (s.modStall st fun q => { q with pipes := tset {} q.pipes pipe { y with chosen := r } })

end Sys2Proof.Machine
end

