-- ==== Sys2Proof/Machine/Dispatch.lean ====
section
/-! DEFINITION. The dispatch of commands to their meanings: one arm per row of spec/opcode_table.json. -/

namespace Sys2Proof.Machine

def exec (i : Instr) (s : State) : Host.Outcome State Fault Refusal :=
  match i with
  | .wireEdge off per => Sys2Proof.Machine.execWireEdge off per s
  | .wireSourceTimeout => Sys2Proof.Machine.execWireSourceTimeout s
  | .fabricSourceTimeout p => Sys2Proof.Machine.execFabricSourceTimeout p s
  | .stringBoundary => Sys2Proof.Machine.execStringBoundary s
  | .holdoverExpiry => Sys2Proof.Machine.execHoldoverExpiry s
  | .stringLostStop => Sys2Proof.Machine.execStringLostStop s
  | .strCountLoadWrite f part v => Sys2Proof.Machine.execStrCountLoadWrite f part v s
  | .phaseSend txOff => Sys2Proof.Machine.execPhaseSend txOff s
  | .phase p count strat len txOff rxAt => Sys2Proof.Machine.execPhase p count strat len txOff rxAt s
  | .laserPowerSample e w0 w1 => Sys2Proof.Machine.execLaserPowerSample e w0 w1 s
  | .mxi c g w => Sys2Proof.Machine.execMxi c g w s
  | .heldIssueRetry c g => Sys2Proof.Machine.execHeldIssueRetry c g s
  | .passStart c q bad => Sys2Proof.Machine.execPassStart c q bad s
  | .passEnd c k bad us errs => Sys2Proof.Machine.execPassEnd c k bad us errs s
  | .passComplete c k => Sys2Proof.Machine.execPassComplete c k s
  | .nop c g w => Sys2Proof.Machine.execNop c g w s
  | .iadd c g w bad => Sys2Proof.Machine.execIadd c g w bad s
  | .iaddi c g w bad => Sys2Proof.Machine.execIaddi c g w bad s
  | .isub c g w bad => Sys2Proof.Machine.execIsub c g w bad s
  | .imul c g w bad => Sys2Proof.Machine.execImul c g w bad s
  | .imad c g w bad => Sys2Proof.Machine.execImad c g w bad s
  | .idiv c g w => Sys2Proof.Machine.execIdiv c g w s
  | .iminmax c g w => Sys2Proof.Machine.execIminmax c g w s
  | .lop c g w => Sys2Proof.Machine.execLop c g w s
  | .lopi c g w => Sys2Proof.Machine.execLopi c g w s
  | .shf c g w => Sys2Proof.Machine.execShf c g w s
  | .bits c g w => Sys2Proof.Machine.execBits c g w s
  | .movi c g w => Sys2Proof.Machine.execMovi c g w s
  | .mov c g w => Sys2Proof.Machine.execMov c g w s
  | .sel c g w => Sys2Proof.Machine.execSel c g w s
  | .fadd c g w => Sys2Proof.Machine.execFadd c g w s
  | .fmul c g w => Sys2Proof.Machine.execFmul c g w s
  | .ffma c g w => Sys2Proof.Machine.execFfma c g w s
  | .faddi c g w => Sys2Proof.Machine.execFaddi c g w s
  | .fmuli c g w => Sys2Proof.Machine.execFmuli c g w s
  | .fminmax c g w => Sys2Proof.Machine.execFminmax c g w s
  | .xfn c g w => Sys2Proof.Machine.execXfn c g w s
  | .fdiv c g w => Sys2Proof.Machine.execFdiv c g w s
  | .hop2 c g w => Sys2Proof.Machine.execHop2 c g w s
  | .cvt c g w => Sys2Proof.Machine.execCvt c g w s
  | .rng c g w => Sys2Proof.Machine.execRng c g w s
  | .shfl c g w => Sys2Proof.Machine.execShfl c g w s
  | .vote c g w => Sys2Proof.Machine.execVote c g w s
  | .icmp c g w => Sys2Proof.Machine.execIcmp c g w s
  | .fcmp c g w => Sys2Proof.Machine.execFcmp c g w s
  | .pcomb c g w => Sys2Proof.Machine.execPcomb c g w s
  | .ldl c g w bad errs => Sys2Proof.Machine.execLdl c g w bad errs s
  | .stl c g w bad => Sys2Proof.Machine.execStl c g w bad s
  | .ldg c g w bad => Sys2Proof.Machine.execLdg c g w bad s
  | .globalLoadReturn c k errs => Sys2Proof.Machine.execGlobalLoadReturn c k errs s
  | .stg c g w bad => Sys2Proof.Machine.execStg c g w bad s
  | .fence c g w => Sys2Proof.Machine.execFence c g w s
  | .ncinv c g w => Sys2Proof.Machine.execNcinv c g w s
  | .pref c g w bad us => Sys2Proof.Machine.execPref c g w bad us s
  | .atomg c g w bad res us => Sys2Proof.Machine.execAtomg c g w bad res us s
  | .redg c g w bad res us => Sys2Proof.Machine.execRedg c g w bad res us s
  | .atoml c g w bad => Sys2Proof.Machine.execAtoml c g w bad s
  | .bra c g w => Sys2Proof.Machine.execBra c g w s
  | .brx c g w => Sys2Proof.Machine.execBrx c g w s
  | .call c g w => Sys2Proof.Machine.execCall c g w s
  | .exit c g w => Sys2Proof.Machine.execExit c g w s
  | .bar c g w => Sys2Proof.Machine.execBar c g w s
  | .trap c g w => Sys2Proof.Machine.execTrap c g w s
  | .yield c g w => Sys2Proof.Machine.execYield c g w s
  | .vxi c g w => Sys2Proof.Machine.execVxi c g w s
  | .cxi c g w => Sys2Proof.Machine.execCxi c g w s
  | .twait c g w => Sys2Proof.Machine.execTwait c g w s
  | .tread c g w => Sys2Proof.Machine.execTread c g w s
  | .sreg c g w => Sys2Proof.Machine.execSreg c g w s
  | .blockStart c b => Sys2Proof.Machine.execBlockStart c b s
  | .contextKillDone c => Sys2Proof.Machine.execContextKillDone c s
  | .watchdogExpired c hw => Sys2Proof.Machine.execWatchdogExpired c hw s
  | .contextEnd c => Sys2Proof.Machine.execContextEnd c s
  | .vecCvt c us => Sys2Proof.Machine.execVecCvt c us s
  | .vecAdd c us => Sys2Proof.Machine.execVecAdd c us s
  | .vecMul c us => Sys2Proof.Machine.execVecMul c us s
  | .vecFma c us => Sys2Proof.Machine.execVecFma c us s
  | .vecMin c us => Sys2Proof.Machine.execVecMin c us s
  | .vecMax c us => Sys2Proof.Machine.execVecMax c us s
  | .vecCmp c us => Sys2Proof.Machine.execVecCmp c us s
  | .vecSel c us => Sys2Proof.Machine.execVecSel c us s
  | .vecRed c us => Sys2Proof.Machine.execVecRed c us s
  | .vectorDescComplete c => Sys2Proof.Machine.execVectorDescComplete c s
  | .patrolRead k off errs => Sys2Proof.Machine.execPatrolRead k off errs s
  | .stackFail k cause => Sys2Proof.Machine.execStackFail k cause s
  | .hbmThermalSample k t => Sys2Proof.Machine.execHbmThermalSample k t s
  | .refillStart => Sys2Proof.Machine.execRefillStart s
  | .refillFetchDone b r => Sys2Proof.Machine.execRefillFetchDone b r s
  | .heldReadTimeout k => Sys2Proof.Machine.execHeldReadTimeout k s
  | .pinLeaseExpiry st base => Sys2Proof.Machine.execPinLeaseExpiry st base s
  | .open_ r => Sys2Proof.Machine.execOpen r s
  | .close r => Sys2Proof.Machine.execClose r s
  | .closeAddBackDone st => Sys2Proof.Machine.execCloseAddBackDone st s
  | .norm r => Sys2Proof.Machine.execNorm r s
  | .normDone st us => Sys2Proof.Machine.execNormDone st us s
  | .apply r => Sys2Proof.Machine.execApply r s
  | .applyHoldDrained st => Sys2Proof.Machine.execApplyHoldDrained st s
  | .applyGateOpen st => Sys2Proof.Machine.execApplyGateOpen st s
  | .updateEngineLine st e us => Sys2Proof.Machine.execUpdateEngineLine st e us s
  | .applyCommitDone st => Sys2Proof.Machine.execApplyCommitDone st s
  | .gateTimeout st => Sys2Proof.Machine.execGateTimeout st s
  | .emit r => Sys2Proof.Machine.execEmit r s
  | .emitDone st => Sys2Proof.Machine.execEmitDone st s
  | .abandon r => Sys2Proof.Machine.execAbandon r s
  | .pipelineChoose st pipe => Sys2Proof.Machine.execPipelineChoose st pipe s
  | .flitReceive p x => Sys2Proof.Machine.execFlitReceive p x s
  | .nakResendTimeout p => Sys2Proof.Machine.execNakResendTimeout p s
  | .flitSlotTransmit p => Sys2Proof.Machine.execFlitSlotTransmit p s
  | .nak p seq => Sys2Proof.Machine.execNak p seq s
  | .credit p c0 c1 c2 c3 => Sys2Proof.Machine.execCredit p c0 c1 c2 c3 s
  | .train p id kind len enc c0 c1 c2 c3 lat => Sys2Proof.Machine.execTrain p id kind len enc c0 c1 c2 c3 lat s
  | .delayReq p idx t1 t2 t3 => Sys2Proof.Machine.execDelayReq p idx t1 t2 t3 s
  | .delayRsp p idx t1 t2 t3 t4 => Sys2Proof.Machine.execDelayRsp p idx t1 t2 t3 t4 s
  | .delayMeasureStart p ts => Sys2Proof.Machine.execDelayMeasureStart p ts s
  | .planEntries p tag first count es => Sys2Proof.Machine.execPlanEntries p tag first count es s
  | .flowEntries p tag first count es => Sys2Proof.Machine.execFlowEntries p tag first count es s
  | .planSend p tag es fs at_ => Sys2Proof.Machine.execPlanSend p tag es fs at_ s
  | .planAck p ctype tag => Sys2Proof.Machine.execPlanAck p ctype tag s
  | .planNak p ctype tag first why => Sys2Proof.Machine.execPlanNak p ctype tag first why s
  | .switch p tag at_ => Sys2Proof.Machine.execSwitch p tag at_ s
  | .switchWithdraw p => Sys2Proof.Machine.execSwitchWithdraw p s
  | .planSwitch p => Sys2Proof.Machine.execPlanSwitch p s
  | .keyNonce p n => Sys2Proof.Machine.execKeyNonce p n s
  | .keyConfirmation p ok => Sys2Proof.Machine.execKeyConfirmation p ok s
  | .down p why => Sys2Proof.Machine.execDown p why s
  | .lateAck p => Sys2Proof.Machine.execLateAck p s
  | .lateAckLimit p => Sys2Proof.Machine.execLateAckLimit p s
  | .replayLimit p => Sys2Proof.Machine.execReplayLimit p s
  | .fecLimit p bad total => Sys2Proof.Machine.execFecLimit p bad total s
  | .tagFailureLimit p => Sys2Proof.Machine.execTagFailureLimit p s
  | .silentTimeout p => Sys2Proof.Machine.execSilentTimeout p s
  | .rekey p => Sys2Proof.Machine.execRekey p s
  | .retrainBackoffExpiry p => Sys2Proof.Machine.execRetrainBackoffExpiry p s
  | .trainingStepTimeout p step chan => Sys2Proof.Machine.execTrainingStepTimeout p step chan s
  | .linkUp p => Sys2Proof.Machine.execLinkUp p s
  | .retrain f p => Sys2Proof.Machine.execRetrain f p s
  | .put p x => Sys2Proof.Machine.execPut p x s
  | .getReq p x us => Sys2Proof.Machine.execGetReq p x us s
  | .reducePut p x res => Sys2Proof.Machine.execReducePut p x res s
  | .permutePacket p x => Sys2Proof.Machine.execPermutePacket p x s
  | .getRsp p x => Sys2Proof.Machine.execGetRsp p x s
  | .putDone p x => Sys2Proof.Machine.execPutDone p x s
  | .collectivePacketReceive p x res => Sys2Proof.Machine.execCollectivePacketReceive p x res s
  | .segmentForward st coll shard off errs res => Sys2Proof.Machine.execSegmentForward st coll shard off errs res s
  | .pass p x us res => Sys2Proof.Machine.execPass p x us res s
  | .stepPass p x => Sys2Proof.Machine.execStepPass p x s
  | .retract p x => Sys2Proof.Machine.execRetract p x s
  | .leave p x => Sys2Proof.Machine.execLeave p x s
  | .sealQuery p x errs => Sys2Proof.Machine.execSealQuery p x errs s
  | .sealNone p x => Sys2Proof.Machine.execSealNone p x s
  | .sealQueryTimeout st coll => Sys2Proof.Machine.execSealQueryTimeout st coll s
  | .allReduce r => Sys2Proof.Machine.execAllReduce r s
  | .reduceScatter r => Sys2Proof.Machine.execReduceScatter r s
  | .allGather r => Sys2Proof.Machine.execAllGather r s
  | .broadcast r => Sys2Proof.Machine.execBroadcast r s
  | .allToAll r => Sys2Proof.Machine.execAllToAll r s
  | .permute r => Sys2Proof.Machine.execPermute r s
  | .stepset r => Sys2Proof.Machine.execStepset r s
  | .collectiveStart st coll => Sys2Proof.Machine.execCollectiveStart st coll s
  | .passSend st coll us res => Sys2Proof.Machine.execPassSend st coll us res s
  | .stepPassSend st => Sys2Proof.Machine.execStepPassSend st s
  | .stepPassResend st => Sys2Proof.Machine.execStepPassResend st s
  | .permuteCommit st coll us => Sys2Proof.Machine.execPermuteCommit st coll us s
  | .collectiveComplete st coll us res => Sys2Proof.Machine.execCollectiveComplete st coll us res s
  | .collectiveDeadline st coll => Sys2Proof.Machine.execCollectiveDeadline st coll s
  | .retractedCollectiveEnd st coll => Sys2Proof.Machine.execRetractedCollectiveEnd st coll s
  | .leaveEnd st coll => Sys2Proof.Machine.execLeaveEnd st coll s
  | .kick f acc v via => Sys2Proof.Machine.execKick f acc v via s
  | .doorbellScan f page r => Sys2Proof.Machine.execDoorbellScan f page r s
  | .doorbellRead r x => Sys2Proof.Machine.execDoorbellRead r x s
  | .descriptorRead r x => Sys2Proof.Machine.execDescriptorRead r x s
  | .seqReread r x => Sys2Proof.Machine.execSeqReread r x s
  | .kernelLaunch r => Sys2Proof.Machine.execKernelLaunch r s
  | .copy r x us => Sys2Proof.Machine.execCopy r x us s
  | .accumCopy r x res us => Sys2Proof.Machine.execAccumCopy r x res us s
  | .fill r x => Sys2Proof.Machine.execFill r x s
  | .vectorStream r => Sys2Proof.Machine.execVectorStream r s
  | .matrixStream r => Sys2Proof.Machine.execMatrixStream r s
  | .streamEntriesDone c => Sys2Proof.Machine.execStreamEntriesDone c s
  | .fenceDesc r => Sys2Proof.Machine.execFenceDesc r s
  | .signal r => Sys2Proof.Machine.execSignal r s
  | .wait r => Sys2Proof.Machine.execWait r s
  | .eventWaitSatisfied r => Sys2Proof.Machine.execEventWaitSatisfied r s
  | .waitTime r => Sys2Proof.Machine.execWaitTime r s
  | .waitTimeReached r => Sys2Proof.Machine.execWaitTimeReached r s
  | .eventWaitTimeout r => Sys2Proof.Machine.execEventWaitTimeout r s
  | .tallyRead r x => Sys2Proof.Machine.execTallyRead r x s
  | .completionRecord r d => Sys2Proof.Machine.execCompletionRecord r d s
  | .coalesceTimeout r delivered => Sys2Proof.Machine.execCoalesceTimeout r delivered s
  | .ringCreate f v => Sys2Proof.Machine.execRingCreate f v s
  | .ringStop f v => Sys2Proof.Machine.execRingStop f v s
  | .ringStopDone r => Sys2Proof.Machine.execRingStopDone r s
  | .ringResume f v => Sys2Proof.Machine.execRingResume f v s
  | .ringDestroy f v => Sys2Proof.Machine.execRingDestroy f v s
  | .flr f => Sys2Proof.Machine.execFlr f s
  | .perst p => Sys2Proof.Machine.execPerst p s
  | .hostPortLeavesL0 p ltssm => Sys2Proof.Machine.execHostPortLeavesL0 p ltssm s
  | .atsInvalidate f itag => Sys2Proof.Machine.execAtsInvalidate f itag s
  | .ideKm f stream m ok => Sys2Proof.Machine.execIdeKm f stream m ok s
  | .ideIntegrityFailure p stream f => Sys2Proof.Machine.execIdeIntegrityFailure p stream f s
  | .spdmRequest conn q => Sys2Proof.Machine.execSpdmRequest conn q s
  | .setFabricKey conn ours key => Sys2Proof.Machine.execSetFabricKey conn ours key s
  | .pqSign conn ours => Sys2Proof.Machine.execPqSign conn ours s
  | .getPqCert conn ours off len => Sys2Proof.Machine.execGetPqCert conn ours off len s
  | .lockInterface f stream => Sys2Proof.Machine.execLockInterface f stream s
  | .startInterface f => Sys2Proof.Machine.execStartInterface f s
  | .stopInterface f => Sys2Proof.Machine.execStopInterface f s
  | .getInterfaceReport f => Sys2Proof.Machine.execGetInterfaceReport f s
  | .tdiUnlockDone f => Sys2Proof.Machine.execTdiUnlockDone f s
  | .stallCreate f v => Sys2Proof.Machine.execStallCreate f v s
  | .stallReset f v => Sys2Proof.Machine.execStallReset f v s
  | .stallResetDone st => Sys2Proof.Machine.execStallResetDone st s
  | .stallDestroy f v => Sys2Proof.Machine.execStallDestroy f v s
  | .assign f v => Sys2Proof.Machine.execAssign f v s
  | .inval f v => Sys2Proof.Machine.execInval f v s
  | .setShare f v => Sys2Proof.Machine.execSetShare f v s
  | .share f v => Sys2Proof.Machine.execShare f v s
  | .unshare f v => Sys2Proof.Machine.execUnshare f v s
  | .fnQuota f v => Sys2Proof.Machine.execFnQuota f v s
  | .setRkey f v => Sys2Proof.Machine.execSetRkey f v s
  | .goldenAdd f v => Sys2Proof.Machine.execGoldenAdd f v s
  | .goldenRemove f v => Sys2Proof.Machine.execGoldenRemove f v s
  | .shareOffer f v => Sys2Proof.Machine.execShareOffer f v s
  | .shareWithdraw f v => Sys2Proof.Machine.execShareWithdraw f v s
  | .quantumEnd c => Sys2Proof.Machine.execQuantumEnd c s
  | .coreGrant => Sys2Proof.Machine.execCoreGrant s
  | .contextSave c bad => Sys2Proof.Machine.execContextSave c bad s
  | .contextRestore c intact bad => Sys2Proof.Machine.execContextRestore c intact bad s
  | .windowClose st => Sys2Proof.Machine.execWindowClose st s
  | .ldgCtlWrite f fn v => Sys2Proof.Machine.execLdgCtlWrite f fn v s
  | .ldgBaseWrite f fn part v => Sys2Proof.Machine.execLdgBaseWrite f fn part v s
  | .run f v => Sys2Proof.Machine.execRun f v s
  | .fieldTestDone failed => Sys2Proof.Machine.execFieldTestDone failed s
  | .cancel f v => Sys2Proof.Machine.execCancel f v s
  | .fenceUnit f v => Sys2Proof.Machine.execFenceUnit f v s
  | .fenceTakeEffect => Sys2Proof.Machine.execFenceTakeEffect s
  | .planEntryLeaseExpiry p flow => Sys2Proof.Machine.execPlanEntryLeaseExpiry p flow s
  | .windowLeaseExpiry st win => Sys2Proof.Machine.execWindowLeaseExpiry st win s
  | .heldGetLeaseExpiry st => Sys2Proof.Machine.execHeldGetLeaseExpiry st s
  | .stage f img => Sys2Proof.Machine.execStage f img s
  | .stageDone flashOk => Sys2Proof.Machine.execStageDone flashOk s
  | .applyLive f => Sys2Proof.Machine.execApplyLive f s
  | .tuningPrepareDone ok => Sys2Proof.Machine.execTuningPrepareDone ok s
  | .tuningSwitch bad => Sys2Proof.Machine.execTuningSwitch bad s
  | .qPoint st ok => Sys2Proof.Machine.execQPoint st ok s
  | .qLimitExpiry st ok => Sys2Proof.Machine.execQLimitExpiry st ok s
  | .tuningCommit flashOk => Sys2Proof.Machine.execTuningCommit flashOk s
  | .tuningRevert bad => Sys2Proof.Machine.execTuningRevert bad s
  | .applyAtReset f => Sys2Proof.Machine.execApplyAtReset f s
  | .rollback f => Sys2Proof.Machine.execRollback f s
  | .discard f => Sys2Proof.Machine.execDiscard f s
  | .capture f => Sys2Proof.Machine.execCapture f s
  | .resetDevice f b => Sys2Proof.Machine.execResetDevice f b s
  | .unsealedFieldApply => Sys2Proof.Machine.execUnsealedFieldApply s
  | .powerOn b => Sys2Proof.Machine.execPowerOn b s
  | .bootReady => Sys2Proof.Machine.execBootReady s
  | .bootTimeout b => Sys2Proof.Machine.execBootTimeout b s
  | .powerDown => Sys2Proof.Machine.execPowerDown s
  | .coreRailRemove => Sys2Proof.Machine.execCoreRailRemove s
  | .fwWrite f x => Sys2Proof.Machine.execFwWrite f x s
  | .commitSvn f => Sys2Proof.Machine.execCommitSvn f s
  | .nonce f => Sys2Proof.Machine.execNonce f s
  | .keyAdd f k => Sys2Proof.Machine.execKeyAdd f k s
  | .keyRevoke f k => Sys2Proof.Machine.execKeyRevoke f k s
  | .debugUnlock f t => Sys2Proof.Machine.execDebugUnlock f t s
  | .slowPowerLoop x => Sys2Proof.Machine.execSlowPowerLoop x s
  | .pwrCapOvrWrite src v => Sys2Proof.Machine.execPwrCapOvrWrite src v s
  | .droop d => Sys2Proof.Machine.execDroop d s
  | .droopHoldExpiry d => Sys2Proof.Machine.execDroopHoldExpiry d s
  | .pwrbrakeAssert => Sys2Proof.Machine.execPwrbrakeAssert s
  | .brakeRelease => Sys2Proof.Machine.execBrakeRelease s
  | .brakeRampFret => Sys2Proof.Machine.execBrakeRampFret s
  | .thermalSample u t => Sys2Proof.Machine.execThermalSample u t s
  | .mctpControl path q => Sys2Proof.Machine.execMctpControl path q s
  | .pldmBaseDiscovery path => Sys2Proof.Machine.execPldmBaseDiscovery path s
  | .pldmGetSensor path q => Sys2Proof.Machine.execPldmGetSensor path q s
  | .deviceResetEffecter path b => Sys2Proof.Machine.execDeviceResetEffecter path b s
  | .pldmFwUpdate path x => Sys2Proof.Machine.execPldmFwUpdate path x s
  | .ledgerRead path seq => Sys2Proof.Machine.execLedgerRead path seq s
  | .registerWrite f off size v via => Sys2Proof.Machine.execRegisterWrite f off size v via s
  | .lowHalfReadLatch f off size via => Sys2Proof.Machine.execLowHalfReadLatch f off size via s
  | .doorbellConfigWrite f off size v => Sys2Proof.Machine.execDoorbellConfigWrite f off size v s
  | .tunOp path op b => Sys2Proof.Machine.execTunOp path op b s
  | .perstDeassert p => Sys2Proof.Machine.execPerstDeassert p s
  | .hostPortReachesL0 p flitMode ltssm => Sys2Proof.Machine.execHostPortReachesL0 p flitMode ltssm s
  | .vfEnable p n => Sys2Proof.Machine.execVfEnable p n s
  | .pwrbrakeDeassert => Sys2Proof.Machine.execPwrbrakeDeassert s
  | .droopSupplyRecovery d => Sys2Proof.Machine.execDroopSupplyRecovery d s
  | .oldKeyAcceptExpiry p => Sys2Proof.Machine.execOldKeyAcceptExpiry p s

end Sys2Proof.Machine
end

