-- ==== Sys2Proof/Safety.lean ====
section
/-! DEFINITION. What a safe run of the block is, in the terms that the statements use: the canonical form of device memory, the fuses
that only ever gain bits, and what it means that a part of the state is unchanged. -/

namespace Sys2Proof.Machine

/-- Device memory is in canonical form: bytes, owner entries, keys and stacks each as a table that lists no default. -/
def Memory.wf (m : Mem) : Bool := twf 0 m.cells && twf 0 m.owner && twf 0 m.blkKey && twf ({} : Stack) m.stks

/-- What one-time-programmable fuses allow (Table 17.1, R428, R431) from the contents `n` to `m`: the SVN floor never falls, a programmed
slot stays programmed, a revoked one revoked, and the UDS, the vendor's key hashes, the factory layer and the production state stay. -/
structure FusesKept (n m : Nv) : Prop where
  floor : n.floor ≤ m.floor
  prog : n.slotProg &&& ~~~m.slotProg = 0
  rev : n.slotRev &&& ~~~m.slotRev = 0
  factory : m.factory = n.factory
  uds : m.uds = n.uds
  vendorRsa : m.vendorRsa = n.vendorRsa
  vendorSlh : m.vendorSlh = n.vendorSlh
  production : m.production = n.production

/-- The numbered units of the block are in canonical form: cores, contexts, stalls, rings, functions, ports and the droop of each die, each as a
table that lists no default. -/
def State.tablesWf (s : State) : Bool :=
  twf {} s.cores && twf none s.ctxs && twf {} s.stalls && twf {} s.rings && twf {} s.fns && twf {} s.ports && twf .no s.pwr.droop &&
    twf 0 s.pwr.droopAt && twf 0 s.pwr.droops

/-- Every byte of device memory reads as before. -/
def MemSame (s t : State) : Prop := ∀ a, t.byteAt a = s.byteAt a

/-! ### When an instruction of a group issues (R146, R149 to R151) -/

/-- The environment `e` is that of the word `w` with opcode `opc` on the group in slot `g` of core `c`, and the group is ready: its context
runs and its stall issues, it holds nothing, its word is fetched and passes the decode checks of R150, and no register it names awaits a load. -/
structure Issues (s : State) (c g : Nat) (w : W64) (opc : Nat) (u : Uses) (e : IEnv) : Prop where
  ctx : s.ctxOf c = some (e.n, e.x)
  running : e.x.st = .running
  issues : s.issues e.x.stall = true
  group : ∃ gr top rest, s.group? c g = some gr ∧ gr.held = .no ∧ popPaths gr.paths = top :: rest ∧
    e.gr = { gr with paths := top :: rest } ∧ e.pc = top.pc ∧ e.act = top.mask
  lanes : e.ex = (maskList 32 e.act).filter (guardOf e.gr w)
  core : e.c = c
  slot : e.g = g
  word : e.w = w
  opcode : wOpc w = opc
  fetch : s.fetchErr e.x.stall e.pc = none
  decode : decodeCheck u e.x.nreg w = none
  board : s.scoreboard c e.gr (u.regs w) = false

/-- Operands of a lane as words: registers A, B and C, and the pairs of A and B. -/
def IEnv.vA (e : IEnv) (l : Nat) : W32 := e.gr.reg l (wA e.w)
def IEnv.vB (e : IEnv) (l : Nat) : W32 := e.gr.reg l (wB e.w)
def IEnv.vC (e : IEnv) (l : Nat) : W32 := e.gr.reg l (wC e.w)
def IEnv.vPA (e : IEnv) (l : Nat) : W64 := e.gr.reg l (wA e.w + 1) ++ e.gr.reg l (wA e.w)
def IEnv.vPB (e : IEnv) (l : Nat) : W64 := e.gr.reg l (wB e.w + 1) ++ e.gr.reg l (wB e.w)

/-- IMM of a word. -/
def vImm (w : W64) : W32 := w.extractLsb' 0 32

/-- The instruction retires, and of its group only the registers of D changed: register D of each executing lane holds `v`. -/
def Writes32 (i : Instr) (s : State) (e : IEnv) (v : Nat → W32) : Prop :=
  ∃ rs, exec i s = .next (e.retire { e.gr with regs := rs } s) ∧
    (∀ l ∈ e.ex, ({ e.gr with regs := rs } : Group).reg l (wD e.w) = v l) ∧
    ∀ l r, r < 256 → ¬ (l ∈ e.ex ∧ r = wD e.w) → ({ e.gr with regs := rs } : Group).reg l r = e.gr.reg l r

/-- The same for a pair D, least significant word in the even register. -/
def Writes64 (i : Instr) (s : State) (e : IEnv) (v : Nat → W64) : Prop :=
  ∃ rs, exec i s = .next (e.retire { e.gr with regs := rs } s) ∧
    (∀ l ∈ e.ex, ({ e.gr with regs := rs } : Group).reg l (wD e.w) = (v l).extractLsb' 0 32 ∧
      ({ e.gr with regs := rs } : Group).reg l (wD e.w + 1) = (v l).extractLsb' 32 32) ∧
    ∀ l r, r < 256 → ¬ (l ∈ e.ex ∧ (r = wD e.w ∨ r = wD e.w + 1)) → ({ e.gr with regs := rs } : Group).reg l r = e.gr.reg l r

/-- The same for a predicate D. -/
def WritesPred (i : Instr) (s : State) (e : IEnv) (v : Nat → Bool) : Prop :=
  ∃ ps, exec i s = .next (e.retire { e.gr with preds := ps } s) ∧
    (∀ l ∈ e.ex, ({ e.gr with preds := ps } : Group).pred l (wD e.w) = v l) ∧
    ∀ l p, p < 8 → ¬ (l ∈ e.ex ∧ p = wD e.w) → ({ e.gr with preds := ps } : Group).pred l p = e.gr.pred l p

/-- A register word as an FP32 value, and a value as the word that the W7 writes for it. -/
def ofF (x : W32) : FV := f32 x.toNat
def toF (v : FV) : W32 := BitVec.ofNat 32 (toF32 v)

/-- The six conditions of ICMP and FCMP (Table 7.3) from "equal" and "less". -/
def holdsCond (m : Nat) (eq lt : Bool) : Bool :=
  if m = 0 then eq else if m = 1 then !eq else if m = 2 then lt else if m = 3 then lt || eq else if m = 4 then !(lt || eq) else !lt


/-- The register words that a load of size code `m` makes of the bytes it reads (R161): a byte or half is extended, without sign for MOD[2:0] 0 and 1. -/
def loadedWord (m : Nat) (b : Nat → Byte) (i : Nat) : W32 :=
  if m % 8 = 0 then (b 0).zeroExtend 32
  else if m % 8 = 5 then (b 0).signExtend 32
  else if m % 8 = 1 then (b 1 ++ b 0).zeroExtend 32
  else if m % 8 = 6 then (b 1 ++ b 0).signExtend 32
  else b (4 * i + 3) ++ b (4 * i + 2) ++ b (4 * i + 1) ++ b (4 * i)

/-! ### Canonical form of a core and of the whole state -/

/-- The registers, predicates and token counters of a group are tables in canonical form, and its serial number, which counts from 1, is not 0. -/
def Group.wf (g : Group) : Bool := g.serial != 0 && twf none g.regs && twf none g.preds && twf 0 g.tokens

/-- The local memory of a core and its groups and blocks are tables in canonical form. -/
def Core.wf (k : Core) : Bool := twf 0 k.mem && twf {} k.groups && twf {} k.blocks && k.groups.all fun e => e.2.wf

/-- The same of the saved image of a core. -/
def CoreImg.wf (k : CoreImg) : Bool := twf 0 k.mem && twf {} k.groups && twf {} k.blocks && k.groups.all fun e => e.2.wf

/-- Every core, and every saved image that a context keeps, is in canonical form. -/
def State.coresWf (s : State) : Bool :=
  s.cores.all (fun e => e.2.wf) && s.ctxs.all fun e => match e.2 with
    | some x => x.images.all CoreImg.wf
    | none => true

/-- The smaller tables of the block are in canonical form, and the NV image has its two directories, three slots and two firmware banks. -/
def State.sideWf (s : State) : Bool :=
  twf 0 s.pwr.thermStretch && twf 0 s.pwr.dieTemp && twf 0 s.pwr.optTemp && twf 0 s.pwr.energy && twf 0 s.pins.lasers && twf 0 s.mtxShadow &&
    twf 0 s.hosts.vfs && twf 0 s.hosts.turn && twf .absent s.slices.lines && twf {} s.slices.pins && twf 0 s.slices.fixed &&
    twf 0 s.slices.under &&
    s.nv.dirs.length == 2 && s.nv.slots.length == 3 && s.nv.banks.length == 2

/-- The canonical form of the whole state: device memory, the numbered units, the cores, the smaller tables. -/
def State.wf (s : State) : Bool := Memory.wf s.mem && s.tablesWf && s.coresWf && s.sideWf

/-- SREG writes a pair for the 64-bit codes of Table 7.2. -/
def sregUse (w : W64) : FieldUse := if wImm w % 256 = 0x10 ∨ wImm w % 256 = 0x11 then .pair else .reg

/-- The instructions of a group, each with its opcode (Table 7.3) and how its word uses its fields (R147 to R150), for the word `w`. -/
def threadForms (c : CoreNo) (g : SlotNo) (w : W64) : List (Instr × Nat × Uses) :=
  let m := wMod w
  let k : FieldUse := if m = 1 then .pair else .reg
  [(.nop c g w, 0x00, { form := .fR, listed := (m == 0) }), (.iadd c g w false, 0x01, u3 (decide (m ≤ 1)) k k .no k),
   (.iaddi c g w false, 0x02, uI (m == 0)), (.isub c g w false, 0x03, u3 (decide (m ≤ 1)) k k .no k),
   (.imul c g w false, 0x04, u3 (decide (m ≤ 2)) .reg .reg .no), (.imad c g w false, 0x05, u3 (m == 0) .reg .reg .reg),
   (.idiv c g w, 0x06, u3 (decide (m ≤ 3)) .reg .reg .no), (.iminmax c g w, 0x07, u3 (decide (m ≤ 3)) .reg .reg .no),
   (.lop c g w, 0x08, u3 (decide (m ≤ 3)) .reg .reg .no), (.lopi c g w, 0x09, uI (decide (m ≤ 3))),
   (.shf c g w, 0x0A, u3 (decide (m ≤ 2)) .reg .reg .no), (.bits c g w, 0x0B, u3 (decide (m ≤ 2)) .reg .no .no),
   (.movi c g w, 0x0C, uI (m == 0) .no), (.mov c g w, 0x0D, u3 (decide (m ≤ 1)) k .no .no k),
   (.sel c g w, 0x0E, u3 (m == 0) .reg .reg .pred)] ++
  [(.fadd c g w, 0x10, u3 (m == 0) .reg .reg .no), (.fmul c g w, 0x11, u3 (m == 0) .reg .reg .no),
   (.ffma c g w, 0x12, u3 (m == 0) .reg .reg .reg), (.faddi c g w, 0x13, uI (m == 0)), (.fmuli c g w, 0x14, uI (m == 0)),
   (.fminmax c g w, 0x15, u3 (decide (m ≤ 1)) .reg .reg .no), (.xfn c g w, 0x16, u3 (decide (m ≤ 6)) .reg .no .no),
   (.fdiv c g w, 0x17, u3 (m == 0) .reg .reg .no),
   (.hop2 c g w, 0x18, u3 (decide (m ≤ 5)) .reg .reg (if m / 2 = 2 then .reg else .no)),
   (.cvt c g w, 0x20, u3 (decide (m ≤ 3) && decide (wC w / 16 ≤ 6) && decide (wC w % 16 ≤ 6)) .reg (if m % 2 = 1 then .reg else .no) .raw),
   (.rng c g w, 0x21, u3 (decide (m ≤ 1)) .pair .reg .no), (.shfl c g w, 0x22, u3 (decide (m ≤ 3)) .reg .reg .no),
   (.vote c g w, 0x23, u3 (decide (m ≤ 2)) .pred .no .no (if m = 2 then .reg else .pred)),
   (.icmp c g w, 0x30, u3 (decide (m % 8 ≤ 5)) .reg .reg .no .pred), (.fcmp c g w, 0x31, u3 (decide (m % 8 ≤ 5)) .reg .reg .no .pred),
   (.pcomb c g w, 0x32, u3 (decide (m ≤ 3)) .pred .pred .no .pred)] ++
  [(.ldl c g w false [], 0x40, { form := .fM, listed := decide (m ≤ 6), d := memUse m, a := .reg }),
   (.stl c g w false, 0x41, { form := .fM, listed := decide (m ≤ 6), d := memUse m, a := .reg }),
   (.ldg c g w false, 0x42, { form := .fM, listed := decide (m % 8 ≤ 6), d := memUse m, a := .pair }),
   (.stg c g w false, 0x43, { form := .fM, listed := decide (m ≤ 6), d := memUse m, a := .pair }),
   (.fence c g w, 0x44, { form := .fR, listed := decide (m ≤ 1) }), (.ncinv c g w, 0x45, { form := .fR, listed := (m == 0) }),
   (.pref c g w false [], 0x46, { form := .fM, listed := (m == 0), a := .pair }), (.atomg c g w false 0 [], 0x50, atomUses m .pair true),
   (.redg c g w false 0 [], 0x51, atomUses m .pair false), (.atoml c g w false, 0x52, atomUses m .reg true)] ++
  [(.bra c g w, 0x60, { form := .fB, listed := (m == 0) }), (.brx c g w, 0x61, { form := .fX, listed := (m == 0), a := .pair }),
   (.call c g w, 0x62, { form := .fI, listed := (m == 0), d := .pair, bare := true }), (.exit c g w, 0x63, { form := .fR, listed := (m == 0) }),
   (.bar c g w, 0x64, { form := .fI, listed := (m == 0), bare := true }), (.trap c g w, 0x65, { form := .fI, listed := (m == 0) }),
   (.yield c g w, 0x66, { form := .fR, listed := (m == 0) }), (.mxi c g w, 0x70, { form := .fG, listed := (m == 0), a := .reg }),
   (.vxi c g w, 0x71, { form := .fG, listed := (m == 0), a := .reg }), (.cxi c g w, 0x72, { form := .fG, listed := (m == 0), a := .reg }),
   (.twait c g w, 0x73, { form := .fI, listed := (m == 0) }), (.tread c g w, 0x74, { form := .fI, listed := (m == 0), d := .reg }),
   (.sreg c g w, 0x75, { form := .fI, listed := (m == 0 && sregListed (wImm w % 256)), d := sregUse w })]

/-- The words that name a ready group's next instruction: as `Issues`, without what the decode checks of R150 and the scoreboard ask. -/
structure Fetches (s : State) (c g : Nat) (w : W64) (opc : Nat) (e : IEnv) : Prop where
  ctx : s.ctxOf c = some (e.n, e.x)
  running : e.x.st = .running
  issues : s.issues e.x.stall = true
  group : ∃ gr top rest, s.group? c g = some gr ∧ gr.held = .no ∧ popPaths gr.paths = top :: rest ∧
    e.gr = { gr with paths := top :: rest } ∧ e.pc = top.pc ∧ e.act = top.mask
  lanes : e.ex = (maskList 32 e.act).filter (guardOf e.gr w)
  core : e.c = c
  slot : e.g = g
  word : e.w = w
  opcode : wOpc w = opc
  fetch : s.fetchErr e.x.stall e.pc = none

/-- What the words of local memory from `a` are, little-endian. -/
def Core.word32 (k : Core) (a : Nat) : W32 := BitVec.ofNat 32 (ofBytes (k.rd a 4))

/-- From `s` to `t` nothing but cores, contexts, the counter of free values and the serial number of the next unit changed. -/
def OnlyThreads (s t : State) : Prop := t = { s with cores := t.cores, ctxs := t.ctxs, rnd := t.rnd }

/-- Every other core is as before, and so is the local memory of core `c`. -/
def OtherCoresSame (s t : State) (c : Nat) : Prop := ∀ i, i ≠ c → t.core i = s.core i


/-- The state in which R31's choice is made at the next String boundary: String time there, with the fields that take effect there (R45). -/
def State.atNext (s : State) : State :=
  let v := { s with str := { s.str with time := nextString s.str.time } }
  v.latchStr v.strRegs

/-- No write, no add-back and no packet waits for a refill (R209, R265), and no clean line of the slices lies over a unit of HBM that differs from it
(R198). -/
def State.noWaits (s : State) : Prop := s.mem.delayed = [] ∧ s.mem.addDue = [] ∧ s.mem.waiting = [] ∧ s.slices.under = []

/-- A write of a command register by function `f` runs: registers answer, the function is the operator's and the command is not BUSY. -/
def State.tunReady (s : State) (f : FnNo) : Prop := s.regOk f = true ∧ s.isOper f = true ∧ s.tun.cmd.busy = false
def State.secReady (s : State) (f : FnNo) : Prop := s.regOk f = true ∧ s.isOper f = true ∧ s.sec.cmd.busy = false

/-- The operation of TUN_CMD or SEC_FW_CMD ended with RESULT `r`. -/
def State.tunEnded (t : State) (r : Nat) : Prop := t.tun.cmd.busy = false ∧ t.tun.cmd.result = r
def State.secEnded (t : State) (r : Nat) : Prop := t.sec.cmd.busy = false ∧ t.sec.cmd.result = r

/-- A live change is undone (R412): it rolls back, or has ended with ROLLED_BACK. -/
def State.undoing (t : State) : Prop := (∃ c, t.tun.change = some c ∧ c.ph = .rollingBack) ∨ (t.tun.change = none ∧ t.tunEnded 7)

/-- What every device reset leaves (Table 16.12): no stall, context, ring, collective or link, memory zero, String time as after reset, no link key, and a
boot that has not reached READY. -/
def State.cleared (t : State) : Prop :=
  t.stalls = [] ∧ t.rings = [] ∧ t.ctxs = [] ∧ t.cores = [] ∧ t.colls = [] ∧ t.ports = [] ∧ t.mem.cells = [] ∧ t.mem.owner = [] ∧ t.mem.poison = [] ∧
    t.str = {} ∧ t.sec.fmk = none ∧ t.tun.boot ≠ .ready

/-- A write of STL_CMD or STL_FN_CMD with operation `op` runs; the second also names a stall bound to its function. -/
def State.stlReady (s : State) (f : FnNo) (v : W32) (op : Nat) : Prop :=
  s.regOk f = true ∧ s.isOper f = true ∧ s.stl.busy = false ∧ fld v 27 24 = op
def State.stlFnReady (s : State) (f : FnNo) (v : W32) (op : Nat) : Prop :=
  s.regOk f = true ∧ (s.fn f).stl.busy = false ∧ fld v 27 24 = op ∧ (s.stall (fld v 11 0)).st ≠ .free ∧ (s.stall (fld v 11 0)).func = f.val

/-- They ended with RESULT `r`. -/
def State.stlEnded (t : State) (r : Nat) : Prop := t.stl.busy = false ∧ t.stl.result = r
def State.stlFnEnded (t : State) (f : FnNo) (r : Nat) : Prop := (t.fn f).stl.busy = false ∧ (t.fn f).stl.result = r

/-- A write of LDG_TEST_CMD with operation `op` runs; it ended with BUSY and RESULT. -/
def State.testReady (s : State) (f : FnNo) (v : W32) (op : Nat) : Prop := s.regOk f = true ∧ s.isOper f = true ∧ fld v 27 24 = op
def State.testEnded (t : State) (busy : Bool) (r : Nat) : Prop := t.led.testCmd.busy = busy ∧ t.led.testCmd.result = r

/-- From `s` to `t` a collective of the ring form ended: it is gone, and its descriptor is done with the status. -/
def CollEnded (s t : State) (c : Coll) (status : Nat) : Prop :=
  (∀ k ∈ t.colls, k.id ≠ c.id) ∧ ∀ r n d, c.ring = some (r, n) → (s.ring r).desc? n = some d → d.ph ≠ .done →
    ∃ e, (t.ring r).desc? n = some e ∧ e.ph = .done ∧ e.status = status

/-- A packet of type `typ` for this device arrives on a port. -/
def State.gets (s : State) (p : PortNo) (x : Pkt) (typ : Nat) : Prop := s.arrives p x = true ∧ pType x = typ ∧ pDst x = s.myId

/-- A notice of kind `k` for this device arrives on a port. -/
def State.getsNotice (s : State) (p : PortNo) (x : Pkt) (k : Nat) : Prop := s.gets p x 5 ∧ pLen x = 1 ∧ nKind x = k ∧ x.poisoned = false

/-- The flits that carry a packet on port `p` on a virtual channel and flow. -/
def State.pktFlits (s : State) (p vc flow : Nat) (x : Pkt) : List TxItem :=
  (bodies (s.bodyBytes p) ((pktBytes x).length + 1) (pktBytes x)).zipIdx.map fun b =>
    { kind := 0, vc := vc, flow := flow, cont := b.2 != 0, body := b.1 }

/-- A port that has received a packet counts it as discarded, and nothing else of the port changes. -/
def CountsDiscard (s t : State) (p : PortNo) : Prop := t.port p = (s.port p).count 7 ∧ t.mem = s.mem ∧ t.colls = s.colls ∧ t.stalls = s.stalls

/-- Descriptor `n` of ring `r` is done with a status; it is dispatched and runs. -/
def State.descIs (t : State) (r : Nat) (n : W32) (status : Nat) : Prop := ∃ e, (t.ring r).desc? n = some e ∧ e.ph = .done ∧ e.status = status
def State.descRuns (t : State) (r : Nat) (n : W32) : Prop := ∃ e, (t.ring r).desc? n = some e ∧ e.ph = .running

/-- From `s` to `t` every stall is as before but for its pipelines, of which an empty one is full no more (R227). -/
def StallsSame (s t : State) : Prop := ∀ k, { t.stall k with pipes := [] } = { s.stall k with pipes := [] }

/-- The descriptor that an update job runs is listed by its ring and not done. -/
def State.jobListed (s : State) (j : UpdJob) : Prop := ∃ e, (s.ring j.ring).desc? j.num = some e ∧ e.ph ≠ .done

/-- Port `p` fell from up with a reason (R258, Table 11.17): its buffers are empty, no switch is in progress, and it waits for its next attempt. -/
def State.portFell (t : State) (p : Nat) (st : PortState) (reason : Nat) : Prop :=
  (t.port p).st = st ∧ (t.port p).reason = reason ∧ (t.port p).replay = [] ∧ (t.port p).resend = [] ∧ (t.port p).sw = none

/-- What a failure of a port with a reason leaves: 1 ms, doubled by each failed attempt, before the next one; no next one after the eighth (R258, R271). -/
def State.failedTo (s t : State) (p reason : Nat) : Prop :=
  if (s.port p).st = .up then t.portFell p .wait reason ∧ (t.port p).fails = 0
  else t.portFell p (if 7 ≤ (s.port p).fails then .held else .wait) reason ∧ (t.port p).fails = min 8 ((s.port p).fails + 1)

/-- A condition of Table 11.6 on port `p`: it takes an up link down with a reason, and changes nothing of a link that is not up. -/
def TakesDown (i : Instr) (s : State) (p reason : Nat) : Prop :=
  if (s.port p).st = .up then ∃ t, exec i s = .next t ∧ s.failedTo t p reason ∧ (s.noWaits → t.mem.cells = s.mem.cells) else exec i s = .next s

/-- From `s` to `t` a response to packet `x` with a status was queued on the port towards its source, where that port is up (R266, R269). -/
def State.answers (s t : State) (x : Pkt) (typ status : Nat) (data : List Byte) : Prop :=
  let q := s.routeOf (pSrc x)
  q < 16 → (s.port q).st = .up → (t.port q).txq = (s.port q).txq ++ s.pktFlits q 3 0 (rspPkt s.myId x typ status data)

/-- The same of the PUT_DONE that a put or reduction asks for in AUX[0]. -/
def State.putAnswers (s t : State) (x : Pkt) (status : Nat) : Prop := (pAux x).testBit 0 = true → s.answers t x 9 status []

/-- Function `f`'s RING_CMD takes a write `v` with operation `op`; it ended with a RESULT. -/
def State.ringCmdReady (s : State) (f : FnNo) (v : W32) (op : Nat) : Prop := s.regOk f = true ∧ (s.fn f).ringCmd.busy = false ∧ fld v 27 24 = op
def State.ringEnded (t : State) (f : FnNo) (r : Nat) : Prop := (t.fn f).ringCmd.busy = false ∧ (t.fn f).ringCmd.result = r

/-- The data that a copy descriptor moves (Table 13.10): its pattern, what the host answers, or what it reads from device memory. -/
def State.copySource (s : State) (q : Ring) (w : List W64) (x : HostBytes) (bs : List Byte) : Prop :=
  if cMode w = 2 then bs = fillBytes (cSrc w) (cLen w)
  else if cSrcHost w = true then x = .bytes bs ∧ bs.length = cLen w
  else ∃ a, devAddr (cSrc w) = .ok a ∧ s.rdDva q.stall a (cLen w) = .ok bs

/-- Every ring of function `f` is free after it, and the function's registers hold their reset values but for its quota and TDI state (R338, R457). -/
def FnReset (s t : State) (f : Nat) : Prop :=
  (∀ r, (s.ring r).st ≠ .free → (s.ring r).func = f → (t.ring r).st = .free) ∧
    t.fn f = { quotaBase := (s.fn f).quotaBase, quotaCount := (s.fn f).quotaCount, tdi := (t.fn f).tdi, tdiStream := (t.fn f).tdiStream,
               tdiBusy := (t.fn f).tdiBusy, tdiBlocks := (t.fn f).tdiBlocks, insecure := (t.fn f).insecure }

end Sys2Proof.Machine
end

