-- ==== Sys2Proof/Certificates/Slice0/Obligations.lean ====
section
/-! DEFINITION. The statements about the block, for the provers. A statement of several parts is the conjunction of what its docstring says, in that order. -/

open Sys2Proof Sys2Proof.Machine

/-! ### The block as a whole -/

/-- A step with a command waiting is that command's effect on the state with the rest of the queue. -/
def Obligations.StepRunsFrontCommand : Prop :=
  ∀ (s : Machine.State) (c : Instr) (q : List Instr), s.pending = c :: q → Machine.step s = Machine.exec c { s with pending := q }

/-- An empty queue (the model's choice, log entry 2): with PWROK high one sub-fret of String time passes, and within a fret nothing else changes; with PWROK low every clock
stands (R470) and nothing changes; the queue stays empty and the fuses keep their bits. -/
def Obligations.IdleStep : Prop :=
  ∀ s : Machine.State, s.pending = [] →
    (s.pins.pwrok = false → Machine.step s = .next s) ∧
    (s.pins.pwrok = true → (s.str.time + 1) % 256 ≠ 0 → Machine.step s = .next { s with str := { s.str with time := s.str.time + 1 } }) ∧
    ∃ t, Machine.step s = .next t ∧ t.pending = [] ∧ FusesKept s.nv t.nv

/-- What reset leaves (R26, R34, R419, Tables 16.5 to 16.8, 16.12): String time 0 in FREE, no ring, context, core, collective or link, the operator's ledger off, memory
zero under no key, the tuning registers at their reset values, nothing sealed and no boot yet; and everything in canonical form. -/
def Obligations.ResetState : Prop :=
  let s := Machine.State.reset
  s.wf = true ∧ s.pending = [] ∧ s.str.time = 0 ∧ s.str.st = .free ∧ s.str.source = .none ∧ s.rings = [] ∧ s.ctxs = [] ∧ s.cores = [] ∧ s.colls = [] ∧
    s.ports = [] ∧ s.stalls = [] ∧ s.led.seq = 0 ∧ bitAt s.led.op.ctl 31 = false ∧ (∀ a, s.byteAt a = 0) ∧
    s.tun.live.lbPart = 0xE0603820 ∧ s.tun.live.timer = 0x200F4240 ∧ s.tun.live.feat = 0 ∧ s.tun.live.bridge = 0x31 ∧ s.tun.regs = s.tun.live ∧
    s.tun.sealed_ = false ∧ s.tun.boot = .booting ∧ s.sec.fmk = none ∧ s.hosts.l0 = 0

/-- Every command runs in every state: it answers a next state, and the queue of waiting commands is its sender's. -/
def Obligations.EveryCommandRuns : Prop :=
  ∀ (c : Instr) (s : Machine.State), ∃ t, Machine.exec c s = .next t ∧ t.pending = s.pending

/-- One-time-programmable fuses (Table 17.1, R428, R431): no step lowers the SVN floor, unprograms or restores a key slot, or changes the device's identity, UDS,
vendor keys or production state. -/
def Obligations.FusesOnlyGain : Prop :=
  ∀ s t : Machine.State, Machine.step s = .next t → FusesKept s.nv t.nv

/-- Every step keeps device memory in canonical form: bytes, owner entries, keys and stacks each as a table that lists no default. -/
def Obligations.StepsKeepMemoryForm : Prop :=
  ∀ s t : Machine.State, Memory.wf s.mem = true → Machine.step s = .next t → Memory.wf t.mem = true

/-- Every step keeps the whole state in canonical form, the premise of many statements here: each table of units, of a core, of a group and of a saved image lists its
keys in rising order and no default, and the NV image has its two directories, three slots and two banks. -/
def Obligations.StepsKeepCanonicalForm : Prop :=
  ∀ s t : Machine.State, s.wf = true → Machine.step s = .next t → t.wf = true

/-! ### Instructions of thread groups (07) -/

/-- Integer instructions of Table 7.3 (R151, R152): a group whose instruction issues retires it, register D (pair D where MOD is 1 and the
table has a 64-bit form) of every executing lane takes the result, modulo 2^32 or 2^64, and no other register of the group changes. IDIV by
zero gives a quotient of all ones and a remainder of A. An add, subtract or multiply whose residue check fails (R386) writes nothing: the
context faults with RESIDUE_MISMATCH, unless no lane executes it. The signed and unsigned orders, bitwise operations, shifts, bit counts and moves of Table 7.3 (R151). -/
def Obligations.IntegerInstructions : Prop :=
  (∀ (s : Machine.State) (c : CoreNo) (g : SlotNo) (w : W64) (e : IEnv),
     (wMod w = 0 → Issues s c g w 0x01 (u3 true .reg .reg .no) e → Writes32 (.iadd c g w false) s e fun l => e.vA l + e.vB l) ∧
     (wMod w = 1 → Issues s c g w 0x01 (u3 true .pair .pair .no .pair) e → Writes64 (.iadd c g w false) s e fun l => e.vPA l + e.vPB l) ∧
     (wMod w = 0 → Issues s c g w 0x02 (uI true) e → Writes32 (.iaddi c g w false) s e fun l => e.vA l + vImm w) ∧
     (wMod w = 0 → Issues s c g w 0x03 (u3 true .reg .reg .no) e → Writes32 (.isub c g w false) s e fun l => e.vA l - e.vB l) ∧
     (wMod w = 1 → Issues s c g w 0x03 (u3 true .pair .pair .no .pair) e → Writes64 (.isub c g w false) s e fun l => e.vPA l - e.vPB l) ∧
     (wMod w = 0 → Issues s c g w 0x04 (u3 true .reg .reg .no) e → Writes32 (.imul c g w false) s e fun l => e.vA l * e.vB l) ∧
     (wMod w = 1 → Issues s c g w 0x04 (u3 true .reg .reg .no) e →
       Writes32 (.imul c g w false) s e fun l => (((e.vA l).signExtend 64) * ((e.vB l).signExtend 64)).extractLsb' 32 32) ∧
     (wMod w = 2 → Issues s c g w 0x04 (u3 true .reg .reg .no) e →
       Writes32 (.imul c g w false) s e fun l => (((e.vA l).zeroExtend 64) * ((e.vB l).zeroExtend 64)).extractLsb' 32 32) ∧
     (wMod w = 0 → Issues s c g w 0x05 (u3 true .reg .reg .reg) e → Writes32 (.imad c g w false) s e fun l => e.vA l * e.vB l + e.vC l) ∧
     (wMod w = 0 → Issues s c g w 0x06 (u3 true .reg .reg .no) e →
       Writes32 (.idiv c g w) s e fun l => if e.vB l = 0 then 0xFFFFFFFF else (e.vA l).sdiv (e.vB l)) ∧
     (wMod w = 1 → Issues s c g w 0x06 (u3 true .reg .reg .no) e →
       Writes32 (.idiv c g w) s e fun l => if e.vB l = 0 then 0xFFFFFFFF else e.vA l / e.vB l) ∧
     (wMod w = 2 → Issues s c g w 0x06 (u3 true .reg .reg .no) e → Writes32 (.idiv c g w) s e fun l => (e.vA l).srem (e.vB l)) ∧
     (wMod w = 3 → Issues s c g w 0x06 (u3 true .reg .reg .no) e → Writes32 (.idiv c g w) s e fun l => e.vA l % e.vB l) ∧
     (∀ i opc u, (i, opc, u) ∈ [(Instr.iadd c g w true, 0x01, u64 w), (.iaddi c g w true, 0x02, uI (wMod w == 0)), (.isub c g w true, 0x03, u64 w),
         (.imul c g w true, 0x04, u3 (decide (wMod w ≤ 2)) .reg .reg .no), (.imad c g w true, 0x05, u3 (wMod w == 0) .reg .reg .reg)] →
       Issues s c g w opc u e → exec i s = .next (if e.ex = [] then e.retire e.gr s else e.fault 0x12 0 s))) ∧
  (∀ (s : Machine.State) (c : CoreNo) (g : SlotNo) (w : W64) (e : IEnv),
     (wMod w ≤ 3 → Issues s c g w 0x07 (u3 true .reg .reg .no) e → Writes32 (.iminmax c g w) s e fun l =>
       let a := e.vA l
       let b := e.vB l
       if wMod w = 0 then (if a.sle b then a else b) else if wMod w = 1 then (if a.sle b then b else a)
       else if wMod w = 2 then (if a.ule b then a else b) else (if a.ule b then b else a)) ∧
     (wMod w ≤ 3 → Issues s c g w 0x08 (u3 true .reg .reg .no) e → Writes32 (.lop c g w) s e fun l =>
       if wMod w = 0 then e.vA l &&& e.vB l else if wMod w = 1 then e.vA l ||| e.vB l
       else if wMod w = 2 then e.vA l ^^^ e.vB l else e.vA l &&& ~~~(e.vB l)) ∧
     (wMod w ≤ 3 → Issues s c g w 0x09 (uI true) e → Writes32 (.lopi c g w) s e fun l =>
       if wMod w = 0 then e.vA l &&& vImm w else if wMod w = 1 then e.vA l ||| vImm w
       else if wMod w = 2 then e.vA l ^^^ vImm w else e.vA l &&& ~~~(vImm w)) ∧
     (wMod w ≤ 2 → Issues s c g w 0x0A (u3 true .reg .reg .no) e → Writes32 (.shf c g w) s e fun l =>
       let n := (e.vB l).toNat % 32
       if wMod w = 0 then e.vA l <<< n else if wMod w = 1 then e.vA l >>> n else (e.vA l).sshiftRight n) ∧
     (wMod w = 0 → Issues s c g w 0x0B (u3 true .reg .no .no) e → Writes32 (.bits c g w) s e fun l =>
       BitVec.ofNat 32 ((List.range 32).filter fun i => (e.vA l).getLsbD i).length) ∧
     (wMod w = 1 → Issues s c g w 0x0B (u3 true .reg .no .no) e → Writes32 (.bits c g w) s e fun l =>
       BitVec.ofNat 32 (if e.vA l = 0 then 32 else 31 - Nat.log2 (e.vA l).toNat)) ∧
     (wMod w = 2 → Issues s c g w 0x0B (u3 true .reg .no .no) e → Writes32 (.bits c g w) s e fun l => (e.vA l).reverse) ∧
     (wMod w = 0 → Issues s c g w 0x0C (uI true .no) e → Writes32 (.movi c g w) s e fun _ => vImm w) ∧
     (wMod w = 0 → Issues s c g w 0x0D (u3 true .reg .no .no) e → Writes32 (.mov c g w) s e fun l => e.vA l) ∧
     (wMod w = 1 → Issues s c g w 0x0D (u3 true .pair .no .no .pair) e → Writes64 (.mov c g w) s e fun l => e.vPA l) ∧
     (wMod w = 0 → Issues s c g w 0x0E (u3 true .reg .reg .pred) e →
       Writes32 (.sel c g w) s e fun l => if e.gr.pred l (wC w) then e.vA l else e.vB l))

/-- FP32 instructions (R151, R152): one correct rounding to nearest even of the exact result. XFN's √A is exact in the same sense; its other
functions give a canonical NaN for a NaN. The conversions and the rounding values of R153 and the paired halves of R152: HOP2 computes each half by itself and rounds it once; CVT's
counts wait in the context; RNG's word is ρ in its low half and zero above. -/
def Obligations.FloatInstructions : Prop :=
  (∀ (s : Machine.State) (c : CoreNo) (g : SlotNo) (w : W64) (e : IEnv),
     (wMod w = 0 → Issues s c g w 0x10 (u3 true .reg .reg .no) e → Writes32 (.fadd c g w) s e fun l => toF (fvAdd (ofF (e.vA l)) (ofF (e.vB l)))) ∧
     (wMod w = 0 → Issues s c g w 0x11 (u3 true .reg .reg .no) e → Writes32 (.fmul c g w) s e fun l => toF (fvMul (ofF (e.vA l)) (ofF (e.vB l)))) ∧
     (wMod w = 0 → Issues s c g w 0x12 (u3 true .reg .reg .reg) e →
       Writes32 (.ffma c g w) s e fun l => toF (fvAdd (fvMul (ofF (e.vA l)) (ofF (e.vB l))) (ofF (e.vC l)))) ∧
     (wMod w = 0 → Issues s c g w 0x13 (uI true) e → Writes32 (.faddi c g w) s e fun l => toF (fvAdd (ofF (e.vA l)) (ofF (vImm w)))) ∧
     (wMod w = 0 → Issues s c g w 0x14 (uI true) e → Writes32 (.fmuli c g w) s e fun l => toF (fvMul (ofF (e.vA l)) (ofF (vImm w)))) ∧
     (wMod w ≤ 1 → Issues s c g w 0x15 (u3 true .reg .reg .no) e → Writes32 (.fminmax c g w) s e fun l =>
       if wMod w = 0 then toF (fvMin (ofF (e.vA l)) (ofF (e.vB l))) else toF (fvMax (ofF (e.vA l)) (ofF (e.vB l)))) ∧
     (wMod w = 0 → Issues s c g w 0x17 (u3 true .reg .reg .no) e → Writes32 (.fdiv c g w) s e fun l => toF (fvDiv (ofF (e.vA l)) (ofF (e.vB l)))) ∧
     (wMod w ≤ 6 → Issues s c g w 0x16 (u3 true .reg .no .no) e → ∃ v : Nat → W32, Writes32 (.xfn c g w) s e v ∧
       (wMod w = 4 → ∀ l, v l = BitVec.ofNat 32 (f32Sqrt (e.vA l).toNat)) ∧
       ∀ l, ofF (e.vA l) = .nan → wMod w ≠ 4 → v l = 0x7FC00000)) ∧
  (∀ (s : Machine.State) (c : CoreNo) (g : SlotNo) (w : W64) (e : IEnv),
     (wMod w ≤ 5 → Issues s c g w 0x18 (u3 true .reg .reg (if wMod w / 2 = 2 then .reg else .no)) e → Writes32 (.hop2 c g w) s e fun l =>
       let f := if wMod w % 2 = 0 then bf16 else fp16
       let half := fun a b d : W16 => BitVec.ofNat 16 (hopHalf f (wMod w / 2) a.toNat b.toNat d.toNat)
       half ((e.vA l).extractLsb' 16 16) ((e.vB l).extractLsb' 16 16) ((e.vC l).extractLsb' 16 16) ++
         half ((e.vA l).extractLsb' 0 16) ((e.vB l).extractLsb' 0 16) ((e.vC l).extractLsb' 0 16)) ∧
     (wMod w ≤ 3 → wC w / 16 ≤ 6 → wC w % 16 ≤ 6 →
       Issues s c g w 0x20 (u3 true .reg (if wMod w % 2 = 1 then .reg else .no) .raw) e →
       ∃ rs x, exec (.cvt c g w) s = .next ((e.retire { e.gr with regs := rs } s).setCtx e.n (some x)) ∧
         (∀ l ∈ e.ex, ({ e.gr with regs := rs } : Group).reg l (wD w) =
           BitVec.ofNat 32 (cvtOf (wMod w) (wC w) (e.vA l).toNat (e.vB l).toNat).code) ∧
         x.clips = e.x.clips + (e.ex.map fun l => (cvtOf (wMod w) (wC w) (e.vA l).toNat (e.vB l).toNat).clip).sum ∧
         x.nans = e.x.nans + (e.ex.map fun l => (cvtOf (wMod w) (wC w) (e.vA l).toNat (e.vB l).toNat).nan).sum) ∧
     (wMod w ≤ 1 → Issues s c g w 0x21 (u3 true .pair .reg .no) e → Writes32 (.rng c g w) s e fun l =>
       BitVec.ofNat 32 (rhoOf e.x.rkey (e.vB l).toNat (wMod w) (e.vPA l).toNat)))

/-- SHFL, VOTE and the instructions that write a predicate (R151, R152). A lane that has exited supplies SHFL with a value that is left open. -/
def Obligations.LaneAndPredicateInstructions : Prop :=
  ∀ (s : Machine.State) (c : CoreNo) (g : SlotNo) (w : W64) (e : IEnv),
    (wMod w ≤ 3 → Issues s c g w 0x22 (u3 true .reg .reg .no) e →
      ∃ rs, exec (.shfl c g w) s = .next (e.retire { e.gr with regs := rs } s).fresh ∧
        ∀ l ∈ e.ex, ∃ j, j < 32 ∧ (e.gr.exited.testBit j = false → ({ e.gr with regs := rs } : Group).reg l (wD w) = e.vA j) ∧
          (j : Int) = (if wMod w = 0 then ((e.vB l).toNat : Int) % 32 else if wMod w = 1 then ((l : Int) - (e.vB l).toNat) % 32
            else if wMod w = 2 then ((l : Int) + (e.vB l).toNat) % 32 else ((l ^^^ ((e.vB l).toNat % 32) : Nat) : Int))) ∧
    (wMod w = 0 → Issues s c g w 0x23 (u3 true .pred .no .no .pred) e →
      WritesPred (.vote c g w) s e fun _ => e.ex.all fun l => e.gr.pred l (wA w)) ∧
    (wMod w = 1 → Issues s c g w 0x23 (u3 true .pred .no .no .pred) e →
      WritesPred (.vote c g w) s e fun _ => e.ex.any fun l => e.gr.pred l (wA w)) ∧
    (wMod w = 2 → Issues s c g w 0x23 (u3 true .pred .no .no .reg) e → ∃ m : W32, Writes32 (.vote c g w) s e (fun _ => m) ∧
      ∀ i, i < 32 → m.getLsbD i = (decide (i ∈ e.ex) && e.gr.pred i (wA w))) ∧
    (wMod w % 8 ≤ 5 → Issues s c g w 0x30 (u3 true .reg .reg .no .pred) e → WritesPred (.icmp c g w) s e fun l =>
      holdsCond (wMod w % 8) (e.vA l == e.vB l) (if wMod w / 8 = 1 then (e.vA l).ult (e.vB l) else (e.vA l).slt (e.vB l))) ∧
    (wMod w % 8 ≤ 5 → Issues s c g w 0x31 (u3 true .reg .reg .no .pred) e → WritesPred (.fcmp c g w) s e fun l =>
      if (ofF (e.vA l)).isNan || (ofF (e.vB l)).isNan then decide (wMod w / 8 = 1)
      else holdsCond (wMod w % 8) (fvEq (ofF (e.vA l)) (ofF (e.vB l))) (fvLt (ofF (e.vA l)) (ofF (e.vB l)))) ∧
    (wMod w ≤ 3 → Issues s c g w 0x32 (u3 true .pred .pred .no .pred) e → WritesPred (.pcomb c g w) s e fun l =>
      let a := e.gr.pred l (wA w)
      let b := e.gr.pred l (wB w)
      if wMod w = 0 then a && b else if wMod w = 1 then a || b else if wMod w = 2 then a ^^ b else a && !b)

/-- R150, R168, R169: a word that fails a decode check faults the context with the check's cause and no lane executes it; the cause is
ILLEGAL_OPCODE for a MOD or code that the table does not list, RESERVED_FIELD for a reserved guard or field (a set reserved bit, a field of no
use that is not 0, an odd pair, GM = 3, GM = 0 with PG not 0, a guard on a bare form), REG_RANGE for a register beyond NREG. -/
def Obligations.DecodeChecksFault : Prop :=
  ∀ (s : Machine.State) (c : CoreNo) (g : SlotNo) (w : W64) (e : IEnv) (f : Instr × Nat × Uses),
    f ∈ threadForms c g w → Fetches s c g w f.2.1 e →
    (f.2.2.listed = false → exec f.1 s = .next (e.fault 0x01 0 s)) ∧
    (f.2.2.listed = true → wGm w = 3 → exec f.1 s = .next (e.fault 0x02 0 s)) ∧
    (f.2.2.listed = true → f.2.2.bare = true → wGm w ≠ 0 → exec f.1 s = .next (e.fault 0x02 0 s)) ∧
    (f.2.2.listed = true → formReserved f.2.2.form w = true → exec f.1 s = .next (e.fault 0x02 0 s)) ∧
    (f.2.2.listed = true → (∃ q ∈ f.2.2.fields w, fieldReserved q = true) → exec f.1 s = .next (e.fault 0x02 0 s)) ∧
    (f.2.2.listed = true → wGm w = 0 → wPg w ≠ 0 → exec f.1 s = .next (e.fault 0x02 0 s)) ∧
    (f.2.2.listed = true → formReserved f.2.2.form w = false → (f.2.2.fields w).any fieldReserved = false → wGm w ≠ 3 →
      (wGm w = 0 → wPg w = 0) → f.2.2.bare = false → (f.2.2.fields w).any (fieldRange e.x.nreg) = true →
      exec f.1 s = .next (e.fault 0x03 0 s))

/-- The frame of the instructions that compute in registers, and that no memory changes: of the state only cores and contexts change, every
other core is as it was, and of the group's own core the local memory, the queues, the accumulators and every other group are as they were. -/
def Obligations.ComputeFrame : Prop :=
  ∀ (s : Machine.State) (c : CoreNo) (g : SlotNo) (w : W64) (e : IEnv) (f : Instr × Nat × Uses),
    s.wf = true → f ∈ (threadForms c g w).take 31 → Issues s c g w f.2.1 f.2.2 e →
    ∃ t, exec f.1 s = .next t ∧ OnlyThreads s t ∧ MemSame s t ∧ (∀ i, i ≠ c.val → t.core i = s.core i) ∧
      (t.core c).mem = (s.core c).mem ∧ (t.core c).poison = (s.core c).poison ∧ (t.core c).acc = (s.core c).acc ∧
      (t.core c).quads = (s.core c).quads ∧ (t.core c).cells = (s.core c).cells ∧ (t.core c).passes = (s.core c).passes ∧ (t.core c).vq = (s.core c).vq ∧
      (t.core c).near = (s.core c).near ∧ (t.core c).blocks = (s.core c).blocks ∧ (t.core c).loads = (s.core c).loads ∧
      (∀ i, i ≠ g.val → t.group? c i = s.group? c i)

/-- Branches (R154, R155, Table 7.3): BRA splits a group only where both sides are non-empty, the fall-through side on top, and faults with
DIVERGE_OVERFLOW past 32 entries; BRX faults on a target off an 8-byte boundary, jumps where all targets are equal, and otherwise pushes one entry per
distinct target so that the lowest runs first; CALL writes the address of the next instruction to pair D and jumps by IMM words. -/
def Obligations.BranchInstructions : Prop :=
  ∀ (s : Machine.State) (c : CoreNo) (g : SlotNo) (w : W64) (e : IEnv),
    (wMod w = 0 → Issues s c g w 0x60 { form := .fB, listed := true } e →
      let f := (maskList 32 e.act).filter fun l => !e.ex.contains l
      let rpc := pcAdd e.pc (wRpcB w)
      let tgt := pcAdd e.pc (wTgt w)
      (e.ex = [] → exec (.bra c g w) s = .next (e.retire e.gr s)) ∧
      (e.ex ≠ [] → f = [] → exec (.bra c g w) s = .next (e.retireAt e.gr tgt s)) ∧
      (e.ex ≠ [] → f ≠ [] → 32 < e.gr.paths.length + 2 → exec (.bra c g w) s = .next (e.fault 0x09 0 s)) ∧
      (∀ top rest, e.ex ≠ [] → f ≠ [] → e.gr.paths.length + 2 ≤ 32 → e.gr.paths = top :: rest →
        exec (.bra c g w) s = .next (e.retireAt { e.gr with paths :=
          { pc := (e.pc + 8) % 2 ^ 64, mask := maskOf f, rpc := some rpc } :: { pc := tgt, mask := maskOf e.ex, rpc := some rpc } ::
          { top with pc := rpc } :: rest } ((e.pc + 8) % 2 ^ 64) s))) ∧
    (wMod w = 0 → Issues s c g w 0x61 { form := .fX, listed := true, a := .pair } e →
      (∀ l, e.ex.find? (fun l => e.pA l % 8 ≠ 0) = some l → exec (.brx c g w) s = .next (e.fault 0x05 (e.pA l) s)) ∧
      ((∀ l ∈ e.ex, e.pA l % 8 = 0) →
        (∀ a m, e.brxTargets = [(a, m)] → exec (.brx c g w) s = .next (e.retireAt e.gr a s)) ∧
        (∀ top rest, 2 ≤ e.brxTargets.length → e.gr.paths.length + e.brxTargets.length ≤ 32 → e.gr.paths = top :: rest →
          ∃ a m more, e.brxTargets = more ++ [(a, m)] ∧ (∀ q ∈ more, a < q.1) ∧
            exec (.brx c g w) s = .next (e.retireAt { e.gr with paths :=
              (e.brxTargets.reverse.map fun q => { pc := q.1, mask := q.2, rpc := some (pcAdd e.pc (wRpcX w)) }) ++
                { top with pc := pcAdd e.pc (wRpcX w) } :: rest } a s)) ∧
        (2 ≤ e.brxTargets.length → 32 < e.gr.paths.length + e.brxTargets.length → exec (.brx c g w) s = .next (e.fault 0x09 0 s)))) ∧
    (wMod w = 0 → Issues s c g w 0x62 { form := .fI, listed := true, d := .pair, bare := true } e →
      ∃ rs, exec (.call c g w) s = .next (e.retireAt { e.gr with regs := rs } (pcAdd e.pc (wOffM w)) s) ∧
        ∀ l ∈ e.ex, ({ e.gr with regs := rs } : Group).reg l (wD w + 1) ++ ({ e.gr with regs := rs } : Group).reg l (wD w) =
          BitVec.ofNat 64 (e.pc + 8))

/-- EXIT (R145, R156): the executing lanes leave every entry of the path stack and never run again; when no lane is left in any group of the
block, the block leaves the core and its slots are free. -/
def Obligations.ExitRemovesLanes : Prop :=
  ∀ (s : Machine.State) (c : CoreNo) (g : SlotNo) (w : W64) (e : IEnv),
    s.wf = true → wMod w = 0 → Issues s c g w 0x63 { form := .fR, listed := true } e →
    ∃ t, exec (.exit c g w) s = .next t ∧
      (∀ gr, t.group? c g = some gr → gr.exited = e.gr.exited ||| maskOf e.ex ∧ ∀ p ∈ gr.paths, ∀ l ∈ e.ex, p.mask.testBit l = false) ∧
      ((∀ l, e.gr.live.testBit l = true → l ∈ e.ex) →
        (∀ p ∈ (s.core c).blockGroups e.gr.block, p.1 ≠ g.val → p.2.live = 0) →
        (∃ b, afind? (s.core c).blocks e.gr.block = some b ∧ g.val ∈ b.slots) →
        afind? (t.core c).blocks e.gr.block = none ∧ t.group? c g = none ∧
          ∀ p ∈ (s.core c).blockGroups e.gr.block, t.group? c p.1 = none)

/-- BAR, TWAIT and what else holds or stops a group (R151, R159, R160): BAR faults with BARRIER_DIVERGENT where a lane that has not exited is inactive,
else the group is held until every group of its block that has lanes is held at the same barrier, and then each of them goes on behind its BAR; TWAIT holds the path while its counter is
above the limit; TRAP faults with the code where a lane executes it; YIELD and NOP retire. TREAD and SREG (R148, R151, Table 7.2): the token counter, and each special register. CYCLES has advanced by a number of cycles that is left
open, and never falls. -/
def Obligations.HoldingAndSpecialRegisters : Prop :=
  (∀ (s : Machine.State) (c : CoreNo) (g : SlotNo) (w : W64) (e : IEnv), s.wf = true →
     (wMod w = 0 → Issues s c g w 0x64 { form := .fI, listed := true, bare := true } e →
       (e.gr.live ≠ e.act → exec (.bar c g w) s = .next (e.fault 0x0A 0 s)) ∧
       (e.gr.live = e.act → (∃ b, afind? (s.core c).blocks e.gr.block = some b ∧ g.val ∈ b.slots) →
         ((∃ p ∈ (s.core c).blockGroups e.gr.block, p.1 ≠ g.val ∧ p.2.live ≠ 0 ∧ p.2.held ≠ .barrier (wImm w % 16)) →
           exec (.bar c g w) s = .next (s.setGroup c g { e.gr with held := .barrier (wImm w % 16) })) ∧
         ((∀ p ∈ (s.core c).blockGroups e.gr.block, p.1 ≠ g.val → p.2.live = 0 ∨ p.2.held = .barrier (wImm w % 16)) →
           ∃ t gr, exec (.bar c g w) s = .next t ∧ t.group? c g = some gr ∧ gr.held = .no ∧
             (gr.paths.head?.map PathEnt.pc) = some ((e.pc + 8) % 2 ^ 64) ∧
             ∀ p ∈ (s.core c).blockGroups e.gr.block, p.2.live ≠ 0 → ∃ gr', t.group? c p.1 = some gr' ∧ gr'.held = .no ∧
               (p.1 ≠ g.val → (gr'.paths.head?.map PathEnt.pc) = p.2.paths.head?.map fun q => (q.pc + 8) % 2 ^ 64)))) ∧
     (wMod w = 0 → Issues s c g w 0x73 { form := .fI, listed := true } e →
       (e.ex = [] ∨ e.gr.token (wImm w % 16) ≤ wImm w / 256 % 256 → exec (.twait c g w) s = .next (e.retire e.gr s)) ∧
       (e.ex ≠ [] → wImm w / 256 % 256 < e.gr.token (wImm w % 16) →
         exec (.twait c g w) s = .next (s.setGroup c g { e.gr with held := .token (wImm w % 16) (wImm w / 256 % 256) }))) ∧
     (wMod w = 0 → Issues s c g w 0x65 { form := .fI, listed := true } e →
       (e.ex ≠ [] → exec (.trap c g w) s = .next (e.fault 0x13 (wImm w % 65536) s)) ∧
       (e.ex = [] → exec (.trap c g w) s = .next (e.retire e.gr s))) ∧
     (wMod w = 0 → Issues s c g w 0x66 { form := .fR, listed := true } e → e.ex ≠ [] →
       ∃ t gr, exec (.yield c g w) s = .next t ∧ t.group? c g = some gr ∧ gr.yielded = true ∧
         (gr.paths.head?.map PathEnt.pc) = some ((e.pc + 8) % 2 ^ 64)) ∧
     (wMod w = 0 → Issues s c g w 0x00 { form := .fR, listed := true } e → exec (.nop c g w) s = .next (e.retire e.gr s))) ∧
  (∀ (s : Machine.State) (c : CoreNo) (g : SlotNo) (w : W64) (e : IEnv),
     (wMod w = 0 → Issues s c g w 0x74 { form := .fI, listed := true, d := .reg } e →
       Writes32 (.tread c g w) s e fun _ => BitVec.ofNat 32 (e.gr.token (wImm w % 16))) ∧
     (∀ bl, wMod w = 0 → wImm w % 256 ≠ 0x10 → wImm w % 256 ≠ 0x11 → afind? (s.core c).blocks e.gr.block = some bl →
       Issues s c g w 0x75 { form := .fI, listed := true, d := .reg } e → sregListed (Machine.wImm w % 256) = true →
       Writes32 (.sreg c g w) s e fun l =>
         let k := wImm w % 256
         BitVec.ofNat 32 (if k = 0 then l else if k = 1 then e.gr.idx else if k = 2 then e.x.ngrp else if k = 3 then bl.index % e.x.gx
           else if k = 4 then bl.index / e.x.gx % e.x.gy else if k = 5 then bl.index / (e.x.gx * e.x.gy) else if k = 6 then e.x.gx
           else if k = 7 then e.x.gy else if k = 8 then e.x.gz else if k = 9 then c.val else if k = 10 then g.val
           else if k = 11 then e.x.argAddr else if k = 12 then e.x.stall else e.act)) ∧
     (wMod w = 0 → wImm w % 256 = 0x10 → Issues s c g w 0x75 { form := .fI, listed := true, d := .pair } e →
       Writes64 (.sreg c g w) s e fun _ => BitVec.ofNat 64 s.str.time) ∧
     (wMod w = 0 → wImm w % 256 = 0x11 → Issues s c g w 0x75 { form := .fI, listed := true, d := .pair } e →
       ∃ n rs, (s.core c).cycles ≤ n ∧
         exec (.sreg c g w) s = .next (e.retire { e.gr with regs := rs } (s.modCore c fun k => { k with cycles := n }).fresh) ∧
         (s.tablesWf = true → ∀ l ∈ e.ex, ({ e.gr with regs := rs } : Group).reg l (wD w + 1) ++ ({ e.gr with regs := rs } : Group).reg l (wD w) =
           BitVec.ofNat 64 n)))

/-- Local loads and stores (R161, R164): every lane is checked before any accesses memory, an address at or above 0x30_0000 faults with
LOCAL_BOUNDS and one off its size with MISALIGNED; a load extends what it reads by its size code; a store leaves the highest lane's bytes where
lanes meet, and every other byte of local memory as it was. A unit that the lowest lane of a load reads with symbols in error (R201) is
corrected, or poisoned where they are too many: then the load faults with POISON_CONSUMED, as it does at the first lane that reads a unit poisoned
already. A store whose lanes cover a poisoned unit clears its poison, and bytes for a part of one are discarded (R206). Where the residue check of the
addresses fails (R386), the context faults with RESIDUE_MISMATCH and memory stays. Global loads and stores (R161, R163, R164, R169): a lane that fails its check faults and no lane accesses memory; LDG puts one load in flight and
retires; STG waits for an earlier load of its group that reads the same bytes and for a refill of its block (R209), else it writes through to
device memory, the highest lane last, and every other byte of device memory is as it was (where HBM holds every clean line as its slice does). Where
the residue check of the addresses fails (R386) the context faults. -/
def Obligations.LocalAndGlobalAccesses : Prop :=
  (∀ (s : Machine.State) (c : CoreNo) (g : SlotNo) (w : W64) (e : IEnv), s.wf = true → wMod w ≤ 6 →
     let n := memSize (wMod w)
     let ad := e.localAddr (wOffM w)
     (e.ex ≠ [] →
       (Issues s c g w 0x40 { form := .fM, listed := true, d := memUse (wMod w), a := .reg } e →
         ∀ errs, exec (.ldl c g w true errs) s = .next (e.fault 0x12 0 s)) ∧
       (Issues s c g w 0x41 { form := .fM, listed := true, d := memUse (wMod w), a := .reg } e →
         exec (.stl c g w true) s = .next (e.fault 0x12 0 s))) ∧
     (∀ l, e.ex.find? (fun l => decide (0x300000 ≤ ad l) || ad l % n != 0) = some l →
       (Issues s c g w 0x40 { form := .fM, listed := true, d := memUse (wMod w), a := .reg } e →
         ∀ errs, exec (.ldl c g w false errs) s = .next (e.fault (if 0x300000 ≤ ad l then 0x04 else 0x05) (ad l) s)) ∧
       (Issues s c g w 0x41 { form := .fM, listed := true, d := memUse (wMod w), a := .reg } e →
         exec (.stl c g w false) s = .next (e.fault (if 0x300000 ≤ ad l then 0x04 else 0x05) (ad l) s))) ∧
     ((∀ l ∈ e.ex, ad l < 0x300000 ∧ ad l % n = 0) →
       (∀ l, e.ex.find? (fun l => (s.core c).poisoned (ad l) n) = some l →
         Issues s c g w 0x40 { form := .fM, listed := true, d := memUse (wMod w), a := .reg } e →
         exec (.ldl c g w false []) s = .next (e.fault 0x11 (ad l) s)) ∧
       (Issues s c g w 0x41 { form := .fM, listed := true, d := memUse (wMod w), a := .reg } e →
         ∃ t, exec (.stl c g w false) s = .next (e.retire e.gr t) ∧ ∀ u ∈ (s.core c).poison,
           let covered := ∀ i, i < 32 → ∃ l ∈ e.ex, ad l ≤ 32 * u + i ∧ 32 * u + i < ad l + n
           (covered → u ∉ (t.core c).poison) ∧
           (¬ covered → u ∈ (t.core c).poison ∧ ∀ a, a / 32 = u → tget 0 (t.core c).mem a = tget 0 (s.core c).mem a)) ∧
       ((∀ l ∈ e.ex, (s.core c).poisoned (ad l) n = false) →
       (Issues s c g w 0x40 { form := .fM, listed := true, d := memUse (wMod w), a := .reg } e →
         (∀ errs l ls, e.ex = l :: ls → decodeSyms (symTable errs) = .uncorrectable →
           ∃ t, exec (.ldl c g w false errs) s = .next (e.fault 0x11 (ad l) t) ∧ ad l / 32 ∈ (t.core c).poison ∧ (t.core c).mem = (s.core c).mem) ∧
         ∀ errs, decodeSyms (symTable errs) = .good ∨ (∃ i, decodeSyms (symTable errs) = .corrected i) →
         ∃ rs, exec (.ldl c g w false errs) s = .next (e.retire { e.gr with regs := rs } s) ∧
           (∀ l ∈ e.ex, ∀ i, 4 * i < n →
             ({ e.gr with regs := rs } : Group).reg l (wD w + i) = loadedWord (wMod w) (fun k => tget 0 (s.core c).mem (ad l + k)) i) ∧
           ∀ l r, r < 256 → ¬ (l ∈ e.ex ∧ wD w ≤ r ∧ r < wD w + max 1 (n / 4)) → ({ e.gr with regs := rs } : Group).reg l r = e.gr.reg l r) ∧
       (Issues s c g w 0x41 { form := .fM, listed := true, d := memUse (wMod w), a := .reg } e →
         ∃ t, exec (.stl c g w false) s = .next (e.retire e.gr t) ∧ t = { s with cores := t.cores } ∧ (∀ i, i ≠ c.val → t.core i = s.core i) ∧
           t.core c = { s.core c with mem := (t.core c).mem, hits := (t.core c).hits } ∧
           (∀ l ∈ e.ex, ∀ i, i < n → (∀ m ∈ e.ex, l < m → ¬ (ad m ≤ ad l + i ∧ ad l + i < ad m + n)) →
             some (tget 0 (t.core c).mem (ad l + i)) = (e.gr.bytes l (wD w) n)[i]?) ∧
           ∀ a, (∀ l ∈ e.ex, ¬ (ad l ≤ a ∧ a < ad l + n)) → tget 0 (t.core c).mem a = tget 0 (s.core c).mem a)))) ∧
  (∀ (s : Machine.State) (c : CoreNo) (g : SlotNo) (w : W64) (e : IEnv), s.wf = true →
     let n := memSize (wMod w)
     let ad := e.globalAddr (wOffM w)
     (e.ex ≠ [] →
       (wMod w % 8 ≤ 6 → Issues s c g w 0x42 { form := .fM, listed := true, d := memUse (wMod w), a := .pair } e →
         exec (.ldg c g w true) s = .next (e.fault 0x12 0 s)) ∧
       (wMod w ≤ 6 → Issues s c g w 0x43 { form := .fM, listed := true, d := memUse (wMod w), a := .pair } e →
         exec (.stg c g w true) s = .next (e.fault 0x12 0 s))) ∧
     (wMod w % 8 ≤ 6 → Issues s c g w 0x42 { form := .fM, listed := true, d := memUse (wMod w), a := .pair } e →
       (∀ m, s.checkLanes e.x.stall n .read ad e.ex = .error m → (m.cause = 0x11 → s.goldenHolds (m.addr / 32) = false) →
         exec (.ldg c g w false) s = .next (s.ctxFault e.n
           { cause := m.cause, pc := e.pc, mask := e.act, slot := g, arg2 := m.addr, core := c, opc := 0x42, level := m.level, src := s.poisonSource (m.addr / 32) })) ∧
       (∀ ls, e.ex ≠ [] → s.checkLanes e.x.stall n .read ad e.ex = .ok ls →
         exec (.ldg c g w false) s = .next (e.retire e.gr (s.modCore c fun k => { k with loads := k.loads ++
           [{ slot := g, serial := e.gr.serial, d := wD w, pc := e.pc, mode := wMod w, act := e.act, lanes := ls }] })))) ∧
     (wMod w ≤ 6 → Issues s c g w 0x43 { form := .fM, listed := true, d := memUse (wMod w), a := .pair } e →
       (∀ m, s.checkLanes e.x.stall n .write ad e.ex = .error m → (m.cause = 0x11 → s.goldenHolds (m.addr / 32) = false) →
         exec (.stg c g w false) s = .next (s.ctxFault e.n
           { cause := m.cause, pc := e.pc, mask := e.act, slot := g, arg2 := m.addr, core := c, opc := 0x43, level := m.level, src := s.poisonSource (m.addr / 32) })) ∧
       (∀ ls, s.checkLanes e.x.stall n .write ad e.ex = .ok ls → (s.stall e.x.stall).regions = [] → e.waits ls n s = true →
         exec (.stg c g w false) s = .next s) ∧
       (∀ ls, s.checkLanes e.x.stall n .write ad e.ex = .ok ls → (s.stall e.x.stall).regions = [] → e.waits ls n s = false → s.mem.poison = [] →
         s.slices.under = [] → (s.mem.stks.all fun k => k.2.st != .failed) = true → (∀ q ∈ ls, ∀ i, i < n → s.tableByte (q.2.2 + i) = none) →
         ∃ t, exec (.stg c g w false) s = .next (e.retire e.gr t) ∧
           (∀ q ∈ ls, ∀ i, i < n → (∀ p ∈ ls, q.1 < p.1 → ¬ (p.2.2 ≤ q.2.2 + i ∧ q.2.2 + i < p.2.2 + n)) →
             some (t.byteAt (q.2.2 + i)) = (e.gr.bytes q.1 (wD w) n)[i]?) ∧
           ∀ a, (∀ q ∈ ls, ¬ (q.2.2 ≤ a ∧ a < q.2.2 + n)) → t.byteAt a = s.byteAt a)))

/-- GLOBAL_LOAD_RETURN (R163, R164, R205): a load waits for an earlier load of its group from the same bytes. One whose units are sound writes its
registers by its size code, lane by lane, from device memory or, for a load through the near cache, from the line that the core holds, whichever the
W7 has kept, and leaves the loads in flight; one past the near cache that meets poison outside a golden block faults with POISON_CONSUMED and names the
unit. No byte of memory changes. It is stated of units that arrive with no symbol in error: the command names none, no pin of a stack is hard, and HBM
holds every clean line as its slice does. Fences and the near cache (R163, R164): FENCE.L retires, FENCE.D waits while a load of its group is in flight, NCINV empties the near cache, and
PREF fills the line of a sound address and changes no register and no byte of memory; it faults only where the residue check of its addresses fails
(R386). It is stated of units that arrive with no symbol in error. -/
def Obligations.LoadReturnsAndFences : Prop :=
  (∀ (s : Machine.State) (c : CoreNo) (k : Nat) (l : Load) (n : Nat) (x : Ctx),
     s.wf = true → (s.core c).loads[k]? = some l → s.ctxOf c = some (n, x) →
     (∀ errs, (s.core c).loadAfter k l = true → exec (.globalLoadReturn c k errs) s = .next s) ∧
     ((s.core c).loadAfter k l = false → (∀ h ∈ s.mem.held, h.who ≠ .load c l.mark) →
     (∀ k, (tget {} s.mem.stks k).hard = []) → s.slices.under = [] → s.slices.pins = [] → (s.stall x.stall).regions = [] →
     (∀ u, 8 ≤ l.mode → (l.lanes.flatMap fun q => unitsOf q.2.2 (memSize l.mode)).find? s.unitPoisoned = some u → s.goldenHolds u = false →
       ∃ t, exec (.globalLoadReturn c k []) s =
         .next (t.ctxFault n { cause := 0x11, pc := l.pc, mask := l.act, slot := l.slot, arg2 := 32 * u, core := c.val, opc := 0x42, src := t.poisonSource u }) ∧
         MemSame s t ∧ t.cores = s.cores ∧ t.ctxs = s.ctxs) ∧
     ((∀ u ∈ l.lanes.flatMap fun q => unitsOf q.2.2 (memSize l.mode), s.unitPoisoned u = false) →
       ∃ t, exec (.globalLoadReturn c k []) s = .next t ∧ MemSame s t ∧ (t.core c).loads = (s.core c).loads.eraseIdx k ∧
         ∀ gr, s.group? c l.slot = some gr → gr.serial = l.serial → l.mode % 8 ≤ 6 → (l.lanes.map (·.1)).Nodup → l.d + 4 ≤ 256 →
           (∀ q ∈ l.lanes, q.2.2 % memSize l.mode = 0 ∧ (tget [] (s.core c).near (q.2.2 / 128) = [] ∨ (tget [] (s.core c).near (q.2.2 / 128)).length = 128)) →
           ∃ gr', t.group? c l.slot = some gr' ∧ ∀ q ∈ l.lanes,
             (∀ i, 4 * i < memSize l.mode → gr'.reg q.1 (l.d + i) = loadedWord l.mode (fun j => s.byteAt (q.2.2 + j)) i) ∨
             (l.mode < 8 ∧ tget [] (s.core c).near (q.2.2 / 128) ≠ [] ∧ ∀ i, 4 * i < memSize l.mode →
               gr'.reg q.1 (l.d + i) = loadedWord l.mode (fun j => ((tget [] (s.core c).near (q.2.2 / 128))[q.2.2 % 128 + j]?).getD 0) i)))) ∧
  (∀ (s : Machine.State) (c : CoreNo) (g : SlotNo) (w : W64) (e : IEnv), s.wf = true →
     (wMod w ≤ 1 → Issues s c g w 0x44 { form := .fR, listed := true } e →
       (wMod w = 0 ∨ (∀ l ∈ (s.core c).loads, l.serial ≠ e.gr.serial) → exec (.fence c g w) s = .next (e.retire e.gr s)) ∧
       (wMod w = 1 → (∃ l ∈ (s.core c).loads, l.serial = e.gr.serial) → exec (.fence c g w) s = .next s)) ∧
     (wMod w = 0 → Issues s c g w 0x45 { form := .fR, listed := true } e → e.ex ≠ [] →
       exec (.ncinv c g w) s = .next (e.retire e.gr (s.modCore c fun k => { k with near := [] }))) ∧
     (wMod w = 0 → Issues s c g w 0x46 { form := .fM, listed := true, a := .pair } e → e.ex ≠ [] →
       ∀ us, exec (.pref c g w true us) s = .next (e.fault 0x12 0 s)) ∧
     (wMod w = 0 → Issues s c g w 0x46 { form := .fM, listed := true, a := .pair } e → s.slices.under = [] →
       (∀ k, (tget {} s.mem.stks k).hard = []) →
       ∃ t, exec (.pref c g w false []) s = .next (e.retire e.gr t) ∧ MemSame s t ∧ t.ctxs = s.ctxs ∧ (∀ i, i ≠ c.val → t.core i = s.core i) ∧
         t.core c = { s.core c with near := (t.core c).near } ∧
         ((∀ l ∈ e.ex, ∃ er, s.globalCheck e.x.stall (e.globalAddr (wOffM w) l) 1 .read = .error er) → t = s) ∧
         ∀ l v d, e.ex = [l] → s.globalCheck e.x.stall (e.globalAddr (wOffM w) l) 1 .read = .ok (v, d) →
           s.memPoisoned (d - d % 128) 128 = false → (s.pin (d / 128)).bad = false → tget [] (t.core c).near (d / 128) = s.lineBytes e.x.stall v d))

/-- Atomics (R166, R167): where every executing lane names one address, lane i receives the value it would have seen had the lanes executed one by
one in ascending order; the value that remains is that of the last lane, or, for add.f32 and add.bf16x2, the old value with the lane-order
tree. ATOML works in local memory, ATOMG and REDG at the memory-side cache; REDG returns nothing. An atomic waits as a store does. Where the residue
check of a slice adder fails (R386) its repetition gives the same, or, where that fails too, the unit is poisoned and the context faults; where that of
the addresses fails, nothing is written and the context faults. -/
def Obligations.AtomicInstructions : Prop :=
  ∀ (s : Machine.State) (c : CoreNo) (g : SlotNo) (w : W64) (e : IEnv), s.wf = true → e.ex ≠ [] →
    let op := wMod w
    let n := atomSize op
    let ops := e.ex.map (e.atomArgs op)
    let seen := fun (old j : Nat) => (ops.take j).foldl (fun v q => atomStep op v q.1 q.2) old
    let left := fun (old : Nat) => if op = 2 ∨ op = 3 then atomStep op old (atomTree op (ops.map (·.1))) 0 else seen old ops.length
    let returns := fun (old : Nat) (rs : Tbl (Option W32)) => ∀ j l, e.ex[j]? = some l →
      ({ e.gr with regs := rs } : Group).reg l (wD w) = BitVec.ofNat 32 (seen old j) ∧
      (n = 8 → ({ e.gr with regs := rs } : Group).reg l (wD w + 1) = BitVec.ofNat 32 (seen old j / 2 ^ 32))
    ((Issues s c g w 0x52 (atomUses op .reg true) e → exec (.atoml c g w true) s = .next (e.fault 0x12 0 s)) ∧
      (Issues s c g w 0x50 (atomUses op .pair true) e → ∀ res us, exec (.atomg c g w true res us) s = .next (e.fault 0x12 0 s)) ∧
      (Issues s c g w 0x51 (atomUses op .pair false) e → ∀ res us, exec (.redg c g w true res us) s = .next (e.fault 0x12 0 s))) ∧
    (∀ a, (∀ l ∈ e.ex, e.localAddr (wOffA w) l = a) → a < 0x300000 → a % n = 0 → (s.core c).poison = [] →
      Issues s c g w 0x52 (atomUses op .reg true) e →
      let old := ofBytes ((s.core c).rd a n)
      ∃ t rs, exec (.atoml c g w false) s = .next (e.retire { e.gr with regs := rs } t) ∧ returns old rs ∧
        (t.core c).rd a n = toBytes n (left old) ∧ ∀ b, ¬ (a ≤ b ∧ b < a + n) → tget 0 (t.core c).mem b = tget 0 (s.core c).mem b) ∧
    (∀ v d, (∀ l ∈ e.ex, s.globalCheck e.x.stall (e.globalAddr (wOffA w) l) n .write = .ok (v, d)) → (s.stall e.x.stall).regions = [] →
      s.slices.pins = [] → s.slices.under = [] → s.mem.poison = [] → (s.mem.stks.all fun k => k.2.st != .failed) = true → d % n = 0 →
      (∀ i, i < n → s.tableByte (d + i) = none) →
      (e.waits (e.ex.map fun l => (l, v, d)) n s = true → (Issues s c g w 0x50 (atomUses op .pair true) e → exec (.atomg c g w false 0 []) s = .next s) ∧
        (Issues s c g w 0x51 (atomUses op .pair false) e → exec (.redg c g w false 0 []) s = .next s)) ∧
      (Issues s c g w 0x50 (atomUses op .pair true) e →
        ∃ t, exec (.atomg c g w false 2 []) s = .next (e.fault 0x11 (d / 32 * 32) t 4) ∧ d / 32 ∈ t.mem.poison) ∧
      (Issues s c g w 0x51 (atomUses op .pair false) e →
        ∃ t, exec (.redg c g w false 2 []) s = .next (e.fault 0x11 (d / 32 * 32) t 4) ∧ d / 32 ∈ t.mem.poison) ∧
      (e.waits (e.ex.map fun l => (l, v, d)) n s = false →
      let old := ofBytes (bytesAt s d n)
      (Issues s c g w 0x50 (atomUses op .pair true) e →
        ∀ res : Fin 3, res.val ≤ 1 → ∃ t rs, exec (.atomg c g w false res []) s = .next (e.retire { e.gr with regs := rs } t) ∧ returns old rs ∧
          bytesAt t d n = toBytes n (left old) ∧ ∀ b, ¬ (d ≤ b ∧ b < d + n) → t.byteAt b = s.byteAt b) ∧
      (Issues s c g w 0x51 (atomUses op .pair false) e →
        ∀ res : Fin 3, res.val ≤ 1 → ∃ t, exec (.redg c g w false res []) s = .next (e.retire e.gr t) ∧
          bytesAt t d n = toBytes n (left old) ∧ ∀ b, ¬ (d ≤ b ∧ b < d + n) → t.byteAt b = s.byteAt b)))

/-! ### The engines and contexts (04, 05, 08) -/

/-- Group-wide issue (R91, R157, R158, R174): an empty issuing set does nothing; lanes that differ fault with the instruction's own cause; a
descriptor that fails its check faults with DESC_INVALID; with room, one pass or descriptor enters the queue behind the others and the
group's token counter rises by 1; without room the group holds the issue. A collective whose tables meet a poisoned unit of a golden block is
held as well (R207). A collective (R278) that passes its check is listed, with its reservation, and its token counter rises by 1; one that fails it
faults with DESC_INVALID; without String time its result record holds STRING_LOST and the token counter has fallen again. HELD_ISSUE_RETRY (R158): a held issue enters its queue once there is room and its group goes on at the next instruction; without room nothing
changes. A pass that waited and names an array that was fenced meanwhile faults with ARRAY_FENCED (R101). -/
def Obligations.IssuesToTheEngines : Prop :=
  (∀ (s : Machine.State) (c : CoreNo) (g : SlotNo) (w : W64) (e : IEnv), s.wf = true → wMod w = 0 →
     (Issues s c g w 0x70 { form := .fG, listed := true, a := .reg } e →
       (e.ex = [] → exec (.mxi c g w) s = .next (e.retire e.gr s)) ∧
       (∀ l r, e.ex = l :: r → (∃ i ∈ r, e.vA i ≠ e.vA l) → exec (.mxi c g w) s = .next (e.fault 0x0B (e.rA l) s)) ∧
       ∀ l r, e.ex = l :: r → (∀ i ∈ r, e.vA i = e.vA l) →
         (∀ b, (s.core c).mtxBad (e.rA l) = some b → exec (.mxi c g w) s = .next (e.fault 0x0E b s)) ∧
         ((s.core c).mtxBad (e.rA l) = none → (s.core c).poison = [] → s.led.arrFenced = [] →
           let d := (s.core c).mtxDesc (e.rA l)
           let x := mdOf d.words
           ((s.core c).mtxRoom e.gr d = false → exec (.mxi c g w) s = .next (s.setGroup c g { e.gr with held := .mxi d })) ∧
           ((s.core c).mtxRoom e.gr d = true → ∃ t p gr, exec (.mxi c g w) s = .next t ∧ (t.core c).passes = (s.core c).passes ++ [p] ∧
             p.slot = g.val ∧ p.quad = x.array / 4 ∧ p.desc = d ∧ p.phase = .queued ∧ t.group? c g = some gr ∧
             gr.token x.token = e.gr.token x.token + 1 ∧ (gr.paths.head?.map PathEnt.pc) = some ((e.pc + 8) % 2 ^ 64)))) ∧
     (Issues s c g w 0x71 { form := .fG, listed := true, a := .reg } e →
       (e.ex = [] → exec (.vxi c g w) s = .next (e.retire e.gr s)) ∧
       (∀ l r, e.ex = l :: r → (∃ i ∈ r, e.vA i ≠ e.vA l) → exec (.vxi c g w) s = .next (e.fault 0x0C (e.rA l) s)) ∧
       ∀ l r, e.ex = l :: r → (∀ i ∈ r, e.vA i = e.vA l) →
         ((s.core c).vecBad (e.rA l) = true → exec (.vxi c g w) s = .next (e.fault 0x0E (e.rA l) s)) ∧
         ((s.core c).vecBad (e.rA l) = false → (s.core c).poison = [] →
           let d := (s.core c).vecDesc (e.rA l)
           let tok := (vdOf d.words).token
           ((s.core c).vecRoom e.gr d = false → exec (.vxi c g w) s = .next (s.setGroup c g { e.gr with held := .vxi d })) ∧
           ((s.core c).vecRoom e.gr d = true → ∃ t j gr, exec (.vxi c g w) s = .next t ∧ (t.core c).vq = (s.core c).vq ++ [j] ∧
             j.slot = g.val ∧ j.desc = d ∧ j.done = false ∧ t.group? c g = some gr ∧ gr.token tok = e.gr.token tok + 1))) ∧
     (Issues s c g w 0x72 { form := .fG, listed := true, a := .reg } e →
       (e.ex = [] → exec (.cxi c g w) s = .next (e.retire e.gr s)) ∧
       (∀ l r, e.ex = l :: r → (∃ i ∈ r, e.vA i ≠ e.vA l) → exec (.cxi c g w) s = .next (e.fault 0x0D (e.rA l) s)) ∧
       ∀ l r, e.ex = l :: r → (∀ i ∈ r, e.vA i = e.vA l) →
         (e.rA l % 64 ≠ 0 ∨ 0x300000 < e.rA l + 64 → exec (.cxi c g w) s = .next (e.fault 0x0E (e.rA l) s)) ∧
         (e.rA l % 64 = 0 → e.rA l + 64 ≤ 0x300000 → (s.core c).poison = [] →
           let d : Desc := { addr := e.rA l, words := (s.core c).words (e.rA l) 8 }
           (s.cxiRoom e.gr d = false → exec (.cxi c g w) s = .next (s.setGroup c g { e.gr with held := .cxi d })) ∧
           (∀ u, s.cxiRoom e.gr d = true → s.cxiHeld e.x.stall d = some u →
             exec (.cxi c g w) s = .next (u.setGroup c g { e.gr with held := .cxi d })) ∧
           (s.cxiRoom e.gr d = true → s.cxiHeld e.x.stall d = none → ∃ gr, (e.retire e.gr s).group? c g = some gr ∧ gr.paths = (e.gr.setTop ((e.pc + 8) % 2 ^ 64)).paths ∧
             exec (.cxi c g w) s = .next ((e.retire e.gr s).cxiEnter c g e.n e.x gr d e.pc e.act)) ∧
           (s.cxiRoom e.gr d = true → s.cxiHeld e.x.stall d = none →
             let u := e.retire e.gr s
             let i : Issue := { core := c, slot := g, serial := e.gr.serial, ctx := e.n, res := cxiRes d, token := cxiTok d }
             let q := mkColl (s.nextId + 1) e.x.stall d.words none (some i)
             (e.x.fault = none →
               (cxiBad d = true → ∃ t y f, exec (.cxi c g w) s = .next t ∧ t.ctx? e.n = some y ∧ y.st = .killing ∧ y.fault = some f ∧ f.cause = 0x0E ∧
                 f.arg2 = e.rA l) ∧
               (∀ m k, cxiBad d = false → u.collCheck q = .error (m, k) → m.cause = 0x0E → ∃ t y f, exec (.cxi c g w) s = .next t ∧
                 t.ctx? e.n = some y ∧ y.st = .killing ∧ y.fault = some f ∧ f.cause = 0x0E ∧ f.arg2 = e.rA l + m.addr * 2 ^ 32)) ∧
             (∀ k, cxiBad d = false → u.collCheck q = .ok k → k.op ≠ 6 → 1 < k.n →
               (s.onString = true → s.str.acceptFrom ≤ s.clock → s.clock + 256 ≤ s.clockOf (k.w 6).toNat → s.canReserve k k.wantLb = true →
                 ∃ t v gr, exec (.cxi c g w) s = .next t ∧ t.colls = s.colls ++ [v] ∧ v.issue = some i ∧ v.ph = .waiting ∧ v.members = k.members ∧
                   v.words = d.words ∧ v.lb = k.wantLb ∧ v.start = s.clockOf (k.w 6).toNat ∧ v.deadline = v.start + 256 * fld (k.w 7) 47 28 ∧
                   (t.stall e.x.stall).lbHeld = (s.stall e.x.stall).lbHeld + k.wantLb ∧ t.mem = s.mem ∧
                   t.group? c g = some gr ∧ gr.token (cxiTok d) = e.gr.token (cxiTok d) + 1) ∧
               (s.onString = false → s.ctx? e.n = some e.x → s.delays e.x.stall = false → cxiRes d + 16 ≤ 0x300000 → cxiRes d % 16 = 0 →
                 ∃ t gr, exec (.cxi c g w) s = .next t ∧ t.colls = s.colls.filter (fun v => v.id != s.nextId + 1) ∧ t.mem = s.mem ∧
                   tgetMany 0 (t.core c).mem (cxiRes d) 16 = toBytes 2 0x24 ++ List.replicate 6 0 ++ toBytes 8 s.str.time ∧
                   t.group? c g = some gr ∧ gr.token (cxiTok d) = e.gr.token (cxiTok d))))))) ∧
  (∀ (s : Machine.State) (c : CoreNo) (g : SlotNo) (n : Nat) (x : Ctx) (gr : Group) (d : Desc) (top : PathEnt) (rest : List PathEnt),
     s.wf = true → s.ctxOf c = some (n, x) → x.st = .running → s.issues x.stall = true → s.group? c g = some gr → gr.paths = top :: rest →
     (gr.held = .mxi d →
       (∀ ar, s.fencedArray c d = some ar → x.fault = none → ∃ t y f, exec (.heldIssueRetry c g) s = .next t ∧ t.ctx? n = some y ∧ y.st = .killing ∧
         y.fault = some f ∧ f.cause = 0x0F ∧ f.array = some ar) ∧
       (s.fencedArray c d = none → (s.core c).mtxRoom gr d = false → exec (.heldIssueRetry c g) s = .next s) ∧
       (s.fencedArray c d = none → (s.core c).mtxRoom gr d = true → ∃ t p gr', exec (.heldIssueRetry c g) s = .next t ∧ (t.core c).passes = (s.core c).passes ++ [p] ∧
         p.desc = d ∧ p.phase = .queued ∧ t.group? c g = some gr' ∧ gr'.held = .no ∧ gr'.paths = { top with pc := (top.pc + 8) % 2 ^ 64 } :: rest ∧
         gr'.token (mdOf d.words).token = gr.token (mdOf d.words).token + 1)) ∧
     (gr.held = .vxi d →
       ((s.core c).vecRoom gr d = false → exec (.heldIssueRetry c g) s = .next s) ∧
       ((s.core c).vecRoom gr d = true → ∃ t j gr', exec (.heldIssueRetry c g) s = .next t ∧ (t.core c).vq = (s.core c).vq ++ [j] ∧ j.desc = d ∧
         t.group? c g = some gr' ∧ gr'.held = .no ∧ gr'.paths = { top with pc := (top.pc + 8) % 2 ^ 64 } :: rest)) ∧
     (gr.held = .cxi d →
       (s.cxiRoom gr d = false → exec (.heldIssueRetry c g) s = .next s) ∧
       (s.cxiRoom gr d = true → s.cxiHeld x.stall d = none → ∃ (u : Machine.State) (gr' : Group), u.group? c g = some gr' ∧ gr'.held = .no ∧
         gr'.paths = { top with pc := (top.pc + 8) % 2 ^ 64 } :: rest ∧
         exec (.heldIssueRetry c g) s = .next (u.cxiEnter c g n x gr' d gr.topPath.1 gr.topPath.2))))

/-- A pass from its start to its completion (R90, R91, R117, R383, R385): the first queued pass of a quad waits while a pass that shares its arrays
streams or a shadow pass holds one of them; else, unless what it clears is in the wide buffer, it takes its first tile and streams. One that was selected begins with a free shadow array, of another core of its group of four, for each array that selected it. A pass with ACC_ADD = 0 first merges what the wide buffer holds of the quadrants it covers in part. It ends by folding its sums into the
accumulators of its core, with no other write where it has no read-out and no wide buffer; a shadow found different taints the stall and marks the context; at completion it leaves and its group's token counter falls by 1. A failed residue check faults the context with RESIDUE_MISMATCH (R386). What passes compute (R106 to R110, R126 to R133). In the window the order of the cell sums of a k-group has no effect, sums of integers below 2^50
stay exact, and NaN and infinities give what R107 lists. A fold of an FP32 number gives it with lo zero. A pass folds
the window of each in-extent output, and of no other, into the pair of its place, and its read-out writes the pair, times alpha and the row and column
factors, rounded once into an unscaled target. The operations of the vector engine (R174, R179 to R183, R187): each row runs the queue's head to its end if it names the row's operation, writes the computed bytes to local memory and marks it done; poison among what it reads faults at that address. VECTOR_DESC_COMPLETE removes it and its group's token counter falls by 1. What the vector operations give (Table 8.3, R177, R180, R181, R183) for one line of active FP32 elements: each element of D is the result on those of the sources, rounded once, CMP writes one bit for each element, and a RED along the line gives the largest or
smallest element, the largest magnitude, or the sum of two. -/
def Obligations.PassesAndVectorWork : Prop :=
  (∀ (s : Machine.State) (c : CoreNo) (n : Nat) (x : Ctx), s.wf = true → s.ctxOf c = some (n, x) → x.st = .running → s.issues x.stall = true →
     (∀ (q : QuadNo) (p : Pass), (s.core c).passes.find? (fun p => p.quad == q.val && p.phase == .queued) = some p →
       let m := mdOf p.desc.words
       let free := (∀ o ∈ (s.core c).passes, o.phase = .streaming → apart m (mdOf o.desc.words) = true) ∧ ∀ a ∈ m.arrays, s.shadowBusy (8 * c.val + a) = false
       let part := if m.accAdd = 0 then (m.touched.filter fun t => t.2 < 256).map (·.1) else []
       (¬ free → ∀ bad, exec (.passStart c q bad) s = .next s) ∧
       (free → p.shadow = [] →
         (p.selected = [] → (∃ t ∈ part, ((s.core c).quad t.1 t.2.1 t.2.2).live = true) →
           exec (.passStart c q true) s = .next (s.ctxFault n { cause := 0x12, pc := p.pc, mask := p.mask, slot := p.slot, arg2 := p.desc.addr, core := c.val })) ∧
         (∀ bad, p.selected = [] → (∀ t ∈ part, ((s.core c).quad t.1 t.2.1 t.2.2).live = false) → exec (.passStart c q bad) s =
           .next (s.modCore c fun k => { k.loadTile m 0 with
             passes := k.passes.map fun o => if o.id = p.id then { o with phase := .streaming, shadow := [] } else o })) ∧
         (p.selected = [] → (s.core c).poison = [] → ∃ t, exec (.passStart c q false) s = .next t ∧
           (∃ o ∈ (t.core c).passes, o.id = p.id ∧ o.phase = .streaming) ∧ ∀ e ∈ part, ((t.core c).quad e.1 e.2.1 e.2.2).live = false) ∧
         ((∀ t ∈ part, ((s.core c).quad t.1 t.2.1 t.2.2).live = false) → ∃ t o, exec (.passStart c q false) s = .next t ∧ o ∈ (t.core c).passes ∧
           o.id = p.id ∧ (o.phase = .streaming ∨ (o.phase = .queued ∧ o.shadow ≠ [])) ∧ o.shadow.length ≤ p.selected.length ∧
           ∀ e ∈ o.shadow, (∃ a ∈ p.selected, e.1 = 8 * c.val + a) ∧ e.2 ∉ s.led.arrFenced ∧
             (e.2 / 8 = c.val ^^^ 1 ∨ e.2 / 8 = c.val ^^^ 2 ∨ e.2 / 8 = c.val ^^^ 3)))) ∧
     (∀ (k : Fin 64) (p : Pass), (s.core c).passes[k.val]? = some p → p.phase = .streaming →
       (∀ o ∈ (s.core c).passes.take k.val, o.phase ≠ .streaming) →
       (∀ us errs, exec (.passEnd c k true us errs) s = .next (s.ctxFault n { cause := 0x12, pc := p.pc, mask := p.mask, slot := p.slot, arg2 := p.desc.addr, core := c.val })) ∧
       (∀ errs, (s.core c).poison = [] → p.desc.rdo = [] → x.wide = 0 →
         let d := (s.core c).shadowDiff (mdOf p.desc.words) (p.shadow.map fun a => a.1 - 8 * c.val) (s.stall x.stall).qCheck errs
         ∃ t y, exec (.passEnd c k false [] errs) s = .next t ∧
           (t.core c).acc = (((s.core c).foldPass (mdOf p.desc.words) errs).countPass (mdOf p.desc.words)).acc ∧
           (t.core c).mem = (s.core c).mem ∧ (t.core c).passes.length = (s.core c).passes.length ∧
           (∀ o ∈ (t.core c).passes, o.id = p.id → o.phase = .ended) ∧
           t.ctx? n = some y ∧ (d = none → y = x) ∧ (d ≠ none → y.mismatch = true ∧ (t.stall x.stall).tainted = true))) ∧
     (∀ (k : Fin 64) (p : Pass) (gr : Group), (s.core c).passes[k.val]? = some p → p.phase = .ended →
       (∀ o ∈ (s.core c).passes.take k.val, sharesArray (mdOf p.desc.words) (mdOf o.desc.words) = false) →
       s.group? c p.slot = some gr → gr.serial = p.serial →
       ∃ t gr', exec (.passComplete c k) s = .next t ∧ (t.core c).passes = (s.core c).passes.filter (fun o => o.id ≠ p.id) ∧
         t.group? c p.slot = some gr' ∧ gr'.token (mdOf p.desc.words).token = gr.token (mdOf p.desc.words).token - 1 ∧ t.ctxs = s.ctxs)) ∧
  ((∀ (v : Rat × Option Int) (g h : List Rat), g.Perm h → windowStep v g = windowStep v h) ∧
   (∀ gs : List (List Int), (∀ g ∈ gs, ∀ c ∈ g, c.natAbs < 2 ^ 50) → (gs.flatten.map Int.natAbs).sum < 2 ^ 56 →
     (gs.foldl (fun v g => windowStep v (g.map fun c => (c : Rat))) ((0 : Rat), none)).1 = ((gs.flatten.sum : Int) : Rat)) ∧
   (∀ gs : List (List (List FV)), let vs := gs.flatten.flatten
     ((∃ v ∈ vs, v = .nan) → (passWin gs).1 = .nan) ∧
     (FV.inf true ∈ vs → FV.inf false ∈ vs → (passWin gs).1 = .nan) ∧
     (∀ b, (∀ v ∈ vs, v ≠ .nan) → FV.inf b ∈ vs → FV.inf (!b) ∉ vs → (passWin gs).1 = .inf b) ∧
     ((∀ v ∈ vs, v.isFin = true) → (passWin gs).1.isFin = true)) ∧
   (∀ (p : Pair) (v : FV) (z : W32) (sg : Bool) (r : Rat), fvAdd p.val v = .fin sg r → ofF z = .fin sg r → 0 < r → p.fold v = { hi := z, lo := 0 }) ∧
   (∀ (k : Core) (x : MD) (errs : List SumErr), twf {} k.acc = true → (x.outputs.map fun o => x.place o.1 o.2).Nodup →
     (∀ o ∈ x.outputs, (x.place o.1 o.2).2.1 < 4 ∧ (x.place o.1 o.2).2.2.1 < 32 ∧ (x.place o.1 o.2).2.2.2 < 32) →
     (∀ o ∈ x.outputs, let (a, b, row, col) := x.place o.1 o.2
       (k.foldPass x errs).pair a b row col = ((if x.accAdd = 0 then {} else k.pair a b row col) : Pair).fold (k.winOf x errs false o).1) ∧
     ∀ a b row col, b < 4 → row < 32 → col < 32 → (a, b, row, col) ∉ x.outputs.map (fun o => x.place o.1 o.2) →
       (k.foldPass x errs).pair a b row col = k.pair a b row col) ∧
   ∀ (s : Machine.State) (c : CoreNo) (n : Nat) (y : Ctx) (i : Fin 64) (p : Pass), s.wf = true → s.ctxOf c = some (n, y) → s.pwr.coreClocks = true →
     (s.core c).passes[i.val]? = some p → p.phase = .streaming → (∀ o ∈ (s.core c).passes.take i.val, o.phase ≠ .streaming) →
     (s.core c).poison = [] → y.wide = 0 → p.shadow = [] → p.desc.rdo ≠ [] →
     let x := mdOf p.desc.words
     let r := rdOf p.desc.rdo
     let sz := fmtBits r.t1.fmt / 8
     (∀ q ∈ x.readQuads, ((s.core c).quad q.1 q.2.1 q.2.2).live = false) → r.t1.axis = 0 → r.t1.fmt ≤ 4 → r.t2.isNone = true → r.rnd = false → r.cnt = 0 →
     r.amax = 0 → sz * x.n ≤ r.t1.p.stride →
     ∃ t, exec (.passEnd c i false [] []) s = .next t ∧ ∀ m k, m < x.m → k < x.n →
       let (a, b, row, col) := x.place m k
       let rf := if r.row = 0 then FV.fin false 1 else ofF ((s.core c).word32 (r.row + 4 * m))
       let cf := if r.col = 0 then FV.fin false 1 else ofF ((s.core c).word32 (r.col + 4 * k))
       let v := fvMul (fvMul (fvMul (f32 r.alpha) rf) cf) ((t.core c).pair a b row col).val
       tgetMany 0 (t.core c).mem (r.t1.p.addr + m * r.t1.p.stride + sz * k) sz = toBytes sz ((fmtFloat r.t1.fmt).encode r.ovf .rne v).code) ∧
  (∀ (s : Machine.State) (c : CoreNo) (n : Nat) (x : Ctx) (j : VJob) (q : List VJob), s.wf = true →
     s.ctxOf c = some (n, x) → x.st = .running → s.pwr.coreClocks = true → (s.core c).vq = j :: q →
     (∀ f ∈ ([(.vecCvt c [], 0), (.vecAdd c [], 1), (.vecMul c [], 2), (.vecFma c [], 3), (.vecMin c [], 4), (.vecMax c [], 5), (.vecCmp c [], 6),
         (.vecSel c [], 7), (.vecRed c [], 8)] : List (Instr × Nat)),
       let d := vdOf j.desc.words
       (d.op ≠ f.2 ∨ j.done = true → exec f.1 s = .next s) ∧
       (∀ a, d.op = f.2 → j.done = false → (s.core c).vecPoison d j.next d.chunks = some a →
         exec f.1 s = .next (s.ctxFault n { cause := 0x11, pc := j.pc, mask := j.mask, slot := j.slot, arg2 := a, core := c.val })) ∧
       (d.op = f.2 → j.done = false → (s.core c).poison = [] →
         let r := (s.core c).vecPart d j.rkey j.next d.chunks j.run
         ∃ t, exec f.1 s = .next t ∧
           (t.core c).vq = { j with done := true, next := d.chunks, run := [],
                                    counts := List.zipWith (· + ·) j.counts [r.counts.clip, r.counts.nan, r.counts.flagged, r.counts.written],
                                    amax := max j.amax (amaxCode r.amax), elems := j.elems + r.elems } :: q ∧
           (∀ a, (∀ b ∈ gatherBytes r.bytes, ¬ (b.1 ≤ a ∧ a < b.1 + b.2.length)) → tget 0 (t.core c).mem a = tget 0 (s.core c).mem a) ∧
           (∀ a l, gatherBytes r.bytes = [(a, l)] → tgetMany 0 (t.core c).mem a l.length = l))) ∧
     (∀ gr, j.done = true → (vdOf j.desc.words).cnt = 0 → (vdOf j.desc.words).amax = 0 → s.group? c j.slot = some gr → gr.serial = j.serial →
       ∃ t gr', exec (.vectorDescComplete c) s = .next t ∧ (t.core c).vq = q ∧ (t.core c).mem = (s.core c).mem ∧ t.group? c j.slot = some gr' ∧
         gr'.token (vdOf j.desc.words).token = gr.token (vdOf j.desc.words).token - 1)) ∧
  (∀ (s : Machine.State) (c : CoreNo) (n : Nat) (x : Ctx) (j : VJob) (q : List VJob), s.wf = true →
     s.ctxOf c = some (n, x) → x.st = .running → s.pwr.coreClocks = true → (s.core c).vq = j :: q → j.done = false → j.next = 0 → j.run = [] →
     (s.core c).poison = [] →
     let d := vdOf j.desc.words
     let src := fun (o : VOpd) (i : Nat) => ofF ((s.core c).word32 (o.addr + 4 * i))
     let plain := fun (o : VOpd) => o.fmt = 0 ∧ o.bc0 = false
     let a := src d.o0
     let b := src d.o1
     d.ct = 0 → d.mpol = 0 → d.e1 = 1 → d.e2 = 1 → d.e3 = 1 → plain d.o0 →
     (∀ f ∈ ([(.vecCvt c [], 0, fun i => a i), (.vecAdd c [], 1, fun i => fvAdd (a i) (b i)), (.vecMul c [], 2, fun i => fvMul (a i) (b i)),
         (.vecFma c [], 3, fun i => fvAdd (fvMul (a i) (b i)) (src d.o2 i)), (.vecMin c [], 4, fun i => fvMin (a i) (b i)),
         (.vecMax c [], 5, fun i => fvMax (a i) (b i)),
         (.vecSel c [], 7, fun i => if (tget 0 (s.core c).mem (d.emask + i / 8)).toNat.testBit (i % 8) then a i else b i)] :
         List (Instr × Nat × (Nat → FV))),
       d.op = f.2.1 → d.d.fmt = 0 → (f.2.1 ≠ 0 → plain d.o1) → (f.2.1 = 3 → plain d.o2) →
       ∃ t, exec f.1 s = .next t ∧ ∀ i, i < d.e0 → (t.core c).word32 (d.d.addr + 4 * i) = toF (f.2.2 i)) ∧
     (d.op = 6 → d.sub ≤ 5 → plain d.o1 → ∃ t, exec (.vecCmp c []) s = .next t ∧ ∀ i, i < d.e0 →
       (tget 0 (t.core c).mem (d.d.addr + i / 8)).toNat.testBit (i % 8) =
         (!(a i).isNan && !(b i).isNan && holdsCond d.sub (fvEq (a i) (b i)) (fvLt (a i) (b i)))) ∧
     (d.op = 8 → d.raxis = 0 → d.d.fmt = 0 → ∃ t, exec (.vecRed c []) s = .next t ∧
       let all := fun (g : FV → FV → FV) (z : FV) => (List.range d.e0).foldl (fun m i => g m (a i)) z
       (d.sub = 2 → (t.core c).word32 d.d.addr = toF (all fvMax .nan)) ∧
       (d.sub = 3 → (t.core c).word32 d.d.addr = toF (all fvMin .nan)) ∧
       (d.sub = 4 → (t.core c).word32 d.d.addr = toF (all (fun m v => fvMax m v.abs) (.fin false 0))) ∧
       (d.sub = 0 → d.e0 = 2 → (t.core c).word32 d.d.addr = toF (fvAdd (a 0) (a 1)))))

/-- Blocks and contexts (R144, R145, R156, R169, R171, R323): a block starts on the lowest free slots only where all of its groups fit, each group with
all 32 lanes active at the entry address; a context whose blocks and issued work are done ends and frees its cores, scrubbed; a killed one ends the
same way with its fault in the ledger; the watchdog kills with WATCHDOG_EXPIRED. -/
def Obligations.BlocksAndContexts : Prop :=
  ∀ (s : Machine.State) (c : CoreNo) (n : Nat) (x : Ctx), s.wf = true → s.ctxOf c = some (n, x) →
    (∀ b, x.kind = .kernel → x.st = .running → x.copyHeld = [] → b < x.gx * x.gy * x.gz → b ∉ x.placed → ((s.core c).freeSlots x.ngrp).length = x.ngrp →
      (s.core c).groups.length + x.ngrp ≤ groupCap x.nreg →
      ∃ t, exec (.blockStart c b) s = .next t ∧
        (∃ y, t.ctx? n = some y ∧ y.placed = x.placed ++ [b]) ∧
        ∀ i k, ((s.core c).freeSlots x.ngrp)[k]? = some i → ∃ gr, t.group? c i = some gr ∧ gr.block = b ∧ gr.idx = k ∧ gr.held = .no ∧
          gr.paths = [{ pc := x.entry, mask := 0xFFFFFFFF, rpc := none }] ∧ gr.regs = [] ∧ gr.preds = [] ∧ gr.tokens = []) ∧
    (∀ i, x.kind = .kernel → x.st = .running → x.placed.length = x.gx * x.gy * x.gz → s.ctxColls n = [] →
      (∀ i ∈ x.cores, (s.core i).blocks = [] ∧ (s.core i).passes = [] ∧ (s.core i).vq = [] ∧ (s.core i).loads = []) → i ∈ x.cores →
      (s.core i).ctx = some n →
      ∃ t, exec (.contextEnd c) s = .next t ∧ t.ctx? n = none ∧ (t.core i).ctx = none ∧ (t.core i).mem = [] ∧ (t.core i).groups = [] ∧
        (t.core i).near = []) ∧
    (∀ i, x.st = .killing → i ∈ x.cores → (s.core i).ctx = some n →
      ∃ t, exec (.contextKillDone c) s = .next t ∧ t.ctx? n = none ∧ (t.core i).ctx = none ∧ (t.core i).mem = [] ∧ (t.core i).groups = [] ∧
        (∀ f, x.fault = some f → t.led.seq ≠ s.led.seq)) ∧
    (∀ gr hw, x.kind = .kernel → x.st = .running → x.fault = none → s.timerMode = 0 → fld (s.stall x.stall).qTimer 23 0 ≠ 0 →
      gr ∈ (s.core c).groups → gr.2.live ≠ 0 → (s.core c).lastRetire + 256 * fld (s.stall x.stall).qTimer 23 0 ≤ s.clock →
      (∀ i ∈ x.cores, s.heldOn i = false) →
      ∃ t y f, exec (.watchdogExpired c hw) s = .next t ∧ t.ctx? n = some y ∧ y.st = .killing ∧ y.fault = some f ∧ f.cause = 0x14) ∧
    (x.kind = .vecStream → x.st = .running → x.entriesLeft = [] → c.val ∉ x.copyHeld → (s.core c).idle = true → (s.group? c 0 = none ∨ ∃ gr, s.group? c 0 = some gr ∧ gr.tokens = []) →
      wf x.store 4 39 16 = 0 → c.val ∈ x.cores → (s.core c).ctx = some n →
      ∃ t, exec (.streamEntriesDone c) s = .next t ∧ t.ctx? n = none ∧ (t.core c).ctx = none)

/-! ### String time (02) -/

/-- The String time unit over its boundaries (R26, R31, R32, R35, R36, R38, R41, R42, R45, Table 2.2): STRING_BOUNDARY begins the next String, with the
fields that take effect there. A unit LOCKED to the source that the choice of R31 still gives stays LOCKED and slews one sub-fret toward it; it changes
to another source that agrees, and enters HOLDOVER where none does or none is left; a HOLDOVER at its limit enters LOST with LOST_SEEN, one below it
counts one String more, and relocks within ±2 frets of its source by slewing to it; a source more than 2 frets behind leads
to LOST and none of it is stepped, and one more than 2 frets ahead is stepped to at once (R43), on which what fell due in the frets skipped fires; times keep
their distance only after LOST. FREE and ACQUIRING follow whether there is a candidate, and the first lock takes the loaded count away. The wire and fabric
timeouts, HOLDOVER_EXPIRY and the stop of collectives after LOST act where their time is due, and do nothing where it is not. -/
def Obligations.StringBoundaries : Prop :=
  ∀ (s : Machine.State), s.pins.pwrok = true →
    let next := (stringOf s.str.time + 1) * 65536
    let u := s.atNext
    let n := u.chooseSource
    let off := u.toSub (u.srcOff n)
    (s.str.st = .locked → n = s.str.source → n ≠ .none →
      ∃ t, exec .stringBoundary s = .next t ∧ t.str.time = next ∧ t.str.st = .locked ∧ t.str.source = s.str.source ∧
        t.str.slew = (if 0 < s.str.slew then s.str.slew - 1 else if s.str.slew < 0 then s.str.slew + 1 else 0) ∧ t.mem = s.mem ∧ t.cores = s.cores) ∧
    (s.str.st = .locked → n = .none →
      ∃ t, exec .stringBoundary s = .next t ∧ t.str.time = next ∧ t.str.st = .holdover ∧ t.str.source = .none ∧ t.str.holdoverUsed = 1) ∧
    (s.str.st = .locked → n ≠ .none → n ≠ s.str.source →
      ∃ t, exec .stringBoundary s = .next t ∧ t.str.time = next ∧ t.str.source = n ∧
        (u.slewOnce.agrees n = true → t.str.st = .locked ∧ t.str.srcStratum = u.srcStratumOf n) ∧
        (u.slewOnce.agrees n = false → t.str.st = .holdover ∧ t.str.holdoverUsed = 1)) ∧
    (s.str.st = .holdover → holdoverLimit u.str.ctlUsed ≤ s.str.holdoverUsed →
      ∃ t, exec .stringBoundary s = .next t ∧ t.str.time = next ∧ t.str.st = .lost ∧ t.str.lostSeen = true ∧ t.str.lostStop = some t.nextFret) ∧
    (s.str.st = .holdover → s.str.holdoverUsed < holdoverLimit u.str.ctlUsed → u.lockMet n = false →
      ∃ t, exec .stringBoundary s = .next t ∧ t.str.time = next ∧ t.str.st = .holdover ∧ t.str.holdoverUsed = s.str.holdoverUsed + 1) ∧
    (s.str.st = .lost → u.lockMet n = false →
      ∃ t, exec .stringBoundary s = .next t ∧ t.str.time = next ∧ t.str.st = .lost ∧ t.str.source = n) ∧
    (s.str.st = .lost ∨ (s.str.st = .holdover ∧ s.str.holdoverUsed < holdoverLimit u.str.ctlUsed) → u.lockMet n = true → off ≤ 512 →
      ∃ t, exec .stringBoundary s = .next t ∧ t.str.time = next ∧ t.str.source = n ∧
        (-512 ≤ off → t.str.st = .locked ∧ t.str.slew = off ∧ t.str.holdoverUsed = 0) ∧ (off < -512 → t.str.st = .lost)) ∧
    (s.str.st = .lost ∨ (s.str.st = .holdover ∧ s.str.holdoverUsed < holdoverLimit u.str.ctlUsed) → u.lockMet n = true → 512 < off →
      s.tun.change = none → s.tun.dirty = false →
      ∃ t, exec .stringBoundary s = .next t ∧ (t.str.time : Int) = next + off ∧ t.str.source = n ∧ t.str.st = .locked ∧ t.str.slew = 0 ∧
        t.str.holdoverUsed = 0 ∧ t.str.base = (if s.str.st = .lost then s.str.base + off else s.str.base)) ∧
    (s.str.st = .free ∨ s.str.st = .acquiring → u.lockMet n = false →
      ∃ t, exec .stringBoundary s = .next t ∧ t.str.time = next ∧ t.str.source = n ∧ t.str.st = (if n = .none then .free else .acquiring)) ∧
    (s.str.st = .free ∨ s.str.st = .acquiring → u.lockMet n = true → s.str.everLocked = false → s.str.stepped = none →
      ∃ t, exec .stringBoundary s = .next t ∧ t.str.st = .locked ∧ t.str.source = n ∧ t.str.slew = 0 ∧ t.str.load = none ∧ t.str.everLocked = true ∧
        (∀ k, n = .wire → s.str.load = some k → (t.str.time : Int) = max 0 (k.toNat * 65536 + off)) ∧
        (n ≠ .wire ∨ s.str.load = none → (t.str.time : Int) = max 0 (next + off))) ∧
    (s.wireLate = false → exec .wireSourceTimeout s = .next s) ∧
    (s.wireLate = true →
      let v : Machine.State := { s with str := { s.str with acq := {}, source := .none } }
      let m := v.chooseSource
      let again := m ≠ .none ∧ v.agrees m = true
      (again → exec .wireSourceTimeout s = .next v) ∧
      (¬ again → ∃ t, exec .wireSourceTimeout s = .next t ∧ t.str.st = .holdover ∧ t.str.source = m ∧ t.str.holdoverUsed = 1 ∧ t.str.slew = 0 ∧
        t.str.acq = {} ∧ t.mem = s.mem)) ∧
    (∀ p : PortNo, let f := tget {} s.str.fab p.val
      let v : Machine.State := { s with str := { s.str with fab := tset {} s.str.fab p.val { f with valid := false, consecutive := 0 } } }
      (f.valid = false ∨ s.elapsed ≤ f.at_ + 65536 → exec (.fabricSourceTimeout p) s = .next s) ∧
      (f.valid = true → f.at_ + 65536 < s.elapsed → ¬ (s.str.st = .locked ∧ s.str.source = .port p.val) →
        exec (.fabricSourceTimeout p) s = .next v) ∧
      (f.valid = true → f.at_ + 65536 < s.elapsed → s.str.st = .locked → s.str.source = .port p.val →
        let v : Machine.State := { v with str := { v.str with source := .none } }
        let m := v.chooseSource
        ∃ t, exec (.fabricSourceTimeout p) s = .next t ∧ t.str.fab = v.str.fab ∧
          (m ≠ .none ∧ v.agrees m = true → t = v) ∧
          (¬ (m ≠ .none ∧ v.agrees m = true) → t.str.st = .holdover ∧ t.str.source = m ∧ t.str.holdoverUsed = 0))) ∧
    (s.str.st = .holdover → holdoverLimit u.str.ctlUsed ≤ s.str.holdoverUsed →
      ∃ t, exec .holdoverExpiry s = .next t ∧ t.str.time = next ∧ t.str.st = .lost ∧ t.str.lostSeen = true ∧ t.str.lostStop = some t.nextFret) ∧
    (s.str.st ≠ .holdover ∨ s.str.holdoverUsed < holdoverLimit u.str.ctlUsed → exec .holdoverExpiry s = .next s) ∧
    (∀ d, s.str.lostStop = some d →
      (d ≤ s.clock → ∃ t, exec .stringLostStop s = .next t ∧ t.str.lostStop = none ∧ t.str.st = s.str.st ∧
        ∀ c ∈ t.colls, c.lost = true → c.result ≠ none) ∧
      (s.clock < d → exec .stringLostStop s = .next s)) ∧
    (s.str.lostStop = none → exec .stringLostStop s = .next s)

/-- Edges, frames and the loaded count (R30, R33, R41, R269): an edge within ±200 ns while LOCKED to the wire is accepted and sets the slew (and, while
the offset of a lock is slewed out, one within ±200 ns of where that slew puts it: the model's reading, log entry 157), another is a stray that is counted; eight counted edges in a row within 100 ppm acquire, and 64 edges that do not restart the count with an entry; a phase frame of another fret length is counted as discarded, one of
another String count while LOCKED excludes its port, any other is recorded; frames go out on every port that is up, once in each String, during fret 1; STR_COUNT_LOAD
is held for the first lock. LASER_POWER_SAMPLE (R18): the two powers are kept; outside +13 to +20 dBm a link that is up goes down with reason LASER, and inside nothing
else changes; above +20 dBm a port that trains fails its attempt. -/
def Obligations.StringSourcesAndLasers : Prop :=
  (∀ (s : Machine.State), s.wf = true → s.pins.pwrok = true →
     (∀ (off : Int) (per : Nat), s.str.st = .locked → s.str.source = .wire →
       (off.natAbs ≤ 3200 ∨ (s.ns 200 < s.str.slew.natAbs ∧ (4 * off - s.str.slew * s.subUnits).natAbs ≤ 12800) → exec (.wireEdge off per) s =
         .next { s with str := { s.str with wireEdgeAt := s.str.time, slew := s.toSub (4 * off), acq := { s.str.acq with off := 4 * off } } }) ∧
       (3200 < off.natAbs → s.str.slew.natAbs ≤ s.ns 200 ∨ 12800 < (4 * off - s.str.slew * s.subUnits).natAbs → exec (.wireEdge off per) s =
         .next { s with str := { s.str with straySeen := true, strays := s.str.strays + 1 } })) ∧
     (∀ (off : Int) (per : Nat), ¬ (s.str.st = .locked ∧ s.str.source = .wire) → s.str.acq.count ≠ 0 → 7 ≤ s.str.acq.good →
       ((per : Int) - s.refPeriod).natAbs * 10000 ≤ s.refPeriod → ((per : Int) - s.refPeriod).natAbs ≤ 3200 →
       ∃ t, exec (.wireEdge off per) s = .next t ∧ t.str.acq.acquired = true ∧ t.str.acq.off = 4 * off ∧ t.str.time = s.str.time ∧ t.str.st = s.str.st) ∧
     (∀ (off : Int) (per : Nat), ¬ (s.str.st = .locked ∧ s.str.source = .wire) → 3200 < ((per : Int) - s.refPeriod).natAbs →
       ∃ t, exec (.wireEdge off per) s = .next t ∧ t.str.time = s.str.time ∧ t.str.st = s.str.st ∧
         (s.str.acq.edges < 63 → t.str.acq = { count := 1, edges := s.str.acq.edges + 1, good := 1, acquired := false, off := 4 * off } ∧ t.led = s.led) ∧
         (63 ≤ s.str.acq.edges → t.str.acq = {} ∧ t.led.seq ≠ s.led.seq)) ∧
     (∀ (p : PortNo) count strat len txOff rxAt,
       ((s.port p).st ≠ .up → exec (.phase p count strat len txOff rxAt) s = .next s) ∧
       ((s.port p).st = .up → len.toNat ≠ fld s.tun.live.strFretLen 1 0 →
         exec (.phase p count strat len txOff rxAt) s = .next (s.modPort p fun x => x.count 7)) ∧
       ((s.port p).st = .up → len.toNat = fld s.tun.live.strFretLen 1 0 → s.str.st = .locked → count.toNat ≠ stringOf s.str.time →
         ∃ t, exec (.phase p count strat len txOff rxAt) s = .next t ∧
           t.str = { s.str with fab := tset {} s.str.fab p.val
                                         { tget {} s.str.fab p.val with excluded := true, valid := false, consecutive := 0 } }) ∧
       ((s.port p).st = .up → len.toNat = fld s.tun.live.strFretLen 1 0 → (s.str.st = .locked → count.toNat = stringOf s.str.time) →
         ∃ t, exec (.phase p count strat len txOff rxAt) s = .next t ∧
           (tget {} t.str.fab p.val).valid = true ∧ (tget {} t.str.fab p.val).stratum = strat.toNat ∧ (tget {} t.str.fab p.val).count = count.toNat ∧
           (tget {} t.str.fab p.val).at_ = s.elapsed ∧ t.str.time = s.str.time ∧ t.str.st = s.str.st ∧ t.ports = s.ports)) ∧
     (∀ txOff, (fretOf s.str.time ≠ 1 ∨ s.str.phaseSent = stringOf s.str.time + 1 → exec (.phaseSend txOff) s = .next s) ∧
       (fretOf s.str.time = 1 → s.str.phaseSent ≠ stringOf s.str.time + 1 →
         ∃ t, exec (.phaseSend txOff) s = .next t ∧ t.str = { s.str with phaseSent := stringOf s.str.time + 1 } ∧
         ∀ p : PortNo, (t.port p).txq = if (s.port p).st = .up then (s.port p).txq ++
           [{ kind := 1, vc := 0, body := ctlBody 0x05 (toBytes 6 (stringOf s.str.time) ++
               [BitVec.ofNat 8 (s.ownStratum + 16 * fld s.tun.live.strFretLen 1 0)] ++ toBytes 4 ((txOff[p.val]?).getD 0).toNat) }] else (s.port p).txq)) ∧
     (∀ (f : FnNo) v, s.isOper f = true → s.tun.boot = .ready →
       (s.str.st = .free ∨ s.str.st = .acquiring →
         exec (.strCountLoadWrite f .whole v) s =
           .next { s with str := { s.str with loadLow := v.extractLsb' 0 32, load := some (v.extractLsb' 16 48) } } ∧
         exec (.strCountLoadWrite f .low v) s = .next { s with str := { s.str with loadLow := v.extractLsb' 0 32 } } ∧
         exec (.strCountLoadWrite f .high v) s =
           .next { s with str := { s.str with load := some (v.extractLsb' 0 32 ++ s.str.loadLow.extractLsb' 16 16) } }) ∧
       ∀ part, s.str.st ≠ .free → s.str.st ≠ .acquiring → ∃ t, exec (.strCountLoadWrite f part v) s = .next t ∧ t.str = s.str) ∧
     (∀ (f : FnNo) part v, s.isOper f = false → exec (.strCountLoadWrite f part v) s = .next s)) ∧
  (∀ (s : Machine.State) (e : PortNo) (w0 w1 : Int), s.wf = true →
     let u : Machine.State := { s with pins := { s.pins with lasers := tset 0 (tset 0 s.pins.lasers (2 * e.val) w0) (2 * e.val + 1) w1 } }
     (u.laserBad e 1300 = none → exec (.laserPowerSample e w0 w1) s = .next u) ∧
     (∀ w, u.laserBad e 1300 = some w → (s.port e).st = .up →
       ∃ t, exec (.laserPowerSample e w0 w1) s = .next t ∧ t.pins = u.pins ∧ (t.port e).st = .wait ∧ (t.port e).reason = 1 ∧ (t.port e).downSeen = true ∧
         (t.port e).txq = [] ∧ t.str.time = s.str.time) ∧
     (∀ w, (s.port e).st = .training → [0, 1].find? (fun w => decide (2000 < u.laser e w)) = some w →
       ∃ t, exec (.laserPowerSample e w0 w1) s = .next t ∧ t.pins = u.pins ∧ u.failedTo t e 1) ∧
     ((s.port e).st ≠ .up → (s.port e).st ≠ .training → exec (.laserPowerSample e w0 w1) s = .next u))

/-! ### Device memory (09) -/

/-- The patrol, the loss of a stack and its temperature (R201, R203, R204, R211, R219): a patrol read without an error changes nothing but the mark of the
symbol last corrected; one corrected symbol is counted for the stack and every byte stays, and the same symbol again makes its pin hard and the stack
DEGRADED (R202); two or three symbols in error poison the unit where it lies, which is in HBM alone where a slice holds its line; a stack that fails is
FAILED in its state and in the health record; a reading sets the thermal step of Table 9.8, each step where its threshold is reached. -/
def Obligations.PatrolAndStacks : Prop :=
  ∀ (s : Machine.State) (k : StackNo), s.wf = true →
    (∀ (off : Nat), fld s.tun.live.memCfg 15 8 ≠ 0 → (tget {} s.mem.stks k.val).st ≠ .failed → k.val ∈ s.mem.mapStks →
      off < 2 ^ 36 → off % 32 = 0 →
      let u := s.stackDpa k.val off / 32
      let j := (s.dpaStack (32 * u)).1
      s.hbmPoisoned u = false → (tget {} s.mem.stks j).hard = [] → (tget {} s.mem.stks j).st ≠ .failed →
        exec (.patrolRead k off []) s = .next { s with slices := { s.slices with fixed := tset 0 s.slices.fixed u 0 } } ∧
        (∀ (i : Fin 36) (v : Byte), v ≠ 0 → ∃ t, exec (.patrolRead k off [(i, v)]) s = .next t ∧
          t.mem.cells = s.mem.cells ∧ t.mem.poison = s.mem.poison ∧ tget 0 t.slices.fixed u = i.val + 1 ∧
          (tget {} t.mem.stks j).ce = min 0xFFFF ((tget {} s.mem.stks j).ce + 1) ∧
          (tget 0 s.slices.fixed u ≠ i.val + 1 → (tget {} t.mem.stks j).hard = [] ∧ (tget {} t.mem.stks j).st = (tget {} s.mem.stks j).st) ∧
          (tget 0 s.slices.fixed u = i.val + 1 → (tget {} t.mem.stks j).hard = [(s.pcOf (32 * u), i.val)] ∧ (tget {} t.mem.stks j).st = .degraded)) ∧
        (∀ errs, decodeSyms (symTable errs) = .uncorrectable → (tget {} s.mem.stks j).unc < 64 → ∃ t, exec (.patrolRead k off errs) s = .next t ∧
          t.mem.cells = s.mem.cells ∧ (∀ v, v ≠ u → (v ∈ t.mem.poison ↔ v ∈ s.mem.poison)) ∧
          (s.cachedUnit u = false → u ∈ t.mem.poison) ∧
          (s.cachedUnit u = true → t.hbmPoisoned u = true ∧ (u ∈ t.mem.poison ↔ u ∈ s.mem.poison)))) ∧
    (∀ off errs, fld s.tun.live.memCfg 15 8 = 0 → exec (.patrolRead k off errs) s = .next s) ∧
    (∀ cause, (tget {} s.mem.stks k.val).st ≠ .failed → ∃ t, exec (.stackFail k cause) s = .next t ∧
      (tget {} t.mem.stks k.val).st = .failed ∧ tget 0 t.nv.health.stks k.val = 2 ∧ (s.noWaits → t.mem.cells = s.mem.cells) ∧ t.mem.mapStks = s.mem.mapStks) ∧
    (∀ cause, (tget {} s.mem.stks k.val).st = .failed → exec (.stackFail k cause) s = .next s) ∧
    (∀ x : Int, x < 420 → ∃ t, exec (.hbmThermalSample k x) s = .next t ∧ (tget {} t.mem.stks k.val).temp = x ∧
      (400 ≤ x → (tget {} t.mem.stks k.val).therm = 4) ∧ (x ≤ 332 → (tget {} t.mem.stks k.val).therm = 0) ∧
      (338 < x → x < 340 → (tget {} s.mem.stks k.val).therm = 0 → (tget {} t.mem.stks k.val).therm = 0) ∧
      (340 ≤ x → x < 360 → (tget {} s.mem.stks k.val).therm ≤ 1 → (tget {} t.mem.stks k.val).therm = 1) ∧
      (360 ≤ x → x < 380 → (tget {} s.mem.stks k.val).therm ≤ 2 → (tget {} t.mem.stks k.val).therm = 2) ∧
      (380 ≤ x → x < 400 → (tget {} s.mem.stks k.val).therm ≤ 3 → (tget {} t.mem.stks k.val).therm = 3) ∧
      (∀ n, 1 ≤ n → n ≤ 4 → (tget {} s.mem.stks k.val).therm = n → 312 + 20 * n < x → x < 320 + 20 * n → (tget {} t.mem.stks k.val).therm = n) ∧
      (∀ n, 2 ≤ n → n ≤ 4 → (tget {} s.mem.stks k.val).therm = n → 300 + 20 * n ≤ x → x ≤ 312 + 20 * n → (tget {} t.mem.stks k.val).therm = n - 1) ∧
      t.mem.cells = s.mem.cells ∧ t.mem.poison = s.mem.poison ∧ t.pwr.trip = s.pwr.trip) ∧
    (∀ x : Int, 420 ≤ x → ∃ t, exec (.hbmThermalSample k x) s = .next t ∧ t.pwr.trip = true ∧ (s.pwr.trip = false → t.pins.thermtrip = true))

/-- Golden refills, held reads and pinned lines (R207 to R209, R215, R390): the oldest waiting refill starts while fewer than 8 run; the block's bytes,
once they pass their checks, are written and clear its poison; a fetch that fails clears GOLDEN and ends the reads it held; a read held 200 µs
ends, and the refill with it where it began the refill; a region whose pin lease expires has every pinned line added back, each word as the sum of
HBM's and the pinned one, and stays open. -/
def Obligations.RefillsAndPins : Prop :=
  ∀ (s : Machine.State), s.wf = true →
    (8 ≤ (s.mem.refills.filter (·.running)).length → exec .refillStart s = .next s) ∧
    (∀ r st g i, (s.mem.refills.filter (·.running)).length < 8 → (s.mem.refills.find? fun r => !r.running) = some r →
      s.goldenOf r.block = some (st, g, i) → g.kind = 1 →
      ∃ t, exec .refillStart s = .next t ∧
        t.mem.refills = (s.mem.refills.map fun q => if q.block = r.block then { q with running := true } else q) ∧ t.mem.cells = s.mem.cells ∧
        t.out = s.out ++ [.hostRead (s.stall st).func (if bitAt g.pasid 20 then g.pasid else 0) (g.src.toNat + 4096 * i) 4096]) ∧
    (∀ b r, (∀ q ∈ s.mem.refills, ¬ (q.block = b ∧ q.running = true)) → exec (.refillFetchDone b r) s = .next s) ∧
    (∀ b l st g i, (∃ q ∈ s.mem.refills, q.block = b ∧ q.running = true) → s.goldenOf b = some (st, g, i) → g.digest = 0 → l.length = 4096 →
      (∀ e ∈ s.mem.stks, e.2.st ≠ .failed) → s.noWaits → s.slices.under = [] → (∀ a, a / 4096 = b → s.tableByte a = none) →
      ∃ t, exec (.refillFetchDone b (.data l)) s = .next t ∧ bytesAt t (4096 * b) 4096 = l ∧ (∀ u ∈ t.mem.poison, u / 128 ≠ b) ∧
        (s.heldAt b = [] → ∀ q ∈ t.mem.refills, q.block ≠ b) ∧ ∀ a, a / 4096 ≠ b → t.byteAt a = s.byteAt a) ∧
    (∀ b, (∃ q ∈ s.mem.refills, q.block = b ∧ q.running = true) → s.noWaits →
      ∀ r ∈ [FetchEnd.unreachable, FetchEnd.error], ∃ t, exec (.refillFetchDone b r) s = .next t ∧ t.goldenBit b = false ∧
        (∀ q ∈ t.mem.refills, q.block ≠ b) ∧ (∀ h ∈ t.mem.held, h.unit / 128 ≠ b) ∧ t.mem.cells = s.mem.cells) ∧
    (∀ k h, s.mem.held[k]? = some h →
      (s.elapsed < h.since + s.ns 200000 → exec (.heldReadTimeout k) s = .next s) ∧
      (h.since + s.ns 200000 ≤ s.elapsed → s.noWaits → ∃ t, exec (.heldReadTimeout k) s = .next t ∧ h ∉ t.mem.held ∧ t.mem.cells = s.mem.cells ∧
        ((∃ r ∈ s.mem.refills, r.block = h.unit / 128 ∧ r.trigger = some h.who) → t.goldenBit (h.unit / 128) = false))) ∧
    (∀ (st : StallNo) base r, ((s.stall st).regions.find? fun r => r.base == base) = some r →
      (s.gridOk 1 = false ∨ s.clock < r.last + 256 * s.pinLease ∨ s.pinsOf st base = [] → exec (.pinLeaseExpiry st base) s = .next s) ∧
      (s.gridOk 1 = true → r.last + 256 * s.pinLease ≤ s.clock → s.pinsOf st base ≠ [] → (∀ l ∈ s.pinsOf st base, s.refilling (128 * l) 128 = false) →
        ∃ t q, exec (.pinLeaseExpiry st base) s = .next t ∧ ((t.stall st).regions.find? fun r => r.base == base) = some q ∧ t.pinsOf st base = [] ∧
          q.len = r.len ∧ q.zero = r.zero ∧
          (s.slices.under = [] → (∀ e ∈ s.mem.stks, e.2.st ≠ .failed) → (∀ l ∈ s.pinsOf st base, ∀ a, a / 128 = l → s.tableByte a = none) →
            ∀ l ∈ s.pinsOf st base, (s.pin l).bad = false → s.memPoisoned (128 * l) 128 = false → ∀ i, i < 32 →
              bytesAt t (128 * l + 4 * i) 4 =
                toBytes 4 (f32Add (if r.zero = true ∧ l ∉ r.added then 0 else ofBytes (bytesAt s (128 * l + 4 * i) 4)) (((s.pin l).parts[i]?).getD 0).toNat))))

/-! ### Power and temperature (18) -/

/-- The slow loop and the cap (R442, R443): on fret 0 of a String the power stretch becomes the one that the averaged power asks for, between 1× and 4×
and at most 4/64 below the last (its value is that of R443, rounded up to 1/64, and 4× where the parts besides the compute dies use up the cap); a cap unmet at 4× sets CAP_SEEN; before it is due nothing happens. OVR_W is written by the operator
function, by the management bus and over the operator function's host port, and by nobody else. Droop and the brake (R444, R445, Table 18.1): a droop applies 2× at once to its die, is held 64 ns after the supply recovers and then drops; PWRBRAKE_N
applies its stretch where BRAKE_EN is 1 and is only reported where it is 0; its release waits 10 µs and then ramps by 4/64 for each fret. Throttling and the trip (R446, R447, Tables 18.2 and 18.3): a compute die at 100 °C stretches by 4/64 more and below 98 °C by 1/64 less; a link die and an
optical engine apply their limit from the throttle point to 2 °C below it; at the trip point THERMTRIP_N is asserted, the core clocks stop, the
HBM refreshes itself and every port that was up is down. -/
def Obligations.PowerAndTemperature : Prop :=
  (∀ (s : Machine.State),
     (∀ x : PowerIn, (s.gridOk 6 = false ∨ s.clock < s.pwr.loopDue → exec (.slowPowerLoop x) s = .next s) ∧
       (s.gridOk 6 = true → s.pwr.loopDue ≤ s.clock → ∃ t, exec (.slowPowerLoop x) s = .next t ∧
         let comp := (x.pDie.take 4).sum
         let oth := (x.pDie.drop 4).sum + x.pOther
         t.pwr.devW = comp + oth ∧
         (s.powerCap ≤ oth → t.pwr.pStretch = 256) ∧
         (oth < s.powerCap → t.pwr.pStretch =
           min 256 (max 64 (max ((s.pwr.pStretch * comp + (s.powerCap - oth) - 1) / (s.powerCap - oth)) (s.pwr.pStretch - 4)))) ∧
         64 ≤ t.pwr.pStretch ∧ t.pwr.pStretch ≤ 256 ∧ (s.pwr.pStretch ≤ 256 → s.pwr.pStretch - 4 ≤ t.pwr.pStretch) ∧
         (oth < s.powerCap → t.pwr.pStretch < 256 → s.pwr.pStretch * comp ≤ t.pwr.pStretch * (s.powerCap - oth)) ∧
         (t.pwr.capUnmet = true ↔ t.pwr.pStretch = 256 ∧ s.powerCap < comp + oth) ∧ (t.pwr.capUnmet = true → bitAt t.pwr.alertSeen 0 = true) ∧
         t.pwr.brakeStretch = s.pwr.brakeStretch ∧ t.str = s.str ∧ t.pwr.loopDue = s.clockOf ((stringOf ((s.pwr.loopDue : Int) + s.str.base).toNat + 1) * 65536))) ∧
     (∀ (f : FnNo) v, exec (.pwrCapOvrWrite (.inr f) v) s =
       .next (if s.isOper f = true ∧ s.tun.boot = .ready then { s with pwr := { s.pwr with capOvr := v &&& 0xFFF } } else s)) ∧
     (∀ path v, s.mgmtUp path = true → (∀ p : HostPortNo, path = .vdm p → p.val = s.operFn / 1024) →
       ∃ t, exec (.pwrCapOvrWrite (.inl path) v) s = .next t ∧ t.pwr = { s.pwr with capOvr := v &&& 0xFFF }) ∧
     (∀ path v, s.mgmtUp path = false → exec (.pwrCapOvrWrite (.inl path) v) s = .next s) ∧
     (∀ (p : HostPortNo) v, p.val ≠ s.operFn / 1024 → ∃ t, exec (.pwrCapOvrWrite (.inl (.vdm p)) v) s = .next t ∧ t.pwr = s.pwr)) ∧
  (∀ (s : Machine.State) (d : DieNo), s.wf = true →
     (tget .no s.pwr.droop d.val ≠ .drooping → ∃ t, exec (.droop d) s = .next t ∧ t.pwr.droopStretch d = 128 ∧ 128 ≤ t.pwr.effective d ∧
       tget 0 t.pwr.droops d.val = tget 0 s.pwr.droops d.val + 1 ∧ bitAt t.pwr.alertSeen 4 = true ∧ ∀ e : DieNo, e ≠ d → t.pwr.droopStretch e = s.pwr.droopStretch e) ∧
     (tget .no s.pwr.droop d.val = .drooping → exec (.droop d) s = .next s ∧
       ∃ t, exec (.droopSupplyRecovery d) s = .next t ∧ t.pwr.droopStretch d = 128 ∧ tget .no t.pwr.droop d.val = .holding ∧
         tget 0 t.pwr.droopAt d.val = s.elapsed ∧ t.str = s.str) ∧
     (tget .no s.pwr.droop d.val ≠ .drooping → exec (.droopSupplyRecovery d) s = .next s) ∧
     (tget .no s.pwr.droop d.val = .holding →
       (s.elapsed < tget 0 s.pwr.droopAt d.val + s.ns 64 → exec (.droopHoldExpiry d) s = .next s) ∧
       (tget 0 s.pwr.droopAt d.val + s.ns 64 ≤ s.elapsed → ∃ t, exec (.droopHoldExpiry d) s = .next t ∧ t.pwr.droopStretch d = 64 ∧
         t.pwr.pStretch = s.pwr.pStretch ∧ t.pwr.brakeStretch = s.pwr.brakeStretch)) ∧
     (s.pwr.brakePin = true → exec .pwrbrakeAssert s = .next s ∧
       exec .pwrbrakeDeassert s = .next { s with pwr := { s.pwr with brakePin := false, brakeAt := s.elapsed, brake := if s.pwr.brake = .asserted then .releasing else s.pwr.brake } }) ∧
     (s.pwr.brakePin = false → exec .pwrbrakeDeassert s = .next s ∧
       ∃ t, exec .pwrbrakeAssert s = .next t ∧ t.pwr.brakePin = true ∧ bitAt t.pwr.alertSeen 2 = true ∧
         (bitAt s.tun.live.pwrBrake 31 = true → t.pwr.brake = .asserted ∧ t.pwr.brakeStretch = min 256 (max 64 (fld s.tun.live.pwrBrake 8 0))) ∧
         (bitAt s.tun.live.pwrBrake 31 = false → t.pwr.brake = s.pwr.brake ∧ t.pwr.brakeStretch = s.pwr.brakeStretch)) ∧
     (s.pwr.brake = .releasing →
       (s.elapsed < s.pwr.brakeAt + s.ns 10000 → exec .brakeRelease s = .next s) ∧
       (s.pwr.brakeAt + s.ns 10000 ≤ s.elapsed → exec .brakeRelease s = .next { s with pwr := { s.pwr with brake := .ramping, brakeAt := s.elapsed } })) ∧
     (s.pwr.brake = .ramping → s.pwr.brakeAt + 256 ≤ s.elapsed → exec .brakeRampFret s = .next
       { s with pwr := { s.pwr with brakeStretch := max 64 (s.pwr.brakeStretch - 4), brakeAt := s.pwr.brakeAt + 256,
                                    brake := if s.pwr.brakeStretch ≤ 68 then .idle else .ramping } }) ∧
     (s.pwr.brake ≠ .ramping ∨ s.elapsed < s.pwr.brakeAt + 256 → exec .brakeRampFret s = .next s)) ∧
  (∀ (s : Machine.State) (x : Int), s.wf = true →
     (∀ d : DieNo, x < 440 → ∃ t, exec (.thermalSample (.compute d) x) s = .next t ∧ tget 0 t.pwr.dieTemp d.val = x ∧
       t.pwr.thermal d = (if 400 ≤ x then min 256 (s.pwr.thermal d + 4) else if x ≤ 392 then max 64 (s.pwr.thermal d - 1) else s.pwr.thermal d) ∧
       (∀ e : DieNo, e ≠ d → t.pwr.thermal e = s.pwr.thermal e) ∧ t.pwr.trip = s.pwr.trip ∧ t.pwr.coreClocks = s.pwr.coreClocks) ∧
     (∀ l : LinkDieNo, x < 440 → ∃ t, exec (.thermalSample (.link l) x) s = .next t ∧
       bitAt t.pwr.thermLink l.val = (if 400 ≤ x then true else if x ≤ 392 then false else bitAt s.pwr.thermLink l.val)) ∧
     (∀ e : PortNo, x < 340 → ∃ t, exec (.thermalSample (.optic e) x) s = .next t ∧
       (t.port e).throttled = (if 300 ≤ x then true else if x ≤ 292 then false else (s.port e).throttled) ∧ (t.port e).st = (s.port e).st) ∧
     (∀ k : StackNo, x < 420 → ∃ t, exec (.thermalSample (.stack k) x) s = .next t ∧ (tget {} t.mem.stks k.val).temp = x ∧
       (400 ≤ x → (tget {} t.mem.stks k.val).therm = 4) ∧ (x ≤ 332 → (tget {} t.mem.stks k.val).therm = 0)) ∧
     (∀ u : ThermUnit, s.pwr.trip = false →
       (match u with | .compute _ => 440 ≤ x | .link _ => 440 ≤ x | .stack _ => 420 ≤ x | .optic _ => 340 ≤ x) →
       ∃ t, exec (.thermalSample u x) s = .next t ∧ t.pwr.trip = true ∧ t.pins.thermtrip = true ∧ t.pwr.coreClocks = false ∧ t.pwr.selfRefresh = true ∧
         (∀ p : PortNo, (s.port p).st = .up → (t.port p).st = .down) ∧ (∀ c, (t.core c).passes = [] ∧ (t.core c).vq = []) ∧ (s.noWaits → t.mem.cells = s.mem.cells)))

/-! ### Tunings and start-up (16) -/

/-- STAGE and its end, and what becomes of a staged tuning without a live change (R397, R400, R401, R408, R414, R415; Table 16.10): a tuning that fails a check is
rejected with its code (one of another size than TUN_ARG1 with code 2, the model's choice, log entry 104) and nothing is staged; one that passes goes to the free slot and becomes pending; APPLY_AT_RESET marks it; DISCARD drops it;
CAPTURE answers on an unsealed device only. STAGE_DONE (R397, R408): the directory names the slot as pending and staged; a flash error leaves no pending tuning. -/
def Obligations.StagingOperations : Prop :=
  (∀ (s : Machine.State) (f : FnNo), s.wf = true → s.tunReady f →
     (∃ t, exec (.stage f .fail) s = .next t ∧ t.tunEnded 6 ∧ t.nv = s.nv) ∧
     (∀ x : TunImg, x.size ≠ s.tun.arg1.toNat → ∃ t, exec (.stage f (.got x)) s = .next t ∧ t.tunEnded 2 ∧ t.tun.valCheck = 2 ∧ t.nv = s.nv ∧
       t.tun.staging = s.tun.staging) ∧
     (∀ x c r, x.size = s.tun.arg1.toNat → s.tunCheck x false [1, 2, 3, 4, 5, 6, 8, 9] = some (c, r) → ∃ t, exec (.stage f (.got x)) s = .next t ∧
       t.tunEnded (if c = 1 then 1 else 2) ∧ t.tun.valCheck = c ∧ t.tun.valRecord = r ∧ t.nv.slots = s.nv.slots ∧ t.nv.dirs = s.nv.dirs ∧
       t.tun.staging = s.tun.staging) ∧
     (∀ x : TunImg, x.size = s.tun.arg1.toNat → s.tunCheck x false [1, 2, 3, 4, 5, 6, 8, 9] = none → ∃ t, exec (.stage f (.got x)) s = .next t ∧ t.tun.cmd.busy = true ∧
       t.tun.staging = some (s.dir.free, x) ∧ t.nv.slots = s.nv.slots.set s.dir.free.val none ∧ t.nv.dirs = s.nv.dirs ∧ t.tun.live = s.tun.live) ∧
     (s.dir.gen ≠ 0xFFFFFFFF →
       (s.pending? = none → ∃ t, exec (.applyAtReset f) s = .next t ∧ t.tunEnded 3 ∧ t.nv = s.nv) ∧
       (∀ x, s.pending? = some x → s.tunCheck x true [1, 2, 3, 4, 5, 6, 9] = none → ∃ t, exec (.applyAtReset f) s = .next t ∧ t.tunEnded 0 ∧
         t.dir.pendState = 2 ∧ t.dir.pend = s.dir.pend ∧ t.dir.cur = s.dir.cur ∧ t.nv.slots = s.nv.slots ∧ t.tun.live = s.tun.live) ∧
       (s.dir.pend.isSome = true → ∃ t, exec (.discard f) s = .next t ∧ t.tunEnded 0 ∧ t.dir.pend = none ∧ t.dir.pendState = 0 ∧
         t.dir.cur = s.dir.cur ∧ t.dir.prev = s.dir.prev) ∧
       (s.dir.pend = none → ∃ t, exec (.discard f) s = .next t ∧ t.tunEnded 3 ∧ t.nv = s.nv)) ∧
     (s.tun.sealed_ = true → ∃ t, exec (.capture f) s = .next t ∧ t.tunEnded 5 ∧ t.out = s.out) ∧
     (s.tun.sealed_ = false → ∃ t, exec (.capture f) s = .next t ∧ t.tunEnded 0 ∧ t.out = s.out ++ [.capture f s.tun.arg0 s.tun.regs.body])) ∧
  (∀ (s : Machine.State), s.wf = true → s.dir.gen ≠ 0xFFFFFFFF →
     (∀ ok, s.tun.staging = none → exec (.stageDone ok) s = .next s) ∧
     ∀ k x, s.tun.staging = some (k, x) →
       (∃ t, exec (.stageDone true) s = .next t ∧ t.tunEnded 0 ∧ t.tun.staging = none ∧ t.nv.slots = s.nv.slots.set k.val (some x) ∧ t.dir.pend = some k ∧
         t.dir.pendState = 1 ∧ t.dir.pendNum = x.number ∧ t.dir.cur = s.dir.cur ∧ t.dir.gen = s.dir.gen + 1) ∧
       (∃ t, exec (.stageDone false) s = .next t ∧ t.tunEnded 4 ∧ t.tun.staging = none ∧ t.nv.slots = s.nv.slots ∧ t.dir.pend = none ∧ t.dir.pendState = 0))

/-- A live change (R409, R411, R412): APPLY_LIVE checks and prepares; every stall then awaits its Q point; at its boundary every changed L group switches to the new
tuning; a prepare or a readback that fails undoes the change; the commit makes the new tuning current, seals the device and ends the change; a
revert runs the old groups again. Q points and ROLLBACK (R410, R412, R414): at a Q point, or once Q_LIMIT has passed, at a fret boundary, a stall loads its Q fields from the new tuning, or
from the old one while the change rolls back; where its contexts are within passes its issue stops, and it loads them once they are at a pass boundary; ROLLBACK undoes a change in progress, and in STABLE applies the previous tuning live or at the next reset. UNSEALED_FIELD_APPLY (R415): on an unsealed device written L and Q fields take effect at the next fret boundary, for every stall, after the lease reclaims due there. -/
def Obligations.LiveChanges : Prop :=
  (∀ (s : Machine.State), s.wf = true → s.dir.gen ≠ 0xFFFFFFFF → s.pwr.coreClocks = true →
     (∀ f : FnNo, s.tunReady f →
       (s.pending? = none → ∃ t, exec (.applyLive f) s = .next t ∧ t.tunEnded 3 ∧ t.nv = s.nv) ∧
       (∀ x, s.pending? = some x → s.atResult ≠ 0 → ∃ t, exec (.applyLive f) s = .next t ∧ t.tunEnded s.atResult ∧ t.nv = s.nv) ∧
       (∀ x, s.pending? = some x → s.atResult = 0 → s.tunCheck x true [1, 2, 3, 4, 5, 6, 7, 9] = none → ∃ t c, exec (.applyLive f) s = .next t ∧
         t.tun.change = some c ∧ c.ph = .preparing ∧ c.oldNum = s.tun.curNum ∧ c.newNum = x.number ∧ c.new = x.regs ∧ c.old = s.tun.live ∧
         t.tun.cmd.busy = true ∧ t.tun.live = s.tun.live ∧ ∀ st : StallNo, (s.stall st).st ≠ .free → (t.stall st).qDone = false)) ∧
     (s.tun.change = none → (∀ ok, exec (.tuningPrepareDone ok) s = .next s) ∧ (∀ bad, exec (.tuningSwitch bad) s = .next s) ∧
       (∀ bad, exec (.tuningRevert bad) s = .next s) ∧ ∀ ok, exec (.tuningCommit ok) s = .next s) ∧
     (∀ c, s.tun.change = some c → c.ph = .preparing →
       (∃ t d, exec (.tuningPrepareDone true) s = .next t ∧ t.tun.change = some d ∧ d.ph = .ready ∧ d.new = c.new ∧ t.tun.live = s.tun.live) ∧
       (∃ t, exec (.tuningPrepareDone false) s = .next t ∧ t.undoing ∧ t.tun.live = s.tun.live ∧ t.tun.curNum = s.tun.curNum)) ∧
     (∀ c, s.tun.change = some c → c.ph = .ready →
       (s.gridOk 2 = false ∨ s.clock < c.at_.getD 0 → ∀ bad, exec (.tuningSwitch bad) s = .next s) ∧
       (s.gridOk 2 = true → c.at_.getD 0 ≤ s.clock →
         (∃ t d, exec (.tuningSwitch none) s = .next t ∧ t.tun.change = some d ∧ d.ph = .mixed ∧ d.switched = some s.clock ∧
           t.tun.live = (changedGroups s.tun.live c.new).foldl (fun r g => r.takeGroup c.new g) s.tun.live ∧
           ∀ st : StallNo, (t.stall st).qDone = (s.stall st).qDone) ∧
         ∀ g : Fin 32, g.val ∈ changedGroups s.tun.live c.new → ∃ t, exec (.tuningSwitch (some g)) s = .next t ∧ t.undoing)) ∧
     (∀ c, s.tun.change = some c → c.ph = .mixed →
       (s.qAll = false → ∀ ok, exec (.tuningCommit ok) s = .next s) ∧
       (s.qAll = true → (∃ t, exec (.tuningCommit true) s = .next t ∧ t.tunEnded 0 ∧ t.tun.change = none ∧ t.tun.live = c.new ∧ t.tun.regs = c.new ∧
           t.tun.curNum = c.newNum ∧ t.tun.sealed_ = true ∧ t.dir.cur = (if c.exchange then s.dir.prev else s.dir.pend) ∧ t.dir.prev = s.dir.cur ∧
           t.dir.pend = none ∧ t.nv.slots = s.nv.slots) ∧
         ∃ t, exec (.tuningCommit false) s = .next t ∧ t.undoing)) ∧
     (∀ c, s.tun.change = some c → c.ph = .rollingBack → c.lDone = false → c.stuck = false → s.gridOk 2 = true → c.at_.getD 0 ≤ s.clock →
       ∃ t, exec (.tuningRevert none) s = .next t ∧ t.undoing ∧
         t.tun.live = (changedGroups s.tun.live c.old).foldl (fun r g => r.takeGroup c.old g) s.tun.live)) ∧
  (∀ (s : Machine.State), s.wf = true → s.dir.gen ≠ 0xFFFFFFFF →
     (∀ (st : StallNo) c, s.tun.change = some c →
       (s.qDue st = false → ∀ ok, exec (.qPoint st ok) s = .next s ∧ exec (.qLimitExpiry st ok) s = .next s) ∧
       (s.qDue st = true → c.switched.isSome = true →
         ∀ q ∈ [((fun ok => Instr.qPoint st ok), s.atQPoint c st), ((fun ok => Instr.qLimitExpiry st ok), s.qLimitPassed c)], let i := q.1
         let comes := (s.stall st).qHold = true ∨ (s.gridOk 5 = true ∧ q.2 = true)
         (¬ comes → ∀ ok, exec (i ok) s = .next s) ∧
         (comes → s.passBoundary st = false → ∀ ok, ∃ t, exec (i ok) s = .next t ∧ t.issues st = false ∧ (t.stall st).qTimer = (s.stall st).qTimer ∧
           t.tun = s.tun ∧ t.cores = s.cores) ∧
         (comes → s.passBoundary st = true → c.ph = .mixed → (∃ t, exec (i true) s = .next t ∧ (t.stall st).qTimer = c.new.timer ∧ (t.stall st).qCheckNew = c.new.mtxCheck ∧
             (t.stall st).qDone = true ∧ t.tun.live = s.tun.live) ∧
           ∃ t, exec (i false) s = .next t ∧ t.undoing) ∧
         (comes → s.passBoundary st = true → c.ph = .rollingBack → ∃ t, exec (i true) s = .next t ∧ (t.stall st).qTimer = c.old.timer ∧ (t.stall st).qCheckNew = c.old.mtxCheck ∧
             (t.stall st).qDone = true))) ∧
     (∀ f : FnNo, s.regOk f = true → s.isOper f = true →
       (∀ c, s.tun.change = some c → (c.ph = .rollingBack → exec (.rollback f) s = .next s) ∧
         (c.ph ≠ .rollingBack → ∃ t, exec (.rollback f) s = .next t ∧ t.undoing)) ∧
       (s.tun.change = none → s.tun.cmd.busy = false →
         (s.slotImg s.dir.prev = none → ∃ t, exec (.rollback f) s = .next t ∧ t.tunEnded 3 ∧ t.nv = s.nv) ∧
         ∀ x, s.slotImg s.dir.prev = some x → s.tunCheck x true [1, 2, 3, 4, 5, 6, 9] = none →
           ((s.tun.live.differsB x.regs).isSome = true → ∃ t, exec (.rollback f) s = .next t ∧ t.tunEnded 0 ∧ t.dir.pendState = 2 ∧
             t.dir.pend = s.dir.prev ∧ t.dir.cur = s.dir.cur) ∧
           (s.tun.live.differsB x.regs = none → s.atResult = 0 → ∃ t c, exec (.rollback f) s = .next t ∧ t.tun.change = some c ∧ c.ph = .preparing ∧
             c.exchange = true ∧ c.newNum = x.number ∧ t.dir.pend = none ∧ t.tun.cmd.busy = true)))) ∧
  (∀ (s : Machine.State), s.wf = true →
     (s.gridOk 2 = false ∨ s.pwr.coreClocks = false ∨ s.tun.dirty = false ∨ s.tun.sealed_ = true ∨ s.clock < s.tun.dirtyAt → exec .unsealedFieldApply s = .next s) ∧
     (s.gridOk 2 = true → s.pwr.coreClocks = true → s.tun.dirty = true → s.tun.sealed_ = false → s.tun.dirtyAt ≤ s.clock → ∃ t, exec .unsealedFieldApply s = .next t ∧ t.tun.dirty = false ∧
       t.tun.live = ((changedGroups s.tun.live s.tun.regs).foldl (fun r g => r.takeGroup s.tun.regs g) s.tun.live).takeQ t.tun.regs ∧
       ∀ st : StallNo, (s.stall st).st ≠ .free → (t.stall st).qTimer = t.tun.live.timer ∧ (t.stall st).qCheckNew = t.tun.live.mtxCheck))

/-- The resets of the device (R417 to R419, R428, R470, Table 16.12): POWER_ON, BOOT_TIMEOUT, RESET_DEVICE and the management effecter leave the block
cleared, with the pins and the fuses as they were, booting or stopped; a factory layer that fails stops the boot with cause 4, and no bank with
cause 3. POWER_DOWN clears the block as well, with every clock stopped and every trained host port out of L0, and CORE_RAIL_REMOVE releases THERMTRIP_N. The choices of the boot (R416, R426): every bank whose try never reached READY is failed, and of the usable banks a new one is tried, else a good one, else the
superseded one runs, the higher VERSION first, or the boot stops with cause 3; then the pending tuning marked for the reset is tried where it passes its
checks, else the current, the previous or the factory tuning runs, and a tuning whose trial never reached READY, or that fails, is marked failed. READY (R340, R416, R417, R426, R428): the tuning's fields are in effect, stall 0 exists with every core and bound to the operator function, the bank that
was tried is good, the floor has not fallen, and the device is sealed exactly where a user tuning runs. -/
def Obligations.ResetsAndReady : Prop :=
  (∀ (s : Machine.State) (b : BootIn),
     (∀ i ∈ (if s.pins.pwrok = false then [Instr.powerOn b] else []) ++
         (if s.pins.pwrok = true ∧ s.tun.boot = .booting ∧ s.ns 2000000000 ≤ s.elapsed then [Instr.bootTimeout b] else []) ++
         ((List.finRange 4096).filter fun f : FnNo => s.regOk f && s.isOper f && !s.tun.cmd.busy).map (fun f : FnNo => Instr.resetDevice f b) ++
         (([MgmtPath.smbus 0x4E] ++ (List.finRange 128).map (fun a => MgmtPath.i3c (BitVec.ofNat 7 a.val)) ++ (List.finRange 4).map MgmtPath.vdm).filter fun p => s.mgmtUp p && s.mgmtMay p).map (fun p => Instr.deviceResetEffecter p b),
       ∃ t, exec i s = .next t ∧ t.cleared ∧ FusesKept s.nv t.nv ∧ t.nv.floor = s.nv.floor ∧ t.pending = s.pending ∧ t.pins.perst = s.pins.perst ∧
         t.pins.thermtrip = s.pins.thermtrip ∧ t.pwr.coreClocks = !s.pins.thermtrip ∧ t.tun.change = none ∧ t.tun.cmd = {} ∧
         (s.factoryOk b = false → t.tun.boot = .stopped ∧ t.tun.bootCause = 4) ∧
         (s.factoryOk b = true → (s.nv.banks.all fun k => k.img.isNone) = true → t.tun.boot = .stopped ∧ t.tun.bootCause = 3)) ∧
     (s.pins.pwrok = true → exec (.powerOn b) s = .next s ∧ ∃ t, exec .powerDown s = .next t ∧ t.cleared ∧ t.pins.pwrok = false ∧ t.nv = s.nv ∧
       t.led.buf = [] ∧ t.pwr.coreClocks = false ∧ t.out = s.out ++ (((List.range 4).filter fun p => s.hosts.l0.toNat.testBit p).map fun p => Out.link p false)) ∧
     (s.pins.pwrok = false → exec .powerDown s = .next s ∧ exec .bootReady s = .next s ∧ exec (.bootTimeout b) s = .next s ∧
       ∃ t, exec (.powerOn b) s = .next t ∧ t.pins.pwrok = true) ∧
     exec .coreRailRemove s = .next { s with pins := { s.pins with thermtrip := false } } ∧
     (∀ f : FnNo, s.regOk f = false ∨ s.isOper f = false ∨ s.tun.cmd.busy = true → exec (.resetDevice f b) s = .next s)) ∧
  (∀ (s : Machine.State) (b : BootIn), s.wf = true → s.pins.pwrok = false → s.factoryOk b = true →
     let use (i : Nat) (v : Byte) : Prop := i < 2 ∧ ∃ x, (s.bank i).img = some x ∧ s.fwUsable x = true ∧ (s.bank i).state = v
     let ver (i : Nat) : Nat := match (s.bank i).img with | some x => x.version.toNat | none => 0
     let best (i : Nat) (v : Byte) : Prop := use i v ∧ ∀ j, j ≠ i → use j v → ver j < ver i
     let none_ (v : Byte) : Prop := ∀ i, ¬ use i v
     ∃ t, exec (.powerOn b) s = .next t ∧
       (∀ i, i < 2 → (s.bank i).state = 0x7F → (t.bank i).state = 0x00) ∧
       (∀ i, best i 0xFF → t.sec.bank = i ∧ (t.bank i).state = 0x7F ∧ ∀ x, (s.bank i).img = some x → t.sec.svn = x.svn) ∧
       (∀ i, none_ 0xFF → best i 0x3F → t.sec.bank = i ∧ (t.bank i).state = 0x3F) ∧
       (∀ i, none_ 0xFF → none_ 0x3F → best i 0x1F → t.sec.bank = i ∧ (t.bank i).state = 0x1F) ∧
       (none_ 0xFF → none_ 0x3F → none_ 0x1F → t.tun.boot = .stopped ∧ t.tun.bootCause = 3) ∧
       ((∃ i v, use i v ∧ v ∈ [(0xFF : Byte), 0x3F, 0x1F]) →
         let ok (k : Option (Fin 3)) (x : TunImg) : Prop := s.slotImg k = some x ∧ t.tunCheck x false [1, 2, 3, 4, 5, 6, 9] = none
         let no (k : Option (Fin 3)) : Prop := ∀ x, ¬ ok k x
         let runs (x : TunImg) (source : Nat) : Prop := t.tun.source = source ∧ t.tun.curNum = x.number ∧ t.tun.regs = x.regs
         (s.nv.dir = none → t.tun.source = 3 ∧ t.tun.curNum = 0 ∧ t.tun.regs = {}) ∧
         ∀ d, s.nv.dir = some d → d.gen.toNat + 2 < 2 ^ 32 →
           (d.pendState = 3 → t.dir.pendState = 4) ∧
           (∀ x, d.pendState = 2 → ok d.pend x → runs x 2 ∧ t.dir.pendState = 3) ∧
           (d.pendState = 2 → no d.pend → t.dir.pendState = 4) ∧
           (d.pendState ≠ 2 ∨ no d.pend →
             (∀ x, ok d.cur x → runs x 0) ∧ (∀ x, no d.cur → ok d.prev x → runs x 1) ∧
             (no d.cur → no d.prev → t.tun.source = 3 ∧ t.tun.curNum = 0 ∧ t.tun.regs = {})))) ∧
  (∀ (s : Machine.State), s.wf = true →
     (s.tun.boot ≠ .booting → exec .bootReady s = .next s) ∧
     (s.pins.pwrok = true → s.tun.boot = .booting →
       ∃ t, exec .bootReady s = .next t ∧ t.tun.boot = .ready ∧ t.tun.live = s.tun.regs ∧ t.tun.regs = s.tun.regs ∧
         (t.tun.sealed_ = true ↔ s.tun.source ≠ 3) ∧ (t.stall 0).st = .active ∧ (t.stall 0).func = fld s.tun.regs.feat 1 0 * 1024 ∧
         (t.stall 0).coreMask = BitVec.allOnes 192 ∧ (t.stall 0).qTimer = s.tun.regs.timer ∧ s.nv.floor ≤ t.nv.floor ∧
         (s.sec.bank < 2 → (s.bank s.sec.bank).state = 0x7F → (t.bank s.sec.bank).state = 0x3F) ∧ t.mem = s.mem ∧ t.str.st = s.str.st))

/-! ### Management and registers (18, 19) -/

/-- What management reads answer and do (R450, R451, Tables 18.6 and 18.7): a path that the endpoint does not hear changes nothing, and a read only answers; a bus owner
sets the endpoint ID, on I3C the dynamic address, and whether it gets platform event messages. Management commands that change state (R451, R463): over a host port that is not the operator function's they are answered ERROR_UNSUPPORTED and
change nothing; on the bus TUN_OP runs its operation, and a firmware update is written to the bank that does not run, which is erased while SEC_FW_CMD is BUSY with it. -/
def Obligations.ManagementCommands : Prop :=
  (∀ (s : Machine.State) (path : MgmtPath),
     let answer := fun (kind : String) (l : List Int) => ({ s with out := s.out ++ [.mgmt path kind l] } : Machine.State)
     (s.mgmtUp path = false → ∀ i ∈ [Instr.mctpControl path .getEid, .pldmBaseDiscovery path] ++ (List.range 256).map (fun k => .pldmGetSensor path (.sensor (BitVec.ofNat 8 k))) ++
         [true, false].map (fun on => .pldmGetSensor path (.events on)) ++ (List.range 128).map (fun a => .mctpControl path (.setAddr (BitVec.ofNat 7 a))),
       exec i s = .next s) ∧
     (s.mgmtUp path = true →
       (∀ e, exec (.mctpControl path (.setEid e)) s =
         .next { s with pwr := { s.pwr with eid := some e }, out := s.out ++ [.mgmt path "SET_ENDPOINT_ID" [e.toNat]] }) ∧
       (∀ a b, path = .i3c b → exec (.mctpControl path (.setAddr a)) s = .next { s with pwr := { s.pwr with i3cAddr := some a } }) ∧
       ((∀ b, path ≠ .i3c b) → ∀ a, exec (.mctpControl path (.setAddr a)) s = .next s) ∧
       exec (.mctpControl path .getEid) s = .next (answer "ENDPOINT_ID" [match s.pwr.eid with | some e => (e.toNat : Int) | none => 0]) ∧
       exec (.pldmBaseDiscovery path) s = .next (answer "PLDM_TYPES" [0, 2, 5]) ∧
       (∀ on, exec (.pldmGetSensor path (.events on)) s =
         .next { s with pwr := { s.pwr with eventsTo := if on then some path else none }, out := s.out ++ [.mgmt path "EVENT_RECEIVER" []] }) ∧
       exec (.pldmGetSensor path (.sensor 1)) s = .next (answer "SENSOR" [s.pwr.devW]) ∧
       (∀ d : DieNo, exec (.pldmGetSensor path (.sensor (BitVec.ofNat 8 (8 + d.val)))) s = .next (answer "SENSOR" [tget 0 s.pwr.dieTemp d.val])) ∧
       exec (.pldmGetSensor path (.sensor 0)) s = .next (answer "INVALID_SENSOR_ID" []) ∧
       (∀ q e, s.led.buf.find? (fun e => e.seq == q) = some e → exec (.ledgerRead path q) s = .next (answer "LEDGER_ENTRY" e.fields)) ∧
       (∀ q, (∀ e ∈ s.led.buf, e.seq ≠ q) → exec (.ledgerRead path q) s = .next (answer "NO_ENTRY" [])))) ∧
  (∀ (s : Machine.State) (path : MgmtPath) (b : BootIn), s.wf = true → s.mgmtUp path = true →
     (s.mgmtMay path = false → ∀ i ∈ [Instr.deviceResetEffecter path b] ++ (List.range 16).map (fun o => .tunOp path (BitVec.ofNat 4 o) b),
       exec i s = .next { s with out := s.out ++ [.mgmt path "ERROR_UNSUPPORTED" []] }) ∧
     (s.mgmtMay path = false → ∀ x, exec (.pldmFwUpdate path (.start x)) s = .next { s with out := s.out ++ [.mgmt path "ERROR_UNSUPPORTED" []] }) ∧
     (s.mgmtMay path = true →
       (∀ x, s.sec.cmd.busy = true → exec (.pldmFwUpdate path (.start x)) s = .next { s with out := s.out ++ [.mgmt path "NOT_READY" []] }) ∧
       (s.sec.cmd.busy = false → exec (.pldmFwUpdate path (.start .fail)) s = .next { s with out := s.out ++ [.mgmt path "FW_UPDATE" [6]] }) ∧
       (∀ x : FwImg, s.sec.cmd.busy = false → s.fwUsable x = false →
         exec (.pldmFwUpdate path (.start (.got x))) s =
           .next { s with out := s.out ++ [.mgmt path "FW_UPDATE" [if x.rsaOk = true ∧ x.slhOk = true then 2 else 1]] }) ∧
       (∀ x, s.sec.cmd.busy = false → s.sec.bank < 2 → s.fwUsable x = true → ∃ t, exec (.pldmFwUpdate path (.start (.got x))) s = .next t ∧
         t.sec.cmd.busy = true ∧ t.sec.writing = some (x, true) ∧ (t.bank (1 - s.sec.bank)).img = none ∧ t.bank s.sec.bank = s.bank s.sec.bank ∧
         t.out = s.out) ∧
       (∀ o ∈ ([0, 1, 6, 8, 9, 10, 11, 12, 13, 14, 15] : List (BitVec 4)),
         exec (.tunOp path o b) s = .next { s with out := s.out ++ [.mgmt path "ERROR_UNSUPPORTED" []] }) ∧
       (s.tun.boot ≠ .ready → ∀ o ∈ ([2, 3, 4, 5] : List (BitVec 4)),
         exec (.tunOp path o b) s = .next { s with out := s.out ++ [.mgmt path "ERROR_NOT_READY" []] }) ∧
       (s.tun.cmd.busy = true → ∀ o ∈ ([2, 3, 5, 7] : List (BitVec 4)),
         exec (.tunOp path o b) s = .next { s with out := s.out ++ [.mgmt path "ERROR_NOT_READY" []] }) ∧
       (s.tun.cmd.busy = false → s.tun.boot = .ready → s.dir.gen ≠ 0xFFFFFFFF → s.dir.pend.isSome = true → ∃ t, exec (.tunOp path 5 b) s = .next t ∧
         t.tunEnded 0 ∧ t.dir.pend = none ∧ t.out = s.out ++ [.mgmt path "TUN_OP" [0, 0]]) ∧
       (s.tun.cmd.busy = false → ∃ t, exec (.tunOp path 7 b) s = .next t ∧ t.cleared)) ∧
     (∀ x, s.sec.writing = some (x, true) → s.sec.bank < 2 →
       (∃ t, exec (.pldmFwUpdate path (.finish true)) s = .next t ∧ t.sec.cmd.busy = false ∧ t.sec.writing = none ∧
         t.bank (1 - s.sec.bank) = { img := some x, state := 0xFF } ∧ t.bank s.sec.bank = s.bank s.sec.bank ∧ t.out = s.out ++ [.mgmt path "FW_UPDATE" [0]]) ∧
       ∃ t, exec (.pldmFwUpdate path (.finish false)) s = .next t ∧ t.sec.cmd.busy = false ∧ t.nv = s.nv ∧ t.out = s.out ++ [.mgmt path "FW_UPDATE" [4]]) ∧
     ((∀ x, s.sec.writing ≠ some (x, true)) → ∀ ok, exec (.pldmFwUpdate path (.finish ok)) s = .next s))

/-- Register access (R455, R456, R458 to R460, Table 19.2): a write to an offset that holds no register, or to a register that the function does not see, is
dropped, and what a running TDI gets over another IDE stream than its own is an Unsupported Request (R438); one of the wrong size is dropped with its event; on a sealed device a tuning register keeps its value, and on an unsealed one its fields are set;
a read answers with the register's value, the low half of a 64-bit read-only register latches the high half for its next read, and an access of the wrong size reads as 0. A word of the MSI-X
table reads as it was written, and a vector unmasked while its pending bit is set is sent (Table 19.1; their layout is the PCIe specification's, log entry 144). DOORBELL_CONFIG_WRITE (R460, Table 19.3): the doorbell registers of a function are set while all of its rings are FREE, and keep their values otherwise. The ledger registers (R374, Table 15.5): LDG_CTL takes its writable bits, LOG2SIZE keeps its value while the ledger is enabled; LDG_BASE is dropped while it
is enabled and takes its 4 KiB aligned address otherwise; a function writes only the ledger registers that it sees. -/
def Obligations.RegisterAccess : Prop :=
  (∀ (s : Machine.State) (f : FnNo) (via : Option (Fin 32)), s.wf = true → s.portFree f = true →
     (s.viaOk f via = false → ∀ off size v, exec (.registerWrite f off size v via) s = .next (s.drive (.unsupported f)) ∧
       exec (.lowHalfReadLatch f off size via) s = .next (s.drive (.unsupported f))) ∧
     (s.viaOk f via = true →
     (∀ off size v, regAt off = none → (off < 0x8000 ∨ 0x10000 ≤ off) → exec (.registerWrite f off size v via) s = .next s) ∧
     (∀ off size v r, regAt off = some r → s.regSeen f r = false → exec (.registerWrite f off size v via) s = .next s) ∧
     (∀ off size v r, regAt off = some r → s.regSeen f r = true → s.regOk f = true → regPart r off size = none →
       ∃ t, exec (.registerWrite f off size v via) s = .next t ∧ t.tun = s.tun ∧ t.stl = s.stl ∧ t.stlCtx = s.stlCtx ∧ t.sec = s.sec ∧ t.pwr = s.pwr ∧
         t.str = s.str) ∧
     (s.regOk f = true → s.isOper f = true →
       (∀ v, exec (.registerWrite f 0x4108 8 v via) s = .next { s with tun := { s.tun with arg0 := v } }) ∧
       (∀ v, exec (.registerWrite f 0x4118 8 v via) s = .next { s with tun := { s.tun with applyCtl := v } }) ∧
       (∀ v, exec (.registerWrite f 0x10018 4 v via) s = .next { s with str := { s.str with lostSeen := s.str.lostSeen && !bitAt v 19, straySeen := s.str.straySeen && !bitAt v 18 } }) ∧
       (∀ v : W64, s.tun.sealed_ = true → ∃ t, exec (.registerWrite f 0x11000 4 v via) s = .next t ∧ t.tun = s.tun) ∧
       (∀ v : W64, s.tun.sealed_ = false → ∃ t, exec (.registerWrite f 0x11000 4 v via) s = .next t ∧ t.tun.dirty = true ∧ t.tun.dirtyAt = s.nextFret ∧
         t.tun.regs = { s.tun.regs with pwrCap := (s.tun.regs.pwrCap &&& 0xFFFFF000) ||| (BitVec.ofNat 32 v.toNat &&& 0xFFF) } ∧ t.tun.live = s.tun.live)) ∧
     (∀ off r, regAt off = some r → s.regSeen f r = true →
       (off = r.base → r.wide = true → exec (.lowHalfReadLatch f off 8 via) s = .next { s with out := s.out ++ [.regData f off (BitVec.ofNat 64 (s.regRead f r))] }) ∧
       (off = r.base → ∃ t, exec (.lowHalfReadLatch f off 4 via) s = .next t ∧ t.out = s.out ++ [.regData f off (BitVec.ofNat 64 (s.regRead f r % 2 ^ 32))] ∧
         (roWide r.base = true → ((t.fn f).latch.find? fun e => e.1 == r.base) = some (r.base, BitVec.ofNat 32 (s.regRead f r / 2 ^ 32)) ∧
           ∀ b, b ≠ r.base → ((t.fn f).latch.find? fun e => e.1 == b) = ((s.fn f).latch.find? fun e => e.1 == b)) ∧
         (roWide r.base = false → t.fn f = s.fn f)) ∧
       (off = r.base + 4 → r.wide = true → ∀ h, ((s.fn f).latch.find? fun e => e.1 == r.base) = some (r.base, h) → ∃ t,
         exec (.lowHalfReadLatch f off 4 via) s = .next t ∧ t.out = s.out ++ [.regData f off (h.zeroExtend 64)] ∧
         ((t.fn f).latch.find? fun e => e.1 == r.base) = none) ∧
       (off = r.base + 4 → r.wide = true → ((s.fn f).latch.find? fun e => e.1 == r.base) = none →
         exec (.lowHalfReadLatch f off 4 via) s = .next { s with out := s.out ++ [.regData f off (BitVec.ofNat 64 (s.regRead f r / 2 ^ 32))] }) ∧
       (∀ size, regPart r off size = none → exec (.lowHalfReadLatch f off size via) s = .next { s with out := s.out ++ [.regData f off 0] })) ∧
     (∀ off r, regAt off = some r → s.regSeen f r = false → s.regOk f = true → ∀ size,
       exec (.lowHalfReadLatch f off size via) s = .next { s with out := s.out ++ [.regData f off 0] }) ∧
     (∀ off size, 0 < size → regAt off = none → (off < 0x7000 ∨ 0x10000 ≤ off ∨ off % 4 ≠ 0) → s.regOk f = true →
       exec (.lowHalfReadLatch f off size via) s = .next { s with out := s.out ++ [.regData f off 0] }) ∧
     (s.regOk f = true → ∀ k : Fin 2048, let off := 0x8000 + 16 * k.val
       let e := tget {} (s.fn f).msix k.val
       (∀ w : Fin 4, exec (.lowHalfReadLatch f (off + 4 * w.val) 4 via) s = .next { s with out := s.out ++
         [.regData f (off + 4 * w.val) ((match w with | 0 => e.addr.extractLsb' 0 32 | 1 => e.addr.extractLsb' 32 32 | 2 => e.data | 3 => e.ctl).zeroExtend 64)] }) ∧
       (∀ v, ∃ t, exec (.registerWrite f (off + 8) 4 v via) s = .next t ∧ (tget {} (t.fn f).msix k.val).data = v.extractLsb' 0 32 ∧
         (tget {} (t.fn f).msix k.val).addr = e.addr ∧ ∀ j, j ≠ k.val → tget {} (t.fn f).msix j = tget {} (s.fn f).msix j) ∧
       (∀ v : W64, bitAt v 0 = false → (s.fn f).pba.contains k.val = true → ∃ t, exec (.registerWrite f (off + 12) 4 v via) s = .next t ∧
         t.out = s.out ++ [.msix f k.val e.addr e.data] ∧ (t.fn f).pba = (s.fn f).pba.erase k.val)))) ∧
  (∀ (s : Machine.State) (f : FnNo) (v : W64), s.wf = true → s.regOk f = true →
     (s.ringsBusy f = false →
       (∃ t, exec (.doorbellConfigWrite f 0x10 4 v) s = .next t ∧ (t.fn f).kickOnly = bitAt v 31 ∧ (t.fn f).dbBase = (s.fn f).dbBase ∧ t.rings = s.rings) ∧
       (∃ t, exec (.doorbellConfigWrite f 0x18 8 v) s = .next t ∧ (t.fn f).dbBase = (v &&& 0xFFFFFFFFFFFFF000) ∧ (t.fn f).kickOnly = (s.fn f).kickOnly) ∧
       (∃ t, exec (.doorbellConfigWrite f 0x20 4 v) s = .next t ∧ (t.fn f).dbPasid = BitVec.ofNat 32 (v.toNat % 2 ^ 21) ∧
         ∀ g : FnNo, g ≠ f → t.fn g = s.fn g)) ∧
     (s.ringsBusy f = true → ∀ a ∈ ([(0x10, 4), (0x18, 8), (0x18, 4), (0x1C, 4), (0x20, 4)] : List (Nat × Nat)),
       ∃ t, exec (.doorbellConfigWrite f a.1 a.2 v) s = .next t ∧ (t.fn f).kickOnly = (s.fn f).kickOnly ∧ (t.fn f).dbBase = (s.fn f).dbBase ∧
         (t.fn f).dbPasid = (s.fn f).dbPasid ∧ t.rings = s.rings)) ∧
  (∀ (s : Machine.State) (f : FnNo) (fn : Bool), s.wf = true →
     (s.ledSeen f fn = false → (∀ v, exec (.ldgCtlWrite f fn v) s = .next s) ∧ ∀ p v, exec (.ldgBaseWrite f fn p v) s = .next s) ∧
     (s.ledSeen f fn = true →
       (∀ v, fn = true ∨ s.led.buf = [] ∨ bitAt v 31 = false →
         ∃ t, exec (.ldgCtlWrite f fn v) s = .next t ∧ (t.ledRegs f fn).base = (s.ledRegs f fn).base ∧ (t.ledRegs f fn).prod = (s.ledRegs f fn).prod ∧
           (t.ledRegs f fn).ctl = (if bitAt (s.ledRegs f fn).ctl 31 then setFld (v &&& 0x87F007FF) 26 22 (fld (s.ledRegs f fn).ctl 26 22)
             else v &&& 0x87F007FF) ∧ t.led.buf = s.led.buf) ∧
       (bitAt (s.ledRegs f fn).ctl 31 = true → ∀ p v, exec (.ldgBaseWrite f fn p v) s = .next s) ∧
       (bitAt (s.ledRegs f fn).ctl 31 = false → ∀ v, ∃ t, exec (.ldgBaseWrite f fn .whole v) s = .next t ∧
         (t.ledRegs f fn).base = (v &&& 0xFFFFFFFFFFFFF000) ∧ (t.ledRegs f fn).ctl = (s.ledRegs f fn).ctl)))

/-! ### Security (17) -/

/-- Firmware, the SVN floor and the nonce (R425 to R428, R431): an image is written to the bank that does not run, which is erased while SEC_FW_CMD is BUSY, and ends
there with STATE 0xFF, only where its signatures and its SVN hold (one of another size than TUN_ARG1 is not usable, the model's choice, log entry 170); COMMIT_SVN raises the floor to the running SVN where the running bank is good; NONCE replaces the nonce and sends it. Operator keys and debug (R431, R439, R440): a record that carries the nonce consumes it, and one that does not leaves it and changes nothing; the first key is added without a signature on an unsealed device only, every
other with both signatures of a slot that may sign; a revocation is signed by another slot and leaves one; a token that is right unlocks its level.
The TAP answers IDCODE with 0xB007_0A5B and delays its input by a bit in BYPASS (R473; the scans as operands: log entry 148). -/
def Obligations.FirmwareKeysAndDebug : Prop :=
  (∀ (s : Machine.State) (f : FnNo), s.wf = true → s.sec.bank < 2 →
     (∀ x, s.sec.writing = some (x, false) →
       (∃ t, exec (.fwWrite f (.finish true)) s = .next t ∧ t.secEnded 0 ∧ t.sec.writing = none ∧ (t.bank (1 - s.sec.bank)).img = some x ∧
         (t.bank (1 - s.sec.bank)).state = 0xFF ∧ t.bank s.sec.bank = s.bank s.sec.bank ∧ t.nv.floor = s.nv.floor) ∧
       (∃ t, exec (.fwWrite f (.finish false)) s = .next t ∧ t.secEnded 4 ∧ t.sec.writing = none ∧ t.nv = s.nv)) ∧
     ((∀ x, s.sec.writing ≠ some (x, false)) → ∀ ok, exec (.fwWrite f (.finish ok)) s = .next s) ∧
     (s.sec.cmd.busy = true → ∀ x, exec (.fwWrite f (.start x)) s = .next s) ∧
     (s.secReady f →
     (∃ t, exec (.fwWrite f (.start .fail)) s = .next t ∧ t.secEnded 6 ∧ t.nv = s.nv) ∧
     (∀ x : FwImg, x.size ≠ s.tun.arg1.toNat → ∃ t, exec (.fwWrite f (.start (.got x))) s = .next t ∧ t.secEnded 2 ∧ t.nv = s.nv) ∧
     (∀ x : FwImg, x.size = s.tun.arg1.toNat →
       (x.rsaOk = false ∨ x.slhOk = false → ∃ t, exec (.fwWrite f (.start (.got x))) s = .next t ∧ t.secEnded 1 ∧ t.nv = s.nv) ∧
       (x.rsaOk = true → x.slhOk = true → s.fwUsable x = false → ∃ t, exec (.fwWrite f (.start (.got x))) s = .next t ∧ t.secEnded 2 ∧ t.nv = s.nv) ∧
       (s.fwUsable x = true → ∃ t, exec (.fwWrite f (.start (.got x))) s = .next t ∧ t.sec.cmd.busy = true ∧ t.sec.writing = some (x, false) ∧
         (t.bank (1 - s.sec.bank)).img = none ∧ t.bank s.sec.bank = s.bank s.sec.bank ∧ t.nv.floor = s.nv.floor)) ∧
     ((s.bank s.sec.bank).state = 0x3F → ∃ t, exec (.commitSvn f) s = .next t ∧ t.secEnded 0 ∧ t.nv.floor = max s.nv.floor s.sec.svn ∧ t.nv.banks = s.nv.banks) ∧
     ((s.bank s.sec.bank).state ≠ 0x3F → ∃ t, exec (.commitSvn f) s = .next t ∧ t.secEnded 3 ∧ t.nv = s.nv) ∧
     (∃ t n, exec (.nonce f) s = .next t ∧ t.secEnded 0 ∧ t.sec.nonce = some n ∧ t.out = s.out ++ [.bytesTo f s.tun.arg0 n] ∧ t.rnd = s.rnd + 4 ∧ t.nv = s.nv))) ∧
  (∀ (s : Machine.State) (f : FnNo), s.wf = true → s.secReady f →
     (∀ k : KeyRec, k.formOk 496 = true → k.slot < 4 → s.sec.nonce = some k.nonce →
       (s.slotProgrammed k.slot = true → ∃ t, exec (.keyAdd f (.got k)) s = .next t ∧ t.secEnded 3 ∧ t.sec.nonce = none ∧ t.nv = s.nv) ∧
       (s.nv.slotProg = 0 → s.tun.sealed_ = true → ∃ t, exec (.keyAdd f (.got k)) s = .next t ∧ t.secEnded 5 ∧ t.sec.nonce = none ∧ t.nv = s.nv) ∧
       (s.slotProgrammed k.slot = false → (s.nv.slotProg = 0 ∧ s.tun.sealed_ = false) ∨ (s.nv.slotProg ≠ 0 ∧ s.keySigned k = true) →
         ∃ t, exec (.keyAdd f (.got k)) s = .next t ∧ t.secEnded 0 ∧ t.sec.nonce = none ∧ t.slotProgrammed k.slot = true ∧
           t.nv.slotProg = s.nv.slotProg ||| BitVec.ofNat 4 (2 ^ k.slot) ∧ t.nv.slotRev = s.nv.slotRev ∧
           t.nv.keys = tset (0, 0) s.nv.keys k.slot (k.modulus, k.slhKey)) ∧
       (s.slotProgrammed k.slot = false → s.nv.slotProg ≠ 0 → s.keySigned k = false →
         ∃ t, exec (.keyAdd f (.got k)) s = .next t ∧ t.secEnded 1 ∧ t.sec.nonce = none ∧ t.nv = s.nv)) ∧
     (∀ k : KeyRec, k.formOk 64 = true → k.slot < 4 → s.sec.nonce = some k.nonce →
       (s.slotSigns k.slot = true → k.signer ≠ k.slot → s.keySigned k = true →
         ∃ t, exec (.keyRevoke f (.got k)) s = .next t ∧ t.secEnded 0 ∧ t.sec.nonce = none ∧ t.slotRevoked k.slot = true ∧
           t.nv.slotRev = s.nv.slotRev ||| BitVec.ofNat 4 (2 ^ k.slot) ∧ t.nv.slotProg = s.nv.slotProg) ∧
       (s.slotSigns k.slot = false → ∃ t, exec (.keyRevoke f (.got k)) s = .next t ∧ t.secEnded 3 ∧ t.sec.nonce = none ∧ t.nv = s.nv)) ∧
     (∀ k : KeyRec, s.sec.nonce ≠ some k.nonce → ∀ i ∈ [Instr.keyAdd f (.got k), .keyRevoke f (.got k)],
       ∃ t, exec i s = .next t ∧ t.secEnded 6 ∧ t.sec.nonce = s.sec.nonce ∧ t.nv = s.nv) ∧
     (∀ x : DebugTok,
       (s.tokenOk x = false → ∃ t, exec (.debugUnlock f (.token (.got x))) s = .next t ∧ t.secEnded 1 ∧ t.sec.nonce = s.sec.nonce ∧
         t.sec.debug = s.sec.debug ∧ t.sec.debugNext = s.sec.debugNext) ∧
       (s.tokenOk x = true → ∃ t, exec (.debugUnlock f (.token (.got x))) s = .next t ∧ t.secEnded 0 ∧ t.sec.nonce = none ∧
         (x.level = 1 → t.sec.debug = max 1 s.sec.debug ∧ t.sec.debugNext = s.sec.debugNext) ∧
         (x.level ≠ 1 → t.sec.debug = s.sec.debug ∧ t.sec.debugNext = true))) ∧
     (s.pins.pwrok = true →
       (∃ bits, exec (.debugUnlock f (.tap .idcode)) s = .next { s with out := s.out ++ [.tdo bits] } ∧ bits.length = 32 ∧
         ∀ i (h : i < bits.length), bits[i] = (0xB0070A5B : W32).getLsbD i) ∧
       (∀ tdi, ∃ bits, exec (.debugUnlock f (.tap (.bypass tdi))) s = .next { s with out := s.out ++ [.tdo bits] } ∧ bits.length = tdi.length ∧
         ∀ i (h : i + 1 < bits.length) (k : i < tdi.length), bits[i + 1] = tdi[i])))

/-- SPDM and its vendor requests (R434, R436, R437): a responder that is up answers each request and nothing else changes but the connection's session and its
signed response; the link key is set by the operator function inside a secured session only; the signing input of a signed response is signed once
by PQ_SIGN. A vendor request that does not name the PF's vendor is not supported; before READY a PF meets Request Retry Status (R417). IDE and TDISP (R435, R438, Table 17.5): the keys of a stream, of two sets for each direction and sub-stream, are programmed and put to use over a secured
session; an integrity failure of a keyed stream takes its keys, makes it insecure and puts the function's interface into ERROR; LOCK, START and STOP move the interface of a VF between its states, and STOP ends with the blocks of its stalls zeroed. -/
def Obligations.AttestationAndInterfaces : Prop :=
  (∀ (s : Machine.State) (c : SpdmConn),
     let answer := fun (s : Machine.State) (kind : String) (l : List Nat) => ({ s with out := s.out ++ [.spdm c kind l] } : Machine.State)
     let n := connNo c
     (s.spdmUp c = false → ∀ i ∈ [Instr.spdmRequest c .version, .spdmRequest c .keyExchange, .spdmRequest c .finish, .setFabricKey c true 0, .pqSign c true,
         .getPqCert c true 0 0],
       (s.tun.boot ≠ .booting ∨ c = .mctp → exec i s = .next s) ∧
       (∀ f : FnNo, c = .doe f → s.tun.boot = .booting → exec i s =
         .next (if s.hosts.l0.toNat.testBit (f / 1024) = true ∧ f.val % 1024 = 0 then { s with out := s.out ++ [.configRetry f] } else s))) ∧
     (s.spdmUp c = true → ∀ i ∈ [Instr.setFabricKey c false 0, .pqSign c false, .getPqCert c false 0 0],
       exec i s = .next (answer s "ERROR UnsupportedRequest" [0xFE])) ∧
     (s.spdmUp c = true →
       exec (.spdmRequest c .version) s = .next (answer s "VERSION" [0x12, 0x13]) ∧
       exec (.spdmRequest c .digests) s = .next (answer s "DIGESTS" [1]) ∧
       (∀ slot off len, exec (.spdmRequest c (.certificate slot off len)) s =
         .next (if slot = 0 then answer s "CERTIFICATE" [0, off.toNat, len.toNat] else answer s "ERROR InvalidRequest" [])) ∧
       (∃ t l, exec (.spdmRequest c (.challenge 0)) s = .next t ∧
         t.out = s.out ++ [.spdm c "CHALLENGE_AUTH" (l ++ [Config.rsaSign s.sec.cdi1 "CHALLENGE_AUTH" l])] ∧
         (t.sec.signed.find? fun e => e.1 == n) = some (n, "CHALLENGE_AUTH", l)) ∧
       (∃ t, exec (.spdmRequest c .keyExchange) s = .next t ∧ n ∈ t.sec.hand ∧
         (t.sec.signed.find? fun e => e.1 == n) = some (n, "KEY_EXCHANGE_RSP", []) ∧
         t.out = s.out ++ [.spdm c "KEY_EXCHANGE_RSP" [Config.rsaSign s.sec.cdi1 "KEY_EXCHANGE_RSP" []]]) ∧
       (n ∈ s.sec.hand → ∃ t, exec (.spdmRequest c .finish) s = .next t ∧ n ∈ t.sec.sess ∧ n ∉ t.sec.hand ∧ t.sec.fmk = s.sec.fmk) ∧
       (n ∉ s.sec.hand → exec (.spdmRequest c .finish) s = .next (answer s "ERROR UnexpectedRequest" [])) ∧
       (n ∈ s.sec.sess → ∃ t, exec (.spdmRequest c .endSession) s = .next t ∧ n ∉ t.sec.sess) ∧
       (∀ k, exec (.spdmRequest c (.other k)) s = .next (answer s "ERROR UnsupportedRequest" [k.toNat])) ∧
       (∀ m kind l, (s.sec.signed.find? fun e => e.1 == n) = some (m, kind, l) → ∃ t, exec (.pqSign c true) s = .next t ∧
         (t.sec.signed.find? fun e => e.1 == n) = none ∧ t.out = s.out ++ [.spdm c "PQ_SIGNATURE" [Config.slhSign s.sec.cdi1 kind l]]) ∧
       ((s.sec.signed.find? fun e => e.1 == n) = none → exec (.pqSign c true) s = .next (answer s "ERROR UnexpectedRequest" [])) ∧
       (∀ off len, exec (.getPqCert c true off len) s = .next (answer s "PQ_CERT" [off.toNat, min 0x10000 len.toNat])) ∧
       (∀ (f : FnNo) key, c = .doe f → s.isOper f = true → f.val ∈ s.sec.sess → ∃ t, exec (.setFabricKey c true key) s = .next t ∧ t.sec.fmk = some key ∧
         t.ports = s.ports ∧ t.out = s.out ++ [.spdm c "SET_FABRIC_KEY_RSP" []]) ∧
       (∀ key, (∀ f : FnNo, c = .doe f → s.isOper f = false ∨ f.val ∉ s.sec.sess) →
         exec (.setFabricKey c true key) s = .next (answer s "ERROR UnexpectedRequest" [])))) ∧
  (∀ (s : Machine.State) (f : FnNo) (stream : Fin 32), s.wf = true →
     let answer := fun (s : Machine.State) (kind : String) (l : List Nat) => ({ s with out := s.out ++ [.spdm (.doe f) kind l] } : Machine.State)
     (s.regOk f = true → f.val ∈ s.sec.sess →
       let p := f.val / 1024
       let old := (s.ide? p stream).getD { port := p, stream := stream }
       (∀ set rx sub key, ∃ t, exec (.ideKm f stream (.prog set rx sub key) true) s = .next t ∧
         t.ide? p stream = some { old with keys := tset none old.keys (ideKeyPlace set rx sub) (some key) } ∧ t.fns = s.fns) ∧
       (∀ set rx (sub : Fin 3), (tget none old.keys (ideKeyPlace set rx sub)).isSome = true → ∃ t, exec (.ideKm f stream (.go set rx sub) true) s = .next t ∧
         t.ide? p stream = some { old with use := tset none old.use (idePlace rx sub) (some set) } ∧
         (t.ideKeyed p stream = true → stream.val ∉ (t.fn (1024 * p)).insecure) ∧ (t.ideKeyed p stream = false → t.fns = s.fns)) ∧
       (∀ set rx (sub : Fin 3), tget none old.keys (ideKeyPlace set rx sub) = none → ∃ t, exec (.ideKm f stream (.go set rx sub) true) s = .next t ∧
         t.ide? p stream = some old) ∧
       (∀ rx (sub : Fin 3) set, tget none old.use (idePlace rx sub) = some set → ∃ t, exec (.ideKm f stream (.stop rx sub) true) s = .next t ∧
         t.ide? p stream = some { old with use := tset none old.use (idePlace rx sub) none, keys := tset none old.keys (ideKeyPlace set rx sub) none } ∧
         t.ideKeyed p stream = false) ∧
       (∀ rx (sub : Fin 3), tget none old.use (idePlace rx sub) = none → ∃ t, exec (.ideKm f stream (.stop rx sub) true) s = .next t ∧ t.sec = s.sec)) ∧
     (s.regOk f = true → ∀ m, exec (.ideKm f stream m false) s = .next (answer s "ERROR UnexpectedRequest" [])) ∧
     (∀ p : HostPortNo, (s.ideKeyed p stream = false → exec (.ideIntegrityFailure p stream f) s = .next s) ∧
       (s.ideKeyed p stream = true → ∃ t, exec (.ideIntegrityFailure p stream f) s = .next t ∧ stream.val ∈ (t.fn (1024 * p.val)).insecure ∧
         t.ide? p stream = none ∧
         (f.val / 1024 = p.val → (s.fn f).tdi ≠ .unlocked → (t.fn f).tdi = .error))) ∧
     (s.regOk f = true → isVf f = false → ∀ i ∈ [Instr.lockInterface f stream, .startInterface f, .stopInterface f, .getInterfaceReport f],
       exec i s = .next (answer s "TDISP_ERROR InvalidInterface" [])) ∧
     (s.regOk f = true → isVf f = true → (s.fn f).tdiBusy = true → ∀ i ∈ [Instr.lockInterface f stream, .startInterface f, .stopInterface f, .getInterfaceReport f],
       exec i s = .next (answer s "TDISP_ERROR Busy" [])) ∧
     (s.regOk f = true → isVf f = true → (s.fn f).tdiBusy = false →
       (s.lockMay f stream.val = true → ∃ t, exec (.lockInterface f stream) s = .next t ∧ (t.fn f).tdi = .locked ∧ (t.fn f).tdiStream = stream.val ∧
         t.mem = s.mem ∧ t.stalls = s.stalls) ∧
       (s.lockMay f stream.val = false → exec (.lockInterface f stream) s = .next (answer s "TDISP_ERROR InvalidInterfaceState" [])) ∧
       ((s.fn f).tdi = .locked → ∃ t, exec (.startInterface f) s = .next t ∧ (t.fn f).tdi = .run ∧ t.stalls = s.stalls) ∧
       ((s.fn f).tdi ≠ .locked → exec (.startInterface f) s = .next (answer s "TDISP_ERROR InvalidInterfaceState" [])) ∧
       ((s.fn f).tdi = .unlocked → exec (.stopInterface f) s = .next (answer s "STOP_INTERFACE_RSP" [])) ∧
       ((s.fn f).tdi ≠ .unlocked → ∃ t, exec (.stopInterface f) s = .next t ∧ (t.fn f).tdiBusy = true ∧ (t.fn f).tdi = (s.fn f).tdi) ∧
       ((s.fn f).tdi = .locked ∨ (s.fn f).tdi = .run → exec (.getInterfaceReport f) s = .next (answer s "INTERFACE_REPORT" (s.ifReport f)))) ∧
     ((s.fn f).tdiBusy = false → exec (.tdiUnlockDone f) s = .next s) ∧
     ((s.fn f).tdiBusy = true → ∃ t, exec (.tdiUnlockDone f) s = .next t ∧ (t.fn f).tdi = .unlocked ∧ (t.fn f).tdiBusy = false ∧ (t.fn f).tdiBlocks = [] ∧
       ∀ st ∈ s.stallsOf f, (t.stall st).st = .active ∧ ∀ b, s.owner b = st → st ≠ 0 → s.dpaReserved (4096 * b) = false → bytesAt t (4096 * b) 4096 = List.replicate 4096 0))

/-! ### Stalls (14) -/

/-- Creating, resetting and destroying a stall (R342, R350, R366, R367): CREATE checks the argument record in the order of its results and makes the stall ACTIVE
with a new key, its save region owned by it (blocks that a locked TDI records end it DENIED: the model's choice, log entry 169); RESET frees its rings, closes its regions and keeps BUSY until the reset ends; DESTROY returns its
blocks to stall 0 and leaves nothing of it. Stall 0 is denied each. STALL_RESET_DONE (R366): a stall that is being reset becomes ACTIVE and a commanded reset ends with OK; any other stall is left alone. -/
def Obligations.StallLifeCycle : Prop :=
  (∀ (s : Machine.State) (f : FnNo) (v : W32), s.wf = true →
     let st := fld v 11 0
     (s.stlReady f v 1 →
       (st = 0 ∨ s.tun.sealed_ = false → ∃ t, exec (.stallCreate f v) s = .next t ∧ t.stlEnded 5 ∧ t.stalls = s.stalls) ∧
       (st ≠ 0 → s.tun.sealed_ = true → s.sec.debug ≠ 2 →
         ((s.stall st).st ≠ .free → ∃ t, exec (.stallCreate f v) s = .next t ∧ t.stlEnded 2 ∧ t.stalls = s.stalls) ∧
         ((s.stall st).st = .free → s.stallCtxOk = false → ∃ t, exec (.stallCreate f v) s = .next t ∧ t.stlEnded 3 ∧ t.stalls = s.stalls) ∧
         ((s.stall st).st = .free → s.stallCtxOk = true → s.shareFits st = false →
           ∃ t, exec (.stallCreate f v) s = .next t ∧ t.stlEnded 4 ∧ t.stalls = s.stalls) ∧
         ((s.stall st).st = .free → s.stallCtxOk = true → s.shareFits st = true →
           s.recordedIn (s.stlW 1).toNat (1024 * popCount 192 s.ctxMask.toNat) = true → ∃ t, exec (.stallCreate f v) s = .next t ∧ t.stlEnded 5 ∧
           t.stalls = s.stalls) ∧
         ((s.stall st).st = .free → s.stallCtxOk = true → s.shareFits st = true →
           s.recordedIn (s.stlW 1).toNat (1024 * popCount 192 s.ctxMask.toNat) = false → ∃ t, exec (.stallCreate f v) s = .next t ∧ t.stlEnded 0 ∧
           (t.stall st).st = .active ∧ (t.stall st).func = s.ctxFunc ∧ (t.stall st).coreMask = s.ctxMask ∧ (t.stall st).memKey = s.nextKey ∧
           t.nextKey = s.nextKey + 1 ∧ (t.stall st).weight = fld (s.stlW 5) 23 16 ∧ (t.stall st).tally = [] ∧
           (∀ i, i < 1024 * popCount 192 s.ctxMask.toNat → t.owner ((s.stlW 1).toNat / 4096 + i) = st) ∧
           ∀ k, k ≠ st → t.stall k = s.stall k))) ∧
     (s.stlReady f v 2 →
       (st = 0 → ∃ t, exec (.stallReset f v) s = .next t ∧ t.stlEnded 5 ∧ t.stalls = s.stalls) ∧
       (st ≠ 0 → (s.stall st).st ≠ .active → ∃ t, exec (.stallReset f v) s = .next t ∧ t.stlEnded 2 ∧ t.stalls = s.stalls) ∧
       (st ≠ 0 → (s.stall st).st = .active → s.tdiHolds st = false → ∃ t, exec (.stallReset f v) s = .next t ∧ t.stl.busy = true ∧
         (t.stall st).st = .resetting ∧ (t.stall st).resetCmd = true ∧ (t.stall st).regions = [] ∧ (t.stall st).upd = none ∧
         (t.stall st).tainted = false ∧ (t.stall st).epoch = 1 ∧ (∀ r, (s.ring r).stall = st → (t.ring r).st = .free) ∧
         (∀ c ∈ t.colls, c.stall ≠ st) ∧ (t.stall st).memKey = (s.stall st).memKey)) ∧
     (s.stlReady f v 3 →
       (st = 0 → ∃ t, exec (.stallDestroy f v) s = .next t ∧ t.stlEnded 5 ∧ t.stalls = s.stalls) ∧
       (st ≠ 0 → (s.stall st).st = .active → (∀ b, s.owner b = st → s.shared b = false) → s.tdiHolds st = false →
         ∃ t, exec (.stallDestroy f v) s = .next t ∧ t.stlEnded 0 ∧ t.stall st = {} ∧ (∀ b, s.owner b = st → t.owner b = 0) ∧
           (∀ b, s.owner b ≠ st → t.owner b = s.owner b) ∧ ∀ r, (s.ring r).stall = st → (t.ring r).st = .free))) ∧
  (∀ (s : Machine.State) (st : StallNo), s.wf = true →
     ((s.stall st).st ≠ .resetting → exec (.stallResetDone st) s = .next s) ∧
     ((s.stall st).st = .resetting → (s.fn (s.stall st).func).tdiBusy = false → ∃ t, exec (.stallResetDone st) s = .next t ∧
       (t.stall st).st = .active ∧ (t.stall st).resetCmd = false ∧ (t.stall st).memKey = (s.stall st).memKey ∧ t.mem = s.mem ∧
       ((s.stall st).resetCmd = true → t.stlEnded 0)))

/-- Blocks, translations, shares and quotas (R344, R348, R352, R354, R357, R362): ASSIGN gives blocks of stall 0 to the stall, read as zero (blocks that a
locked TDI records end it DENIED: the model's choice, log entry 169); INVAL ends at once, or when the loads in flight in its range are performed; SHARE and UNSHARE set
and clear SHARED on blocks of the stall; SET_SHARE waits for the next fret boundary; FN_QUOTA gives a function a range of rings that no other has. STL_FN_CMD (R351, R362, R363, R369): a function sets the rounding key of its stall, registers and removes golden sources and offers blocks for sharing; an
offer cannot be withdrawn while a block is SHARED. A record that cannot be read is BAD_ARG, a poisoned one of a GOLDEN block is waited for (R207). -/
def Obligations.StallArguments : Prop :=
  (∀ (s : Machine.State) (f : FnNo) (v : W32), s.wf = true →
     let st := fld v 11 0
     (∀ i ∈ [(4, Instr.assign f v), (5, .inval f v), (6, .setShare f v), (7, .share f v), (8, .unshare f v)], s.stlReady f v i.1 →
       (st = 0 ∨ s.tdiHolds st = true → ∃ t, exec i.2 s = .next t ∧ t.stlEnded 5 ∧ t.mem = s.mem ∧ t.stalls = s.stalls) ∧
       (st ≠ 0 → s.tdiHolds st = false → (s.stall st).st ≠ .active → ∃ t, exec i.2 s = .next t ∧ t.stlEnded 2 ∧ t.mem = s.mem ∧ t.stalls = s.stalls)) ∧
     (st ≠ 0 → s.tdiHolds st = false → (s.stall st).st = .active →
       (s.stlReady f v 4 →
         (s.argBlocks (fun s b => s.owner b == 0 && !s.dpaReserved (4096 * b)) = true → s.recordedIn s.argBase s.argCount = true →
           ∃ t, exec (.assign f v) s = .next t ∧ t.stlEnded 5 ∧ t.mem = s.mem) ∧
         (s.argBlocks (fun s b => s.owner b == 0 && !s.dpaReserved (4096 * b)) = true → s.recordedIn s.argBase s.argCount = false →
           ∃ t, exec (.assign f v) s = .next t ∧ t.stlEnded 0 ∧
           (∀ i, i < s.argCount → t.owner (s.argBase / 4096 + i) = st ∧ bytesAt t (s.argBase + 4096 * i) 4096 = List.replicate 4096 0) ∧
           ∀ b, (b < s.argBase / 4096 ∨ s.argBase / 4096 + s.argCount ≤ b) → t.owner b = s.owner b) ∧
         (s.argBlocks (fun s b => s.owner b == 0 && !s.dpaReserved (4096 * b)) = false → ∃ t, exec (.assign f v) s = .next t ∧ t.stlEnded 3 ∧
           t.mem = s.mem)) ∧
       (s.stlReady f v 5 → s.loadsIn st s.argBase s.argCount = false →
         exec (.inval f v) s = .next { s with stl := { s.stl with arg := st, busy := false, result := 0 }, stlInval := none }) ∧
       (s.stlReady f v 5 → s.loadsIn st s.argBase s.argCount = true →
         exec (.inval f v) s = .next { s with stl := { s.stl with arg := st, busy := true }, stlInval := some (st, s.argBase, s.argCount) }) ∧
       (s.stlReady f v 6 → s.shareOk = true → s.shareFits st = true → ∃ t n, exec (.setShare f v) s = .next t ∧ t.stlEnded 0 ∧
         (t.stall st).newShare = some n ∧ n.weight = fld (s.stlW 5) 23 16 ∧ n.maxCtx = fld (s.stlW 5) 31 24 ∧ n.quantum = fld (s.stlW 5) 47 32 ∧
         n.lbShare = fld (s.stlW 5) 63 48 ∧ n.due = s.nextFret ∧ (t.stall st).weight = (s.stall st).weight ∧ t.mem = s.mem) ∧
       (s.stlReady f v 7 → s.argBlocks (fun s b => s.owner b == st && s.offered b) = true → ∃ t, exec (.share f v) s = .next t ∧ t.stlEnded 0 ∧
         (∀ b ∈ s.argRange, t.shared b = true ∧ t.owner b = st) ∧ t.mem.cells = s.mem.cells) ∧
       (s.stlReady f v 8 → s.argBlocks (fun s b => s.owner b == st) = true → ∃ t, exec (.unshare f v) s = .next t ∧ t.stlEnded 0 ∧
         (∀ b ∈ s.argRange, t.shared b = false ∧ t.goldenBit b = false ∧ t.owner b = st) ∧ t.mem.cells = s.mem.cells)) ∧
     (s.stlReady f v 9 →
       let g := fld (s.stlW 0) 11 0
       let base := fld (s.stlW 0) 31 16
       let n := fld (s.stlW 0) 63 32
       (s.ringsBusy g = true → ∃ t, exec (.fnQuota f v) s = .next t ∧ t.stlEnded 2 ∧ t.fns = s.fns) ∧
       (s.ringsBusy g = false → 65536 < base + n → ∃ t, exec (.fnQuota f v) s = .next t ∧ t.stlEnded 3 ∧ t.fns = s.fns) ∧
       (s.ringsBusy g = false → base + n ≤ 65536 → (∀ e ∈ s.fns, e.1 ≠ g → quotaHits base n e.2.quotaBase e.2.quotaCount = false) →
         ∃ t, exec (.fnQuota f v) s = .next t ∧ t.stlEnded 0 ∧ (t.fn g).quotaBase = base ∧ (t.fn g).quotaCount = n ∧ t.rings = s.rings))) ∧
  (∀ (s : Machine.State) (f : FnNo) (v : W32), s.wf = true →
     let st := fld v 11 0
     (s.stlFnReady f v 1 → ∃ t, exec (.setRkey f v) s = .next t ∧ t.stlFnEnded f 0 ∧ (t.stall st).rkey = (s.fn f).stlArg ∧ t.mem = s.mem) ∧
     (s.stlFnReady f v 2 →
       ∀ a b bs, devAddr (s.fn f).stlArg.toNat = .ok a → s.rdDva st a 64 = .ok b → s.slices.under = [] → goldenOk b = true → s.ownBlocks st (recFld b 0 8) (recFld b 8 8 / 4096) = some bs →
         bs.all s.shared = true → ((s.stalls.flatMap fun e => e.2.golden).any fun g => anyIn g.blocks bs) = false → (s.stall st).golden.length < 64 →
         (s.stalls.flatMap fun e => e.2.golden).length < 1024 →
         ∃ t, exec (.goldenAdd f v) s = .next t ∧ t.stlFnEnded f 0 ∧ (t.stall st).golden = (s.stall st).golden ++ [goldenRec b bs] ∧
           (∀ k ∈ bs, t.goldenBit k = true ∧ t.shared k = true) ∧ t.mem.cells = s.mem.cells) ∧
     (s.stlFnReady f v 3 →
       (((s.stall st).golden.find? fun g => g.base == (s.fn f).stlArg.toNat) = none → ∃ t, exec (.goldenRemove f v) s = .next t ∧ t.stlFnEnded f 3 ∧
         t.mem = s.mem) ∧
       ∀ g, ((s.stall st).golden.find? fun g => g.base == (s.fn f).stlArg.toNat) = some g → ∃ t, exec (.goldenRemove f v) s = .next t ∧
         t.stlFnEnded f 0 ∧ g ∉ (t.stall st).golden ∧ (∀ b ∈ g.blocks, t.goldenBit b = false) ∧ t.mem.cells = s.mem.cells) ∧
     (s.stlFnReady f v 4 →
       ∀ a b, devAddr (s.fn f).stlArg.toNat = .ok a → s.rdDva st a 16 = .ok b → s.slices.under = [] →
       (s.offerBlocks st b = none → ∃ t, exec (.shareOffer f v) s = .next t ∧ t.stlFnEnded f 3 ∧ t.mem.cells = s.mem.cells ∧
         t.mem.owner = s.mem.owner) ∧
       ∀ bs, s.offerBlocks st b = some bs → ∃ t, exec (.shareOffer f v) s = .next t ∧ t.stlFnEnded f 0 ∧ (∀ b ∈ bs, t.offered b = true) ∧
         t.mem.cells = s.mem.cells) ∧
     (∀ i ∈ [(2, Instr.goldenAdd f v, 64), (4, .shareOffer f v, 16), (5, .shareWithdraw f v, 16)], s.stlFnReady f v i.1 →
       (∀ m, devAddr (s.fn f).stlArg.toNat = .error m → ∃ t, exec i.2.1 s = .next t ∧ t.stlFnEnded f 3 ∧ t.mem = s.mem ∧ t.stalls = s.stalls) ∧
       ∀ a m, devAddr (s.fn f).stlArg.toNat = .ok a → s.rdDva st a i.2.2 = .error m →
         (s.holdFor (.fn f) m = none → ∃ t, exec i.2.1 s = .next t ∧ t.stlFnEnded f 3 ∧ t.mem = s.mem ∧ t.stalls = s.stalls) ∧
         ∀ u, s.holdFor (.fn f) m = some u → ∃ t, exec i.2.1 s = .next t ∧ (t.fn f).stl.busy = true ∧ (t.fn f).stlHeld = some i.1 ∧ t.mem = u.mem ∧
           t.stalls = s.stalls) ∧
     (s.stlFnReady f v 5 → ∀ a b bs, devAddr (s.fn f).stlArg.toNat = .ok a → s.rdDva st a 16 = .ok b → s.slices.under = [] →
       s.offerBlocks st b = some bs →
       (bs.any s.shared = true → ∃ t, exec (.shareWithdraw f v) s = .next t ∧ t.stlFnEnded f 2 ∧ t.mem.cells = s.mem.cells ∧ t.mem.owner = s.mem.owner) ∧
       (bs.any s.shared = false → ∃ t, exec (.shareWithdraw f v) s = .next t ∧ t.stlFnEnded f 0 ∧ (∀ b ∈ bs, t.offered b = false) ∧
         t.mem.cells = s.mem.cells)))

/-- Time-slicing (R353, R357 to R361): a quantum end with no pre-emption starts the next quantum, and one that finds a waiting stall marks the context for its
save and keeps the cores both need; a save frees and scrubs the cores; a grant gives free cores to the context that Polnik chooses; a restore whose
images pass their checks resumes the context, its registers as memory holds them (in the model's own layout: log entry 162), and one whose integrity
fails faults it with cause 0x10; a residue check that fails at a save or restore faults it with cause 0x12 (R386). -/
def Obligations.TimeSlicing : Prop :=
  ∀ (s : Machine.State), s.wf = true →
    (s.grantChoice = none → exec .coreGrant s = .next s) ∧
    (s.grantOk = false → exec .coreGrant s = .next s) ∧
    (∀ n x, s.grantOk = true → s.grantChoice = some (n, x) → x.st = .waiting → x.kind = .kernel → wf x.store 4 39 28 = 0 →
      ∃ t y, exec .coreGrant s = .next t ∧ t.ctx? n = some y ∧ y.st = .running ∧ y.start = s.clock ∧ y.quantum = s.quantumOf x.stall ∧
        ∀ c ∈ x.cores, (t.core c).ctx = some n ∧ (t.core c).mem = [] ∧ (t.core c).groups = []) ∧
    (∀ (c : CoreNo) (n : Nat) (x : Ctx), s.ctxOf c = some (n, x) →
      (s.gridOk 4 = false → exec (.quantumEnd c) s = .next s) ∧
      (s.gridOk 4 = true → x.st = .running → x.kind ≠ .test → (∀ m y, s.testFor x = some (m, y) → ∃ t, exec (.quantumEnd c) s = .next t ∧
        t.ctx? n = some { x with st := .saving } ∧ ∀ i ∈ x.cores, i ∈ y.cores → (t.core i).reserved = some m)) ∧
      (s.gridOk 4 = true → x.st = .running → x.kind ≠ .test → s.testFor x = none → s.timerMode ≠ 2 →
        let u := s.modStall x.stall fun y => { y with used := y.used + x.quantum * x.cores.length, lastQEnd := some s.clock }
        (s.clock < s.quantumEnd x → exec (.quantumEnd c) s = .next s) ∧
        (s.quantumEnd x ≤ s.clock → bitAt s.tun.live.timer 29 = false → ∃ t, exec (.quantumEnd c) s = .next t ∧
          t.ctx? n = some { x with start := s.quantumEnd x, quantum := u.quantumOf x.stall } ∧ t.cores = s.cores ∧
          (t.stall x.stall).used = (s.stall x.stall).used + x.quantum * x.cores.length) ∧
        (s.quantumEnd x ≤ s.clock → bitAt s.tun.live.timer 29 = true → ∀ m y, u.waitingFor x (u.sliceChoice x.stall (u.waiters x)) = some (m, y) →
          ∃ t, exec (.quantumEnd c) s = .next t ∧ t.ctx? n = some { x with st := .saving } ∧
            ∀ i ∈ x.cores, (t.core i).reserved = if i ∈ y.cores then some m else (s.core i).reserved)) ∧
      (x.st = .saving →
        ((∃ i ∈ x.cores, (s.core i).atBoundary = false ∨ s.heldOn i = true ∨ s.shadowOn i = true) → ∀ bad, exec (.contextSave c bad) s = .next s) ∧
        ((∀ i ∈ x.cores, (s.core i).atBoundary = true ∧ s.heldOn i = false ∧ s.shadowOn i = false) →
          (x.fault = none → ∃ t y, exec (.contextSave c true) s = .next t ∧ t.ctx? n = some y ∧ y.st = .killing ∧
            (y.fault.map CtxFault.cause) = some 0x12) ∧
          ∀ ps, s.savePlaces x = some ps →
          (∃ t y, exec (.contextSave c false) s = .next t ∧ t.ctx? n = some y ∧ (y.st = .saved ∨ y.st = .killing)) ∧
          ((∀ i ∈ x.cores, (s.core i).vq = []) → ∃ (t : Machine.State) (cy : Nat → Nat), exec (.contextSave c false) s = .next t ∧
          t.ctx? n = some { x with st := .saved, images := (x.cores.zip ps).map fun i => { (s.core i.1).image i.1 i.2 with cycles := cy i.1 } } ∧
          (∀ i, (s.core i).cycles ≤ cy i) ∧
          ∀ i ∈ x.cores, (s.core i).ctx = some n → (t.core i).ctx = none ∧ (t.core i).mem = [] ∧ (t.core i).groups = [] ∧ (t.core i).acc = []))) ∧
      (x.st = .saved → (∀ i ∈ x.images, s.imageBad x i = none) →
        (x.fault = none → ∀ intact bad, (intact && x.images.all s.imageIntact) = false ∨ bad = true → ∃ t y, exec (.contextRestore c intact bad) s = .next t ∧
          t.ctx? n = some y ∧ y.st = .killing ∧
          (y.fault.map CtxFault.cause) = some (if (intact && x.images.all s.imageIntact) = true then 0x12 else 0x10)) ∧
        ((∀ k ∈ s.colls, k.result = none) → x.images.all s.imageIntact = true → s.led.arrFenced = [] → (x.images.map CoreImg.core).Nodup →
          ∃ t, exec (.contextRestore c true false) s = .next t ∧
            t.ctx? n = some { x with st := .running, images := [], start := s.clock, quantum := s.quantumOf x.stall } ∧
            ∀ i ∈ x.images, (t.core i.core).blocks = i.blocks ∧ (t.core i.core).cycles = i.cycles ∧
              let m := s.rangeCells i.base 0x400000
              (t.core i.core).groups = i.groups.map (fun (g : Nat × Group) => (g.1, { g.2 with regs := g.2.regs.map fun e => (e.1, e.2.map fun _ =>
                BitVec.ofNat 32 (imgNum m (0x300000 + (g.1 * x.nreg + e.1 % 256) * 128 + 4 * (e.1 / 256)) 4)) })) ∧
              (t.core i.core).mem = m.filter (fun e => decide (e.1 < 0x300000)) ∧ (t.core i.core).acc = imgPairs m ∧ (t.core i.core).quads = imgQuads m)))

/-! ### Checks (15) -/

/-- WINDOW_CLOSE (R377, R378, R379, R381): at its boundary the epoch of an ACTIVE stall rises and its check settings take effect; a tainted stall's epoch
fails, and its taint ends with the retraction of its open steps. -/
def Obligations.WindowCloses : Prop :=
  ∀ (s : Machine.State) (st : StallNo), s.wf = true →
    (s.gridOk 5 = false ∨ (s.stall st).st ≠ .active ∨ s.clock < (s.stall st).closeDue → exec (.windowClose st) s = .next s) ∧
    (s.gridOk 5 = true → (s.stall st).st = .active → (s.stall st).closeDue ≤ s.clock → ∃ t, exec (.windowClose st) s = .next t ∧
      (t.stall st).epoch = epochAfter (s.stall st).epoch ∧ (t.stall st).closeDue = s.closeAfter (s.stall st).qCheckNew (((s.stall st).closeDue : Int) + s.str.base).toNat ∧ (t.stall st).qCheck = (s.stall st).qCheckNew ∧
      (t.stall st).fraction = s.fractionSet st (s.stall st).qCheckNew ∧
      ((s.stall st).tainted = false → (t.stall st).failedEps = (s.stall st).failedEps ∧ (t.stall st).tainted = false ∧ t.colls = s.colls) ∧
      ((s.stall st).tainted = true → (t.stall st).failedEps = (s.stall st).failedEps ++ [(s.stall st).epoch] ∧
        ((t.stall st).tainted = true ↔ ∀ q ∈ (s.stall st).steps, q.open_ = false)))

/-- Field tests (R387): RUN starts a test of a unit that exists, is not fenced and has the families asked for; FIELD_TEST_DONE ends one that runs, with the
families that failed; CANCEL ends it with RESULT 3. Fencing (R388, R389): FENCE_UNIT asks for the fence of an array or a core once; a wanted fence takes effect when no pass is on its unit, for a core with
all of its arrays, and the health record keeps it; a context that still waits for that core ends with DESC_INVALID. -/
def Obligations.FieldTestsAndFencing : Prop :=
  (∀ (s : Machine.State) (f : FnNo) (v : W32), s.wf = true →
     let kind := fld v 22 19
     let n := fld v 10 0
     (s.testReady f v 1 →
       (s.led.testCmd.busy = true → ∃ t, exec (.run f v) s = .next t ∧ t.testEnded true 2 ∧ t.led.test = s.led.test ∧ t.ctxs = s.ctxs) ∧
       (s.led.testCmd.busy = false → unitOk kind n = false ∨ s.unitFenced kind n = true ∨ s.testFams &&& unitFamilies kind ≠ s.testFams →
         ∃ t, exec (.run f v) s = .next t ∧ t.testEnded false 2 ∧ t.led.test = s.led.test ∧ t.ctxs = s.ctxs) ∧
       (s.led.testCmd.busy = false → unitOk kind n = true → s.unitFenced kind n = false → s.testFams &&& unitFamilies kind = s.testFams →
         ∃ t x, exec (.run f v) s = .next t ∧ t.testEnded true 0 ∧ t.led.test = some x ∧ x.kind = kind ∧ x.number = n ∧ x.families = s.testFams ∧
           x.passes = s.testPasses ∧ x.autoFence = bitAt v 23 ∧
           (∀ c, unitCore kind n = some c → x.ctx = some s.nextCtx ∧ t.nextCtx = s.nextCtx + 1 ∧
             ∃ y, t.ctx? s.nextCtx = some y ∧ y.kind = .test ∧ y.st = .waiting ∧ c ∈ y.cores ∧ y.start = s.nextFret))) ∧
     (s.testReady f v 3 →
       (∀ x, s.led.test = some x → ∃ t, exec (.cancel f v) s = .next t ∧ t.testEnded false 3 ∧ t.led.test = none) ∧
       (s.led.test = none → ∃ t, exec (.cancel f v) s = .next t ∧ t.testEnded s.led.testCmd.busy s.led.testCmd.result ∧ t.led.test = none)) ∧
     (∀ failed, (s.led.test = none → exec (.fieldTestDone failed) s = .next s) ∧
       ∀ x, s.led.test = some x → (s.testRuns x = false → exec (.fieldTestDone failed) s = .next s) ∧
         (s.testRuns x = true → ∃ t, exec (.fieldTestDone failed) s = .next t ∧ t.led.test = none ∧
           t.testEnded false (if failed.toNat &&& x.families = 0 then 0 else 1) ∧ t.led.testFail = BitVec.ofNat 16 (failed.toNat &&& x.families) ∧
           (failed.toNat &&& x.families = 0 → t.led.fences = s.led.fences)))) ∧
  (∀ (s : Machine.State) (f : FnNo) (v : W32),
     let kind := fld v 22 19
     let n := fld v 10 0
     (s.testReady f v 2 →
       ((kind ≠ 0x03 ∧ kind ≠ 0x04) ∨ unitOk kind n = false → ∃ t, exec (.fenceUnit f v) s = .next t ∧ t.testEnded s.led.testCmd.busy 2 ∧
         t.led.fences = s.led.fences) ∧
       (kind = 0x03 ∨ kind = 0x04 → unitOk kind n = true → ∃ t, exec (.fenceUnit f v) s = .next t ∧ t.testEnded s.led.testCmd.busy 0 ∧
         t.led.fences = (if s.unitFenced kind n = true ∨ (∃ x ∈ s.led.fences, x.1 = kind ∧ x.2.1 = n) then s.led.fences
           else s.led.fences ++ [(kind, n, 1)]) ∧ t.led.arrFenced = s.led.arrFenced ∧ t.led.coreFenced = s.led.coreFenced)) ∧
     ((s.led.fences.find? fun x => s.unitIdle x.1 x.2.1) = none → exec .fenceTakeEffect s = .next s) ∧
     (∀ x, (s.led.fences.find? fun x => s.unitIdle x.1 x.2.1) = some x → ∃ t, exec .fenceTakeEffect s = .next t ∧
       t.led.fences = s.led.fences.filter (· ≠ x) ∧
       (x.1 = 0x04 → x.2.1 ∈ t.led.arrFenced ∧ x.2.1 ∈ t.nv.health.arrays ∧ t.led.coreFenced = s.led.coreFenced) ∧
       (x.1 ≠ 0x04 → x.2.1 ∈ t.led.coreFenced ∧ x.2.1 ∈ t.nv.health.cores ∧ ∀ i, i < 8 → 8 * x.2.1 + i ∈ t.led.arrFenced) ∧
       (∀ a ∈ s.led.arrFenced, a ∈ t.led.arrFenced) ∧ (∀ c ∈ s.led.coreFenced, c ∈ t.led.coreFenced) ∧
       ∀ k y, s.wf = true → x.1 ≠ 0x04 → s.ctx? k = some y → y.st = .waiting → y.kind ≠ .test → x.2.1 ∈ y.cores →
         t.ctx? k = none ∧ ∀ e, (s.ring y.ring).desc? y.num = some e → e.ph ≠ .done → t.descIs y.ring y.num 0x0E))

/-! ### Collectives (12) -/

/-- The dispatch of a collective in the ring form (R278 to R281, R288, R299): each row runs the head descriptor of its own OP; a check that fails ends it
with its cause, and a table in a poisoned golden unit makes it wait; one that passes reserves its staging and waits for its START; a STEPSET sets the step set and completes. -/
def Obligations.CollectiveDispatch : Prop :=
  ∀ (s : Machine.State) (r : RingNo), s.wf = true →
    ∀ i ∈ ([(.allReduce r, 0), (.reduceScatter r, 1), (.allGather r, 2), (.broadcast r, 3), (.allToAll r, 4), (.permute r, 5), (.stepset r, 6)] :
        List (Instr × Nat)),
      (s.headOf r 5 = none → exec i.1 s = .next s) ∧
      ∀ d, s.headOf r 5 = some d →
        let st := (s.ring r).stall
        let c := mkColl (s.nextId + 1) st d.words (some (r.val, d.num)) none
        ((c.op ≠ i.2 ∧ c.op ≤ 6) ∨ s.collRoom = false → exec i.1 s = .next s) ∧
        (c.op = i.2 → s.collRoom = true → hdrBad d.words = true → ∃ t e, exec i.1 s = .next t ∧ (t.ring r).desc? d.num = some e ∧ e.ph = .done ∧
          e.status = 0x0E ∧ t.colls = s.colls ∧ t.mem = s.mem) ∧
        (c.op = i.2 → s.collRoom = true → hdrBad d.words = false →
          (∀ m k, s.collCheck c = .error (m, k) →
            (s.holdFor (.desc r d.num) m = none → ∃ t e, exec i.1 s = .next t ∧ (t.ring r).desc? d.num = some e ∧ e.ph = .done ∧
              e.status = m.cause ∧ t.colls.length ≤ s.colls.length ∧ t.mem = s.mem) ∧
            ∀ v, s.holdFor (.desc r d.num) m = some v → exec i.1 s = .next v) ∧
          (∀ k, s.collCheck c = .ok k → k.op = 6 → ∃ t e, exec i.1 s = .next t ∧ (t.stall st).stepSet = some (k.step, k.members) ∧
            (t.ring r).desc? d.num = some e ∧ e.ph = .done ∧ e.status = 0) ∧
          (∀ k, s.collCheck c = .ok k → k.op ≠ 6 → 1 < k.n → s.onString = true → s.str.acceptFrom ≤ s.clock →
            s.clock + 256 ≤ s.clockOf (k.w 6).toNat → s.canReserve k k.wantLb = true →
            ∃ t q, exec i.1 s = .next t ∧ t.colls = s.colls ++ [q] ∧ q.ph = .waiting ∧ q.members = k.members ∧ q.words = d.words ∧
              q.lb = k.wantLb ∧ q.start = s.clockOf (k.w 6).toNat ∧ q.deadline = q.start + 256 * fld (k.w 7) 47 28 ∧
              (t.stall st).lbHeld = (s.stall st).lbHeld + k.wantLb ∧ t.mem = s.mem))

/-- Sending (R282, R283, R286): a collective whose START is due begins to send where its routes hold, and ends with PLAN_REFUSED where they do not; a segment is
sent once: a partial sum with the member's own values added, delivered data as it came, or the final sum of its own shard, which it delivers; a staged
unit that is or decodes as poisoned ends the collective (R201, R302). COLLECTIVE_PACKET_RECEIVE (R277, R287, R302): what no collective admits is counted as discarded and changes no memory and no collective; a partial sum of
another member's shard is held for its segment; poisoned data ends the collective with POISON_CONSUMED. A copy for seal repair, on VC 2, waits behind an
earlier packet of its source (R265). -/
def Obligations.CollectiveTraffic : Prop :=
  (∀ (s : Machine.State) (st : StallNo) (n : W16) (c : Coll), s.wf = true → s.coll? st n.toNat = some c →
     (s.gridOk 3 = false ∨ s.startsNow c = false → exec (.collectiveStart st n) s = .next s) ∧
     (s.gridOk 3 = true → s.startsNow c = true →
       (1 < c.n → c.routes.all (s.routeHeld c) = false → c.ring.isSome = true → ∃ t, exec (.collectiveStart st n) s = .next t ∧ CollEnded s t c 0x26) ∧
       (c.routes.all (s.routeHeld c) = true → c.op = 0 ∨ c.op = 1 ∨ c.op = 3 → 1 < c.n →
         ∃ t, exec (.collectiveStart st n) s = .next t ∧ t.coll? st n.toNat = some { c with ph := .sending } ∧ t.mem = s.mem)) ∧
     (∀ shard off errs res, c.ph ≠ .sending ∨ c.endWith.isSome = true ∨ c.n ≤ 1 → exec (.segmentForward st n shard off errs res) s = .next s) ∧
     (∀ shard off errs res, c.ph = .sending → c.endWith = none → 1 < c.n →
       let reads := decodeSyms (symTable errs) = .good ∨ ∃ i, decodeSyms (symTable errs) = .corrected i
       (∀ g, c.seg? .partialSum shard off = some g ∨ (c.seg? .partialSum shard off = none ∧ c.seg? .deliver shard off = some g) → c.ring.isSome = true →
         (g.bytes ≠ [] ∧ (decodeSyms (symTable errs) = .poison ∨ decodeSyms (symTable errs) = .uncorrectable)) ∨ g.bad ≠ [] →
         ∃ t, exec (.segmentForward st n shard off errs res) s = .next t ∧ CollEnded s t c 0x11 ∧ t.mem = s.mem) ∧
       (∀ g own, reads → c.seg? .partialSum shard off = some g → g.bad = [] → shard ≠ c.me →
         s.ownVals c shard off (wordsOf 4 g.bytes.length g.bytes).length = .ok own → s.slices.under = [] →
         ∃ t q, exec (.segmentForward st n shard off errs res) s = .next t ∧ t.coll? st n.toNat = some q ∧ q.segs = c.segs.filter (· ≠ g) ∧
           q.sent = c.sent ++ [(0, shard, off)] ∧ t.mem.cells = s.mem.cells) ∧
       (∀ g own u k bs, reads → c.seg? .partialSum shard off = some g → g.bad = [] → shard = c.me → c.acc = false ∨ c.missing ≠ [] ∨ res = 0 →
         s.ownVals c shard off (wordsOf 4 g.bytes.length g.bytes).length = .ok own →
         (s.didRead c.stall (c.ownAt shard off) ((wordsOf 4 g.bytes.length g.bytes).length * c.esz)).deliverSum (c.dropSeg g) off
           (List.zipWith (reduceOp c.red) (wordsOf 4 g.bytes.length g.bytes) own) = (.ok u k, bs) →
         ∃ t q, exec (.segmentForward st n shard off errs res) s = .next t ∧ t.mem = u.mem ∧ t.coll? st n.toNat = some q ∧
           q.landed = tmod 0 k.landed 0 (· + (wordsOf 4 g.bytes.length g.bytes).length) ∧ (c.op ≠ 0 → q.segs = k.segs)) ∧
       (∀ g, reads → c.seg? .partialSum shard off = none → c.seg? .deliver shard off = some g → g.bad = [] →
         ∃ t q, exec (.segmentForward st n shard off errs res) s = .next t ∧ t.coll? st n.toNat = some q ∧ q.segs = c.segs.filter (· ≠ g) ∧
           q.sent = c.sent ++ [(1, shard, off)] ∧ q.sentN = c.sentN + g.bytes.length / c.dsz ∧ t.mem = s.mem) ∧
       (∀ m bs, c.op = 3 → shard = 0 → c.me = c.root → c.segs = [] → c.origin 0 off c.esz = some m → (1, 0, off) ∉ c.sent →
         s.rdDva c.stall (c.src + off * c.esz) (m * c.esz) = .ok bs → s.slices.under = [] →
         ∃ t q, exec (.segmentForward st n shard off errs res) s = .next t ∧ t.coll? st n.toNat = some q ∧ q.sent = c.sent ++ [(1, 0, off)] ∧
           t.mem.cells = s.mem.cells))) ∧
  (∀ (s : Machine.State) (p : PortNo) (x : Pkt) (typ : Nat) (res : Fin 3), s.wf = true → s.gets p x typ →
     (pColl x = 0 ∨ (typ ≠ 1 ∧ typ ≠ 3 ∧ typ ≠ 4) → exec (.collectivePacketReceive p x res) s = .next s) ∧
     (pColl x ≠ 0 → typ = 1 ∨ typ = 3 ∨ typ = 4 →
       ((pAux x).testBit 15 = true → s.behind x = true → s.mem.waiting.contains (p.val, x) = false →
         exec (.collectivePacketReceive p x res) s = .next { s with mem := { s.mem with waiting := s.mem.waiting ++ [(p.val, x)] } }) ∧
       ((pAux x).testBit 15 = false ∨ s.behind x = false → s.coll? (pDstall x) (pColl x) = none →
         ∃ t, exec (.collectivePacketReceive p x res) s = .next t ∧ CountsDiscard s t p) ∧
       ∀ c m r e, s.coll? (pDstall x) (pColl x) = some c → c.members.findIdx? (· == (pSrc x, pSstall x)) = some m → (s.stall c.stall).st = .active →
         let lead := pAux x % 64
         let trail := pAux x / 256 % 64
         let n := x.data.length - lead - trail
         let bs := (x.data.drop lead).take n
         lead ≤ 31 → trail ≤ 31 → lead + trail ≤ x.data.length → (pAux x).testBit 15 = false → c.admits typ m (pOffset x + lead) n = some (r, e) →
           (x.poisoned = true → c.ring.isSome = true → ∃ t, exec (.collectivePacketReceive p x res) s = .next t ∧ CollEnded s t c 0x11 ∧ t.mem = s.mem) ∧
           (x.poisoned = false → c.ringOp = true → typ = 3 → r ≠ c.me → ∃ t q, exec (.collectivePacketReceive p x res) s = .next t ∧
             t.coll? (pDstall x) (pColl x) = some q ∧
             q.segs = c.segs ++ [{ kind := .partialSum, shard := r, off := e, bytes := f32Bytes (if c.wfmt then elems c.dfmt bs else wordsOf 4 bs.length bs) }] ∧
             t.mem = s.mem) ∧
           (x.poisoned = false → c.op = 5 → (c.expectFrom r < tget 0 c.landed r + bs.length → c.ring.isSome = true →
               ∃ t, exec (.collectivePacketReceive p x res) s = .next t ∧ CollEnded s t c 0x2A) ∧
             (tget 0 c.landed r + bs.length ≤ c.expectFrom r → ∃ t q, exec (.collectivePacketReceive p x res) s = .next t ∧
               t.coll? (pDstall x) (pColl x) = some q ∧ q.segs = c.segs ++ [{ kind := .staged, shard := r, off := e, bytes := bs }] ∧ t.mem = s.mem))))

/-- The notices of collectives and steps (R292, R294, R298, R299, R301, R304, R391): PASS and STEP_PASS are held for their sender; RETRACT raises the
attempt and marks the step's collectives to end; LEAVE fences its sender and marks the collective to end; the copy of a kept shard is tagged with the
current epoch (R293), and a seal query of a shard that is not kept is
answered SEAL_NONE, and SEAL_NONE asks the next member. A notice waits behind an earlier packet of its source, and is performed in its turn (R265). Held
data that PASS covers is added; where a unit of it is poisoned, or the slice adder's residue check fails twice, the collective ends (R302, R386). PASS, STEP_PASS and the seal query's wait (R292, R294, R299, R391): each is sent once its conditions hold, and recorded as sent. -/
def Obligations.CollectiveNotices : Prop :=
  (∀ (s : Machine.State) (p : PortNo) (x : Pkt), s.wf = true →
     let st := pDstall x
     let from_ := (pSrc x, pSstall x)
     (∀ us res errs, ∀ i ∈ ([(.pass p x us res, 1), (.stepPass p x, 2), (.retract p x, 3), (.leave p x, 4), (.sealQuery p x errs, 5), (.sealNone p x, 6)] :
         List (Instr × Nat)), s.getsNotice p x i.2 →
       (s.behind x = true → s.mem.waiting.contains (p.val, x) = false →
         exec i.1 s = .next { s with mem := { s.mem with waiting := s.mem.waiting ++ [(p.val, x)] } }) ∧
       (s.behindIn (s.mem.waiting.takeWhile (· ≠ (p.val, x))) x = true → s.mem.waiting.contains (p.val, x) = true → exec i.1 s = .next s) ∧
       let v := { s with mem := { s.mem with waiting := s.mem.waiting.erase (p.val, x) } }
       ∀ u, s.mem.waiting.contains (p.val, x) = true → v.behind x = false → exec i.1 v = .next u → exec i.1 s = .next u.drain) ∧
     (s.behind x = false →
     (∀ c m, s.coll? st (pColl x) = some c → c.members.findIdx? (· == from_) = some m → (s.stall c.stall).st = .active →
       (s.getsNotice p x 0x01 → nAttempt x = c.attempt ∧ c.step ≠ 0 ∨ c.step = 0 →
         let k : Coll := { c with passFrom := insertSorted m c.passFrom }
         (c.acc = false ∨ k.missing ≠ [] → ∀ us res, ∃ t, exec (.pass p x us res) s = .next t ∧ t.coll? st (pColl x) = some k ∧ t.mem = s.mem) ∧
         (∀ us res, c.acc = true → k.missing = [] → (((s.tally st 0x40 32).readReserved k us).2.poisonedSeg .provisional).isSome = true → c.ring.isSome = true →
           ∃ t, exec (.pass p x us res) s = .next t ∧ CollEnded s t c 0x11 ∧ t.mem = s.mem) ∧
         (∀ a d, c.acc = true → k.missing = [] → k.poisonedSeg .provisional = none → k.heldAt? = some a → s.xlate c.stall a .write = .ok d →
           c.ring.isSome = true → ∃ t, exec (.pass p x [] 2) s = .next t ∧ CollEnded s t c 0x11) ∧
         ∀ u, c.acc = true → k.missing = [] → k.poisonedSeg .provisional = none → (s.tally st 0x40 32).addHeld k c.segs = .ok u →
           ∃ t, exec (.pass p x [] 0) s = .next t ∧ t.mem = u.mem ∧
           t.coll? st (pColl x) = some { k with segs := c.segs.filter fun g => g.kind != .provisional }) ∧
       (s.getsNotice p x 0x04 → ∃ t q, exec (.leave p x) s = .next t ∧ t.coll? st (pColl x) = some q ∧ m ∈ q.fenced ∧ q.endWith.isSome = true ∧
         (c.endWith = none → q.endWith = some (0x21, s.nextFret)) ∧ t.mem = s.mem) ∧
       (s.getsNotice p x 0x06 → ∀ k e, c.sealQ = some k → k.shard = nMember x → m = (k.shard + k.asked) % c.n → k.asked ≤ 4 →
         s.rdDva c.stall (c.sealAt k.shard) 8 = .ok e → ∃ t q j, exec (.sealNone p x) s = .next t ∧ t.coll? st (pColl x) = some q ∧
           q.sealQ = some j ∧ j.shard = k.shard ∧ k.asked < j.asked ∧ j.since = s.clock)) ∧
     (s.coll? st (pColl x) = none → ∀ us res, ∀ i ∈ ([(.pass p x us res, 1), (.leave p x, 4), (.sealNone p x, 6)] : List (Instr × Nat)), s.getsNotice p x i.2 →
       ∃ t, exec i.1 s = .next t ∧ t.port p = (s.port p).count 7 ∧ t.mem = s.mem ∧ t.colls = s.colls) ∧
     (∀ ms, (s.stall st).setFor (nStep x) = some ms → from_ ∈ ms → (s.stall st).st = .active →
       (s.getsNotice p x 0x02 → nAttempt x = (s.stall st).attemptOf (nStep x) → ∃ t, exec (.stepPass p x) s = .next t ∧
         from_ ∈ ((t.stall st).stepRec (nStep x)).passFrom ∧ t.colls = s.colls ∧ t.mem = s.mem) ∧
       (s.getsNotice p x 0x03 → nStep x ≠ 0 → nAttempt x = (s.stall st).attemptOf (nStep x) → ∃ t, exec (.retract p x) s = .next t ∧
         (t.stall st).attemptOf (nStep x) = (nAttempt x + 1) % 256 ∧ ((t.stall st).stepRec (nStep x)).open_ = false ∧
         ∀ k ∈ t.colls, k.stall = st → k.step = nStep x → k.result = none → k.endWith.isSome = true)) ∧
     (s.getsNotice p x 0x05 → ∀ errs, ∃ t, exec (.sealQuery p x errs) s = .next t ∧ t.mem = s.mem ∧
       ((s.colls.map Coll.id).Nodup → t.colls.map (fun c => { c with epochs := [] }) = s.colls.map (fun c => { c with epochs := [] })) ∧
       (∀ k, (s.kept.find? fun k => k.stall == st && k.coll == pColl x && k.shard == nMember x) = some k → from_ ∈ k.members →
         let reads := decodeSyms (symTable errs) = .good ∨ ∃ i, decodeSyms (symTable errs) = .corrected i
         let none_ := noticePkt s.myId (pSrc x) (pSstall x) st (pColl x) 0 0x06 (nStep x) (nAttempt x) 0 (nMember x) 0
         let r := s.routeOf (pSrc x)
         (reads → k.bad = [] → t.kept = s.kept ∧ (k.step ≠ 0 → s.epochNow st ≠ 0 → s.epochNow st ∈ ((t.stall st).stepRec k.step.toNat).epochs)) ∧
         ((k.bytes ≠ [] ∧ (decodeSyms (symTable errs) = .poison ∨ decodeSyms (symTable errs) = .uncorrectable)) ∨ k.bad ≠ [] → r < 16 → (s.port r).st = .up →
           t.colls = s.colls ∧ (t.port r).txq = (s.port r).txq ++ s.pktFlits r 2 0 none_)) ∧
       (∀ c, (s.kept.find? fun k => k.stall == st && k.coll == pColl x && k.shard == nMember x) = none → s.coll? st (pColl x) = some c →
         t.colls = s.colls ∧ t.kept = s.kept ∧ (from_ ∈ c.members → s.routeOf (pSrc x) < 16 → (s.port (s.routeOf (pSrc x))).st = .up →
         (t.port (s.routeOf (pSrc x))).txq = (s.port (s.routeOf (pSrc x))).txq ++ s.pktFlits (s.routeOf (pSrc x)) 2 0
           (noticePkt s.myId (pSrc x) (pSstall x) st (pColl x) 0 0x06 (nStep x) (nAttempt x) 0 (nMember x) 0)))))) ∧
  (∀ (s : Machine.State) (st : StallNo) (n : W16), s.wf = true →
     (∀ c, (s.passDue.find? fun c => c.stall == st.val && c.num == n.toNat && s.passReady c) = none → s.coll? st n.toNat = some c →
       (c.ph = .sending → 1 < c.n → c.passSent = false → c.endWith = none → s.passReady c = true →
         let k : Coll := { c with passSent := true }
         (c.acc = false ∨ k.missing ≠ [] → ∀ us res, ∃ t, exec (.passSend st n us res) s = .next t ∧ t.coll? st n.toNat = some k ∧ t.mem = s.mem) ∧
         (∀ us res, c.acc = true → k.missing = [] → (((s.sendPass c).readReserved k us).2.poisonedSeg .provisional).isSome = true → c.ring.isSome = true →
           ∃ t, exec (.passSend st n us res) s = .next t ∧ CollEnded s t c 0x11 ∧ t.mem = s.mem) ∧
         ∀ u, c.acc = true → k.missing = [] → k.poisonedSeg .provisional = none → (s.sendPass c).addHeld k c.segs = .ok u →
           ∃ t, exec (.passSend st n [] 0) s = .next t ∧ t.mem = u.mem ∧
           t.coll? st n.toNat = some { k with segs := c.segs.filter fun g => g.kind != .provisional }) ∧
       (c.passSent = true ∨ s.passReady c = false → ∀ us res, exec (.passSend st n us res) s = .next s)) ∧
     (∀ c, (s.passDue.find? fun c => c.stall == st.val && c.num == n.toNat && s.passReady c) = some c →
       ∀ us res, ∃ t, exec (.passSend st n us res) s = .next t ∧ (∀ k ∈ t.passDue, k.id ≠ c.id) ∧ t.colls = s.colls) ∧
     (∀ j, (s.stall st).upd = some j →
       let k := fld ((j.words[1]?).getD 0) 31 0
       (j.op = .apply → j.ph = .gate → ((s.stall st).stepRec k).sent = false → (s.stall st).allPassed ((s.stall st).stepRec k).epochs = true →
         ∃ t, exec (.stepPassSend st) s = .next t ∧ ((t.stall st).stepRec k).sent = true ∧ (s.myId, st.val) ∈ ((t.stall st).stepRec k).passFrom ∧
           t.colls = s.colls ∧ t.mem = s.mem) ∧
       (((s.stall st).stepRec k).sent = true → exec (.stepPassSend st) s = .next s)) ∧
     ((s.stall st).upd = none → exec (.stepPassSend st) s = .next s) ∧
     (∃ t, exec (.stepPassResend st) s = .next t ∧ t.colls = s.colls ∧ t.mem = s.mem ∧
       ∀ q ∈ (s.stall st).steps, ∀ c, q.committed = some c → q.sent = true → stringOf s.str.time ≤ c + 256 → c < stringOf s.str.time →
         ((t.stall st).stepRec q.step).resent = some (stringOf s.str.time) ∨ q.resent = some (stringOf s.str.time)) ∧
     (∀ c k e, s.coll? st n.toNat = some c → c.sealQ = some k →
       (5 ≤ k.asked ∨ c.sealWhole k = true ∨ s.clock < k.since + 512 → exec (.sealQueryTimeout st n) s = .next s) ∧
       (k.asked ≤ 4 → c.sealWhole k = false → k.since + 512 ≤ s.clock → s.rdDva c.stall (c.sealAt k.shard) 8 = .ok e → ∃ t q j, exec (.sealQueryTimeout st n) s = .next t ∧
         t.coll? st n.toNat = some q ∧ q.sealQ = some j ∧ j.shard = k.shard ∧ k.asked < j.asked ∧ j.since = s.clock)))

/-- How a collective of the ring form ends (R290, R291, R295, R298, R300 to R302): complete before its deadline, it completes with SUCCESS, or with
SHARD_CHANGED where a seal differs; a PERMUTE writes its staged bytes first, unless a unit of them is poisoned; at its
deadline it is INCOMPLETE, and device memory changes only where it has not written yet; retracted or left, it ends at the next fret boundary with its status. -/
def Obligations.CollectiveEnds : Prop :=
  ∀ (s : Machine.State) (st : StallNo) (n : W16) (c : Coll), s.wf = true → s.coll? st n.toNat = some c → c.ring.isSome = true →
    (c.complete = false ∨ s.delays c.stall = true ∨ c.deadline ≤ s.clock →
      ∀ us res, exec (.permuteCommit st n us) s = .next s ∧ exec (.collectiveComplete st n us res) s = .next s) ∧
    (c.complete = true → c.op = 5 → s.delays c.stall = false → s.clock < c.deadline →
      (∀ u, c.poisonedSeg .staged = none → s.commitStaged c c.segs = .ok u → ∃ t, exec (.permuteCommit st n []) s = .next t ∧ CollEnded s t c 0 ∧ t.mem = u.mem) ∧
      ∀ us, ((s.readReserved c us).2.poisonedSeg .staged).isSome = true → ∃ t, exec (.permuteCommit st n us) s = .next t ∧ CollEnded s t c 0x11 ∧
        t.mem = s.mem) ∧
    (c.op = 5 → ∀ us res, exec (.collectiveComplete st n us res) s = .next s) ∧
    (c.op ≠ 5 → ∀ us, exec (.permuteCommit st n us) s = .next s) ∧
    (c.complete = true → c.op ≠ 5 → s.delays c.stall = false → s.clock < c.deadline → c.sealQ = none → c.sealBad = [] →
      (∀ g ∈ c.segs, g.kind ≠ .provisional) →
      (c.op ≠ 2 ∨ c.sealMode = 0 → ∀ us res, ∃ t, exec (.collectiveComplete st n us res) s = .next t ∧ CollEnded s t c 0 ∧ t.mem = s.mem) ∧
      (∀ u, c.op = 2 → c.sealMode = 1 → s.recordSeals c (List.range c.n) = .ok u →
        ∃ t, exec (.collectiveComplete st n [] 0) s = .next t ∧ CollEnded s t c 0 ∧ t.mem = u.mem) ∧
      ∀ bad, c.op = 2 → c.sealMode = 2 → s.compareSeals c (List.range c.n) = .ok bad →
        (bad = [] → ∃ t, exec (.collectiveComplete st n [] 0) s = .next t ∧ CollEnded s t c 0 ∧ t.mem = s.mem) ∧
        (bad ≠ [] → c.policy = false → c.step = 0 → ∃ t, exec (.collectiveComplete st n [] 0) s = .next t ∧ CollEnded s t c 0x22)) ∧
    (s.clock < c.deadline ∨ s.gridOk 1 = false → exec (.collectiveDeadline st n) s = .next s) ∧
    (c.deadline ≤ s.clock → s.gridOk 1 = true → c.sealQ = none → ∃ t, exec (.collectiveDeadline st n) s = .next t ∧ CollEnded s t c 0x21 ∧
      (c.acc = true ∨ c.op = 5 ∨ c.unwritten = [] → t.mem = s.mem)) ∧
    (∀ status at_, c.endWith = some (status, at_) →
      ∀ i ∈ ([(.retractedCollectiveEnd st n, 0x23), (.leaveEnd st n, 0x21)] : List (Instr × Nat)),
        (status ≠ i.2 ∨ s.clock < at_ → exec i.1 s = .next s) ∧
        (status = i.2 → at_ ≤ s.clock → ∃ t, exec i.1 s = .next t ∧ CollEnded s t c i.2 ∧
          (status = 0x23 ∨ c.acc = true ∨ c.op = 5 ∨ c.unwritten = [] → t.mem = s.mem)))

/-- The rows of the collective engine complete (R282, R286, R290, R292, R294, R295, R298 to R301, R391): what each does in its ordinary case, under conditions on the state
and the operands alone. A notice comes from a member of its set, in its turn and of the current attempt: PASS and STEP_PASS are held for their sender, RETRACT raises the
attempt, LEAVE fences its sender and ends the collective, a seal query is answered with the copy that is kept or with SEAL_NONE, and SEAL_NONE or the time-out asks the next
member. A START that is due begins to send, a segment that is held is sent, PASS and STEP_PASS are sent once, and sent again once a String; a collective that is complete
commits and ends with SUCCESS, one past its deadline with INCOMPLETE, one retracted or left with its status. The resets of the device and the Q points complete (R410, R417, R419, R451, R470): POWER_ON with PWROK low, BOOT_TIMEOUT 2 s after a boot began, RESET_DEVICE of the
operator function and the management effecter clear the block and boot it; at a Q point, or once Q_LIMIT has passed, a stall whose contexts are at a pass boundary loads the
Q fields of the new tuning. -/
def Obligations.RowsComplete : Prop :=
  (∀ (s : Machine.State), s.wf = true →
     (∀ (p : PortNo) (x : Pkt), s.behind x = false → (s.stall (pDstall x)).st = .active →
       let st := pDstall x
       let from_ := (pSrc x, pSstall x)
       let r := s.routeOf (pSrc x)
       (∀ c m, s.coll? st (pColl x) = some c → c.members.findIdx? (· == from_) = some m →
         (s.getsNotice p x 0x01 → nAttempt x = c.attempt → c.acc = false → ∀ us res, ∃ t, exec (.pass p x us res) s = .next t ∧
           t.coll? st (pColl x) = some { c with passFrom := insertSorted m c.passFrom }) ∧
         (s.getsNotice p x 0x04 → ∃ t q, exec (.leave p x) s = .next t ∧ t.coll? st (pColl x) = some q ∧ m ∈ q.fenced ∧
           q.endWith = some (c.endWith.getD (0x21, s.nextFret))) ∧
         (s.getsNotice p x 0x05 → (∀ k ∈ s.kept, k.stall = st → k.coll = pColl x → k.shard ≠ nMember x) → r < 16 → (s.port r).st = .up → ∀ errs, ∃ t,
           exec (.sealQuery p x errs) s = .next t ∧ (t.port r).txq = (s.port r).txq ++ s.pktFlits r 2 0
             (noticePkt s.myId (pSrc x) (pSstall x) st (pColl x) 0 0x06 (nStep x) (nAttempt x) 0 (nMember x) 0)) ∧
         (s.getsNotice p x 0x06 → ∀ k e, c.sealQ = some k → k.shard = nMember x → m = (k.shard + k.asked) % c.n → k.asked ≤ 4 →
           s.rdDva c.stall (c.sealAt k.shard) 8 = .ok e → ∃ t q j, exec (.sealNone p x) s = .next t ∧ t.coll? st (pColl x) = some q ∧ q.sealQ = some j ∧
             j.shard = k.shard ∧ k.asked < j.asked ∧ j.since = s.clock)) ∧
       (∀ k, (s.kept.find? fun k => k.stall == st && k.coll == pColl x && k.shard == nMember x) = some k → from_ ∈ k.members → k.bad = [] → k.bytes ≠ [] →
         s.getsNotice p x 0x05 → r < 16 → (s.port r).st = .up → ∃ t fl, exec (.sealQuery p x []) s = .next t ∧ fl ≠ [] ∧
           (t.port r).txq = (s.port r).txq ++ fl ∧ (∀ f ∈ fl, f.vc = 2) ∧ t.kept = s.kept) ∧
       (∀ ms, (s.stall st).setFor (nStep x) = some ms → from_ ∈ ms → nAttempt x = (s.stall st).attemptOf (nStep x) →
         (s.getsNotice p x 0x02 → ∃ t, exec (.stepPass p x) s = .next t ∧ from_ ∈ ((t.stall st).stepRec (nStep x)).passFrom) ∧
         (s.getsNotice p x 0x03 → nStep x ≠ 0 → ∃ t, exec (.retract p x) s = .next t ∧ (t.stall st).attemptOf (nStep x) = (nAttempt x + 1) % 256 ∧
           ∀ k ∈ t.colls, k.stall = st → k.step = nStep x → k.result = none → k.endWith.isSome = true))) ∧
     (∀ (st : StallNo) (n : W16) (c : Coll), s.coll? st n.toNat = some c →
       (s.gridOk 3 = true → s.startsNow c = true → c.routes.all (s.routeHeld c) = true → c.op = 0 ∨ c.op = 1 ∨ c.op = 3 → 1 < c.n →
         ∃ t, exec (.collectiveStart st n) s = .next t ∧ t.coll? st n.toNat = some { c with ph := .sending }) ∧
       (∀ shard off g, c.ph = .sending → c.endWith = none → 1 < c.n → c.seg? .partialSum shard off = none → c.seg? .deliver shard off = some g → g.bad = [] →
         ∀ res, ∃ t q, exec (.segmentForward st n shard off [] res) s = .next t ∧ t.coll? st n.toNat = some q ∧ q.segs = c.segs.filter (· ≠ g) ∧
           q.sent = c.sent ++ [(1, shard, off)] ∧ q.sentN = c.sentN + g.bytes.length / c.dsz) ∧
       ((∀ d ∈ s.passDue, d.stall ≠ st.val ∨ d.num ≠ n.toNat) → c.ph = .sending → 1 < c.n → c.passSent = false → c.endWith = none → s.passReady c = true → c.acc = false →
         ∀ us res, ∃ t, exec (.passSend st n us res) s = .next t ∧ t.coll? st n.toNat = some { c with passSent := true }) ∧
       (∀ k e, c.sealQ = some k → k.asked ≤ 4 → c.sealWhole k = false → k.since + 512 ≤ s.clock → s.rdDva c.stall (c.sealAt k.shard) 8 = .ok e →
         ∃ t q j, exec (.sealQueryTimeout st n) s = .next t ∧ t.coll? st n.toNat = some q ∧ q.sealQ = some j ∧ j.shard = k.shard ∧ k.asked < j.asked ∧ j.since = s.clock) ∧
       (c.ring.isSome = true →
         (c.complete = true → s.delays c.stall = false → s.clock < c.deadline →
           (c.op = 5 → ∀ u, c.poisonedSeg .staged = none → s.commitStaged c c.segs = .ok u →
             ∃ t, exec (.permuteCommit st n []) s = .next t ∧ CollEnded s t c 0 ∧ t.mem = u.mem) ∧
           (c.op ≠ 5 → c.op ≠ 2 ∨ c.sealMode = 0 → c.sealQ = none → c.sealBad = [] → (∀ g ∈ c.segs, g.kind ≠ .provisional) →
             ∀ us res, ∃ t, exec (.collectiveComplete st n us res) s = .next t ∧ CollEnded s t c 0)) ∧
         (c.deadline ≤ s.clock → s.gridOk 1 = true → c.sealQ = none → ∃ t, exec (.collectiveDeadline st n) s = .next t ∧ CollEnded s t c 0x21) ∧
         (∀ at_, at_ ≤ s.clock →
           (c.endWith = some (0x23, at_) → ∃ t, exec (.retractedCollectiveEnd st n) s = .next t ∧ CollEnded s t c 0x23) ∧
           (c.endWith = some (0x21, at_) → ∃ t, exec (.leaveEnd st n) s = .next t ∧ CollEnded s t c 0x21)))) ∧
     ∀ st : StallNo,
       (∀ j, (s.stall st).upd = some j → let k := fld ((j.words[1]?).getD 0) 31 0
         j.op = .apply → j.ph = .gate → ((s.stall st).stepRec k).sent = false → (s.stall st).allPassed ((s.stall st).stepRec k).epochs = true →
         ∃ t, exec (.stepPassSend st) s = .next t ∧ ((t.stall st).stepRec k).sent = true ∧ (s.myId, st.val) ∈ ((t.stall st).stepRec k).passFrom) ∧
       ∀ q c, q ∈ (s.stall st).steps → q.committed = some c → q.sent = true → c < stringOf s.str.time → stringOf s.str.time ≤ c + 256 →
         q.resent ≠ some (stringOf s.str.time) →
         ∃ t, exec (.stepPassResend st) s = .next t ∧ ((t.stall st).stepRec q.step).resent = some (stringOf s.str.time)) ∧
  (∀ (s : Machine.State) (b : BootIn),
     (s.pins.pwrok = false → ∃ t, exec (.powerOn b) s = .next t ∧ t.cleared ∧ t.pins.pwrok = true) ∧
     (s.pins.pwrok = true → s.tun.boot = .booting → s.ns 2000000000 ≤ s.elapsed → ∃ t, exec (.bootTimeout b) s = .next t ∧ t.cleared ∧ t.pins.pwrok = true) ∧
     (∀ f : FnNo, s.regOk f = true → s.isOper f = true → s.tun.cmd.busy = false → ∃ t, exec (.resetDevice f b) s = .next t ∧ t.cleared) ∧
     (∀ path, s.mgmtUp path = true → s.mgmtMay path = true → ∃ t, exec (.deviceResetEffecter path b) s = .next t ∧ t.cleared) ∧
     ∀ (st : StallNo) c, s.wf = true → s.tun.change = some c → c.ph = .mixed → c.switched.isSome = true → s.qDue st = true → s.gridOk 5 = true → s.passBoundary st = true →
       (s.atQPoint c st = true → ∃ t, exec (.qPoint st true) s = .next t ∧ (t.stall st).qTimer = c.new.timer ∧ (t.stall st).qDone = true) ∧
       (s.qLimitPassed c = true → ∃ t, exec (.qLimitExpiry st true) s = .next t ∧ (t.stall st).qTimer = c.new.timer ∧ (t.stall st).qDone = true))

/-! ### Weight updates (10) -/

/-- The dispatch of an update descriptor (R230 to R232): a row runs the head descriptor of its own OP; one that fails its check ends with DESC_INVALID, writes no
memory and leaves every stall as it was but for its pipelines. OPEN and CLOSE (R214 to R216): OPEN adds a region that overlaps none and completes; CLOSE marks it and begins its add-backs; when they are done the region is
gone, the memory is what the add-backs left, and CLOSE completes, with POISON_CONSUMED where partial values were lost; it waits while a line under refill is
still pinned (R209). -/
def Obligations.AccumulationRegions : Prop :=
  (∀ (s : Machine.State) (r : RingNo),
     ∀ i ∈ ([(.open_ r, 0), (.close r, 1), (.norm r, 2), (.apply r, 3), (.emit r, 4), (.abandon r, 5)] : List (Instr × Nat)),
       (s.updHead r i.2 = none → exec i.1 s = .next s) ∧
       ∀ d o, s.updHead r i.2 = some d → (s.ring r).desc? d.num = some d → updBad d.words = some o →
         ∃ t, exec i.1 s = .next t ∧ t.descIs r d.num 0x0E ∧ t.mem = s.mem ∧ StallsSame s t) ∧
  ((∀ (s : Machine.State) (r : RingNo) (d : RDesc), s.wf = true → (s.ring r).desc? d.num = some d → updBad d.words = none →
     let st := (s.ring r).stall
     let x := s.stall st
     (s.updHead r 0 = some d → x.regionHit (uAddr d.words) (128 * uCount d.words) = true ∨ 16 ≤ x.regions.length →
       ∃ t, exec (.open_ r) s = .next t ∧ t.descIs r d.num 0x0E ∧ t.mem = s.mem ∧ StallsSame s t) ∧
     (s.updHead r 0 = some d → x.regionHit (uAddr d.words) (128 * uCount d.words) = false → x.regions.length < 16 →
       ∃ t, exec (.open_ r) s = .next t ∧ t.descIs r d.num 0 ∧ t.mem = s.mem ∧ (t.stall st).regions =
         x.regions ++ [{ base := uAddr d.words, len := 128 * uCount d.words, zero := wf d.words 1 59 59 == 1 }]) ∧
     (s.updHead r 1 = some d → (∀ g ∈ x.regions, g.base ≠ uAddr d.words) →
       ∃ t, exec (.close r) s = .next t ∧ t.descIs r d.num 0x0E ∧ t.mem = s.mem ∧ StallsSame s t) ∧
     (s.updHead r 1 = some d → (∃ g ∈ x.regions, g.base = uAddr d.words) →
       ∃ t j, exec (.close r) s = .next t ∧ t.descRuns r d.num ∧ (t.stall st).upd = some j ∧ j.op = .close ∧ j.words = d.words ∧ t.mem = s.mem ∧
         (t.stall st).regions = x.regions.map fun g => if g.base = uAddr d.words then { g with closing := true } else g)) ∧
   ∀ (s : Machine.State) (st : StallNo), s.wf = true →
     ((∀ j, (s.stall st).upd = some j → j.op ≠ .close) → exec (.closeAddBackDone st) s = .next s) ∧
     ∀ j g, (s.stall st).upd = some j → j.op = .close → s.jobListed j → (s.stall st).regions.find? (fun q => q.base == uAddr j.words) = some g →
       let u := s.addBackAll st g.base 0x6000
       (u.pinsOf st g.base ≠ [] → exec (.closeAddBackDone st) s = .next u) ∧
       (u.pinsOf st g.base = [] → ∃ t, exec (.closeAddBackDone st) s = .next t ∧ t.mem = u.mem ∧ (t.stall st).upd = none ∧
         (∀ q ∈ (t.stall st).regions, q.base ≠ uAddr j.words) ∧ t.descIs j.ring j.num (if (u.stall st).regions.any (fun q => q.base == g.base && q.lost) then 0x11 else 0)))

/-- NORM (R236, R242): it runs while neither the stall nor its record is PARTIAL; when it is done the sums of squares and LOCAL_SQ stand in memory; an access that
fails ends it with its cause; without the core clocks it does not run (R447). APPLY up to its gate (R233, R240, R241, R380): its checks; the hold; the drain of what was dispatched; at the open gate a tainted stall retracts the step, a
gradient norm that is not finite ends it with GRAD_NONFINITE, and else the commit begins; the timeout of the gate ends it. An APPLY that resumes a PARTIAL
step and ends before its commit leaves the stall PARTIAL and held (R242). -/
def Obligations.NormAndGate : Prop :=
  ((∀ (s : Machine.State) (r : RingNo) (d : RDesc) (q : SRec), s.wf = true → s.updHead r 2 = some d → (s.ring r).desc? d.num = some d →
     updBad d.words = none → s.srec (s.ring r).stall (uSrec d.words) = .ok q →
     let st := (s.ring r).stall
     ((s.stall st).partial_ = true ∨ q.st = 2 → ∃ t, exec (.norm r) s = .next t ∧ t.descIs r d.num 0x0E ∧ t.mem = s.mem ∧ StallsSame s t) ∧
     (∀ ts, (s.stall st).partial_ = false → q.st ≠ 2 → s.tensors st d.words = .ok ts → ts.all Tensor.ok = true →
       ∃ t j, exec (.norm r) s = .next t ∧ t.descRuns r d.num ∧ (t.stall st).upd = some j ∧ j.op = .norm ∧ j.ph = .work ∧ j.words = d.words ∧
         t.mem = s.mem)) ∧
   ∀ (s : Machine.State) (st : StallNo), s.wf = true →
     (s.pwr.coreClocks = false ∨ (∀ j, (s.stall st).upd = some j → j.op ≠ .norm) → ∀ us, exec (.normDone st us) s = .next s) ∧
     ∀ j us, (s.stall st).upd = some j → j.op = .norm → s.pwr.coreClocks = true →
       let s0 := s.readOwned st us
       s0.jobListed j →
       (∀ u sq v, s0.normAll st 0 (s0.jobTensors st j) = .ok (u, sq) →
         u.wrDva st (uSrec j.words) (toBytes 4 (s0.localSq st (s0.jobTensors st j) sq)) = .ok v →
         ∃ t, exec (.normDone st us) s = .next t ∧ (t.stall st).upd = none ∧ t.descIs j.ring j.num 0 ∧ t.mem = v.mem) ∧
       ∀ m a, s0.normAll st 0 (s0.jobTensors st j) = .error (m, a) → s0.holdFor (.engine st) m = none →
         ∃ t, exec (.normDone st us) s = .next t ∧ (t.stall st).upd = none ∧ t.descIs j.ring j.num m.cause) ∧
  ((∀ (s : Machine.State) (r : RingNo) (d : RDesc) (q : SRec) (h : List Byte), s.wf = true → s.updHead r 3 = some d → (s.ring r).desc? d.num = some d →
     updBad d.words = none → s.srec (s.ring r).stall (uSrec d.words) = .ok q → s.rdDva (s.ring r).stall (uHyp d.words) 64 = .ok h →
     let st := (s.ring r).stall
     (hypOk h = false ∨ stepOk q (uStep d.words) = false ∨ ((s.stall st).partial_ = true ∧ q.st ≠ 2) → ∃ t, exec (.apply r) s = .next t ∧ t.descIs r d.num 0x0E ∧ t.mem = s.mem ∧ StallsSame s t) ∧
     (∀ ts, hypOk h = true → stepOk q (uStep d.words) = true → (s.stall st).partial_ = false ∨ q.st = 2 → s.tensors st d.words = .ok ts → ts.all Tensor.ok = true →
       ∃ t j, exec (.apply r) s = .next t ∧ t.descRuns r d.num ∧ (t.stall st).upd = some j ∧ j.op = .apply ∧ j.ph = .drain ∧ j.start = s.clock ∧
         j.words = d.words ∧ (t.stall st).hold = true ∧ ((t.stall st).stepRec (uStep d.words)).open_ = true ∧ t.mem = s.mem)) ∧
   ∀ (s : Machine.State) (st : StallNo), s.wf = true →
     ((s.stall st).upd = none → exec (.applyHoldDrained st) s = .next s ∧ exec (.applyGateOpen st) s = .next s ∧ exec (.gateTimeout st) s = .next s) ∧
     ∀ j, (s.stall st).upd = some j →
       (j.op = .apply → j.ph = .drain → s.drained st = true → ∃ t, exec (.applyHoldDrained st) s = .next t ∧
         (t.stall st).upd = some { j with ph := .gate } ∧ t.mem = s.mem ∧ t.rings = s.rings) ∧
       (j.op ≠ .apply ∨ j.ph ≠ .drain ∨ s.drained st = false → exec (.applyHoldDrained st) s = .next s) ∧
       (j.op ≠ .apply ∨ j.ph ≠ .gate ∨ s.gateClear st (uStep j.words) = false → exec (.applyGateOpen st) s = .next s) ∧
       (j.op = .apply → j.ph = .gate → s.gateClear st (uStep j.words) = true → s.jobListed j →
         ((s.stall st).tainted = true → ∃ t, exec (.applyGateOpen st) s = .next t ∧ t.descIs j.ring j.num 0x23 ∧ (t.stall st).upd = none ∧
           (t.stall st).tainted = false ∧ (t.stall st).hold = ((s.stall st).partial_ && (s.stall st).hold) ∧
           (t.stall st).partial_ = (s.stall st).partial_ ∧ (s.noWaits → t.mem.cells = s.mem.cells)) ∧
         ∀ q, (s.stall st).tainted = false → s.srec st (uSrec j.words) = .ok q →
           (∀ v, (f32 q.globalSq).isFin = false → s.wrDva st (uSrec j.words + 0x0C) (toBytes 4 (uStep j.words)) = .ok v → ∃ t, exec (.applyGateOpen st) s = .next t ∧ t.descIs j.ring j.num 0x2C ∧ (t.stall st).upd = none ∧
             (t.stall st).hold = false ∧ (s.noWaits → t.mem.cells = v.mem.cells)) ∧
           ((f32 q.globalSq).isFin = true →
             let f := clipFactor (hypOf j.hyp).clip q.globalSq
             ∀ s1 u, s.wrDva st (uSrec j.words + 0x10) (toBytes 4 (uStep j.words) ++ [1]) = .ok s1 → s1.statAll st q.cur f (hypOf j.hyp) 0 (s1.jobTensors st j) = .ok u →
               ∃ t, exec (.applyGateOpen st) s = .next t ∧ (t.stall st).upd = some { j with ph := .work, f := BitVec.ofNat 32 f } ∧ t.mem = u.mem)) ∧
       (j.op = .apply ∧ j.ph ≠ .work ∧ j.start + 256 * uGate j.words ≤ s.clock → s.jobListed j → ∃ t, exec (.gateTimeout st) s = .next t ∧
         t.descIs j.ring j.num 0x2B ∧ (t.stall st).upd = none ∧ (t.stall st).hold = ((s.stall st).partial_ && (s.stall st).hold) ∧
         (t.stall st).partial_ = (s.stall st).partial_ ∧ (s.noWaits → t.mem.cells = s.mem.cells)) ∧
       (¬ (j.op = .apply ∧ j.ph ≠ .work ∧ j.start + 256 * uGate j.words ≤ s.clock) → exec (.gateTimeout st) s = .next s))

/-- The lines of APPLY and EMIT and their ends (R237, R238, R240, R242, R243): an engine takes its next line; an access that fails stops APPLY with the stall PARTIAL and
held; the commit and EMIT end when every engine has done its lines; ABANDON ends a PARTIAL step. Without the core clocks no line, commit or end is done
(R447). PIPELINE_CHOOSE (R226, R227): one choice at a time; what is chosen is a ring whose head kernel could be dispatched now; nothing else changes. -/
def Obligations.UpdateLinesAndPipelines : Prop :=
  ((∀ (s : Machine.State) (st : StallNo) (e : EngineNo), s.wf = true →
     ((s.stall st).upd = none ∨ s.pwr.coreClocks = false →
       (∀ us, exec (.updateEngineLine st e us) s = .next s) ∧ exec (.applyCommitDone st) s = .next s ∧ exec (.emitDone st) s = .next s) ∧
     ∀ j us, (s.stall st).upd = some j → s.pwr.coreClocks = true →
       let s0 := s.readOwned st us
       let ts := s0.jobTensors st j
       let done := s0.linesDone st j e
       let a := uSrec j.words
       (j.ph ≠ .work ∨ (j.op ≠ .apply ∧ j.op ≠ .emit) → exec (.updateEngineLine st e us) s = .next s) ∧
       (j.ph = .work → j.op = .apply ∨ j.op = .emit → s0.nextLine st e done ts = none → exec (.updateEngineLine st e us) s = .next s0) ∧
       (∀ ti i l t0 q, j.ph = .work → s0.nextLine st e done ts = some (ti, i, l) → ts[ti]? = some t0 → s0.srec st a = .ok q →
         (∀ u c, j.op = .apply → s0.applyLine st j q.cur e done t0 ti i l = .ok (u, c) → ∃ t, exec (.updateEngineLine st e us) s = .next t ∧
           t.mem = u.mem ∧
           (t.stall st).upd = some { j with counts := addCounts j.counts c }) ∧
         (∀ m, j.op = .apply → s0.applyLine st j q.cur e done t0 ti i l = .error m → s0.holdFor (.engine st) m = none → s0.jobListed j →
           ∃ t, exec (.updateEngineLine st e us) s = .next t ∧ (t.stall st).upd = none ∧ (t.stall st).partial_ = true ∧
             (t.stall st).hold = (s.stall st).hold ∧ t.descIs j.ring j.num m.cause) ∧
         (∀ u c, j.op = .emit → s0.emitLine st j t0 ti i l = .ok (u, c) → ∃ t, exec (.updateEngineLine st e us) s = .next t ∧ t.mem = u.mem ∧
           (t.stall st).upd = some { j with counts := addCounts j.counts c, hwm := tset 0 j.hwm e (done + 1) })) ∧
       (j.op ≠ .apply ∨ j.ph ≠ .work ∨ s.allLines st j = false ∨ s.delays st = true → exec (.applyCommitDone st) s = .next s) ∧
       (∀ q s1 s2 s3 u, j.op = .apply → j.ph = .work → s.allLines st j = true → s.delays st = false → s.jobListed j → s.srec st a = .ok q →
         s.updCounts st j = .ok s1 → s1.wrDva st (a + 0x0C) (toBytes 4 (uStep j.words)) = .ok s2 →
         s2.wrDva st (a + 0x40) (List.replicate 256 0) = .ok s3 → s3.wrDva st (a + 0x14) [0, BitVec.ofNat 8 (1 - q.cur)] = .ok u →
         ∃ t, exec (.applyCommitDone st) s = .next t ∧ (s.noWaits → t.mem.cells = u.mem.cells) ∧
         t.descIs j.ring j.num 0 ∧ (t.stall st).upd = none ∧ (t.stall st).hold = false ∧ (t.stall st).partial_ = false ∧
         ((t.stall st).stepRec (uStep j.words)).open_ = false ∧ ((t.stall st).stepRec (uStep j.words)).committed = some (stringOf s.str.time)) ∧
       (j.op ≠ .emit ∨ s.allLines st j = false ∨ s.delays st = true → exec (.emitDone st) s = .next s) ∧
       (∀ v, j.op = .emit → s.allLines st j = true → s.delays st = false → s.jobListed j → s.updCounts st j = .ok v → ∃ t, exec (.emitDone st) s = .next t ∧ t.descIs j.ring j.num 0 ∧
         (t.stall st).upd = none ∧ t.mem = v.mem)) ∧
   ∀ (s : Machine.State) (r : RingNo) (d : RDesc), s.wf = true → (s.ring r).desc? d.num = some d → updBad d.words = none →
     let st := (s.ring r).stall
     (∀ ts, s.updHead r 4 = some d → (s.stall st).partial_ = false → s.tensors st d.words = .ok ts → ts.all Tensor.ok = true →
       ∃ t j, exec (.emit r) s = .next t ∧ t.descRuns r d.num ∧ (t.stall st).upd = some j ∧ j.op = .emit ∧ j.ph = .work ∧ j.words = d.words ∧ t.mem = s.mem) ∧
     (s.updHead r 4 = some d → (s.stall st).partial_ = true → ∃ t, exec (.emit r) s = .next t ∧ t.descIs r d.num 0x0E ∧ t.mem = s.mem) ∧
     ∀ q, s.updHead r 5 = some d → s.srec st (uSrec d.words) = .ok q →
       (q.st ≠ 2 ∨ q.active ≠ uStep d.words → ∃ t, exec (.abandon r) s = .next t ∧ t.descIs r d.num 0x0E ∧ t.mem = s.mem ∧ StallsSame s t) ∧
       (∀ s1 u, q.st = 2 → q.active = uStep d.words → s.wrDva st (uSrec d.words + 0x14) [0] = .ok s1 →
         s1.wrDva st (uSrec d.words + 0x40) (List.replicate 256 0) = .ok u → ∃ t, exec (.abandon r) s = .next t ∧ t.descIs r d.num 0 ∧ (t.stall st).partial_ = false ∧
         (t.stall st).hold = false ∧ (s.noWaits → t.mem.cells = u.mem.cells))) ∧
  (∀ (s : Machine.State) (st : StallNo) (pipe : Fin 16),
     let x := tget {} (s.stall st).pipes pipe
     (x.chosen.isSome = true → exec (.pipelineChoose st pipe) s = .next s) ∧
     ∀ y g, x.chosen = none → s.choosePipe st pipe x = (y, g) →
       exec (.pipelineChoose st pipe) s =
         .next (s.setStall st { s.stall st with pipes := tset {} (s.stall st).pipes pipe { y with chosen := g } }) ∧
       ∀ r, g = some r → ∃ d, s.headReady r = some d ∧ d.type = 1)

/-! ### The String fabric (11) -/

/-- The conditions that take a link down (R255, R257, R258, R270, Tables 11.6 and 11.17): each with its reason; a partner's DOWN too, of an up link or of an attempt.
The link's buffers are empty then and the next attempt waits. Training (R18, R19, R258, R271, R273): an attempt starts on an enabled port of a device with a fabric ID, unless its engine has failed, and passes step 1 where
its lasers are in range; TRAIN is checked for the fret length, the credits and encryption in turn; a step that is late fails with its reason; the link comes up with sequence numbers 0 and best-effort plans. -/
def Obligations.LinkFailuresAndTraining : Prop :=
  (∀ (s : Machine.State) (p : PortNo) (bad total : Nat) (why : Byte),
     let x := s.port p
     let now := stringOf s.str.time
     (∀ i ∈ ([(.lateAckLimit p, decide (x.lateString = now ∧ 64 ≤ x.lateAcks), 8), (.replayLimit p, x.replay.any fun f => decide (16 ≤ f.resends), 7),
           (.fecLimit p bad total, decide (total < bad * 1000000), 3), (.tagFailureLimit p, decide (x.tagString = now ∧ 4 ≤ x.tagFails), 6),
           (.silentTimeout p, decide (x.rxAt + s.ns 10000 ≤ s.elapsed), 9)] : List (Instr × Bool × Nat)),
       (i.2.1 = true → TakesDown i.1 s p i.2.2) ∧ (i.2.1 = false → exec i.1 s = .next s)) ∧
     (x.st = .up ∨ x.st = .training → ∃ t, exec (.down p why) s = .next t ∧ s.failedTo t p (if why.toNat ≤ 11 then why.toNat else 0) ∧
       (s.noWaits → t.mem.cells = s.mem.cells)) ∧
     (x.st ≠ .up → x.st ≠ .training → exec (.down p why) s = .next s)) ∧
  (∀ (s : Machine.State) (p : PortNo), s.wf = true →
     let x := s.port p
     (∀ f : FnNo, s.isOper f = false ∨ s.tun.boot ≠ .ready → exec (.retrain f p) s = .next s) ∧
     (x.st ≠ .wait ∨ s.elapsed < x.link.waitUntil ∨ bitAt (s.fabCtl p) 31 = false ∨ s.myId = 0xFFFFF ∨ p.val ∈ s.nv.health.engines →
       exec (.retrainBackoffExpiry p) s = .next s) ∧
     (bitAt (s.fabCtl p) 31 = true → s.myId ≠ 0xFFFFF → p.val ∉ s.nv.health.engines →
       (∀ w, s.laserBad p 1400 = some w → x.st = .wait → x.link.waitUntil ≤ s.elapsed → ∃ t, exec (.retrainBackoffExpiry p) s = .next t ∧ s.failedTo t p 1 ∧
         t.mem = s.mem) ∧
       (s.laserBad p 1400 = none →
         (x.st = .wait → x.link.waitUntil ≤ s.elapsed → ∃ t, exec (.retrainBackoffExpiry p) s = .next t ∧ (t.port p).st = .training ∧
           (t.port p).link.step = 2 ∧ (t.port p).link.began = s.elapsed ∧ t.out = s.out ∧ t.mem = s.mem) ∧
         ∀ f : FnNo, s.isOper f = true → s.tun.boot = .ready → ∃ t, exec (.retrain f p) s = .next t ∧ (t.port p).st = .training ∧
           (t.port p).link.step = 2 ∧ (t.port p).fails = 0)) ∧
     (∀ id kind len enc c0 c1 c2 c3 lat,
       let i := Instr.train p id kind len enc c0 c1 c2 c3 lat
       let low := c0.toNat < 64 ∨ c1.toNat < 2048 ∨ c2.toNat < 256 ∨ c3.toNat < 256
       (x.st ≠ .training ∨ 6 < x.link.step → exec i s = .next s) ∧
       (x.st = .training → x.link.step ≤ 6 →
         (len.toNat ≠ fld s.tun.live.strFretLen 1 0 → ∃ t, exec i s = .next t ∧ s.failedTo t p 5) ∧
         (len.toNat = fld s.tun.live.strFretLen 1 0 → low → ∃ t, exec i s = .next t ∧ s.failedTo t p 4) ∧
         (len.toNat = fld s.tun.live.strFretLen 1 0 → ¬ low → enc ≠ s.encrypts p → ∃ t, exec i s = .next t ∧ s.failedTo t p 6) ∧
         (len.toNat = fld s.tun.live.strFretLen 1 0 → ¬ low → enc = s.encrypts p → ∃ t, exec i s = .next t ∧ (t.port p).st = .training ∧
           (t.port p).link.step = (if x.link.step = 6 then 7 else x.link.step) ∧ (t.port p).link.trainIn = true ∧ (t.port p).link.partnerId = id.toNat ∧ (t.port p).partner = kind.toNat % 4 ∧
           (t.port p).credit 0 = c0.toNat ∧ (t.port p).credit 1 = c1.toNat ∧ (t.port p).credit 2 = c2.toNat ∧ (t.port p).credit 3 = c3.toNat))) ∧
     (∀ (step : Fin 10) chan,
       let i := Instr.trainingStepTimeout p step chan
       let limit := ([10000000, 2 * s.fretNs, 1000000, 20000000, 100000, 10000, 100000, 1000000, 10000000] : List Nat)[step.val]?.getD 0
       let late := step.val ≤ 8 ∧ (x.link.step = step.val ∨ (x.link.step = 2 ∧ (step.val = 3 ∨ step.val = 4))) ∧ x.link.began + s.ns limit ≤ s.elapsed
       (x.st = .training → late → step.val ≠ 8 ∨ x.link.fmk ≠ none → ∃ t, exec i s = .next t ∧ s.failedTo t p (stepReason step)) ∧
       (x.st = .training → late → step.val = 8 → x.link.fmk = none → ∃ t, exec i s = .next t ∧ (t.port p).st = .held ∧ (t.port p).reason = 6) ∧
       (x.st = .training → ¬ late → exec i s = .next s) ∧ (x.st ≠ .training → x.st ≠ .up → exec i s = .next s) ∧
       (x.st = .up → step.val ≠ 8 ∨ x.link.started = none → exec i s = .next s) ∧
       (∀ t0, x.st = .up → step.val = 8 → x.link.started = some t0 → s.elapsed < t0 + s.ns 10000000 → exec i s = .next s) ∧
       (∀ t0, x.st = .up → step.val = 8 → x.link.started = some t0 → t0 + s.ns 10000000 ≤ s.elapsed →
         (x.link.fmk ≠ none → ∃ t, exec i s = .next t ∧ s.failedTo t p 6) ∧
         (x.link.fmk = none → ∃ t, exec i s = .next t ∧ (t.port p).st = .held ∧ (t.port p).reason = 6))) ∧
     (x.st ≠ .training ∨ x.link.step ≠ 9 → exec (.linkUp p) s = .next s) ∧
     (x.st = .training → x.link.step = 9 → ∃ t, exec (.linkUp p) s = .next t ∧ (t.port p).st = .up ∧ (t.port p).fails = 0 ∧ (t.port p).txSeq = 0 ∧
       (t.port p).rxSeq = 0 ∧ (t.port p).plans = [{}, {}] ∧ (t.port p).sw = none ∧ (t.port p).replay = [] ∧ (t.port p).txq = [] ∧
       t.mem = s.mem ∧ t.out = s.out))

/-- Link keys and link delay (R269, R270, R433, R434): a nonce is sent once, and the exchange takes the FMK that is set then; with both nonces the receiver takes
the next key and the old one for one fret more; a right confirmation switches the transmitter, a wrong one fails with CRYPTO, and so does the want of the FMK;
the delay is the median of 16 exchanges. -/
def Obligations.LinkKeysAndDelay : Prop :=
  ∀ (s : Machine.State) (p : PortNo), s.wf = true →
    let x := s.port p
    let l := x.link
    (s.encrypts p = false ∨ x.st ≠ .up ∨ l.nonceOwn.isSome = true → exec (.rekey p) s = .next s) ∧
    (s.encrypts p = true → x.st = .up → l.nonceOwn = none → ∃ t, exec (.rekey p) s = .next t ∧ (t.port p).link.nonceOwn = some (drawNonce s.rnd) ∧
      (t.port p).link.fmk = s.sec.fmk ∧ (t.port p).link.started = some s.elapsed ∧ (t.port p).txq.length = x.txq.length + 1 ∧ t.mem = s.mem) ∧
    (∀ n, s.encrypts p = false ∨ (x.st ≠ .up ∧ (x.st ≠ .training ∨ l.step ≠ 8)) → exec (.keyNonce p n) s = .next s) ∧
    (∀ n, s.encrypts p = true → x.st = .up ∨ (x.st = .training ∧ l.step = 8) →
      let fmk := if l.nonceOwn.isSome then l.fmk else s.sec.fmk
      (fmk = none → ∃ t, exec (.keyNonce p n) s = .next t ∧ (t.port p).st = .held ∧ (t.port p).reason = 6) ∧
      (∀ k, fmk = some k → l.confSent = false →
        let own := l.nonceOwn.getD (drawNonce s.rnd)
        let b := if s.myId ≤ l.partnerId then Config.linkKey k own n l.partnerId s.myId else Config.linkKey k n own l.partnerId s.myId
        ∃ t, exec (.keyNonce p n) s = .next t ∧ (t.port p).link.keyRx = { key := b.extractLsb' 32 256, salt := b.extractLsb' 0 32 } ∧
        (t.port p).link.rxCount = 0 ∧ (t.port p).link.oldRx = (if x.st = .up then some (l.keyRx, l.rxCount, s.clock + 256) else none) ∧
        (l.confIn = false → (t.port p).link.nonceIn = some n ∧ (t.port p).link.confSent = true))) ∧
    (∀ ok, l.nonceOwn = none ∨ l.nonceIn = none → exec (.keyConfirmation p ok) s = .next s) ∧
    (l.nonceOwn.isSome = true → l.nonceIn.isSome = true →
      (∃ t, exec (.keyConfirmation p true) s = .next t ∧ (∀ k, l.fmk = some k → (t.port p).link.keyTx = s.keyFrom k l s.myId l.partnerId) ∧
        (t.port p).link.txCount = 0 ∧
        (l.confSent = true → (t.port p).link.nonceOwn = none ∧ (t.port p).link.nonceIn = none) ∧
        (l.confSent = true → x.st = .training → l.step = 8 → (t.port p).link.step = 9)) ∧
      (x.st = .up ∨ x.st = .training → ∃ t, exec (.keyConfirmation p false) s = .next t ∧ s.failedTo t p 6)) ∧
    (l.oldRx = none → exec (.oldKeyAcceptExpiry p) s = .next s) ∧
    (∀ k c t0, l.oldRx = some (k, c, t0) → (s.clock < t0 → exec (.oldKeyAcceptExpiry p) s = .next s) ∧
      (t0 ≤ s.clock → ∃ t, exec (.oldKeyAcceptExpiry p) s = .next t ∧ (t.port p).link.oldRx = none ∧ (t.port p).link.keyRx = l.keyRx)) ∧
    (∀ idx t1 t2 t3,
      let b := ctlBody 0x04 ([2, BitVec.ofNat 8 (Fin.val (n := 16) idx), 0] ++ toBytes 4 (BitVec.toNat (w := 32) t1) ++
        toBytes 4 (BitVec.toNat (w := 32) t2) ++ toBytes 4 (BitVec.toNat (w := 32) t3))
      (x.st = .up → ∃ t, exec (.delayReq p idx t1 t2 t3) s = .next t ∧ (t.port p).txq = x.txq ++ [{ kind := 1, vc := 0, body := b }] ∧ t.out = s.out) ∧
      (x.st = .training → exec (.delayReq p idx t1 t2 t3) s = .next (s.drive (.control p 0x04 b))) ∧
      (x.st ≠ .up → x.st ≠ .training → exec (.delayReq p idx t1 t2 t3) s = .next s)) ∧
    (∀ ts, (x.st = .training ∧ l.step = 7) ∨ (x.st = .up ∧ ∀ m, l.measured = some m → m + 256 ≤ stringOf s.str.time) →
      ∃ t, exec (.delayMeasureStart p ts) s = .next t ∧ (t.port p).link.samples = [] ∧ (t.port p).link.measured = some (stringOf s.str.time) ∧
        (if x.st = .up then (t.port p).txq.length = x.txq.length + 16 else t.out.length = s.out.length + 16)) ∧
    (∀ ts, (x.st = .training ∧ l.step ≠ 7) ∨ (x.st ≠ .training ∧ x.st ≠ .up) ∨ (x.st = .up ∧ ∃ m, l.measured = some m ∧ stringOf s.str.time < m + 256) →
      exec (.delayMeasureStart p ts) s = .next s) ∧
    ∀ idx t1 t2 t3 t4,
      let i := Instr.delayRsp p idx t1 t2 t3 t4
      let q := l.samples ++ [(idx.val, delayTwice t1 t2 t3 t4)]
      (l.measured = none ∨ (l.samples.any fun e => e.1 == idx.val) = true → exec i s = .next s) ∧
      (l.measured.isSome = true → (l.samples.any fun e => e.1 == idx.val) = false →
        (q.length ≠ 16 → ∃ t, exec i s = .next t ∧ (t.port p).link.samples = q ∧ (t.port p).delay = x.delay) ∧
        (q.length = 16 → ∃ t, exec i s = .next t ∧ (t.port p).delay = medianDelay (q.map (·.2)) ∧
          (x.st = .training → l.step = 7 → (t.port p).link.trip = 2 * (t.port p).delay ∧ (t.port p).link.step = if s.encrypts p then 8 else 9)))

/-- Receiving flits (R250 to R256, R270): a sequenced flit that holds and is next is accepted, its ACK and credits taken and one credit owed; every other sequenced one
asks for it by one NAK; NAK, CREDIT and LATE_ACK. In training 64 flits in a row whose CRC holds are flit lock, and TRAIN goes out (R271). FLIT_SLOT_TRANSMIT (R254, R256, R260, R261): every slot of an up link carries one flit: a resend, unchanged, first; then the first item that the fret plan and the
credits allow, under the next sequence number and kept for replay; else an idle flit, and nothing waiting is lost. What the PHY then codes follows the flit. -/
def Obligations.FlitsInAndOut : Prop :=
  (∀ (s : Machine.State) (p : PortNo), s.wf = true →
     let x := s.port p
     let nak : TxItem := { kind := 1, vc := 0, body := ctlBody 0x01 (toBytes 2 x.rxSeq) }
     (∀ f, x.st ≠ .up → (x.st ≠ .training ∨ (x.link.step ≠ 2 ∧ x.link.step ≠ 5)) → exec (.flitReceive p f) s = .next s) ∧
     (∀ f, x.st = .training → x.link.step = 2 ∨ x.link.step = 5 →
       let ok := fecOk f && f.crc.toNat == flitCrc f.hdr f.body
       (ok = false → ∃ t, exec (.flitReceive p f) s = .next t ∧ (t.port p).link.good = 0 ∧ (t.port p).link.step = x.link.step ∧ t.out = s.out) ∧
       (ok = true → x.link.good < 63 → ∃ t, exec (.flitReceive p f) s = .next t ∧ (t.port p).link.good = x.link.good + 1 ∧ (t.port p).link.step = 5 ∧
         t.out = s.out) ∧
       (ok = true → 63 ≤ x.link.good → ∃ t b, exec (.flitReceive p f) s = .next t ∧ (t.port p).link.step = (if x.link.trainIn then 7 else 6) ∧
         t.out = s.out ++ [.control p 0x03 b] ∧ t.mem = s.mem)) ∧
     (∀ f : Flit, x.st = .up →
       let good := fecOk f && f.crc.toNat == flitCrc f.hdr f.body && fKind f.hdr != 3
       let next := good && (!s.encrypts p || !s.tagBad p f) && fSeq f.hdr == x.rxSeq
       (fKind f.hdr < 2 → next = true → ∃ t, exec (.flitReceive p f) s = .next t ∧ (t.port p).rxSeq = (x.rxSeq + 1) % 4096 ∧
         (t.port p).replay = ackFlits (fAck f.hdr) x.replay ∧ (t.port p).nakOut = false ∧ (t.port p).rxAt = s.elapsed ∧
         tget 0 (t.port p).owed (fVc f.hdr) = tget 0 x.owed (fVc f.hdr) + 1 ∧ t.mem = s.mem) ∧
       (fKind f.hdr < 2 → next = false → ∃ t, exec (.flitReceive p f) s = .next t ∧ (t.port p).rxSeq = x.rxSeq ∧ (t.port p).replay = x.replay ∧
         (t.port p).nakOut = true ∧ (t.port p).txq = (if x.nakOut then x.txq else x.txq ++ [nak]) ∧ t.mem = s.mem) ∧
       (fKind f.hdr = 2 → good = true → ∃ t, exec (.flitReceive p f) s = .next t ∧ (t.port p).rxSeq = x.rxSeq ∧
         (t.port p).replay = ackFlits (fAck f.hdr) x.replay ∧ (t.port p).rxAt = s.elapsed ∧ t.mem = s.mem) ∧
       (2 ≤ fKind f.hdr → good = false → ∃ t, exec (.flitReceive p f) s = .next t ∧ (t.port p).rxSeq = x.rxSeq ∧ (t.port p).replay = x.replay ∧
         (t.port p).txq = x.txq ∧ (t.port p).rxAt = x.rxAt ∧ t.mem = s.mem)) ∧
     (x.st = .up → x.nakOut = true → x.nakAt + s.ns 2000 ≤ s.elapsed → ∃ t, exec (.nakResendTimeout p) s = .next t ∧ (t.port p).txq = x.txq ++ [nak] ∧
       (t.port p).nakOut = true ∧ (t.port p).nakAt = s.elapsed) ∧
     (x.st ≠ .up ∨ x.nakOut = false ∨ s.elapsed < x.nakAt + s.ns 2000 → exec (.nakResendTimeout p) s = .next s) ∧
     (∀ seq, (x.st = .up → ∃ t, exec (.nak p seq) s = .next t ∧ (t.port p).resend = (x.replay.dropWhile fun f => f.seq != seq.toNat) ∧
         (t.port p).replay = x.replay) ∧ (x.st ≠ .up → exec (.nak p seq) s = .next s)) ∧
     (∀ c0 c1 c2 c3, (x.st ≠ .up → exec (.credit p c0 c1 c2 c3) s = .next s) ∧
       (x.st = .up → twf 0 x.credits = true → ∃ t, exec (.credit p c0 c1 c2 c3) s = .next t ∧ (t.port p).credit 0 = x.credit 0 + c0.toNat ∧
         (t.port p).credit 1 = x.credit 1 + c1.toNat ∧ (t.port p).credit 2 = x.credit 2 + c2.toNat ∧ (t.port p).credit 3 = x.credit 3 + c3.toNat)) ∧
     (x.st ≠ .up ∨ s.lateFlit p = none → exec (.lateAck p) s = .next s) ∧
     ∀ f, x.st = .up → s.lateFlit p = some f → ∃ t, exec (.lateAck p) s = .next t ∧ (t.port p).lateString = stringOf s.str.time ∧
       (t.port p).lateAcks = (if x.lateString = stringOf s.str.time then x.lateAcks + 1 else 1) ∧
       (t.port p).replay = x.replay.map fun g => if g.seq = f.seq then { g with late := true } else g) ∧
  (∀ (s : Machine.State) (p : PortNo),
     let u := s.openFret p
     let x := s.port p
     let i := Instr.flitSlotTransmit p
     let codes := fun (l : List Out) => ∀ o ∈ l, ∃ c w, o = .codeword p c w
     let full := 2048 ≤ x.replay.length ∨ (s.encrypts p = true ∧ 2 ^ 48 ≤ x.link.txCount + 1)
     let can := (u.candidates p).find? fun e => decide (0 < x.credit e.2.vc)
     (x.st ≠ .up → exec i s = .next s) ∧
     (∀ f l, x.st = .up → x.resend = f :: l → ∃ t cw, exec i s = .next t ∧ (t.port p).resend = l ∧ (t.port p).txSeq = x.txSeq ∧ (t.port p).txq = x.txq ∧
       codes cw ∧ t.out = s.out ++ [.flit p f.hdr f.body (BitVec.ofNat 32 (flitCrc f.hdr f.body))] ++ cw ∧ t.mem = s.mem) ∧
     (∀ k q, x.st = .up → x.resend = [] → ¬ full → can = some (k, q) → ∃ t h b cw, exec i s = .next t ∧ (t.port p).txSeq = (x.txSeq + 1) % 4096 ∧
       (t.port p).txq = x.txq.eraseIdx k ∧ (t.port p).replay = x.replay ++ [{ seq := x.txSeq, hdr := h, body := b, at_ := s.elapsed }] ∧
       codes cw ∧ t.out = s.out ++ [.flit p h b (BitVec.ofNat 32 (flitCrc h b))] ++ cw ∧ (s.encrypts p = false → b = q.body) ∧
       (s.encrypts p = true → b = (List.range 248).map (Config.linkCipher x.link.keyTx.key x.link.keyTx.salt x.link.txCount (flitAad h) (q.body.take 232))) ∧ t.mem = s.mem) ∧
     (x.st = .up → x.resend = [] → full ∨ can = none → ∃ t h cw, exec i s = .next t ∧ (t.port p).txSeq = x.txSeq ∧ (t.port p).txq = x.txq ∧
       (t.port p).replay = x.replay ∧ codes cw ∧
       t.out = s.out ++ [.flit p h (List.replicate 248 0) (BitVec.ofNat 32 (flitCrc h (List.replicate 248 0)))] ++ cw ∧
       t.mem = s.mem))

/-- Fret plans (R252, R262, R355, R390): entries and flows go to the inactive plan and are answered; a plan beyond a PLAN_SHARE is refused; a switch needs its
acknowledgements and its boundary, takes the inactive plan, and is withdrawn otherwise; a lease that is due frees its flow. A plan of the partner's that is
acknowledged withdraws the device's own (the model's choice: log entry 165). -/
def Obligations.FretPlans : Prop :=
  ∀ (s : Machine.State) (p : PortNo), s.wf = true → (s.port p).plans.length = 2 →
    let x := s.port p
    let ctl := fun (c : Nat) (b : List Byte) => ({ kind := 1, vc := 0, body := ctlBody c b } : TxItem)
    let keeps := fun (t : Machine.State) => (t.port p).active = x.active ∧ t.mem = s.mem
    (∀ (tag : W16) (first count : Byte) (es : List W16) (fs : List FlowEnt),
      let range := fun (n : Nat) => count.toNat = 0 ∨ n < count.toNat ∨ 256 < first.toNat + count.toNat
      let nak := ctl 0x07 (planAnswer 2 6 tag.toNat first.toNat 3)
      let ack := ctl 0x07 (planAnswer 1 6 tag.toNat 0 0)
      let el := (List.range count.toNat).map fun k => (first.toNat + k, (es[k]?).getD 0)
      let fl := (List.range count.toNat).map fun k => (first.toNat + k, (fs[k]?).getD {})
      (x.st ≠ .up → exec (.planEntries p tag first count es) s = .next s ∧ exec (.flowEntries p tag first count fs) s = .next s) ∧
      (x.st = .up →
        (range 112 → ∃ t, exec (.planEntries p tag first count es) s = .next t ∧ (t.port p).txq = x.txq ++ [nak] ∧ (t.port p).plans = x.plans) ∧
        (¬ range 112 → ∃ t, exec (.planEntries p tag first count es) s = .next t ∧ (t.port p).txq = x.txq ++ [ack] ∧ keeps t ∧
          (t.port p).inactive = x.inactive.load el []) ∧
        (range 29 → ∃ t, exec (.flowEntries p tag first count fs) s = .next t ∧ (t.port p).txq = x.txq ++ [nak] ∧ (t.port p).plans = x.plans) ∧
        (¬ range 29 → ∃ t, exec (.flowEntries p tag first count fs) s = .next t ∧ (t.port p).txq = x.txq ++ [ack] ∧ keeps t ∧
          (t.port p).inactive = x.inactive.load [] fl))) ∧
    (∀ (tag : W16) (at_ : W64), (x.st ≠ .up → exec (.switch p tag at_) s = .next s) ∧ (x.st = .up →
      (fld at_ 7 0 ≠ 0 → ∃ t, exec (.switch p tag at_) s = .next t ∧ (t.port p).txq = x.txq ++ [ctl 0x07 (planAnswer 2 8 tag.toNat 0 3)] ∧
        (t.port p).sw = x.sw ∧ keeps t) ∧
      (fld at_ 7 0 = 0 → s.switchOk at_.toNat = false → ∃ t, exec (.switch p tag at_) s = .next t ∧
        (t.port p).txq = x.txq ++ [ctl 0x07 (planAnswer 2 8 tag.toNat 0 4)] ∧ (t.port p).sw = x.sw ∧ keeps t) ∧
      (fld at_ 7 0 = 0 → s.switchOk at_.toNat = true → ∃ t, exec (.switch p tag at_) s = .next t ∧
        (t.port p).txq = x.txq ++ [ctl 0x07 (planAnswer 1 8 tag.toNat 0 0)] ∧
        (t.port p).sw = some { tag := tag, at_ := s.clockOf at_.toNat, acked := true, own := false } ∧ keeps t ∧
        ∀ q, x.sw = some q → (t.port p).planTags = if q.own then [] else x.planTags))) ∧
    (∀ (tag : W16) (es : List (Nat × W16)) (fs : List (Nat × FlowEnt)) (at_ : W64),
      let i := Instr.planSend p tag es fs at_
      let asks := x.st = .up ∧ x.sw = none ∧ fld at_ 7 0 = 0
      let may := asks ∧ s.switchOk at_.toNat = true
      (¬ asks → exec i s = .next s) ∧
      (asks → s.switchOk at_.toNat = false → ∃ t, exec i s = .next t ∧ t.ports = s.ports ∧ t.mem = s.mem ∧ t.stalls = s.stalls) ∧
      (∀ o, may → s.planOver (x.inactive.load es fs) = some o → ∃ t, exec i s = .next t ∧ t.ports = s.ports ∧ t.mem = s.mem) ∧
      (may → s.planOver (x.inactive.load es fs) = none → es ≠ [] ∨ fs ≠ [] → ∃ t, exec i s = .next t ∧ keeps t ∧
        (t.port p).inactive = x.inactive.load es fs ∧ (t.port p).sw = some { tag := tag, at_ := s.clockOf at_.toNat, sent := false })) ∧
    (x.sw = none → (∀ c tag, exec (.planAck p c tag) s = .next s) ∧ (∀ c tag f w, exec (.planNak p c tag f w) s = .next s) ∧
      exec (.switchWithdraw p) s = .next s ∧ exec (.planSwitch p) s = .next s) ∧
    (∀ q, x.sw = some q →
      (∀ tag, q.own = true → (x.planTags.any fun e => e.1 == tag.toNat) = true →
        let l := x.planTags.filter fun e => e.1 != tag.toNat
        (l ≠ [] → ∃ t, exec (.planAck p 0x06 tag) s = .next t ∧ (t.port p).planTags = l ∧ (t.port p).sw = some q ∧ keeps t) ∧
        (l = [] → s.clock + 512 ≤ q.at_ → ∃ t, exec (.planAck p 0x06 tag) s = .next t ∧ (t.port p).sw = some { q with sent := true } ∧
          (t.port p).txq.length = x.txq.length + 1 ∧ keeps t) ∧
        (l = [] → q.at_ < s.clock + 512 → ∃ t, exec (.planAck p 0x06 tag) s = .next t ∧ (t.port p).sw = none ∧ keeps t) ∧
        ∀ f w, ∃ t, exec (.planNak p 0x06 tag f w) s = .next t ∧ (t.port p).sw = none ∧ (t.port p).planTags = [] ∧ keeps t) ∧
      (q.own = true → q.sent = true → q.at_ < s.clock + 256 → exec (.planAck p 0x08 q.tag) s = .next s) ∧
      (q.own = true → q.sent = true → s.clock + 256 ≤ q.at_ → ∃ t, exec (.planAck p 0x08 q.tag) s = .next t ∧ (t.port p).sw = some { q with acked := true } ∧ keeps t) ∧
      (q.own = true → q.acked = false → q.at_ ≤ s.clock + 256 → ∃ t, exec (.switchWithdraw p) s = .next t ∧ (t.port p).sw = none ∧ keeps t) ∧
      (q.own = false ∨ q.acked = true ∨ s.clock + 256 < q.at_ → exec (.switchWithdraw p) s = .next s) ∧
      (s.gridOk 3 = false ∨ s.clock < q.at_ → exec (.planSwitch p) s = .next s) ∧
      (s.gridOk 3 = true → q.at_ ≤ s.clock → q.acked = false ∨ s.onString = false → ∃ t, exec (.planSwitch p) s = .next t ∧ (t.port p).sw = none ∧
        (t.port p).activePlan = x.activePlan ∧ keeps t) ∧
      (s.gridOk 3 = true → q.at_ ≤ s.clock → q.acked = true → s.onString = true → ∃ t, exec (.planSwitch p) s = .next t ∧ (t.port p).sw = none ∧
        (t.port p).activePlan = 1 - x.activePlan ∧ (t.port p).plans = x.plans ∧ t.mem.cells = s.mem.cells)) ∧
    ∀ flow : Byte, let due := x.leases.any fun l => l.flow == flow.toNat && decide (l.due ≤ s.clock)
      (due = false ∨ s.gridOk 1 = false → exec (.planEntryLeaseExpiry p flow) s = .next s) ∧
      (due = true → s.gridOk 1 = true → x.activePlan ≤ 1 → ∃ t, exec (.planEntryLeaseExpiry p flow) s = .next t ∧ (t.port p).active = x.active.free flow.toNat ∧
        (t.port p).leases = (x.leases.filter fun l => l.flow != flow.toNat) ∧ t.mem = s.mem)

/-- What every packet meets first (R264, R269): on a link that is not up, or with another type, the command changes nothing; a reserved type and another device's
packet are discarded and counted; packets of a collective go to it, and what no collective admits is discarded. Best-effort puts, reductions and gets at their destination (R240, R264 to R267, Table 11.19): the stall, the window and the access are checked in that order; each
failure changes no memory and answers with its status; data is written, or added or compared into, as the stall's own accesses would; a get is answered with what it reads,
or held while the stall's commit hold lasts. A packet behind an earlier one of its source that has not been performed, or whose bytes lie in a block under refill,
waits (R209, R265). A residue check of the slice adder that fails twice answers with POISON_CONSUMED, poisons the unit and taints the stall (R386). -/
def Obligations.BestEffortPackets : Prop :=
  (∀ (s : Machine.State) (p : PortNo) (x : Pkt) (us : UnitErrs) (res : Fin 3), s.wf = true →
     (∀ i ∈ ([(.put p x, 1), (.getReq p x us, 2), (.reducePut p x res, 3), (.permutePacket p x, 4), (.getRsp p x, 8), (.putDone p x, 9)] : List (Instr × Nat)),
       (s.arrives p x = false → exec i.1 s = .next s) ∧
       (s.arrives p x = true → typeListed (pType x) = true → pType x ≠ i.2 → exec i.1 s = .next s) ∧
       (s.arrives p x = true → typeListed (pType x) = false ∨ (pType x = i.2 ∧ pDst x ≠ s.myId) →
         ∃ t, exec i.1 s = .next t ∧ CountsDiscard s t p)) ∧
     (pColl x ≠ 0 → ∀ i ∈ ([(.put p x, 1), (.reducePut p x res, 3), (.permutePacket p x, 4)] : List (Instr × Nat)), s.gets p x i.2 →
       exec i.1 s = exec (.collectivePacketReceive p x 0) s ∧
       ((pAux x).testBit 15 = false ∨ s.behind x = false → s.coll? (pDstall x) (pColl x) = none → ∃ t, exec i.1 s = .next t ∧ CountsDiscard s t p)) ∧
     (s.gets p x 4 → ∀ c r e, s.coll? (pDstall x) (pColl x) = some c → c.members.findIdx? (· == (pSrc x, pSstall x)) = some r →
       (s.stall c.stall).st = .active → c.op = 5 → x.poisoned = false → pAux x = 0 → c.admits 4 r (pOffset x) x.data.length = some (r, e) →
       tget 0 c.landed r + x.data.length ≤ c.expectFrom r →
         ∃ t q, exec (.permutePacket p x) s = .next t ∧ t.coll? (pDstall x) (pColl x) = some q ∧
           q.segs = c.segs ++ [{ kind := .staged, shard := r, off := e, bytes := x.data }] ∧ t.mem = s.mem)) ∧
  (∀ (s : Machine.State) (p : PortNo) (x : Pkt) (res : Fin 3), s.wf = true →
     let st := pDstall x
     let waiting := fun (u : Machine.State) => ({ u with mem := { u.mem with waiting := u.mem.waiting ++ [(p.val, x)] } } : Machine.State)
     let now := s.behind x = false ∧ s.mustWait x = false ∧ s.windowHeld x = none
     (∀ i ∈ ([(.put p x, 1, 50, x.data.length), (.reducePut p x res, 3, 48, 4 * (reduceVals x).length)] : List (Instr × Nat × Nat × Nat)),
       s.gets p x i.2.1 → pColl x = 0 → i.2.1 = 1 ∨ (pOpf x / 16 ≤ 11 ∧ pOpf x % 16 ≤ 2) →
       (s.behind x = true ∨ s.mustWait x = true → exec i.1 s = .next (waiting s)) ∧
       (∀ u, s.behind x = false → s.mustWait x = false → s.windowHeld x = some u → exec i.1 s = .next (waiting u)) ∧
       (now → (s.stall st).st ≠ .active → ∃ t, exec i.1 s = .next t ∧ s.putAnswers t x 4 ∧ t.mem = s.mem) ∧
       (now → (s.stall st).st = .active → s.winCheck x i.2.2.1 i.2.2.2 = none → ∃ t, exec i.1 s = .next t ∧ s.putAnswers t x 0xA ∧ t.mem = s.mem) ∧
       ∀ a, now → (s.stall st).st = .active → s.winCheck x i.2.2.1 i.2.2.2 = some a →
         (x.poisoned = true → ∃ t, exec i.1 s = .next t ∧ s.putAnswers t x 1 ∧ t.mem = s.mem) ∧
         (x.poisoned = false → i.2.1 = 1 ∨ res = 0 →
           let r := if i.2.1 = 1 then s.wrDva st a x.data else s.reduceInto st (pOpf x % 16) a (reduceVals x)
           (∀ u, r = .ok u → ∃ t, exec i.1 s = .next t ∧ s.putAnswers t x 0 ∧ t.mem = u.mem) ∧
           (∀ m, r = .error m → ∃ t, exec i.1 s = .next t ∧ s.putAnswers t x (rspStatus m) ∧ t.mem = s.mem))) ∧
     (s.gets p x 3 → pColl x = 0 → 11 < pOpf x / 16 ∨ 2 < pOpf x % 16 → ∃ t, exec (.reducePut p x res) s = .next t ∧ CountsDiscard s t p) ∧
     (∀ a d, s.gets p x 3 → pColl x = 0 → pOpf x / 16 ≤ 11 ∧ pOpf x % 16 ≤ 2 → now → (s.stall st).st = .active → x.poisoned = false →
       s.winCheck x 48 (4 * (reduceVals x).length) = some a → s.xlate st a .write = .ok d → ∃ t, exec (.reducePut p x 2) s = .next t ∧
         s.putAnswers t x 1 ∧ t.mem.cells = s.mem.cells ∧ d.1 / 32 ∈ t.mem.poison ∧ (t.stall st).tainted = true) ∧
     (s.gets p x 2 →
       let n := 32 * (pAux x % 65536 + 1)
       (∀ us, let u := match s.winCheck x 49 n with | some a => s.readDvas st a n us | none => s
         s.behind x = false → u.gets p x 2 → u.behind x = false → exec (.getReq p x us) s = exec (.getReq p x []) u) ∧
       (∀ us, s.behind x = true → exec (.getReq p x us) s = .next (waiting s)) ∧
       (now → (s.stall st).hold = true → ∃ t, exec (.getReq p x []) s = .next t ∧
         (t.stall st).heldGets = (s.stall st).heldGets ++ [(p.val, x, s.clock + 1024)] ∧ t.mem = s.mem ∧ t.ports = s.ports) ∧
       (now → (s.stall st).hold = false →
         ((s.stall st).st ≠ .active → ∃ t, exec (.getReq p x []) s = .next t ∧ s.answers t x 8 4 [] ∧ t.mem = s.mem) ∧
         ((s.stall st).st = .active → 4096 < n ∨ s.winCheck x 49 n = none → ∃ t, exec (.getReq p x []) s = .next t ∧ s.answers t x 8 0xA [] ∧ t.mem = s.mem) ∧
         ∀ a, (s.stall st).st = .active → n ≤ 4096 → s.winCheck x 49 n = some a →
           (∀ bs, s.rdDva st a n = .ok bs → ∃ t, exec (.getReq p x []) s = .next t ∧ s.answers t x 8 0 bs ∧
             (s.slices.under = [] → t.mem.cells = s.mem.cells)) ∧
           (∀ m, s.rdDva st a n = .error m → s.holdFor (.get p x) m = none → ∃ t, exec (.getReq p x []) s = .next t ∧
             s.answers t x 8 (rspStatus m) [] ∧ t.mem = s.mem) ∧
           (∀ m u, s.rdDva st a n = .error m → s.holdFor (.get p x) m = some u → exec (.getReq p x []) s = .next u))))

/-- Responses at the source and leases (R208, R266, R356, R390, Table 15.8): data gathers until the golden block is whole and is then written to it; a status other than 0
ends the refill and clears GOLDEN; a window whose lease ends has its entry and no other effect; a get held for 4 frets is answered LEASE_EXPIRED. -/
def Obligations.ResponsesAndLeases : Prop :=
  ∀ (s : Machine.State) (p : PortNo) (x : Pkt), s.wf = true →
    let odd := 4 < pStatus x ∧ pStatus x ≠ 0xA ∧ pStatus x ≠ 0xB
    (s.gets p x 9 → (¬ odd → exec (.putDone p x) s = .next s) ∧
      (odd → ∃ t, exec (.putDone p x) s = .next t ∧ t.port p = (s.port p).count 7 ∧ t.mem = s.mem ∧ t.best = s.best)) ∧
    (s.gets p x 8 →
      ((s.best.find? fun b => b.tag == pTag x) = none → exec (.getRsp p x) s = .next s) ∧
      ∀ b, (s.best.find? fun b => b.tag == pTag x) = some b →
        (pStatus x ≠ 0 ∨ x.poisoned = true → s.noWaits → ∃ t, exec (.getRsp p x) s = .next t ∧ t.goldenBit b.block = false ∧ (∀ q ∈ t.best, q.block ≠ b.block) ∧
          t.mem.cells = s.mem.cells) ∧
        (pStatus x = 0 → x.poisoned = false →
          ((b.got ++ x.data).length < 4096 → ∃ t, exec (.getRsp p x) s = .next t ∧ t.mem = s.mem ∧
            t.best = s.best.map fun q => if q.tag = b.tag then { q with got := b.got ++ x.data } else q) ∧
          (∀ st g i, (b.got ++ x.data).length = 4096 → s.noWaits → s.goldenOf b.block = some (st, g, i) → s.digestOk st g i (b.got ++ x.data) = true →
            ∃ t, exec (.getRsp p x) s = .next t ∧ t.mem.cells = (s.wrDpa (4096 * b.block) (b.got ++ x.data)).mem.cells ∧
              ∀ q ∈ t.best, q.block ≠ b.block))) ∧
    (∀ (st : StallNo) (win : Byte),
      (s.winEntry st win.toNat = none → exec (.windowLeaseExpiry st win) s = .next s) ∧
      ∀ e, s.winEntry st win.toNat = some e →
        let raw := recFld e 24 8
        let ends := s.gridOk 1 = true ∧ (s.stall st).st = .active ∧ recFld e 8 8 ≠ 0 ∧ raw ≠ 0 ∧ s.winDue st win.toNat raw ≤ s.clock ∧
          (s.winLease st win.toNat raw).told = false
        (¬ ends → exec (.windowLeaseExpiry st win) s = .next s) ∧
        (ends → ∃ t, exec (.windowLeaseExpiry st win) s = .next t ∧
          t = { s with stalls := t.stalls, led := t.led, rnd := t.rnd, nv := t.nv, out := t.out, fns := t.fns } ∧
          (t.winLease st win.toNat raw).told = true ∧ t.winDue st win.toNat raw = s.winDue st win.toNat raw ∧
          ∀ k, { t.stall k with winLeases := [] } = { s.stall k with winLeases := [] })) ∧
    ∀ st : StallNo,
      ((s.stall st).heldGets = [] → exec (.heldGetLeaseExpiry st) s = .next s) ∧
      ∀ q y due l, (s.stall st).heldGets = (q, y, due) :: l →
        (s.clock < due ∨ s.gridOk 1 = false → exec (.heldGetLeaseExpiry st) s = .next s) ∧
        (due ≤ s.clock → s.gridOk 1 = true → s.noWaits → ∃ t, exec (.heldGetLeaseExpiry st) s = .next t ∧ (t.stall st).heldGets = l ∧ s.answers t y 8 0xB [] ∧ t.mem = s.mem)

/-! ### Rings and the host interface (13) -/

/-- Kicks and doorbells (R308, R312 to R319): a good kick of a running ring of an active stall is queued while there is room, waits where a kick-only function finds none (behind
the earlier ones of its host port: log entry 146), and a malformed or dropped one is counted; a read of the aperture returns 0, an AtomicOp is unsupported, and so is what a running TDI gets over another IDE stream than its own (R438); while kicks of its host port wait, a read or an AtomicOp of the port waits too;
a scan marks the rings that the bitmap names; a doorbell word with the ring's generation and room submits its descriptors, any other is refused; a read that fails cancels the ring. Descriptor reads (R8, R316, R320): the right SEQ makes a descriptor ready, a reserved TYPE is invalid; a wrong SEQ is read again one fret later, and a second wrong one is
DESC_INVALID; a failed read cancels the ring. Every 64-bit word of a descriptor lies least significant byte first (R6). -/
def Obligations.DoorbellsAndReads : Prop :=
  (∀ (s : Machine.State), s.wf = true →
     (∀ (f : FnNo) (acc : BarAccess) (v : W32) via, s.viaOk f via = false → exec (.kick f acc v via) s = .next (s.drive (.unsupported f))) ∧
     (∀ (f : FnNo) (acc : BarAccess) (v : W32) via, s.viaOk f via = true → s.fnReady f = false → exec (.kick f acc v via) s = .next s) ∧
     (∀ (f : FnNo) (size : Nat) (v : W32) via, s.viaOk f via = true →
       let i := Instr.kick f (.write size) v via
       (s.regOk f = true → exec (.kick f (.read size) v via) s = .next (s.drive (.barRead f (List.replicate size 0))) ∧
         exec (.kick f .atomicOp v via) s = .next (s.drive (.unsupported f))) ∧
       (s.portFree f = false → exec (.kick f (.read size) v via) s = .next s ∧ exec (.kick f .atomicOp v via) s = .next s) ∧
       (s.fnReady f = true → s.portFree f = false → s.kickWaits f = true) ∧
       (s.fnReady f = true → s.kickWaits f = true →
         exec i s = .next { s with hosts := { s.hosts with waitKicks := s.hosts.waitKicks ++ [(f.val, size, v)] } }) ∧
       (s.fnReady f = true → s.kickWaits f = false → s.ringNo f (fld v 15 0) = none → exec i s = .next s) ∧
       (∀ g, s.fnReady f = true → s.kickWaits f = false → s.ringNo f (fld v 15 0) = some g →
         let st := (s.ring g).stall
         let counted := ∃ t, exec i s = .next t ∧ t.hosts = s.hosts ∧ t.mem = s.mem ∧
           ((s.ring g).st ≠ .free → tget 0 (t.stall st).tally 0x88 = satAdd64 (tget 0 (s.stall st).tally 0x88) 1)
         let good := size = 4 ∧ fld v 31 16 = 0 ∧ (s.ring g).st = .running
         (¬ good → counted) ∧ (good → (s.stall st).st ≠ .active → exec i s = .next s) ∧
         (good → (s.stall st).st = .active → s.hosts.kicks.length < Config.kickDepth →
           exec i s = .next { s with hosts := { s.hosts with kicks := s.hosts.kicks ++ [g] } }) ∧
         (good → (s.stall st).st = .active → Config.kickDepth ≤ s.hosts.kicks.length → (s.fn f).kickOnly = false ∧ counted))) ∧
     (∀ (f : FnNo) (page : Byte) (x : HostBytes),
       let may := s.fnReady f = true ∧ (s.fn f).kickOnly = false ∧ 256 * page.toNat < (s.fn f).quotaCount
       (¬ may → exec (.doorbellScan f page x) s = .next s) ∧
       (∀ c, may → x = .fail c → ∃ t, exec (.doorbellScan f page x) s = .next t ∧ t.rings = s.rings ∧ t.mem = s.mem) ∧
       (∀ bs, may → x = .bytes bs → let l := bytesWords bs
         ∃ t, exec (.doorbellScan f page x) s = .next t ∧ t.mem = s.mem ∧
         (∀ i g, i ∈ summaryRings l → s.ringNo f (256 * page.toNat + i) = some g → (s.ring g).st ≠ .free → (t.ring g).summary = true) ∧
         t.out = s.out ++ .hostRead f (s.fn f).dbPasid (s.dbPage f page.toNat) 32 ::
           (((List.range 4).filter fun k => ((l[k]?).getD 0) != 0).map fun k => .hostSwap f (s.fn f).dbPasid (s.dbPage f page.toNat + 8 * k)))) ∧
     ∀ (r : RingNo) (x : HostBytes),
       let q := s.ring r
       let i := Instr.doorbellRead r x
       (r.val ∉ s.hosts.kicks → q.summary = false → exec i s = .next s) ∧
       (r.val ∈ s.hosts.kicks → ∃ t, exec i s = .next t ∧ (s.hosts.waitKicks = [] → t.hosts.kicks = s.hosts.kicks.erase r.val) ∧
         t.hosts.waitKicks.length ≤ s.hosts.waitKicks.length ∧
         (s.hosts.kicks.length ≤ Config.kickDepth → s.hosts.waitKicks ≠ [] → t.hosts.waitKicks.length < s.hosts.waitKicks.length)) ∧
       (r.val ∈ s.hosts.kicks ∨ q.summary = true → q.st ≠ .free → (s.stall q.stall).st = .active →
         (∀ bs, x = .bytes bs →
           let w : W64 := BitVec.ofNat 64 (recFld bs 0 8)
           let prod := BitVec.ofNat 32 w.toNat
           (fld w 63 48 ≠ q.gen.toNat ∨ q.size < (prod - q.unread).toNat → ∃ t, exec i s = .next t ∧ (t.ring r).next = q.next ∧ (t.ring r).ds = q.ds ∧
             t.mem = s.mem) ∧
           (fld w 63 48 = q.gen.toNat → (prod - q.unread).toNat ≤ q.size → ∃ t, exec i s = .next t ∧ (t.ring r).next = (q.submit prod).next ∧
             (t.ring r).ds = (q.submit prod).ds ∧ t.mem = s.mem)) ∧
         ∀ c, x = .fail c → ∃ t, exec i s = .next t ∧ (t.ring r).st = .cancelling)) ∧
  (∀ (s : Machine.State) (r : RingNo) (x : HostBytes), s.wf = true →
     let q := s.ring r
     let got := fun (i : Instr) (d : RDesc) (l : List W64) =>
       if 1 ≤ fld ((l[0]?).getD 0) 63 60 ∧ fld ((l[0]?).getD 0) 63 60 ≤ 8 then
         ∃ t, exec i s = .next t ∧ (t.ring r).desc? d.num = some { d with words := l, ph := .ready } ∧ t.mem = s.mem
       else ∃ t, exec i s = .next t ∧ t.descIs r d.num 0x0E ∧ t.mem = s.mem
     ((q.ds.find? fun d => d.ph == .submitted) = none → exec (.descriptorRead r x) s = .next s) ∧
     (q.st ≠ .running ∨ (s.stall q.stall).st ≠ .active → exec (.descriptorRead r x) s = .next s) ∧
     (∀ d, (q.ds.find? fun d => d.ph == .submitted) = some d → q.desc? d.num = some d → q.st = .running → (s.stall q.stall).st = .active →
       (∀ bs, x = .bytes bs → seqOf (bytesWords bs) = d.num.toNat → got (.descriptorRead r x) d (bytesWords bs)) ∧
       (∀ bs, x = .bytes bs → seqOf (bytesWords bs) ≠ d.num.toNat → ∃ t, exec (.descriptorRead r x) s = .next t ∧
         (t.ring r).desc? d.num = some { d with ph := .reread, since := s.clock } ∧ t.mem = s.mem) ∧
       (∀ c, x = .fail c → ∃ t, exec (.descriptorRead r x) s = .next t ∧ (t.ring r).st = .cancelling)) ∧
     ((q.ds.find? fun d => d.ph == .reread) = none → exec (.seqReread r x) s = .next s) ∧
     ∀ d, (q.ds.find? fun d => d.ph == .reread) = some d → q.desc? d.num = some d →
       (s.clock < d.since + 256 ∨ (s.stall q.stall).st ≠ .active ∨ (q.st ≠ .running ∧ q.st ≠ .cancelling) → exec (.seqReread r x) s = .next s) ∧
       (d.since + 256 ≤ s.clock → (s.stall q.stall).st = .active → q.st = .running ∨ q.st = .cancelling →
         (∀ bs, x = .bytes bs → seqOf (bytesWords bs) = d.num.toNat → got (.seqReread r x) d (bytesWords bs)) ∧
         (∀ bs, x = .bytes bs → seqOf (bytesWords bs) ≠ d.num.toNat → ∃ t, exec (.seqReread r x) s = .next t ∧ t.descIs r d.num 0x0E ∧ t.mem = s.mem) ∧
         (∀ c, x = .fail c → ∃ t, exec (.seqReread r x) s = .next t ∧ (t.ring r).st = .cancelling)))

/-- Kernel launches and streams (R8, R321, R323): the head descriptor is checked; one that fails ends with DESC_INVALID; one that passes has its context, with the
cores, entry and words that it names. Copies and fills (R322, Table 13.10): checked; their data goes to the host in requests of at most 512 bytes (R308), into device memory, or is added into an open region, and
they complete; a failed host access gives its status and changes no memory; a failed read its cause; a write to a block under refill waits. A slice adder whose residue
check fails twice ends an accumulating copy with POISON; one that its repetition mends only leaves its event (R386). -/
def Obligations.LaunchesAndCopies : Prop :=
  (∀ (s : Machine.State) (r : RingNo), s.wf = true →
     let x := s.ring r
     ∀ i ∈ ([(.kernelLaunch r, 1, .kernel), (.vectorStream r, 3, .vecStream), (.matrixStream r, 4, .mtxStream)] : List (Instr × Nat × CtxKind)),
       (s.headOf r i.2.1 = none → exec i.1 s = .next s) ∧
       ∀ d, s.headOf r i.2.1 = some d → x.desc? d.num = some d →
         let bad := if i.2.1 = 1 then s.launchBad x.stall d.words else s.streamBad x.stall (i.2.1 == 3) d.words
         ((s.ctxFor r d.num).isSome = true ∨ (i.2.1 = 1 ∧ s.chosen r = false) → exec i.1 s = .next s) ∧
         (s.ctxFor r d.num = none → i.2.1 ≠ 1 ∨ s.chosen r = true →
           (∀ b, bad = some b → ∃ t, exec i.1 s = .next t ∧ t.descIs r d.num 0x0E ∧ t.mem = s.mem ∧ t.ctxs = s.ctxs) ∧
           (bad = none → ∃ t y, exec i.1 s = .next t ∧ t.ctx? s.nextCtx = some y ∧ y.kind = i.2.2 ∧ y.stall = x.stall ∧ y.ring = r.val ∧ y.num = d.num ∧
             y.store = d.words ∧ (i.2.1 = 1 → y.cores = launchCores d.words ∧ y.entry = wf d.words 1 56 0 ∧ y.gx = wf d.words 3 63 48 + 1) ∧
             (i.2.1 ≠ 1 → y.cores = [wf d.words 3 15 8])))) ∧
  (∀ (s : Machine.State) (r : RingNo) (x : HostBytes) (us : UnitErrs) (res : Fin 3), s.wf = true →
     let q := s.ring r
     ∀ i ∈ ([(.copy r x us, 0), (.accumCopy r x res us, 1), (.fill r x, 2)] : List (Instr × Nat)),
       (s.copyHead r i.2 = none → exec i.1 s = .next s) ∧
       ∀ d, s.copyHead r i.2 = some d → q.desc? d.num = some d →
         let w := d.words
         let inHbm := cMode w ≠ 2 ∧ cSrcHost w = false
         let s0 := if inHbm then s.readDvas q.stall (devAddr' (cSrc w)) (cLen w) us else s
         let s1 := if i.2 = 1 ∧ res = 1 then s0.addResidue q w 1 else s0
         let v := if cMode w = 2 then s1 else if cSrcHost w = true then (s1.hostReads q.func q.pasid (cSrc w) (cLen w)).tally q.stall 0x28 (cLen w)
           else s1.didRead q.stall (devAddr' (cSrc w)) (cLen w)
         (∀ o, s.copyBad q.stall w = some o → ∃ t, exec i.1 s = .next t ∧ t.descIs r d.num 0x0E ∧ t.mem = s.mem) ∧
         (s.copyBad q.stall w = none → copyAnswers w x = false → exec i.1 s = .next s) ∧
         (s.copyBad q.stall w = none → cDstHost w = true → ∀ bs, s0.copySource q w x bs → ∀ l, x = .bytes l → copyAnswers w x = true →
           ∃ t, exec i.1 s = .next t ∧ t.descIs r d.num 0 ∧ t.mem = v.mem ∧ (¬ inHbm → t.mem = s.mem) ∧
             t.out = (v.hostWrites q.func q.pasid (cDst w) bs q.roData).out) ∧
         (s.copyBad q.stall w = none → cDstHost w = false → copyAnswers w x = true →
           (s.writeWaits q.stall (devAddr' (cDst w)) (cLen w) = true → exec i.1 s = .next s) ∧
           (s.writeWaits q.stall (devAddr' (cDst w)) (cLen w) = false →
             (i.2 = 1 → res = 2 → ∃ t, exec i.1 s = .next t ∧ t.descIs r d.num 0x11 ∧ t.mem.cells = s.mem.cells ∧
               ∀ m, (devAddr (cDst w) >>= fun a => s.xlate q.stall a .write) = .ok m → t.unitPoisoned (m.1 / 32) = true ∧ (t.stall q.stall).tainted = true) ∧
             (i.2 ≠ 1 ∨ res ≠ 2 →
             (∀ bs b u, s0.copySource q w x bs → devAddr (cDst w) = .ok b →
               (if cMode w = 1 then v.accAll q.stall b (wordsOf 4 bs.length bs) else v.wrDva q.stall b bs) = .ok u →
               ∃ t, exec i.1 s = .next t ∧ t.descIs r d.num 0 ∧ t.mem = u.mem ∧ (t.stall q.stall).regions = (u.stall q.stall).regions) ∧
             (∀ c, cMode w ≠ 2 → cSrcHost w = true → x = .fail c → ∃ t, exec i.1 s = .next t ∧ t.descIs r d.num 0x2F ∧ t.mem = s0.mem) ∧
             (∀ bs m, s0.copySource q w x bs →
               (devAddr (cDst w) >>= fun b => if cMode w = 1 then v.accAll q.stall b (wordsOf 4 bs.length bs) else v.wrDva q.stall b bs) = .error m →
               s0.holdFor (.desc r d.num) m = none → ∃ t, exec i.1 s = .next t ∧ t.descIs r d.num m.cause ∧ t.mem = s0.mem) ∧
             (∀ m, inHbm → (devAddr (cSrc w) >>= fun a => s0.rdDva q.stall a (cLen w)) = .error m →
               s0.holdFor (.desc r d.num) m = none → ∃ t, exec i.1 s = .next t ∧ t.descIs r d.num m.cause ∧ t.mem = s0.mem)))))

/-- Events, fences and tally reads (R40, R324, R325, R330, R365, Table 13.12): a FENCE and a SIGNAL wait for every earlier descriptor; a SIGNAL leaves the larger of the event
and its VALUE; a WAIT ends when the event has reached its VALUE, a timed wait at its fret boundary, either of them at its TIMEOUT; a tally read writes one snapshot, in
which the cycles of the contexts that run are counted up to it. -/
def Obligations.EventsAndTallies : Prop :=
  ∀ (s : Machine.State) (r : RingNo), s.wf = true →
    let q := s.ring r
    (∀ i ∈ ([(.fenceDesc r, 0), (.signal r, 1), (.wait r, 2), (.waitTime r, 3)] : List (Instr × Nat)),
      (s.eventHead r i.2 = none → exec i.1 s = .next s) ∧
      ∀ d, s.eventHead r i.2 = some d → q.desc? d.num = some d →
        (i.2 < 2 → q.allBefore d.num = false → exec i.1 s = .next s) ∧
        (2 ≤ i.2 ∨ q.allBefore d.num = true → ∀ o, eventBad d.words = some o → ∃ t, exec i.1 s = .next t ∧ t.descIs r d.num 0x0E ∧ t.mem = s.mem)) ∧
    (∀ d, q.desc? d.num = some d → eventBad d.words = none →
      (s.eventHead r 0 = some d → q.allBefore d.num = true → ∃ t, exec (.fenceDesc r) s = .next t ∧ t.descIs r d.num 0 ∧ t.mem = s.mem) ∧
      (s.eventHead r 1 = some d → q.allBefore d.num = true →
        (s.writeWaits q.stall (eAddr d.words) 8 = true → exec (.signal r) s = .next s) ∧
        ∀ bs u, s.writeWaits q.stall (eAddr d.words) 8 = false → s.rdDva q.stall (eAddr d.words) 8 = .ok bs →
          (s.didRead q.stall (eAddr d.words) 8).wrDva q.stall (eAddr d.words) (toBytes 8 (max (ofBytes bs) (eValue d.words))) = .ok u →
          ∃ t, exec (.signal r) s = .next t ∧ t.descIs r d.num 0 ∧ t.mem = u.mem) ∧
      (∀ bs, s.eventHead r 2 = some d → s.rdDva q.stall (eAddr d.words) 8 = .ok bs →
        ∃ t, exec (.wait r) s = .next t ∧ t.descRuns r d.num ∧ t.mem = s.mem) ∧
      (s.eventHead r 3 = some d → s.onString = true → ∃ t, exec (.waitTime r) s = .next t ∧
        (t.ring r).desc? d.num = some { d with ph := .running, since := s.clock, aux := s.clockOf (fretCeil (eValue d.words)) } ∧ t.mem = s.mem) ∧
      (s.eventHead r 3 = some d → s.onString = false → ∃ t, exec (.waitTime r) s = .next t ∧ t.descIs r d.num 0x24 ∧ t.mem = s.mem)) ∧
    (q.waiting 2 = none → exec (.eventWaitSatisfied r) s = .next s) ∧ (q.waiting 3 = none → exec (.waitTimeReached r) s = .next s) ∧
    (∀ d bs, q.waiting 2 = some d → q.desc? d.num = some d → s.rdDva q.stall (eAddr d.words) 8 = .ok bs →
      (eValue d.words ≤ ofBytes bs → ∃ t, exec (.eventWaitSatisfied r) s = .next t ∧ t.descIs r d.num 0 ∧
        (s.slices.under = [] → t.mem.cells = s.mem.cells)) ∧
      (ofBytes bs < eValue d.words → exec (.eventWaitSatisfied r) s = .next s)) ∧
    (∀ d, q.waiting 3 = some d → q.desc? d.num = some d →
      (d.aux ≤ s.clock → ∃ t, exec (.waitTimeReached r) s = .next t ∧ t.descIs r d.num 0 ∧ t.mem = s.mem) ∧
      (s.clock < d.aux → exec (.waitTimeReached r) s = .next s)) ∧
    (∀ d, (q.ds.find? fun d => d.ph == .running && d.type == 7) = some d → q.desc? d.num = some d →
      (eTimeout d.words ≠ 0 → d.since + 256 * eTimeout d.words ≤ s.clock → ∃ t, exec (.eventWaitTimeout r) s = .next t ∧ t.descIs r d.num 0x30 ∧
        t.mem = s.mem) ∧
      (eTimeout d.words = 0 ∨ s.clock < d.since + 256 * eTimeout d.words → exec (.eventWaitTimeout r) s = .next s)) ∧
    ∀ (x : HostBytes) (d : RDesc), s.headOf r 8 = some d → q.desc? d.num = some d →
      (∀ o, tallyBad d.words = some o → ∃ t, exec (.tallyRead r x) s = .next t ∧ t.descIs r d.num 0x0E ∧ t.mem = s.mem) ∧
      let c := s.countCores q.stall
      let bs := c.tallyBlock q.stall
      (tallyBad d.words = none →
        (wf d.words 1 63 63 = 1 →
          (∀ c, x = .fail c → ∃ t, exec (.tallyRead r x) s = .next t ∧ t.descIs r d.num 0x2F ∧ t.mem = s.mem) ∧
          (∀ l, x = .bytes l → ∃ t, exec (.tallyRead r x) s = .next t ∧ t.descIs r d.num 0 ∧ t.mem = s.mem ∧
            t.out = (s.hostWrites q.func q.pasid (wf d.words 2 63 0) bs q.roData).out ∧
            (wf d.words 1 62 62 = 1 → ∀ off, off ≠ 0x30 → tget 0 (t.stall q.stall).tally off = 0))) ∧
        (wf d.words 1 63 63 = 0 →
          (s.writeWaits q.stall (devAddr' (wf d.words 2 63 0)) 256 = true → exec (.tallyRead r x) s = .next s) ∧
          (s.writeWaits q.stall (devAddr' (wf d.words 2 63 0)) 256 = false →
            (∀ u, (devAddr (wf d.words 2 63 0) >>= fun a => c.wrDva q.stall a bs) = .ok u →
              ∃ t, exec (.tallyRead r x) s = .next t ∧ t.descIs r d.num 0 ∧ t.mem = u.mem) ∧
            (∀ m, (devAddr (wf d.words 2 63 0) >>= fun a => c.wrDva q.stall a bs) = .error m → c.holdFor (.desc r d.num) m = none →
              ∃ t, exec (.tallyRead r x) s = .next t ∧ t.descIs r d.num m.cause ∧ t.mem = s.mem))))

/-- FENCE (R330): it starts only when every earlier descriptor of its ring has completed, and until it is done no descriptor after it is the ring's head, the one descriptor
that may dispatch. -/
def Obligations.FenceOrder : Prop :=
  ∀ (s : Machine.State) (r : RingNo),
    (∀ d, s.eventHead r 0 = some d → (s.ring r).allBefore d.num = false → exec (.fenceDesc r) s = .next s) ∧
    (∀ ty e, s.headOf r ty = some e → (s.ring r).head? = some e) ∧
    ∀ pre d post e, (s.ring r).ds = pre ++ d :: post → d.type = 7 → eOp d.words = 0 → d.ph ≠ .done → ((s.ring r).ds.map RDesc.num).Nodup →
      (s.ring r).head? = some e → e ∉ post

/-- Completion records (R329): the records of a ring, whose descriptors stand in number order, are written in that order: a descriptor that is not done holds back every later
one; once it is done, and no write of its stall waits for a refill, its record is written and the next number is the oldest. -/
def Obligations.RecordOrder : Prop :=
  ∀ (s : Machine.State) (r : RingNo) (d : RDesc) (l : List RDesc), s.wf = true → (s.ring r).ds = d :: l →
    (∀ k e, (d :: l)[k]? = some e → e.num = d.num + BitVec.ofNat 32 k) →
    let x := s.ring r
    (∀ took, d.ph ≠ .done → exec (.completionRecord r took) s = .next s) ∧
    (d.ph = .done → s.delays x.stall = false → ∃ t, exec (.completionRecord r .all) s = .next t ∧
      .hostWrite x.func x.pasid (x.cqAddr d.num) (s.recordBytes x d) false ∈ t.out ∧ (t.ring r).ds.map RDesc.num = l.map RDesc.num ∧
      ∀ k e, (t.ring r).ds[k]? = some e → e.num = d.num + 1 + BitVec.ofNat 32 k)

/-- Completion records and interrupts (R327 to R334, R336, R337, R375): the record of the ring's oldest descriptor goes out once it is done and no write of its stall waits for a refill, with its interrupt where there is one, or
its vector's pending bit where the vector is masked; a record or an interrupt that the host does not take stops the ring; a status that cancels sets the ring CANCELLING; the
coalescing time raises the interrupt. -/
def Obligations.CompletionRecords : Prop :=
  ∀ (s : Machine.State) (r : RingNo) (took : Delivery), s.wf = true →
    let x := s.ring r
    let i := Instr.completionRecord r took
    let v := tget {} (s.fn x.func).msix x.vector
    let masked := bitAt v.ctl 0
    (x.ds = [] → exec i s = .next s) ∧
    (∀ d l, x.ds = d :: l → d.ph ≠ .done → exec i s = .next s) ∧
    (s.delays x.stall = true → exec i s = .next s) ∧
    (∀ d l, x.ds = d :: l → d.ph = .done → s.delays x.stall = false →
      (took = .all → d.cancels = false → ∃ t rest, exec i s = .next t ∧ (t.ring r).ds = l ∧ (t.ring r).st = x.st ∧ t.mem = s.mem ∧
        t.out = s.out ++ .hostWrite x.func x.pasid (x.cqAddr d.num) (s.recordBytes x d) false :: rest ∧
        (rest = [] ∨ (x.irqEn = true ∧ masked = false ∧ rest = [.msix x.func x.vector v.addr v.data])) ∧
        (x.irqEn = true → bitAt (d.w 0) 59 = true → if masked then x.vector ∈ (t.fn x.func).pba else rest ≠ [])) ∧
      (took = .all → d.cancels = true → x.st = .running → x.stopping = false → ∃ t, exec i s = .next t ∧ (t.ring r).st = .cancelling) ∧
      (took = .noInterrupt → x.irqEn = true → bitAt (d.w 0) 59 = true → d.cancels = false →
        if masked then exec i s = exec (.completionRecord r .all) s
        else ∃ t, exec i s = .next t ∧ (t.ring r).st = .stopped ∧ (t.ring r).ds = l ∧
          .hostWrite x.func x.pasid (x.cqAddr d.num) (s.recordBytes x d) false ∈ t.out) ∧
      (took = .noRecord → ∃ t, exec i s = .next t ∧ (t.ring r).st = .stopped)) ∧
    (∀ t0 (delivered : Bool), x.coalFirst = some t0 → x.irqEn = true → s.fretCeil (t0 + 256 * x.coalFrets) ≤ s.clock →
      ∃ t, exec (.coalesceTimeout r delivered) s = .next t ∧ (t.ring r).coalFirst = none ∧ (t.ring r).coalN = 0 ∧ (t.ring r).ds = x.ds ∧
        (masked = true → t.out = s.out ∧ x.vector ∈ (t.fn x.func).pba) ∧
        (masked = false → if delivered then t.out = s.out ++ [.msix x.func x.vector v.addr v.data] else (t.ring r).st = .stopped)) ∧
    ∀ delivered : Bool, (∀ t0, x.coalFirst = some t0 → x.irqEn = false ∨ s.clock < s.fretCeil (t0 + 256 * x.coalFrets)) →
      exec (.coalesceTimeout r delivered) s = .next s

/-- RING_CMD (R310, R311, R461): each operation ends with the RESULT of the first check that fails, or with its effect and OK; one that comes while BUSY changes nothing. -/
def Obligations.RingCommands : Prop :=
  ∀ (s : Machine.State) (f : FnNo) (v : W32), s.wf = true →
    let i := fld v 15 0
    (∀ c ∈ ([(.ringCreate f v, 1, 5), (.ringStop f v, 2, 1), (.ringResume f v, 3, 1), (.ringDestroy f v, 4, 1)] : List (Instr × Nat × Nat)),
      (¬ s.ringCmdReady f v c.2.1 → exec c.1 s = .next s) ∧
      (s.ringCmdReady f v c.2.1 → s.ringNo f i = none → ∃ t, exec c.1 s = .next t ∧ t.ringEnded f c.2.2 ∧ t.rings = s.rings ∧ t.mem = s.mem)) ∧
    (∀ g, s.ringNo f i = some g →
      let x := s.ring g
      let y := (s.fn f).ringOf f i
      (s.ringCmdReady f v 1 →
        (x.st ≠ .free → ∃ t, exec (.ringCreate f v) s = .next t ∧ t.ringEnded f 2 ∧ t.rings = s.rings) ∧
        (x.st = .free → (s.fn f).ctxOk = false ∨ s.classTaken y = true → ∃ t, exec (.ringCreate f v) s = .next t ∧ t.ringEnded f 4 ∧ t.rings = s.rings) ∧
        (x.st = .free → (s.fn f).ctxOk = true → s.classTaken y = false →
          ((s.stall y.stall).st = .free ∨ (s.stall y.stall).func ≠ f.val → ∃ t, exec (.ringCreate f v) s = .next t ∧ t.ringEnded f 3 ∧ t.rings = s.rings) ∧
          ((s.stall y.stall).st ≠ .free → (s.stall y.stall).func = f.val → ∃ t, exec (.ringCreate f v) s = .next t ∧ t.ringEnded f 0 ∧ t.ring g = y ∧
            t.mem = s.mem))) ∧
      (s.ringCmdReady f v 2 →
        (x.st ≠ .running → x.st ≠ .cancelling → ∃ t, exec (.ringStop f v) s = .next t ∧ t.ringEnded f 2 ∧ t.rings = s.rings) ∧
        (x.st = .running ∨ x.st = .cancelling → ∃ t, exec (.ringStop f v) s = .next t ∧ (t.fn f).ringCmd.busy = true ∧ t.ring g = { x with stopping := true } ∧
          t.mem = s.mem)) ∧
      (s.ringCmdReady f v 3 →
        (x.st ≠ .stopped → x.st ≠ .cancelling → ∃ t, exec (.ringResume f v) s = .next t ∧ t.ringEnded f 2 ∧ t.rings = s.rings) ∧
        (x.st = .stopped ∨ x.st = .cancelling → ∃ t, exec (.ringResume f v) s = .next t ∧ t.ringEnded f 0 ∧ t.ring g = { x with st := .running, failed := none } ∧
          (t.fn f).ringCount = x.incomplete ∧ t.mem = s.mem)) ∧
      (s.ringCmdReady f v 4 →
        (x.st ≠ .stopped → x.st ≠ .free → ∃ t, exec (.ringDestroy f v) s = .next t ∧ t.ringEnded f 2 ∧ t.rings = s.rings) ∧
        (x.st = .stopped ∨ x.st = .free → ∃ t, exec (.ringDestroy f v) s = .next t ∧ t.ringEnded f 0 ∧ t.ring g = {} ∧ g ∉ t.hosts.kicks ∧
          { t.mem with held := [] } = { s.mem with held := [] } ∧ ∀ d n, d ∈ x.ds → s.ctxFor g d.num = some n → t.ctx? n = none))) ∧
    ∀ r : RingNo,
      let x := s.ring r
      let drained := x.ds.all fun d => d.ph != .running && d.ph != .done
      (x.stopping = false ∨ drained = false → exec (.ringStopDone r) s = .next s) ∧
      (x.stopping = true → drained = true → ∃ t, exec (.ringStopDone r) s = .next t ∧ t.ring r = { x with st := .stopped, stopping := false } ∧
        (t.fn x.func).ringCmd.busy = false ∧ (t.fn x.func).ringCmd.result = 0 ∧ (t.fn x.func).ringCount = x.undispatched ∧ t.mem = s.mem)

/-- Functions and host ports (R306 to R308, R338, R419, R457, R472, Table 13.2): an FLR and a VF that is disabled reset their function; a port that leaves L0 or is put into
PERST resets all of its functions and disables its VFs; it trains again only out of PERST; PERST moves while PWROK is low only its level; before READY the PF of a port in L0
answers a configuration request with Request Retry Status (R417); an invalidation completes at once. -/
def Obligations.FunctionsAndPorts : Prop :=
  (∀ (s : Machine.State) (f : FnNo), s.wf = true →
    (s.tun.boot ≠ .booting → s.regOk f = false → exec (.flr f) s = .next s) ∧
    (s.tun.boot = .booting → exec (.flr f) s = .next (if s.hosts.l0.toNat.testBit (f.val / 1024) = true ∧ f.val % 1024 = 0 then s.drive (.configRetry f.val) else s)) ∧
    (s.regOk f = true →
      (f.val % 1024 ≠ 0 → ∃ t, exec (.flr f) s = .next t ∧ FnReset s t f ∧ t.hosts.vfs = s.hosts.vfs ∧
        ∀ st ∈ s.stallsOf f, (s.fn f).tdi = .unlocked → (s.stall st).st = .active → (t.stall st).st = .resetting) ∧
      (f.val % 1024 = 0 → ∃ t, exec (.flr f) s = .next t ∧ (∀ g ∈ s.portFns (f.val / 1024), FnReset s t g) ∧ tget 0 t.hosts.vfs (f.val / 1024) = 0)) ∧
    ∀ itag, (s.regOk f = true → exec (.atsInvalidate f itag) s = .next (s.drive (.cfgDone f itag.toNat))) ∧
      (s.regOk f = false → exec (.atsInvalidate f itag) s = .next s)) ∧
  ∀ (s : Machine.State) (p : HostPortNo), s.wf = true →
    let inReset := s.pins.perst.toNat.testBit p
    let up := s.hosts.l0.toNat.testBit p
    let fell := fun (t : Machine.State) => t.hosts.l0.toNat.testBit p = false ∧ tget 0 t.hosts.vfs p = 0 ∧ ∀ g ∈ s.portFns p, FnReset s t g
    (inReset = true → exec (.perst p) s = .next s) ∧
    (s.pins.pwrok = false → inReset = false → ∃ t, exec (.perst p) s = .next t ∧ t = { s with pins := t.pins } ∧ t.pins.perst.toNat.testBit p = true) ∧
    (s.pins.pwrok = true → inReset = false → ∃ t, exec (.perst p) s = .next t ∧ t.pins.perst.toNat.testBit p = true ∧ fell t ∧
      t.out.getLast? = some (.link p false)) ∧
    (inReset = false → exec (.perstDeassert p) s = .next s) ∧
    (inReset = true → ∃ t, exec (.perstDeassert p) s = .next t ∧ t.pins.perst.toNat.testBit p = false ∧ t.hosts = s.hosts ∧
      t.mem = s.mem ∧ t.out = s.out ++ (if s.pins.pwrok = true ∧ s.tun.noHost = false ∧ p.val ∈ bifPorts s.tun.live then [.link p true] else [])) ∧
    (∀ w, (up = false → exec (.hostPortLeavesL0 p w) s = .next s) ∧ (up = true → ∃ t, exec (.hostPortLeavesL0 p w) s = .next t ∧ fell t)) ∧
    (∀ flit w, (s.portTrains p = false ∨ up = true → exec (.hostPortReachesL0 p flit w) s = .next s) ∧
      (s.portTrains p = true → up = false →
        (flit = true → exec (.hostPortReachesL0 p flit w) s = .next { s with hosts := { s.hosts with l0 := setBit4 s.hosts.l0 p true } }) ∧
        (flit = false → ∃ t, exec (.hostPortReachesL0 p flit w) s = .next t ∧ t.hosts = s.hosts ∧ t.mem = s.mem))) ∧
    ∀ n : BitVec 10, (s.tun.boot ≠ .booting → s.regOk (p.val * 1024) = false ∨ vfTotal s.tun.live p < n.toNat → exec (.vfEnable p n) s = .next s) ∧
      (s.tun.boot = .booting → exec (.vfEnable p n) s = .next (if up = true then s.drive (.configRetry (p.val * 1024)) else s)) ∧
      (s.regOk (p.val * 1024) = true → n.toNat ≤ vfTotal s.tun.live p → ∃ t, exec (.vfEnable p n) s = .next t ∧ tget 0 t.hosts.vfs p = n.toNat ∧
        ∀ k, n.toNat < k → k ≤ tget 0 s.hosts.vfs p → FnReset s t (p.val * 1024 + k))
end

