-- ==== Sys2Proof/Laws/State.lean ====
section
/-! SUPPORT. What each update of a unit of State leaves of each field: one lemma per field per update, true by unfolding, so that no proof
unfolds a record update. -/

namespace Sys2Proof.Machine

/-! ### setCore -/

@[simp] theorem State.setCore_pending (s : State) (n : Nat) (x : Core) : (s.setCore n x).pending = s.pending := rfl
@[simp] theorem State.setCore_str (s : State) (n : Nat) (x : Core) : (s.setCore n x).str = s.str := rfl
@[simp] theorem State.setCore_cores (s : State) (n : Nat) (x : Core) : (s.setCore n x).cores = tset {} s.cores n x := rfl
@[simp] theorem State.setCore_ctxs (s : State) (n : Nat) (x : Core) : (s.setCore n x).ctxs = s.ctxs := rfl
@[simp] theorem State.setCore_nextCtx (s : State) (n : Nat) (x : Core) : (s.setCore n x).nextCtx = s.nextCtx := rfl
@[simp] theorem State.setCore_nextId (s : State) (n : Nat) (x : Core) : (s.setCore n x).nextId = s.nextId := rfl
@[simp] theorem State.setCore_mem (s : State) (n : Nat) (x : Core) : (s.setCore n x).mem = s.mem := rfl
@[simp] theorem State.setCore_slices (s : State) (n : Nat) (x : Core) : (s.setCore n x).slices = s.slices := rfl
@[simp] theorem State.setCore_stalls (s : State) (n : Nat) (x : Core) : (s.setCore n x).stalls = s.stalls := rfl
@[simp] theorem State.setCore_nextKey (s : State) (n : Nat) (x : Core) : (s.setCore n x).nextKey = s.nextKey := rfl
@[simp] theorem State.setCore_keyEra (s : State) (n : Nat) (x : Core) : (s.setCore n x).keyEra = s.keyEra := rfl
@[simp] theorem State.setCore_rings (s : State) (n : Nat) (x : Core) : (s.setCore n x).rings = s.rings := rfl
@[simp] theorem State.setCore_fns (s : State) (n : Nat) (x : Core) : (s.setCore n x).fns = s.fns := rfl
@[simp] theorem State.setCore_stl (s : State) (n : Nat) (x : Core) : (s.setCore n x).stl = s.stl := rfl
@[simp] theorem State.setCore_stlInval (s : State) (n : Nat) (x : Core) : (s.setCore n x).stlInval = s.stlInval := rfl
@[simp] theorem State.setCore_stlCtx (s : State) (n : Nat) (x : Core) : (s.setCore n x).stlCtx = s.stlCtx := rfl
@[simp] theorem State.setCore_ports (s : State) (n : Nat) (x : Core) : (s.setCore n x).ports = s.ports := rfl
@[simp] theorem State.setCore_best (s : State) (n : Nat) (x : Core) : (s.setCore n x).best = s.best := rfl
@[simp] theorem State.setCore_colls (s : State) (n : Nat) (x : Core) : (s.setCore n x).colls = s.colls := rfl
@[simp] theorem State.setCore_passDue (s : State) (n : Nat) (x : Core) : (s.setCore n x).passDue = s.passDue := rfl
@[simp] theorem State.setCore_kept (s : State) (n : Nat) (x : Core) : (s.setCore n x).kept = s.kept := rfl
@[simp] theorem State.setCore_stores (s : State) (n : Nat) (x : Core) : (s.setCore n x).stores = s.stores := rfl
@[simp] theorem State.setCore_led (s : State) (n : Nat) (x : Core) : (s.setCore n x).led = s.led := rfl
@[simp] theorem State.setCore_mtxShadow (s : State) (n : Nat) (x : Core) : (s.setCore n x).mtxShadow = s.mtxShadow := rfl
@[simp] theorem State.setCore_tun (s : State) (n : Nat) (x : Core) : (s.setCore n x).tun = s.tun := rfl
@[simp] theorem State.setCore_nv (s : State) (n : Nat) (x : Core) : (s.setCore n x).nv = s.nv := rfl
@[simp] theorem State.setCore_sec (s : State) (n : Nat) (x : Core) : (s.setCore n x).sec = s.sec := rfl
@[simp] theorem State.setCore_pwr (s : State) (n : Nat) (x : Core) : (s.setCore n x).pwr = s.pwr := rfl
@[simp] theorem State.setCore_pins (s : State) (n : Nat) (x : Core) : (s.setCore n x).pins = s.pins := rfl
@[simp] theorem State.setCore_hosts (s : State) (n : Nat) (x : Core) : (s.setCore n x).hosts = s.hosts := rfl
@[simp] theorem State.setCore_limits (s : State) (n : Nat) (x : Core) : (s.setCore n x).limits = s.limits := rfl
@[simp] theorem State.setCore_out (s : State) (n : Nat) (x : Core) : (s.setCore n x).out = s.out := rfl
@[simp] theorem State.setCore_rnd (s : State) (n : Nat) (x : Core) : (s.setCore n x).rnd = s.rnd := rfl

/-! ### setStall -/

@[simp] theorem State.setStall_pending (s : State) (n : Nat) (x : Stall) : (s.setStall n x).pending = s.pending := rfl
@[simp] theorem State.setStall_str (s : State) (n : Nat) (x : Stall) : (s.setStall n x).str = s.str := rfl
@[simp] theorem State.setStall_cores (s : State) (n : Nat) (x : Stall) : (s.setStall n x).cores = s.cores := rfl
@[simp] theorem State.setStall_ctxs (s : State) (n : Nat) (x : Stall) : (s.setStall n x).ctxs = s.ctxs := rfl
@[simp] theorem State.setStall_nextCtx (s : State) (n : Nat) (x : Stall) : (s.setStall n x).nextCtx = s.nextCtx := rfl
@[simp] theorem State.setStall_nextId (s : State) (n : Nat) (x : Stall) : (s.setStall n x).nextId = s.nextId := rfl
@[simp] theorem State.setStall_mem (s : State) (n : Nat) (x : Stall) : (s.setStall n x).mem = s.mem := rfl
@[simp] theorem State.setStall_slices (s : State) (n : Nat) (x : Stall) : (s.setStall n x).slices = s.slices := rfl
@[simp] theorem State.setStall_stalls (s : State) (n : Nat) (x : Stall) : (s.setStall n x).stalls = tset {} s.stalls n x := rfl
@[simp] theorem State.setStall_nextKey (s : State) (n : Nat) (x : Stall) : (s.setStall n x).nextKey = s.nextKey := rfl
@[simp] theorem State.setStall_keyEra (s : State) (n : Nat) (x : Stall) : (s.setStall n x).keyEra = s.keyEra := rfl
@[simp] theorem State.setStall_rings (s : State) (n : Nat) (x : Stall) : (s.setStall n x).rings = s.rings := rfl
@[simp] theorem State.setStall_fns (s : State) (n : Nat) (x : Stall) : (s.setStall n x).fns = s.fns := rfl
@[simp] theorem State.setStall_stl (s : State) (n : Nat) (x : Stall) : (s.setStall n x).stl = s.stl := rfl
@[simp] theorem State.setStall_stlInval (s : State) (n : Nat) (x : Stall) : (s.setStall n x).stlInval = s.stlInval := rfl
@[simp] theorem State.setStall_stlCtx (s : State) (n : Nat) (x : Stall) : (s.setStall n x).stlCtx = s.stlCtx := rfl
@[simp] theorem State.setStall_ports (s : State) (n : Nat) (x : Stall) : (s.setStall n x).ports = s.ports := rfl
@[simp] theorem State.setStall_best (s : State) (n : Nat) (x : Stall) : (s.setStall n x).best = s.best := rfl
@[simp] theorem State.setStall_colls (s : State) (n : Nat) (x : Stall) : (s.setStall n x).colls = s.colls := rfl
@[simp] theorem State.setStall_passDue (s : State) (n : Nat) (x : Stall) : (s.setStall n x).passDue = s.passDue := rfl
@[simp] theorem State.setStall_kept (s : State) (n : Nat) (x : Stall) : (s.setStall n x).kept = s.kept := rfl
@[simp] theorem State.setStall_stores (s : State) (n : Nat) (x : Stall) : (s.setStall n x).stores = s.stores := rfl
@[simp] theorem State.setStall_led (s : State) (n : Nat) (x : Stall) : (s.setStall n x).led = s.led := rfl
@[simp] theorem State.setStall_mtxShadow (s : State) (n : Nat) (x : Stall) : (s.setStall n x).mtxShadow = s.mtxShadow := rfl
@[simp] theorem State.setStall_tun (s : State) (n : Nat) (x : Stall) : (s.setStall n x).tun = s.tun := rfl
@[simp] theorem State.setStall_nv (s : State) (n : Nat) (x : Stall) : (s.setStall n x).nv = s.nv := rfl
@[simp] theorem State.setStall_sec (s : State) (n : Nat) (x : Stall) : (s.setStall n x).sec = s.sec := rfl
@[simp] theorem State.setStall_pwr (s : State) (n : Nat) (x : Stall) : (s.setStall n x).pwr = s.pwr := rfl
@[simp] theorem State.setStall_pins (s : State) (n : Nat) (x : Stall) : (s.setStall n x).pins = s.pins := rfl
@[simp] theorem State.setStall_hosts (s : State) (n : Nat) (x : Stall) : (s.setStall n x).hosts = s.hosts := rfl
@[simp] theorem State.setStall_limits (s : State) (n : Nat) (x : Stall) : (s.setStall n x).limits = s.limits := rfl
@[simp] theorem State.setStall_out (s : State) (n : Nat) (x : Stall) : (s.setStall n x).out = s.out := rfl
@[simp] theorem State.setStall_rnd (s : State) (n : Nat) (x : Stall) : (s.setStall n x).rnd = s.rnd := rfl

/-! ### setRing -/

@[simp] theorem State.setRing_pending (s : State) (n : Nat) (x : Ring) : (s.setRing n x).pending = s.pending := rfl
@[simp] theorem State.setRing_str (s : State) (n : Nat) (x : Ring) : (s.setRing n x).str = s.str := rfl
@[simp] theorem State.setRing_cores (s : State) (n : Nat) (x : Ring) : (s.setRing n x).cores = s.cores := rfl
@[simp] theorem State.setRing_ctxs (s : State) (n : Nat) (x : Ring) : (s.setRing n x).ctxs = s.ctxs := rfl
@[simp] theorem State.setRing_nextCtx (s : State) (n : Nat) (x : Ring) : (s.setRing n x).nextCtx = s.nextCtx := rfl
@[simp] theorem State.setRing_nextId (s : State) (n : Nat) (x : Ring) : (s.setRing n x).nextId = s.nextId := rfl
@[simp] theorem State.setRing_mem (s : State) (n : Nat) (x : Ring) : (s.setRing n x).mem = s.mem := rfl
@[simp] theorem State.setRing_slices (s : State) (n : Nat) (x : Ring) : (s.setRing n x).slices = s.slices := rfl
@[simp] theorem State.setRing_stalls (s : State) (n : Nat) (x : Ring) : (s.setRing n x).stalls = s.stalls := rfl
@[simp] theorem State.setRing_nextKey (s : State) (n : Nat) (x : Ring) : (s.setRing n x).nextKey = s.nextKey := rfl
@[simp] theorem State.setRing_keyEra (s : State) (n : Nat) (x : Ring) : (s.setRing n x).keyEra = s.keyEra := rfl
@[simp] theorem State.setRing_rings (s : State) (n : Nat) (x : Ring) : (s.setRing n x).rings = tset {} s.rings n x := rfl
@[simp] theorem State.setRing_fns (s : State) (n : Nat) (x : Ring) : (s.setRing n x).fns = s.fns := rfl
@[simp] theorem State.setRing_stl (s : State) (n : Nat) (x : Ring) : (s.setRing n x).stl = s.stl := rfl
@[simp] theorem State.setRing_stlInval (s : State) (n : Nat) (x : Ring) : (s.setRing n x).stlInval = s.stlInval := rfl
@[simp] theorem State.setRing_stlCtx (s : State) (n : Nat) (x : Ring) : (s.setRing n x).stlCtx = s.stlCtx := rfl
@[simp] theorem State.setRing_ports (s : State) (n : Nat) (x : Ring) : (s.setRing n x).ports = s.ports := rfl
@[simp] theorem State.setRing_best (s : State) (n : Nat) (x : Ring) : (s.setRing n x).best = s.best := rfl
@[simp] theorem State.setRing_colls (s : State) (n : Nat) (x : Ring) : (s.setRing n x).colls = s.colls := rfl
@[simp] theorem State.setRing_passDue (s : State) (n : Nat) (x : Ring) : (s.setRing n x).passDue = s.passDue := rfl
@[simp] theorem State.setRing_kept (s : State) (n : Nat) (x : Ring) : (s.setRing n x).kept = s.kept := rfl
@[simp] theorem State.setRing_stores (s : State) (n : Nat) (x : Ring) : (s.setRing n x).stores = s.stores := rfl
@[simp] theorem State.setRing_led (s : State) (n : Nat) (x : Ring) : (s.setRing n x).led = s.led := rfl
@[simp] theorem State.setRing_mtxShadow (s : State) (n : Nat) (x : Ring) : (s.setRing n x).mtxShadow = s.mtxShadow := rfl
@[simp] theorem State.setRing_tun (s : State) (n : Nat) (x : Ring) : (s.setRing n x).tun = s.tun := rfl
@[simp] theorem State.setRing_nv (s : State) (n : Nat) (x : Ring) : (s.setRing n x).nv = s.nv := rfl
@[simp] theorem State.setRing_sec (s : State) (n : Nat) (x : Ring) : (s.setRing n x).sec = s.sec := rfl
@[simp] theorem State.setRing_pwr (s : State) (n : Nat) (x : Ring) : (s.setRing n x).pwr = s.pwr := rfl
@[simp] theorem State.setRing_pins (s : State) (n : Nat) (x : Ring) : (s.setRing n x).pins = s.pins := rfl
@[simp] theorem State.setRing_hosts (s : State) (n : Nat) (x : Ring) : (s.setRing n x).hosts = s.hosts := rfl
@[simp] theorem State.setRing_limits (s : State) (n : Nat) (x : Ring) : (s.setRing n x).limits = s.limits := rfl
@[simp] theorem State.setRing_out (s : State) (n : Nat) (x : Ring) : (s.setRing n x).out = s.out := rfl
@[simp] theorem State.setRing_rnd (s : State) (n : Nat) (x : Ring) : (s.setRing n x).rnd = s.rnd := rfl

/-! ### setFn -/

@[simp] theorem State.setFn_pending (s : State) (n : Nat) (x : Fn) : (s.setFn n x).pending = s.pending := rfl
@[simp] theorem State.setFn_str (s : State) (n : Nat) (x : Fn) : (s.setFn n x).str = s.str := rfl
@[simp] theorem State.setFn_cores (s : State) (n : Nat) (x : Fn) : (s.setFn n x).cores = s.cores := rfl
@[simp] theorem State.setFn_ctxs (s : State) (n : Nat) (x : Fn) : (s.setFn n x).ctxs = s.ctxs := rfl
@[simp] theorem State.setFn_nextCtx (s : State) (n : Nat) (x : Fn) : (s.setFn n x).nextCtx = s.nextCtx := rfl
@[simp] theorem State.setFn_nextId (s : State) (n : Nat) (x : Fn) : (s.setFn n x).nextId = s.nextId := rfl
@[simp] theorem State.setFn_mem (s : State) (n : Nat) (x : Fn) : (s.setFn n x).mem = s.mem := rfl
@[simp] theorem State.setFn_slices (s : State) (n : Nat) (x : Fn) : (s.setFn n x).slices = s.slices := rfl
@[simp] theorem State.setFn_stalls (s : State) (n : Nat) (x : Fn) : (s.setFn n x).stalls = s.stalls := rfl
@[simp] theorem State.setFn_nextKey (s : State) (n : Nat) (x : Fn) : (s.setFn n x).nextKey = s.nextKey := rfl
@[simp] theorem State.setFn_keyEra (s : State) (n : Nat) (x : Fn) : (s.setFn n x).keyEra = s.keyEra := rfl
@[simp] theorem State.setFn_rings (s : State) (n : Nat) (x : Fn) : (s.setFn n x).rings = s.rings := rfl
@[simp] theorem State.setFn_fns (s : State) (n : Nat) (x : Fn) : (s.setFn n x).fns = tset {} s.fns n x := rfl
@[simp] theorem State.setFn_stl (s : State) (n : Nat) (x : Fn) : (s.setFn n x).stl = s.stl := rfl
@[simp] theorem State.setFn_stlInval (s : State) (n : Nat) (x : Fn) : (s.setFn n x).stlInval = s.stlInval := rfl
@[simp] theorem State.setFn_stlCtx (s : State) (n : Nat) (x : Fn) : (s.setFn n x).stlCtx = s.stlCtx := rfl
@[simp] theorem State.setFn_ports (s : State) (n : Nat) (x : Fn) : (s.setFn n x).ports = s.ports := rfl
@[simp] theorem State.setFn_best (s : State) (n : Nat) (x : Fn) : (s.setFn n x).best = s.best := rfl
@[simp] theorem State.setFn_colls (s : State) (n : Nat) (x : Fn) : (s.setFn n x).colls = s.colls := rfl
@[simp] theorem State.setFn_passDue (s : State) (n : Nat) (x : Fn) : (s.setFn n x).passDue = s.passDue := rfl
@[simp] theorem State.setFn_kept (s : State) (n : Nat) (x : Fn) : (s.setFn n x).kept = s.kept := rfl
@[simp] theorem State.setFn_stores (s : State) (n : Nat) (x : Fn) : (s.setFn n x).stores = s.stores := rfl
@[simp] theorem State.setFn_led (s : State) (n : Nat) (x : Fn) : (s.setFn n x).led = s.led := rfl
@[simp] theorem State.setFn_mtxShadow (s : State) (n : Nat) (x : Fn) : (s.setFn n x).mtxShadow = s.mtxShadow := rfl
@[simp] theorem State.setFn_tun (s : State) (n : Nat) (x : Fn) : (s.setFn n x).tun = s.tun := rfl
@[simp] theorem State.setFn_nv (s : State) (n : Nat) (x : Fn) : (s.setFn n x).nv = s.nv := rfl
@[simp] theorem State.setFn_sec (s : State) (n : Nat) (x : Fn) : (s.setFn n x).sec = s.sec := rfl
@[simp] theorem State.setFn_pwr (s : State) (n : Nat) (x : Fn) : (s.setFn n x).pwr = s.pwr := rfl
@[simp] theorem State.setFn_pins (s : State) (n : Nat) (x : Fn) : (s.setFn n x).pins = s.pins := rfl
@[simp] theorem State.setFn_hosts (s : State) (n : Nat) (x : Fn) : (s.setFn n x).hosts = s.hosts := rfl
@[simp] theorem State.setFn_limits (s : State) (n : Nat) (x : Fn) : (s.setFn n x).limits = s.limits := rfl
@[simp] theorem State.setFn_out (s : State) (n : Nat) (x : Fn) : (s.setFn n x).out = s.out := rfl
@[simp] theorem State.setFn_rnd (s : State) (n : Nat) (x : Fn) : (s.setFn n x).rnd = s.rnd := rfl

/-! ### setPort -/

@[simp] theorem State.setPort_pending (s : State) (n : Nat) (x : Port) : (s.setPort n x).pending = s.pending := rfl
@[simp] theorem State.setPort_str (s : State) (n : Nat) (x : Port) : (s.setPort n x).str = s.str := rfl
@[simp] theorem State.setPort_cores (s : State) (n : Nat) (x : Port) : (s.setPort n x).cores = s.cores := rfl
@[simp] theorem State.setPort_ctxs (s : State) (n : Nat) (x : Port) : (s.setPort n x).ctxs = s.ctxs := rfl
@[simp] theorem State.setPort_nextCtx (s : State) (n : Nat) (x : Port) : (s.setPort n x).nextCtx = s.nextCtx := rfl
@[simp] theorem State.setPort_nextId (s : State) (n : Nat) (x : Port) : (s.setPort n x).nextId = s.nextId := rfl
@[simp] theorem State.setPort_mem (s : State) (n : Nat) (x : Port) : (s.setPort n x).mem = s.mem := rfl
@[simp] theorem State.setPort_slices (s : State) (n : Nat) (x : Port) : (s.setPort n x).slices = s.slices := rfl
@[simp] theorem State.setPort_stalls (s : State) (n : Nat) (x : Port) : (s.setPort n x).stalls = s.stalls := rfl
@[simp] theorem State.setPort_nextKey (s : State) (n : Nat) (x : Port) : (s.setPort n x).nextKey = s.nextKey := rfl
@[simp] theorem State.setPort_keyEra (s : State) (n : Nat) (x : Port) : (s.setPort n x).keyEra = s.keyEra := rfl
@[simp] theorem State.setPort_rings (s : State) (n : Nat) (x : Port) : (s.setPort n x).rings = s.rings := rfl
@[simp] theorem State.setPort_fns (s : State) (n : Nat) (x : Port) : (s.setPort n x).fns = s.fns := rfl
@[simp] theorem State.setPort_stl (s : State) (n : Nat) (x : Port) : (s.setPort n x).stl = s.stl := rfl
@[simp] theorem State.setPort_stlInval (s : State) (n : Nat) (x : Port) : (s.setPort n x).stlInval = s.stlInval := rfl
@[simp] theorem State.setPort_stlCtx (s : State) (n : Nat) (x : Port) : (s.setPort n x).stlCtx = s.stlCtx := rfl
@[simp] theorem State.setPort_ports (s : State) (n : Nat) (x : Port) : (s.setPort n x).ports = tset {} s.ports n x := rfl
@[simp] theorem State.setPort_best (s : State) (n : Nat) (x : Port) : (s.setPort n x).best = s.best := rfl
@[simp] theorem State.setPort_colls (s : State) (n : Nat) (x : Port) : (s.setPort n x).colls = s.colls := rfl
@[simp] theorem State.setPort_passDue (s : State) (n : Nat) (x : Port) : (s.setPort n x).passDue = s.passDue := rfl
@[simp] theorem State.setPort_kept (s : State) (n : Nat) (x : Port) : (s.setPort n x).kept = s.kept := rfl
@[simp] theorem State.setPort_stores (s : State) (n : Nat) (x : Port) : (s.setPort n x).stores = s.stores := rfl
@[simp] theorem State.setPort_led (s : State) (n : Nat) (x : Port) : (s.setPort n x).led = s.led := rfl
@[simp] theorem State.setPort_mtxShadow (s : State) (n : Nat) (x : Port) : (s.setPort n x).mtxShadow = s.mtxShadow := rfl
@[simp] theorem State.setPort_tun (s : State) (n : Nat) (x : Port) : (s.setPort n x).tun = s.tun := rfl
@[simp] theorem State.setPort_nv (s : State) (n : Nat) (x : Port) : (s.setPort n x).nv = s.nv := rfl
@[simp] theorem State.setPort_sec (s : State) (n : Nat) (x : Port) : (s.setPort n x).sec = s.sec := rfl
@[simp] theorem State.setPort_pwr (s : State) (n : Nat) (x : Port) : (s.setPort n x).pwr = s.pwr := rfl
@[simp] theorem State.setPort_pins (s : State) (n : Nat) (x : Port) : (s.setPort n x).pins = s.pins := rfl
@[simp] theorem State.setPort_hosts (s : State) (n : Nat) (x : Port) : (s.setPort n x).hosts = s.hosts := rfl
@[simp] theorem State.setPort_limits (s : State) (n : Nat) (x : Port) : (s.setPort n x).limits = s.limits := rfl
@[simp] theorem State.setPort_out (s : State) (n : Nat) (x : Port) : (s.setPort n x).out = s.out := rfl
@[simp] theorem State.setPort_rnd (s : State) (n : Nat) (x : Port) : (s.setPort n x).rnd = s.rnd := rfl

/-! ### setCtx -/

@[simp] theorem State.setCtx_pending (s : State) (n : Nat) (x : Option Ctx) : (s.setCtx n x).pending = s.pending := rfl
@[simp] theorem State.setCtx_str (s : State) (n : Nat) (x : Option Ctx) : (s.setCtx n x).str = s.str := rfl
@[simp] theorem State.setCtx_cores (s : State) (n : Nat) (x : Option Ctx) : (s.setCtx n x).cores = s.cores := rfl
@[simp] theorem State.setCtx_ctxs (s : State) (n : Nat) (x : Option Ctx) : (s.setCtx n x).ctxs = tset none s.ctxs n x := rfl
@[simp] theorem State.setCtx_nextCtx (s : State) (n : Nat) (x : Option Ctx) : (s.setCtx n x).nextCtx = s.nextCtx := rfl
@[simp] theorem State.setCtx_nextId (s : State) (n : Nat) (x : Option Ctx) : (s.setCtx n x).nextId = s.nextId := rfl
@[simp] theorem State.setCtx_mem (s : State) (n : Nat) (x : Option Ctx) : (s.setCtx n x).mem = s.mem := rfl
@[simp] theorem State.setCtx_slices (s : State) (n : Nat) (x : Option Ctx) : (s.setCtx n x).slices = s.slices := rfl
@[simp] theorem State.setCtx_stalls (s : State) (n : Nat) (x : Option Ctx) : (s.setCtx n x).stalls = s.stalls := rfl
@[simp] theorem State.setCtx_nextKey (s : State) (n : Nat) (x : Option Ctx) : (s.setCtx n x).nextKey = s.nextKey := rfl
@[simp] theorem State.setCtx_keyEra (s : State) (n : Nat) (x : Option Ctx) : (s.setCtx n x).keyEra = s.keyEra := rfl
@[simp] theorem State.setCtx_rings (s : State) (n : Nat) (x : Option Ctx) : (s.setCtx n x).rings = s.rings := rfl
@[simp] theorem State.setCtx_fns (s : State) (n : Nat) (x : Option Ctx) : (s.setCtx n x).fns = s.fns := rfl
@[simp] theorem State.setCtx_stl (s : State) (n : Nat) (x : Option Ctx) : (s.setCtx n x).stl = s.stl := rfl
@[simp] theorem State.setCtx_stlInval (s : State) (n : Nat) (x : Option Ctx) : (s.setCtx n x).stlInval = s.stlInval := rfl
@[simp] theorem State.setCtx_stlCtx (s : State) (n : Nat) (x : Option Ctx) : (s.setCtx n x).stlCtx = s.stlCtx := rfl
@[simp] theorem State.setCtx_ports (s : State) (n : Nat) (x : Option Ctx) : (s.setCtx n x).ports = s.ports := rfl
@[simp] theorem State.setCtx_best (s : State) (n : Nat) (x : Option Ctx) : (s.setCtx n x).best = s.best := rfl
@[simp] theorem State.setCtx_colls (s : State) (n : Nat) (x : Option Ctx) : (s.setCtx n x).colls = s.colls := rfl
@[simp] theorem State.setCtx_passDue (s : State) (n : Nat) (x : Option Ctx) : (s.setCtx n x).passDue = s.passDue := rfl
@[simp] theorem State.setCtx_kept (s : State) (n : Nat) (x : Option Ctx) : (s.setCtx n x).kept = s.kept := rfl
@[simp] theorem State.setCtx_stores (s : State) (n : Nat) (x : Option Ctx) : (s.setCtx n x).stores = s.stores := rfl
@[simp] theorem State.setCtx_led (s : State) (n : Nat) (x : Option Ctx) : (s.setCtx n x).led = s.led := rfl
@[simp] theorem State.setCtx_mtxShadow (s : State) (n : Nat) (x : Option Ctx) : (s.setCtx n x).mtxShadow = s.mtxShadow := rfl
@[simp] theorem State.setCtx_tun (s : State) (n : Nat) (x : Option Ctx) : (s.setCtx n x).tun = s.tun := rfl
@[simp] theorem State.setCtx_nv (s : State) (n : Nat) (x : Option Ctx) : (s.setCtx n x).nv = s.nv := rfl
@[simp] theorem State.setCtx_sec (s : State) (n : Nat) (x : Option Ctx) : (s.setCtx n x).sec = s.sec := rfl
@[simp] theorem State.setCtx_pwr (s : State) (n : Nat) (x : Option Ctx) : (s.setCtx n x).pwr = s.pwr := rfl
@[simp] theorem State.setCtx_pins (s : State) (n : Nat) (x : Option Ctx) : (s.setCtx n x).pins = s.pins := rfl
@[simp] theorem State.setCtx_hosts (s : State) (n : Nat) (x : Option Ctx) : (s.setCtx n x).hosts = s.hosts := rfl
@[simp] theorem State.setCtx_limits (s : State) (n : Nat) (x : Option Ctx) : (s.setCtx n x).limits = s.limits := rfl
@[simp] theorem State.setCtx_out (s : State) (n : Nat) (x : Option Ctx) : (s.setCtx n x).out = s.out := rfl
@[simp] theorem State.setCtx_rnd (s : State) (n : Nat) (x : Option Ctx) : (s.setCtx n x).rnd = s.rnd := rfl

/-! ### drive -/

@[simp] theorem State.drive_pending (s : State) (o : Out) : (s.drive o).pending = s.pending := rfl
@[simp] theorem State.drive_str (s : State) (o : Out) : (s.drive o).str = s.str := rfl
@[simp] theorem State.drive_cores (s : State) (o : Out) : (s.drive o).cores = s.cores := rfl
@[simp] theorem State.drive_ctxs (s : State) (o : Out) : (s.drive o).ctxs = s.ctxs := rfl
@[simp] theorem State.drive_nextCtx (s : State) (o : Out) : (s.drive o).nextCtx = s.nextCtx := rfl
@[simp] theorem State.drive_nextId (s : State) (o : Out) : (s.drive o).nextId = s.nextId := rfl
@[simp] theorem State.drive_mem (s : State) (o : Out) : (s.drive o).mem = s.mem := rfl
@[simp] theorem State.drive_slices (s : State) (o : Out) : (s.drive o).slices = s.slices := rfl
@[simp] theorem State.drive_stalls (s : State) (o : Out) : (s.drive o).stalls = s.stalls := rfl
@[simp] theorem State.drive_nextKey (s : State) (o : Out) : (s.drive o).nextKey = s.nextKey := rfl
@[simp] theorem State.drive_keyEra (s : State) (o : Out) : (s.drive o).keyEra = s.keyEra := rfl
@[simp] theorem State.drive_rings (s : State) (o : Out) : (s.drive o).rings = s.rings := rfl
@[simp] theorem State.drive_fns (s : State) (o : Out) : (s.drive o).fns = s.fns := rfl
@[simp] theorem State.drive_stl (s : State) (o : Out) : (s.drive o).stl = s.stl := rfl
@[simp] theorem State.drive_stlInval (s : State) (o : Out) : (s.drive o).stlInval = s.stlInval := rfl
@[simp] theorem State.drive_stlCtx (s : State) (o : Out) : (s.drive o).stlCtx = s.stlCtx := rfl
@[simp] theorem State.drive_ports (s : State) (o : Out) : (s.drive o).ports = s.ports := rfl
@[simp] theorem State.drive_best (s : State) (o : Out) : (s.drive o).best = s.best := rfl
@[simp] theorem State.drive_colls (s : State) (o : Out) : (s.drive o).colls = s.colls := rfl
@[simp] theorem State.drive_passDue (s : State) (o : Out) : (s.drive o).passDue = s.passDue := rfl
@[simp] theorem State.drive_kept (s : State) (o : Out) : (s.drive o).kept = s.kept := rfl
@[simp] theorem State.drive_stores (s : State) (o : Out) : (s.drive o).stores = s.stores := rfl
@[simp] theorem State.drive_led (s : State) (o : Out) : (s.drive o).led = s.led := rfl
@[simp] theorem State.drive_mtxShadow (s : State) (o : Out) : (s.drive o).mtxShadow = s.mtxShadow := rfl
@[simp] theorem State.drive_tun (s : State) (o : Out) : (s.drive o).tun = s.tun := rfl
@[simp] theorem State.drive_nv (s : State) (o : Out) : (s.drive o).nv = s.nv := rfl
@[simp] theorem State.drive_sec (s : State) (o : Out) : (s.drive o).sec = s.sec := rfl
@[simp] theorem State.drive_pwr (s : State) (o : Out) : (s.drive o).pwr = s.pwr := rfl
@[simp] theorem State.drive_pins (s : State) (o : Out) : (s.drive o).pins = s.pins := rfl
@[simp] theorem State.drive_hosts (s : State) (o : Out) : (s.drive o).hosts = s.hosts := rfl
@[simp] theorem State.drive_limits (s : State) (o : Out) : (s.drive o).limits = s.limits := rfl
@[simp] theorem State.drive_out (s : State) (o : Out) : (s.drive o).out = s.out ++ [o] := rfl
@[simp] theorem State.drive_rnd (s : State) (o : Out) : (s.drive o).rnd = s.rnd := rfl

/-! ### fresh -/

@[simp] theorem State.fresh_pending (s : State) : (s.fresh).pending = s.pending := rfl
@[simp] theorem State.fresh_str (s : State) : (s.fresh).str = s.str := rfl
@[simp] theorem State.fresh_cores (s : State) : (s.fresh).cores = s.cores := rfl
@[simp] theorem State.fresh_ctxs (s : State) : (s.fresh).ctxs = s.ctxs := rfl
@[simp] theorem State.fresh_nextCtx (s : State) : (s.fresh).nextCtx = s.nextCtx := rfl
@[simp] theorem State.fresh_nextId (s : State) : (s.fresh).nextId = s.nextId := rfl
@[simp] theorem State.fresh_mem (s : State) : (s.fresh).mem = s.mem := rfl
@[simp] theorem State.fresh_slices (s : State) : (s.fresh).slices = s.slices := rfl
@[simp] theorem State.fresh_stalls (s : State) : (s.fresh).stalls = s.stalls := rfl
@[simp] theorem State.fresh_nextKey (s : State) : (s.fresh).nextKey = s.nextKey := rfl
@[simp] theorem State.fresh_keyEra (s : State) : (s.fresh).keyEra = s.keyEra := rfl
@[simp] theorem State.fresh_rings (s : State) : (s.fresh).rings = s.rings := rfl
@[simp] theorem State.fresh_fns (s : State) : (s.fresh).fns = s.fns := rfl
@[simp] theorem State.fresh_stl (s : State) : (s.fresh).stl = s.stl := rfl
@[simp] theorem State.fresh_stlInval (s : State) : (s.fresh).stlInval = s.stlInval := rfl
@[simp] theorem State.fresh_stlCtx (s : State) : (s.fresh).stlCtx = s.stlCtx := rfl
@[simp] theorem State.fresh_ports (s : State) : (s.fresh).ports = s.ports := rfl
@[simp] theorem State.fresh_best (s : State) : (s.fresh).best = s.best := rfl
@[simp] theorem State.fresh_colls (s : State) : (s.fresh).colls = s.colls := rfl
@[simp] theorem State.fresh_passDue (s : State) : (s.fresh).passDue = s.passDue := rfl
@[simp] theorem State.fresh_kept (s : State) : (s.fresh).kept = s.kept := rfl
@[simp] theorem State.fresh_stores (s : State) : (s.fresh).stores = s.stores := rfl
@[simp] theorem State.fresh_led (s : State) : (s.fresh).led = s.led := rfl
@[simp] theorem State.fresh_mtxShadow (s : State) : (s.fresh).mtxShadow = s.mtxShadow := rfl
@[simp] theorem State.fresh_tun (s : State) : (s.fresh).tun = s.tun := rfl
@[simp] theorem State.fresh_nv (s : State) : (s.fresh).nv = s.nv := rfl
@[simp] theorem State.fresh_sec (s : State) : (s.fresh).sec = s.sec := rfl
@[simp] theorem State.fresh_pwr (s : State) : (s.fresh).pwr = s.pwr := rfl
@[simp] theorem State.fresh_pins (s : State) : (s.fresh).pins = s.pins := rfl
@[simp] theorem State.fresh_hosts (s : State) : (s.fresh).hosts = s.hosts := rfl
@[simp] theorem State.fresh_limits (s : State) : (s.fresh).limits = s.limits := rfl
@[simp] theorem State.fresh_out (s : State) : (s.fresh).out = s.out := rfl
@[simp] theorem State.fresh_rnd (s : State) : (s.fresh).rnd = s.rnd + 1 := rfl

/-! ### setHealth -/

@[simp] theorem State.setHealth_pending (s : State) (h : Health) : (s.setHealth h).pending = s.pending := rfl
@[simp] theorem State.setHealth_str (s : State) (h : Health) : (s.setHealth h).str = s.str := rfl
@[simp] theorem State.setHealth_cores (s : State) (h : Health) : (s.setHealth h).cores = s.cores := rfl
@[simp] theorem State.setHealth_ctxs (s : State) (h : Health) : (s.setHealth h).ctxs = s.ctxs := rfl
@[simp] theorem State.setHealth_nextCtx (s : State) (h : Health) : (s.setHealth h).nextCtx = s.nextCtx := rfl
@[simp] theorem State.setHealth_nextId (s : State) (h : Health) : (s.setHealth h).nextId = s.nextId := rfl
@[simp] theorem State.setHealth_mem (s : State) (h : Health) : (s.setHealth h).mem = s.mem := rfl
@[simp] theorem State.setHealth_slices (s : State) (h : Health) : (s.setHealth h).slices = s.slices := rfl
@[simp] theorem State.setHealth_stalls (s : State) (h : Health) : (s.setHealth h).stalls = s.stalls := rfl
@[simp] theorem State.setHealth_nextKey (s : State) (h : Health) : (s.setHealth h).nextKey = s.nextKey := rfl
@[simp] theorem State.setHealth_keyEra (s : State) (h : Health) : (s.setHealth h).keyEra = s.keyEra := rfl
@[simp] theorem State.setHealth_rings (s : State) (h : Health) : (s.setHealth h).rings = s.rings := rfl
@[simp] theorem State.setHealth_fns (s : State) (h : Health) : (s.setHealth h).fns = s.fns := rfl
@[simp] theorem State.setHealth_stl (s : State) (h : Health) : (s.setHealth h).stl = s.stl := rfl
@[simp] theorem State.setHealth_stlInval (s : State) (h : Health) : (s.setHealth h).stlInval = s.stlInval := rfl
@[simp] theorem State.setHealth_stlCtx (s : State) (h : Health) : (s.setHealth h).stlCtx = s.stlCtx := rfl
@[simp] theorem State.setHealth_ports (s : State) (h : Health) : (s.setHealth h).ports = s.ports := rfl
@[simp] theorem State.setHealth_best (s : State) (h : Health) : (s.setHealth h).best = s.best := rfl
@[simp] theorem State.setHealth_colls (s : State) (h : Health) : (s.setHealth h).colls = s.colls := rfl
@[simp] theorem State.setHealth_passDue (s : State) (h : Health) : (s.setHealth h).passDue = s.passDue := rfl
@[simp] theorem State.setHealth_kept (s : State) (h : Health) : (s.setHealth h).kept = s.kept := rfl
@[simp] theorem State.setHealth_stores (s : State) (h : Health) : (s.setHealth h).stores = s.stores := rfl
@[simp] theorem State.setHealth_led (s : State) (h : Health) : (s.setHealth h).led = s.led := rfl
@[simp] theorem State.setHealth_mtxShadow (s : State) (h : Health) : (s.setHealth h).mtxShadow = s.mtxShadow := rfl
@[simp] theorem State.setHealth_tun (s : State) (h : Health) : (s.setHealth h).tun = s.tun := rfl
@[simp] theorem State.setHealth_nv (s : State) (h : Health) : (s.setHealth h).nv = { s.nv with health := h, healthOld := s.nv.health, healthIdx := 1 - s.nv.healthIdx } := rfl
@[simp] theorem State.setHealth_sec (s : State) (h : Health) : (s.setHealth h).sec = s.sec := rfl
@[simp] theorem State.setHealth_pwr (s : State) (h : Health) : (s.setHealth h).pwr = s.pwr := rfl
@[simp] theorem State.setHealth_pins (s : State) (h : Health) : (s.setHealth h).pins = s.pins := rfl
@[simp] theorem State.setHealth_hosts (s : State) (h : Health) : (s.setHealth h).hosts = s.hosts := rfl
@[simp] theorem State.setHealth_limits (s : State) (h : Health) : (s.setHealth h).limits = s.limits := rfl
@[simp] theorem State.setHealth_out (s : State) (h : Health) : (s.setHealth h).out = s.out := rfl
@[simp] theorem State.setHealth_rnd (s : State) (h : Health) : (s.setHealth h).rnd = s.rnd := rfl

/-! ### Changes by a function -/

@[simp] theorem State.modCore_eq (s : State) (n : Nat) (f : Core → Core) : s.modCore n f = s.setCore n (f (s.core n)) := rfl
@[simp] theorem State.modStall_eq (s : State) (n : Nat) (f : Stall → Stall) : s.modStall n f = s.setStall n (f (s.stall n)) := rfl
@[simp] theorem State.modRing_eq (s : State) (n : Nat) (f : Ring → Ring) : s.modRing n f = s.setRing n (f (s.ring n)) := rfl
@[simp] theorem State.modFn_eq (s : State) (n : Nat) (f : Fn → Fn) : s.modFn n f = s.setFn n (f (s.fn n)) := rfl
@[simp] theorem State.modPort_eq (s : State) (n : Nat) (f : Port → Port) : s.modPort n f = s.setPort n (f (s.port n)) := rfl
@[simp] theorem State.modCtx_eq (s : State) (n : Nat) (f : Ctx → Ctx) : s.modCtx n f = s.setCtx n ((s.ctx? n).map f) := rfl

end Sys2Proof.Machine
end

