-- ==== Sys2Proof/Laws/Table.lean ====
section
/-! SUPPORT. The laws of sparse tables: a read after a write, and that every table operation keeps the canonical form. -/

namespace Sys2Proof

variable {α : Type} [DecidableEq α] (d : α)

theorem twfFrom_mono {lo lo' : Nat} (h : lo' ≤ lo) : ∀ {m : List (Nat × α)}, twfFrom d lo m = true → twfFrom d lo' m = true
  | [], _ => rfl
  | (k, v) :: t, hm => by
    simp only [twfFrom, Bool.and_eq_true, decide_eq_true_eq] at hm ⊢
    exact ⟨⟨by omega, hm.1.2⟩, hm.2⟩

theorem tget_of_lt : ∀ {m : List (Nat × α)} {lo k : Nat}, twfFrom d lo m = true → k < lo → tget d m k = d
  | [], _, _, _, _ => rfl
  | (k', v) :: t, lo, k, hm, hk => by
    simp only [twfFrom, Bool.and_eq_true, decide_eq_true_eq] at hm
    simp only [tget, if_neg (show ¬ k = k' by omega), if_pos (show k < k' by omega)]

theorem tset_wfFrom : ∀ {m : List (Nat × α)} {lo k : Nat} (v : α), lo ≤ k → twfFrom d lo m = true →
    twfFrom d lo (tset d m k v) = true
  | [], lo, k, v, hk, _ => by
    unfold tset
    split <;> simp_all [twfFrom]
  | (k', v') :: t, lo, k, v, hk, hm => by
    have hm' := hm
    simp only [twfFrom, Bool.and_eq_true, decide_eq_true_eq] at hm
    obtain ⟨⟨hlo, hv'⟩, ht⟩ := hm
    unfold tset
    by_cases h1 : k = k'
    · subst h1
      by_cases h2 : v = d
      · simpa [h2] using twfFrom_mono d (by omega) ht
      · simp [h2, twfFrom, hlo, ht]
    · by_cases h3 : k < k'
      · by_cases h2 : v = d
        · simpa [h1, h2, h3] using hm'
        · simp only [h1, h2, h3, if_false, if_true, twfFrom, Bool.and_eq_true, decide_eq_true_eq]
          exact ⟨⟨hk, h2⟩, ⟨by omega, hv'⟩, ht⟩
      · simp only [h1, h3, if_false, twfFrom, Bool.and_eq_true, decide_eq_true_eq]
        exact ⟨⟨hlo, hv'⟩, tset_wfFrom v (by omega) ht⟩

/-- Setting a key keeps the canonical form. -/
theorem tset_wf {m : List (Nat × α)} (k : Nat) (v : α) (h : twf d m = true) : twf d (tset d m k v) = true :=
  tset_wfFrom d v (Nat.zero_le k) h

/-- Changing a key keeps the canonical form. -/
theorem tmod_wf {m : List (Nat × α)} (k : Nat) (f : α → α) (h : twf d m = true) : twf d (tmod d m k f) = true :=
  tset_wf d k _ h

/-- Setting consecutive keys keeps the canonical form. -/
theorem tsetMany_wf : ∀ (vs : List α) {m : List (Nat × α)} (k : Nat), twf d m = true → twf d (tsetMany d m k vs) = true
  | [], _, _, h => h
  | v :: vs, _, k, h => tsetMany_wf vs (k + 1) (tset_wf d k v h)

theorem filter_wfFrom (p : Nat × α → Bool) : ∀ {m : List (Nat × α)} {lo : Nat}, twfFrom d lo m = true →
    twfFrom d lo (m.filter p) = true
  | [], _, _ => rfl
  | (k, v) :: t, lo, hm => by
    simp only [twfFrom, Bool.and_eq_true, decide_eq_true_eq] at hm
    have ih := filter_wfFrom p hm.2
    rw [List.filter_cons]
    split
    · simp only [twfFrom, Bool.and_eq_true, decide_eq_true_eq]
      exact ⟨hm.1, ih⟩
    · exact twfFrom_mono d (by omega) ih

/-- Clearing a range of keys keeps the canonical form. -/
theorem tclear_wf {m : List (Nat × α)} (lo hi : Nat) (h : twf d m = true) : twf d (tclear lo hi m) = true :=
  filter_wfFrom d _ h

theorem tget_tset_from : ∀ {m : List (Nat × α)} {lo : Nat} (k : Nat) (v : α) (a : Nat), twfFrom d lo m = true →
    tget d (tset d m k v) a = if a = k then v else tget d m a
  | [], lo, k, v, a, _ => by
    unfold tset
    by_cases h2 : v = d
    · simp [h2, tget]
    · by_cases h1 : a = k <;> simp [h1, h2, tget]
  | (k', v') :: t, lo, k, v, a, hm => by
    simp only [twfFrom, Bool.and_eq_true, decide_eq_true_eq] at hm
    obtain ⟨⟨hlo, hv'⟩, ht⟩ := hm
    unfold tset
    by_cases h1 : k = k'
    · subst h1
      by_cases h2 : v = d
      · by_cases h3 : a = k
        · subst h3
          simp [h2, tget_of_lt d ht (Nat.lt_succ_self a)]
        · by_cases h4 : a < k
          · simp [h2, h3, h4, tget, tget_of_lt d ht (show a < k + 1 by omega)]
          · simp [h2, h3, h4, tget]
      · by_cases h3 : a = k <;> simp [h2, h3, tget]
    · by_cases h3 : k < k'
      · by_cases h2 : v = d
        · by_cases h4 : a = k
          · subst h4
            simp [h1, h2, h3, tget]
          · simp [h1, h2, h3, h4]
        · by_cases h4 : a = k
          · subst h4
            simp [h1, h2, h3, tget]
          · by_cases h5 : a < k
            · simp [h1, h2, h3, h4, h5, tget, show ¬ a = k' by omega, show a < k' by omega]
            · simp [h1, h2, h3, h4, h5, tget]
      · simp only [h1, h3, if_false, tget]
        rw [tget_tset_from k v a ht]
        by_cases h4 : a = k
        · subst h4
          simp [h1, h3]
        · simp [h4]

/-- What a key holds after one was set. -/
theorem tget_tset {m : List (Nat × α)} (k : Nat) (v : α) (a : Nat) (h : twf d m = true) :
    tget d (tset d m k v) a = if a = k then v else tget d m a := tget_tset_from d k v a h

end Sys2Proof
end

