-- ==== Sys2Proof/Laws/Keeps.lean ====
section
/-! SUPPORT. What every operation of the block keeps, in one relation: the fuses only gain bits, the queue of waiting commands is
untouched, and device memory keeps its canonical form; with the rules by which
a proof over all steps is put together from those of its operations; Laws/Memory.lean has them for device memory. -/

namespace Sys2Proof.Machine

/-- From `s` to `t`: fuses kept, the queue unchanged, device memory in canonical form if it was. -/
structure Keeps (s t : State) : Prop where
  fuses : FusesKept s.nv t.nv
  queue : t.pending = s.pending
  mem : Memory.wf s.mem = true → Memory.wf t.mem = true

/-- The same of a meaning's answer, where it is a next state. -/
def KeepsRes (s : State) (r : Res) : Prop := ∀ t, r = .next t → Keeps s t

theorem clear_trans : ∀ {a b c : BitVec 4}, a &&& ~~~b = 0 → b &&& ~~~c = 0 → a &&& ~~~c = 0 := by decide +kernel

theorem clear_or : ∀ a b : BitVec 4, a &&& ~~~(a ||| b) = 0 := by decide +kernel

theorem clear_self : ∀ a : BitVec 4, a &&& ~~~a = 0 := by decide

theorem FusesKept.refl (n : Nv) : FusesKept n n :=
  ⟨Nat.le_refl _, clear_self _, clear_self _, rfl, rfl, rfl, rfl, rfl⟩

theorem FusesKept.trans {a b c : Nv} (h : FusesKept a b) (g : FusesKept b c) : FusesKept a c :=
  ⟨Nat.le_trans h.floor g.floor, clear_trans h.prog g.prog, clear_trans h.rev g.rev, g.factory.trans h.factory, g.uds.trans h.uds,
    g.vendorRsa.trans h.vendorRsa, g.vendorSlh.trans h.vendorSlh, g.production.trans h.production⟩

theorem Keeps.refl (s : State) : Keeps s s := ⟨.refl _, rfl, id⟩

theorem Keeps.trans {a b c : State} (h : Keeps a b) (g : Keeps b c) : Keeps a c :=
  ⟨h.fuses.trans g.fuses, g.queue.trans h.queue, fun w => g.mem (h.mem w)⟩

/-- An update that leaves non-volatile storage, the queue and device memory alone. -/
theorem Keeps.upd {a s : State} {str cores ctxs nextCtx nextId slices stalls nextKey keyEra rings fns stl stlInval stlCtx ports best colls passDue kept stores led mtxShadow tun sec pwr pins hosts limits out rnd} (h : Keeps a s) :
    Keeps a (State.mk s.pending str cores ctxs nextCtx nextId s.mem slices stalls nextKey keyEra rings fns stl stlInval stlCtx ports best colls
    passDue kept stores led mtxShadow tun s.nv sec pwr pins hosts limits out rnd) :=
  ⟨h.fuses, h.queue, h.mem⟩

/-- An update of non-volatile storage that leaves the fuses alone. -/
theorem Keeps.updNv {a s : State} {str cores ctxs nextCtx nextId slices stalls nextKey keyEra rings fns stl stlInval stlCtx ports best colls passDue kept stores led mtxShadow tun nv sec pwr pins hosts limits out rnd} (h : Keeps a s) (hf : Nv.floor nv = s.nv.floor)
    (hq : nv.slotProg = s.nv.slotProg) (hr : nv.slotRev = s.nv.slotRev) (hd : nv.factory = s.nv.factory) (hu : nv.uds = s.nv.uds)
    (ha : nv.vendorRsa = s.nv.vendorRsa) (hb : nv.vendorSlh = s.nv.vendorSlh) (hc : nv.production = s.nv.production) :
    Keeps a (State.mk s.pending str cores ctxs nextCtx nextId s.mem slices stalls nextKey keyEra rings fns stl stlInval stlCtx ports best colls
    passDue kept stores led mtxShadow tun nv sec pwr pins hosts limits out rnd) :=
  ⟨⟨hf ▸ h.fuses.floor, hq ▸ h.fuses.prog, hr ▸ h.fuses.rev, hd.trans h.fuses.factory, hu.trans h.fuses.uds, ha.trans h.fuses.vendorRsa,
    hb.trans h.fuses.vendorSlh, hc.trans h.fuses.production⟩, h.queue, h.mem⟩

/-- An update of device memory. -/
theorem Keeps.updMem {a s : State} {str cores ctxs nextCtx nextId mem slices stalls nextKey keyEra rings fns stl stlInval stlCtx ports best colls passDue kept stores led mtxShadow tun sec pwr pins hosts limits out rnd} (h : Keeps a s) (hm : Memory.wf s.mem = true → Memory.wf mem = true) :
    Keeps a (State.mk s.pending str cores ctxs nextCtx nextId mem slices stalls nextKey keyEra rings fns stl stlInval stlCtx ports best colls
    passDue kept stores led mtxShadow tun s.nv sec pwr pins hosts limits out rnd) :=
  ⟨h.fuses, h.queue, fun x => hm (h.mem x)⟩

/-- What `Memory.wf` says, table by table. -/
theorem Memory.wf_iff (m : Mem) : Memory.wf m = true ↔
    twf 0 m.cells = true ∧ twf 0 m.owner = true ∧ twf 0 m.blkKey = true ∧ twf ({} : Stack) m.stks = true := by
  simp [Memory.wf, and_assoc]

/-- An update of what device memory holds beside its tables: poison, mapped stacks, refills, held reads. -/
theorem Keeps.updSide {a s : State} {str cores ctxs nextCtx nextId mem slices stalls nextKey keyEra rings fns stl stlInval stlCtx ports best colls passDue kept stores led mtxShadow tun sec pwr pins hosts limits out rnd} (h : Keeps a s) (hc : Mem.cells mem = s.mem.cells)
    (ho : mem.owner = s.mem.owner) (hk : mem.blkKey = s.mem.blkKey) (hs : mem.stks = s.mem.stks) :
    Keeps a (State.mk s.pending str cores ctxs nextCtx nextId mem slices stalls nextKey keyEra rings fns stl stlInval stlCtx ports best colls
    passDue kept stores led mtxShadow tun s.nv sec pwr pins hosts limits out rnd) :=
  h.updMem fun x => by rw [Memory.wf_iff] at x ⊢; rw [hc, ho, hk, hs]; exact x

theorem KeepsRes.next {a s : State} (h : Keeps a s) : KeepsRes a (.next s) := fun t e => by cases e; exact h

theorem KeepsRes.refused {a : State} (r : Refusal) : KeepsRes a (.refused r) := fun _ e => by cases e

theorem KeepsRes.fault {a : State} (r : Fault) : KeepsRes a (.fault r) := fun _ e => by cases e

/-- A state given to the rest of a computation. -/
theorem Keeps.cut {P : Prop} {a x : State} (hx : Keeps a x) (h : Keeps a x → P) : P := h hx

theorem forEach_keeps {α : Type} {a : State} (l : List α) {f : α → State → State} {s : State} (h : Keeps a s)
    (hf : ∀ x s, Keeps a s → Keeps a (f x s)) : Keeps a (forEach l s f) := by
  unfold forEach
  induction l generalizing s with
  | nil => exact h
  | cons x t ih => exact ih (hf x s h)

/-- A fold whose state is a part of what it carries. -/
theorem foldl_keeps {α β : Type} {a : State} (p : β → State) (f : β → α → β) (hf : ∀ b x, Keeps a (p b) → Keeps a (p (f b x))) :
    ∀ (l : List α) (b : β), Keeps a (p b) → Keeps a (p (l.foldl f b))
  | [], _, h => h
  | x :: t, b, h => foldl_keeps p f hf t (f b x) (hf b x h)

theorem foldl_fst_keeps {α β : Type} {a : State} {f : State × β → α → State × β} {l : List α} {b : State × β} (h : Keeps a b.1)
    (hf : ∀ b x, Keeps a b.1 → Keeps a (f b x).1) : Keeps a (l.foldl f b).1 :=
  foldl_keeps Prod.fst f hf l b h

/-- The state of a pair that is known in parts. -/
theorem Keeps.fst {β : Type} {a t : State} {r : β} {x : State × β} (h : Keeps a x.1) (e : x = (t, r)) : Keeps a t := by
  rw [e] at h
  exact h

/-- An answer that may fail: where it succeeds, the state in it is kept to. -/
def KeepsOk {ε β : Type} (p : β → State) (a : State) (r : Except ε β) : Prop := ∀ b, r = .ok b → Keeps a (p b)

/-- The same of an answer that may be absent. -/
def KeepsSome {β : Type} (p : β → State) (a : State) (r : Option β) : Prop := ∀ b, r = some b → Keeps a (p b)

theorem KeepsOk.ok {ε β : Type} {p : β → State} {a : State} {b : β} (h : Keeps a (p b)) : KeepsOk (ε := ε) p a (.ok b) :=
  fun _ e => by cases e; exact h

theorem KeepsOk.error {ε β : Type} {p : β → State} {a : State} (e : ε) : KeepsOk (β := β) p a (.error e) := fun _ h => by cases h

theorem KeepsOk.bind {ε α β : Type} {p : β → State} {a : State} {x : Except ε α} {f : α → Except ε β}
    (h : ∀ y, x = .ok y → KeepsOk p a (f y)) : KeepsOk p a (x >>= f) := by
  cases x with
  | error e => exact KeepsOk.error e
  | ok y => exact h y rfl

theorem KeepsSome.some {β : Type} {p : β → State} {a : State} {b : β} (h : Keeps a (p b)) : KeepsSome p a (.some b) :=
  fun _ e => by cases e; exact h

theorem KeepsSome.none {β : Type} {p : β → State} {a : State} : KeepsSome (β := β) p a .none := fun _ h => by cases h

end Sys2Proof.Machine
end

