-- ==== Sys2Proof/Laws/Memory.lean ====
section
/-! SUPPORT. Every operation over device memory keeps its canonical form, the fuses and the queue: one lemma for each operation, which a proof
about a command that uses it cites in place of unfolding it. -/

namespace Sys2Proof.Machine

variable {a s : State}

theorem ite_keeps {p : Prop} [Decidable p] {x y : State} (hx : Keeps a x) (hy : Keeps a y) : Keeps a (if p then x else y) := by
  split
  · exact hx
  · exact hy

/-! ### The ledger, whose entries many operations write -/

theorem msix_keeps (f v : Nat) (h : Keeps a s) : Keeps a (s.msix f v) := by
  unfold State.msix
  dsimp only
  split <;> exact h.upd

theorem ledgerTo_keeps (op : Bool) (f : Nat) (e : Entry) (h : Keeps a s) : Keeps a (s.ledgerTo op f e).1 := by
  unfold State.ledgerTo
  cases op <;> dsimp only <;> repeat' (first | exact h.upd | exact msix_keeps _ _ h.upd | split)

theorem buffered_keeps (e : Entry) (h : Keeps a s) : Keeps a (s.buffered e) := h.upd

theorem failEntry_keeps (f : Nat) (n : W32) (c : Nat × Nat) (h : Keeps a s) : Keeps a (s.failEntry f n c).2 := buffered_keeps _ h.upd

theorem sendAll_keeps (ps : List (Bool × Nat)) (e : Entry) (h : Keeps a s) : Keeps a (s.sendAll ps e).1 := by
  refine foldl_fst_keeps h fun b p h => ?_
  have g := ledgerTo_keeps p.1 p.2 e h
  split <;> exact g.fst (by assumption)

theorem deliverEntry_keeps : ∀ (n : Nat) (ps : List (Bool × Nat)) (e : Entry) {s : State}, Keeps a s → Keeps a (s.deliverEntry n ps e)
  | 0, ps, e, _, h => sendAll_keeps ps e h
  | n + 1, ps, e, s, h => by
    unfold State.deliverEntry
    exact foldl_keeps id _ (fun b x h => deliverEntry_keeps n _ _ (failEntry_keeps _ _ _ h)) _ _ (sendAll_keeps ps e h)

theorem setHealth_keeps (x : Health) (h : Keeps a s) : Keeps a (s.setHealth x) :=
  h.updNv (nv := { s.nv with health := x, healthOld := s.nv.health, healthIdx := 1 - s.nv.healthIdx }) rfl rfl rfl rfl rfl rfl rfl rfl

theorem platformEvent_keeps (e : Entry) (h : Keeps a s) : Keeps a (s.platformEvent e) := by
  unfold State.platformEvent
  repeat' (first | exact h.upd | exact h | split)

theorem ledgerEntry_keeps (e : Entry) (h : Keeps a s) : Keeps a (s.ledgerEntry e) := by
  unfold State.ledgerEntry
  refine platformEvent_keeps _ (deliverEntry_keeps _ _ _ ?_)
  refine Keeps.cut (ite_keeps (setHealth_keeps _ ?_) ?_) fun g => ite_keeps (buffered_keeps _ g) g
  · exact h.upd
  · exact h.upd

theorem ledger_keeps (event sev kind unit : Nat) (stall : Option Nat) (a0 a1 a2 a3 oper count : Nat) (h : Keeps a s) :
    Keeps a (s.ledger event sev kind unit stall a0 a1 a2 a3 oper count) := ledgerEntry_keeps _ h

theorem tally_keeps (st off n : Nat) (h : Keeps a s) : Keeps a (s.tally st off n) := h.upd

/-! ### Writes by device physical address -/

/-- The tables of device memory, each in canonical form. -/
structure MemTables (m : Mem) : Prop where
  cells : twf 0 m.cells = true
  owner : twf 0 m.owner = true
  keys : twf 0 m.blkKey = true
  stks : twf ({} : Stack) m.stks = true

theorem memTables {m : Mem} (h : Memory.wf m = true) : MemTables m :=
  let ⟨a, b, c, d⟩ := (Memory.wf_iff m).1 h
  ⟨a, b, c, d⟩

/-- Bytes and keys replaced by tables in canonical form. -/
theorem wf_put {m : Mem} {cells : List Host.Cell} {keys : Tbl Nat} (p : List Nat) (h : Memory.wf m = true) (hc : twf 0 cells = true)
    (hk : twf 0 keys = true) : Memory.wf { m with cells := cells, blkKey := keys, poison := p } = true :=
  (Memory.wf_iff _).2 ⟨hc, (memTables h).owner, hk, (memTables h).stks⟩

theorem rekeyBlock_keeps (blk : Nat) (h : Keeps a s) : Keeps a (s.rekeyBlock blk) := by
  unfold State.rekeyBlock
  split
  · exact h
  · exact h.updMem fun g => wf_put _ g (tsetMany_wf _ _ _ (memTables g).cells) (tset_wf _ _ _ (memTables g).keys)

theorem freeBytes_keeps (x n : Nat) (h : Keeps a s) : Keeps a (s.freeBytes x n) :=
  (rekeyBlock_keeps (x / 4096) h).updMem fun g => wf_put _ g (tsetMany_wf _ _ _ (memTables g).cells) (memTables g).keys

theorem setOwner_keeps (blk : Nat) (e : W16) (h : Keeps a s) : Keeps a (s.setOwner blk e) :=
  h.updMem fun g => (Memory.wf_iff _).2 ⟨(memTables g).cells, tset_wf _ _ _ (memTables g).owner, (memTables g).keys, (memTables g).stks⟩

theorem wrTable_keeps (x : Nat) (bs : List Byte) (h : Keeps a s) : Keeps a (s.wrTable x bs) := by
  unfold State.wrTable
  refine forEach_keeps _ h fun e s h => ?_
  split
  · exact setOwner_keeps _ _ h
  · exact h

theorem modStk_keeps (k : Nat) (f : Stack → Stack) (h : Keeps a s) : Keeps a (s.modStk k f) :=
  h.updMem fun g => (Memory.wf_iff _).2 ⟨(memTables g).cells, (memTables g).owner, (memTables g).keys, tmod_wf _ _ _ (memTables g).stks⟩

theorem setFixed_keeps (u n : Nat) (h : Keeps a s) : Keeps a (s.setFixed u n) := h.upd

theorem markPoison_keeps (u : Nat) (h : Keeps a s) : Keeps a (s.markPoison u) := h.updSide rfl rfl rfl rfl

theorem clearPoison_keeps (u : Nat) (h : Keeps a s) : Keeps a (s.clearPoison u) := h.updSide rfl rfl rfl rfl

theorem garble_keeps (u : Nat) (h : Keeps a s) : Keeps a (s.garble u) := freeBytes_keeps _ _ (h.updSide rfl rfl rfl rfl)

theorem readPlain_keeps (u : Nat) (h : Keeps a s) : Keeps a (s.readPlain u) := by
  unfold State.readPlain
  dsimp only
  split
  · exact h
  · split
    · split
      · exact setFixed_keeps _ _ h
      · exact modStk_keeps _ _ (setFixed_keeps _ _ h)
    · exact setFixed_keeps _ _ h

theorem evict_keeps (line : Nat) (h : Keeps a s) : Keeps a (s.evict line) := by
  unfold State.evict
  dsimp only
  split
  · refine forEach_keeps _ h.upd fun u s h => ?_
    split
    · exact markPoison_keeps _ h
    · exact garble_keeps _ h
    · exact h
  · exact h.upd

theorem makeWay_keeps (line : Nat) (h : Keeps a s) : Keeps a (s.makeWay line) := by
  unfold State.makeWay
  dsimp only
  split
  · exact h
  · split
    · exact h
    · split
      · exact evict_keeps _ h
      · exact h

theorem touch_keeps (dirty : Bool) (line : Nat) (h : Keeps a s) : Keeps a (s.touch dirty line) := by
  unfold State.touch
  dsimp only
  split
  · exact h
  · refine Keeps.upd ?_
    split
    · exact Keeps.upd (makeWay_keeps _ h)
    · exact h

theorem dropLines_keeps (line n : Nat) (h : Keeps a s) : Keeps a (s.dropLines line n) := h.upd

theorem unpin_keeps (line : Nat) (h : Keeps a s) : Keeps a (s.unpin line) := h.upd

theorem wrUnit_keeps (x : Nat) (bs : List Byte) (h : Keeps a s) : Keeps a (s.wrUnit x bs) := by
  unfold State.wrUnit
  split
  · exact h
  · split
    · exact ledger_keeps _ _ _ _ _ _ _ _ _ _ _ h
    · have g : Keeps a (((if bs.length = 32 then s else s.readPlain (x / 32)).clearPoison (x / 32)).touch true (x / 128)) :=
        touch_keeps _ _ (clearPoison_keeps _ (by split; exacts [h, readPlain_keeps _ h]))
      revert g
      generalize ((if bs.length = 32 then s else s.readPlain (x / 32)).clearPoison (x / 32)).touch true (x / 128) = u
      intro g
      dsimp only
      split
      · exact wrTable_keeps _ _ g
      · exact (rekeyBlock_keeps _ g).updMem fun g => wf_put _ g (tsetMany_wf _ _ _ (memTables g).cells) (memTables g).keys

theorem wrDpa_keeps (x : Nat) (bs : List Byte) (h : Keeps a s) : Keeps a (s.wrDpa x bs) :=
  forEach_keeps _ h fun _ _ h => wrUnit_keeps _ _ h

theorem poisonUnit_keeps (u : Nat) (h : Keeps a s) : Keeps a (s.poisonUnit u) :=
  ledger_keeps _ _ _ _ _ _ _ _ _ _ _ (h.updMem fun g => wf_put _ g (memTables g).cells (memTables g).keys)

theorem zeroBlock_keeps (blk : Nat) (h : Keeps a s) : Keeps a (s.zeroBlock blk) :=
  (dropLines_keeps _ _ h).updMem fun g => wf_put _ g (tclear_wf _ _ _ (memTables g).cells) (tset_wf _ _ _ (memTables g).keys)

theorem putImage_keeps (base len : Nat) (ws : List (Nat × List Byte)) (bad : List Nat) (h : Keeps a s) : Keeps a (s.putImage base len ws bad) := by
  have keys : ∀ (l : List Nat) (m : Tbl Nat), twf 0 m = true →
      twf 0 (l.foldl (fun m i => tset 0 m (base / 4096 + i) (s.blockKey (base / 4096 + i))) m) = true := by
    intro l
    induction l with
    | nil => exact fun _ h => h
    | cons x t ih => exact fun m h => ih _ (tset_wf _ _ _ h)
  have cells : ∀ (l : List (Nat × List Byte)) (m : List Host.Cell), twf 0 m = true →
      twf 0 (l.foldl (fun m w => tsetMany 0 m (base + w.1) w.2) m) = true := by
    intro l
    induction l with
    | nil => exact fun _ h => h
    | cons x t ih => exact fun m h => ih _ (tsetMany_wf _ _ _ h)
  exact h.updMem fun g => wf_put _ g (cells _ _ (tclear_wf _ _ _ (memTables g).cells)) (keys _ _ (memTables g).keys)

/-! ### Writes by device virtual address -/

theorem wrOwn_keeps (st x : Nat) (bs : List Byte) (h : Keeps a s) : Keeps a (s.wrOwn st x bs) := by
  unfold State.wrOwn
  split
  · exact h.updSide rfl rfl rfl rfl
  · exact wrDpa_keeps _ _ h

theorem scatter_keeps (st : Nat) : ∀ (ps : List (Nat × Nat)) (bs : List Byte) {s : State}, Keeps a s → Keeps a (s.scatter st ps bs)
  | [], _, _, h => h
  | (x, n) :: t, bs, _, h => scatter_keeps st t (bs.drop n) (wrOwn_keeps st x (bs.take n) h)

/-- A write that succeeds keeps what a write by physical address keeps. -/
theorem wrDva_keeps (st dva : Nat) (bs : List Byte) (h : Keeps a s) : KeepsOk id a (s.wrDva st dva bs) := by
  unfold State.wrDva
  refine .bind fun ps _ => ?_
  split
  · exact .error _
  · exact .ok (tally_keeps _ _ _ (scatter_keeps _ _ _ h))

theorem didRead_keeps (st dva n : Nat) (h : Keeps a s) : Keeps a (s.didRead st dva n) := by
  unfold State.didRead
  split
  · exact tally_keeps _ _ _ (forEach_keeps _ (forEach_keeps _ h fun _ _ h => readPlain_keeps _ h) fun _ _ h => touch_keeps _ _ h)
  · exact h

/-! ### Accumulation regions -/

theorem addBackUnit_keeps (st oper : Nat) (zero bad : Bool) (x : Nat) (ps : List W32) (h : Keeps a s) :
    Keeps a (s.addBackUnit st oper zero bad x ps).1 := by
  unfold State.addBackUnit
  split
  · exact poisonUnit_keeps _ h
  · split
    · exact ledger_keeps _ _ _ _ _ _ _ _ _ _ _ h
    · refine wrDpa_keeps _ _ ?_
      split
      · exact h
      · exact readPlain_keeps _ h

theorem addBack_keeps (line oper : Nat) (h : Keeps a s) : Keeps a (s.addBack line oper) := by
  unfold State.addBack
  dsimp only
  split
  · exact h.updSide rfl rfl rfl rfl
  exact Keeps.upd (foldl_fst_keeps (unpin_keeps _ h) fun _ _ h => addBackUnit_keeps _ _ _ _ _ _ h)

theorem addBackAll_keeps (st base oper : Nat) (h : Keeps a s) : Keeps a (s.addBackAll st base oper) :=
  forEach_keeps _ h fun _ _ h => addBack_keeps _ _ h

theorem pinLine_keeps (st base line : Nat) (h : Keeps a s) : Keeps a (s.pinLine st base line) := by
  unfold State.pinLine
  refine Keeps.cut (x := if s.slices.order.length < s.pinWays ∨ (s.pinsInSet line).length < s.pinWays then s
    else match s.pinsInSet line with
      | l :: _ => s.addBack l
      | [] => s) (ite_keeps h ?_) fun g => Keeps.upd (ite_keeps (makeWay_keeps _ g) (evict_keeps _ g))
  split
  · exact addBack_keeps _ _ h
  · exact h

/-- With no way to pin, the line is added back at once. -/
theorem unpinned_keeps {p : Prop} [Decidable p] (line : Nat) (h : Keeps a s) : Keeps a (if p then s.addBack line else s) :=
  ite_keeps (addBack_keeps _ _ h) h

theorem accumulate_keeps (st dva v : Nat) (h : Keeps a s) : KeepsOk Prod.fst a (s.accumulate st dva v) := by
  unfold State.accumulate
  refine .bind fun x _ => ?_
  dsimp only
  split
  · exact .error _
  · split
    · exact .error _
    · refine .ok (unpinned_keeps _ (tally_keeps _ _ _ (Keeps.upd (Keeps.upd ?_))))
      split
      · exact h
      · exact pinLine_keeps _ _ _ h

theorem accAll_keeps (st : Nat) : ∀ (vs : List Nat) (x : Nat) {s : State}, Keeps a s → KeepsOk id a (s.accAll st x vs)
  | [], _, _, h => .ok h
  | v :: t, x, s, h => by
    unfold State.accAll
    split
    · exact accAll_keeps st t _ (accumulate_keeps st x v h _ (by assumption))
    · exact .error _

theorem undefRange_keeps (st x n : Nat) (h : Keeps a s) : Keeps a (s.undefRange st x n) := by
  unfold State.undefRange
  split
  · exact Keeps.upd (wrDva_keeps _ _ _ h _ (by assumption))
  · exact h

/-! ### Reads held for a refill -/

theorem queueRefill_keeps (blk : Nat) (who : Option Reader) (h : Keeps a s) : Keeps a (s.queueRefill blk who) := by
  unfold State.queueRefill
  split
  · exact h
  · exact h.updSide rfl rfl rfl rfl

theorem holdRead_keeps (u : Nat) (who : Reader) (h : Keeps a s) : Keeps a (s.holdRead u who) := by
  unfold State.holdRead
  split
  · exact h
  · exact h.updSide rfl rfl rfl rfl

theorem holdFor_keeps (who : Reader) (m : MemErr) (h : Keeps a s) : KeepsSome id a (s.holdFor who m) := by
  unfold State.holdFor
  dsimp only
  split
  · exact .some (holdRead_keeps _ _ (queueRefill_keeps _ _ h))
  · exact .none

end Sys2Proof.Machine
end

