-- ==== Sys2Proof/Laws/Records.lean ====
section
/-! SUPPORT. Records as bytes: a number read back from its bytes, the bounds of CRC-32C, and the slot directory read back from a copy. -/

namespace Sys2Proof.Machine

theorem toBytes_length : ∀ n v, (toBytes n v).length = n
  | 0, _ => rfl
  | n + 1, v => by simp [toBytes, toBytes_length n]

theorem ofBytes_toBytes : ∀ n v, ofBytes (toBytes n v) = v % 256 ^ n
  | 0, v => by simp [toBytes, ofBytes, Nat.mod_one]
  | n + 1, v => by
    simp only [toBytes, ofBytes, ofBytes_toBytes n, BitVec.toNat_ofNat]
    rw [show 256 ^ (n + 1) = 256 * 256 ^ n by rw [Nat.pow_succ, Nat.mul_comm], Nat.mod_mul]

/-- A field that lies behind the first part of a record. -/
theorem recFld_skip (a r : List Byte) (o n : Nat) (h : a.length ≤ o) : recFld (a ++ r) o n = recFld r (o - a.length) n := by
  unfold recFld
  rw [List.drop_append, List.drop_of_length_le h, List.nil_append]

/-- A field that a record begins with. -/
theorem recFld_head (n v : Nat) (r : List Byte) : recFld (toBytes n v ++ r) 0 n = v % 256 ^ n := by
  unfold recFld
  rw [List.drop_zero, List.take_append_of_le_length (by simp [toBytes_length]),
    List.take_of_length_le (by simp [toBytes_length]), ofBytes_toBytes]

theorem crc32cByte_lt (c : Nat) (b : Byte) (h : c < 2 ^ 32) : crc32cByte c b < 2 ^ 32 := by
  have bit : ∀ (l : List Nat) (c : Nat), c < 2 ^ 32 →
      l.foldl (fun c _ => if c % 2 = 1 then (c / 2) ^^^ 0x82F63B78 else c / 2) c < 2 ^ 32 := by
    intro l
    induction l with
    | nil => exact fun c h => h
    | cons x t ih =>
      intro c h
      refine ih _ ?_
      show (if c % 2 = 1 then c / 2 ^^^ 0x82F63B78 else c / 2) < 2 ^ 32
      split
      · exact Nat.xor_lt_two_pow (by omega) (by decide)
      · omega
  exact bit _ _ (Nat.xor_lt_two_pow h (by have := b.isLt; omega))

theorem crc32c_lt (l : List Byte) : crc32c l < 2 ^ 32 := by
  have go : ∀ (l : List Byte) (c : Nat), c < 2 ^ 32 → l.foldl crc32cByte c < 2 ^ 32 := by
    intro l
    induction l with
    | nil => exact fun c h => h
    | cons b t ih => exact fun c h => ih _ (crc32cByte_lt c b h)
  exact Nat.xor_lt_two_pow (go l _ (by decide)) (by decide)

theorem byteSlot_slotByte (k : Option (Fin 3)) : byteSlot (slotByte k % 256 ^ 1) = k := by
  cases k with
  | none => rfl
  | some k => revert k; decide

theorem Dir.body_length (d : Dir) : d.body.length = 60 := by simp [Dir.body, toBytes_length]

theorem Dir.bytes_length (d : Dir) : d.bytes.length = 64 := by simp [Dir.bytes, Dir.body_length, toBytes_length]

/-- The directory that a copy holds is the one that was written (R397). -/
theorem dirOf_bytes (d : Dir) (h : d.pendState < 256) : dirOf d.bytes = some d := by
  have crc : recFld d.bytes 0x3C 4 = crc32c d.body := by
    have := crc32c_lt d.body
    rw [Dir.bytes, recFld_skip _ _ _ _ (by simp [Dir.body_length]), Dir.body_length,
      show toBytes 4 (crc32c d.body) = toBytes 4 (crc32c d.body) ++ [] by simp, recFld_head]
    omega
  have tk : d.bytes.take 60 = d.body := by
    rw [Dir.bytes, List.take_append_of_le_length (by simp [Dir.body_length]), List.take_of_length_le (by simp [Dir.body_length])]
  unfold dirOf
  rw [if_pos ⟨Dir.bytes_length d, by rw [tk, crc]⟩]
  have word (x : W32) : BitVec.ofNat 32 (x.toNat % 4294967296) = x := BitVec.eq_of_toNat_eq (by have := x.isLt; simp; omega)
  have slot (k : Option (Fin 3)) : byteSlot (slotByte k % 256) = k := byteSlot_slotByte k
  simp [Dir.bytes, Dir.body, List.append_assoc, recFld_skip, recFld_head, toBytes_length, word, slot, Nat.mod_eq_of_lt h]

/-- What a directory write leaves in force (R397): the record written, its GEN raised by 1, where GEN does not wrap. -/
theorem writeDir_dir (s : State) (d : Dir) (hl : s.nv.dirs.length = 2) (hg : s.dir.gen ≠ 0xFFFFFFFF) (hp : d.pendState < 256) :
    (s.writeDir d).dir = { d with gen := s.dir.gen + 1 } := by
  obtain ⟨a, b, hab⟩ : ∃ a b, s.nv.dirs = [a, b] := List.length_eq_two.mp hl
  have hd : ∀ g, dirOf { d with gen := g }.bytes = some { d with gen := g } := fun g => dirOf_bytes _ hp
  have next (g : W32) (h : g ≠ 0xFFFFFFFF) : ¬ g + 1#32 ≤ g := by bv_omega
  have up (g : W32) (h : g ≠ 0xFFFFFFFF) : g ≤ g + 1#32 := by bv_omega
  cases ha : dirOf a <;> cases hb : dirOf b <;>
    simp only [State.writeDir, State.dir, Nv.dir, Nv.dirIdx, Nv.copy, hab, ha, hb, List.getElem?_cons_zero, List.getElem?_cons_succ,
      Option.bind_some, Option.bind_none, Option.getD_none, Option.getD_some] at hg ⊢
  · simp [Nv.copy, hd, hb]
  · simp [Nv.copy, hd, hb]
    rw [if_pos (up _ hg)]
    simp [Nv.copy, hd]
  · simp [Nv.copy, hd, ha]
    rw [if_neg (next _ hg)]
    simp [Nv.copy, hd]
  · rename_i x y
    split at hg <;> rename_i hxy <;> simp [Nv.copy, hab, ha, hb, hxy] at hg ⊢
    · simp [hd]
      rw [if_neg (next _ hg)]
      simp [Nv.copy, hd]
    · simp [hd]
      rw [if_pos (up _ hg)]
      simp [Nv.copy, hd]

end Sys2Proof.Machine
end

