-- ==== Sys2Proof/Laws/Threads.lean ====
section
/-! SUPPORT. What an instruction of a group does when it issues: `State.issue` runs its body, and the lane-wise results write
register D, pair D or predicate D of the executing lanes and nothing else of the group. -/

namespace Sys2Proof.Machine

theorem State.issue_of {s : State} {c g : Nat} {w : W64} {opc : Nat} {u : Uses} {e : IEnv} (h : Issues s c g w opc u e)
    (body : IEnv → State → State) : s.issue c g w opc u body = body e s := by
  obtain ⟨h1, h2, h3, ⟨gr, top, rest, k1, k2, k3, k4, k5, k6⟩, h5, h6, h7, h8, h9, h10, h11, h12⟩ := h
  subst h6 h7 h8
  obtain ⟨ec, eg, en, ex, egr, epc, ew, eact, eex⟩ := e
  simp only at *
  subst k4 k5 k6 h5
  simp only [k2] at h12
  unfold State.issue
  rw [h1, k1]
  simp [h2, k2, h3, h9, k3, h10, h11, h12]

/-- Reading a table after a write of a value that is not the default, whatever the table's order. -/
theorem tget_tset_some {α : Type} [DecidableEq α] : ∀ (m : List (Nat × Option α)) (k a : Nat) (v : α),
    tget none (tset none m k (some v)) a = if a = k then some v else tget none m a
  | [], k, a, v => by
    simp only [tset, reduceCtorEq, if_false, tget]
    split <;> simp_all
  | (k', v') :: t, k, a, v => by
    have ih := tget_tset_some t k a v
    simp only [tset, reduceCtorEq, if_false]
    by_cases h1 : k = k'
    · subst h1
      simp only [if_true, tget]
      split
      · rfl
      · rfl
    · simp only [h1, if_false]
      by_cases h2 : k < k'
      · simp only [h2, if_true, tget]
        by_cases h3 : a = k
        · simp [h3]
        · simp only [h3, if_false]
          by_cases h4 : a < k
          · have : a ≠ k' := by omega
            have : a < k' := by omega
            simp [*]
          · simp [h4]
      · simp only [h2, if_false, tget, ih]
        by_cases h3 : a = k'
        · subst h3
          simp [Ne.symm h1]
        · simp only [h3, if_false]
          by_cases h4 : a < k'
          · have : a ≠ k := by omega
            simp [*]
          · simp [h4]

theorem Group.setReg_reg (g : Group) (l r v l' r' : Nat) (hr : r < 256) (hr' : r' < 256) :
    (g.setReg l r v).reg l' r' = if l' = l ∧ r' = r then BitVec.ofNat 32 v else g.reg l' r' := by
  unfold Group.setReg Group.reg
  simp only [tget_tset_some]
  by_cases h : l' = l ∧ r' = r
  · simp [h.1, h.2]
  · have : ¬ l' * 256 + r' = l * 256 + r := by omega
    simp [h, this]

theorem Group.setPred_pred (g : Group) (l r l' r' : Nat) (v : Bool) (hr : r < 8) (hr' : r' < 8) :
    (g.setPred l r v).pred l' r' = if l' = l ∧ r' = r then v else g.pred l' r' := by
  unfold Group.setPred Group.pred
  simp only [tget_tset_some]
  by_cases h : l' = l ∧ r' = r
  · simp [h.1, h.2]
  · have : ¬ l' * 8 + r' = l * 8 + r := by omega
    simp [h, this]

/-- Registers after one result per lane. -/
theorem Group.foldl_setReg (d : Nat) (f : Nat → Nat) (hd : d < 256) : ∀ (ls : List Nat) (g : Group),
    ∃ rs, ls.foldl (fun gr l => gr.setReg l d (f l)) g = { g with regs := rs } ∧
      ∀ l r, r < 256 → ({ g with regs := rs } : Group).reg l r = if l ∈ ls ∧ r = d then BitVec.ofNat 32 (f l) else g.reg l r
  | [], g => ⟨g.regs, rfl, by intro l r _; simp⟩
  | x :: t, g => by
    obtain ⟨rs, h1, h2⟩ := Group.foldl_setReg d f hd t (g.setReg x d (f x))
    refine ⟨rs, by rw [List.foldl_cons, h1]; rfl, fun l r hr => ?_⟩
    have := h2 l r hr
    have e : ({ g.setReg x d (f x) with regs := rs } : Group).reg l r = ({ g with regs := rs } : Group).reg l r := rfl
    rw [e] at this
    rw [this, Group.setReg_reg _ _ _ _ _ _ hd hr]
    by_cases hx : l = x <;> by_cases hq : r = d <;> by_cases hm : l ∈ t <;> simp_all

theorem Group.foldl_setPred (d : Nat) (f : Nat → Bool) (hd : d < 8) : ∀ (ls : List Nat) (g : Group),
    ∃ ps, ls.foldl (fun gr l => gr.setPred l d (f l)) g = { g with preds := ps } ∧
      ∀ l r, r < 8 → ({ g with preds := ps } : Group).pred l r = if l ∈ ls ∧ r = d then f l else g.pred l r
  | [], g => ⟨g.preds, rfl, by intro l r _; simp⟩
  | x :: t, g => by
    obtain ⟨ps, h1, h2⟩ := Group.foldl_setPred d f hd t (g.setPred x d (f x))
    refine ⟨ps, by rw [List.foldl_cons, h1]; rfl, fun l r hr => ?_⟩
    have := h2 l r hr
    have e : ({ g.setPred x d (f x) with preds := ps } : Group).pred l r = ({ g with preds := ps } : Group).pred l r := rfl
    rw [e] at this
    rw [this, Group.setPred_pred _ _ _ _ _ _ hd hr]
    by_cases hx : l = x <;> by_cases hq : r = d <;> by_cases hm : l ∈ t <;> simp_all

/-- Registers after one pair per lane. -/
theorem Group.foldl_setPair (d : Nat) (f : Nat → Nat) (hd : d + 1 < 256) : ∀ (ls : List Nat) (g : Group),
    ∃ rs, ls.foldl (fun gr l => gr.setPair l d (f l)) g = { g with regs := rs } ∧
      ∀ l r, r < 256 → ({ g with regs := rs } : Group).reg l r =
        if l ∈ ls ∧ r = d then BitVec.ofNat 32 (f l) else if l ∈ ls ∧ r = d + 1 then BitVec.ofNat 32 (f l / 2 ^ 32) else g.reg l r
  | [], g => ⟨g.regs, rfl, by intro l r _; simp⟩
  | x :: t, g => by
    obtain ⟨rs, h1, h2⟩ := Group.foldl_setPair d f hd t (g.setPair x d (f x))
    refine ⟨rs, by rw [List.foldl_cons, h1]; rfl, fun l r hr => ?_⟩
    have := h2 l r hr
    have e : ({ g.setPair x d (f x) with regs := rs } : Group).reg l r = ({ g with regs := rs } : Group).reg l r := rfl
    rw [e] at this
    rw [this]
    unfold Group.setPair
    rw [Group.setReg_reg _ _ _ _ _ _ hd hr, Group.setReg_reg _ _ _ _ _ _ (by omega) hr]
    by_cases hx : l = x <;> by_cases hq : r = d <;> by_cases hq' : r = d + 1 <;> by_cases hm : l ∈ t <;> simp_all

theorem wD_lt (w : W64) : wD w < 256 := by
  have := (w.extractLsb 47 40).isLt
  simp only [wD, fld] at *
  omega

/-- An instruction whose body is a 32-bit result per lane. -/
theorem Writes32.of {i : Instr} {s : State} {c g : Nat} {w : W64} {opc : Nat} {u : Uses} {e : IEnv} {f : IEnv → Nat → Nat} {v : Nat → W32}
    (h : Issues s c g w opc u e) (hx : exec i s = .next (s.issue c g w opc u fun e s => e.lanes32 (f e) s))
    (hv : ∀ l ∈ e.ex, BitVec.ofNat 32 (f e l) = v l) : Writes32 i s e v := by
  obtain ⟨rs, h1, h2⟩ := Group.foldl_setReg (wD e.w) (f e) (wD_lt _) e.ex e.gr
  refine ⟨rs, ?_, fun l hl => ?_, fun l r hr hn => ?_⟩
  · rw [hx, State.issue_of h]
    simp only [IEnv.lanes32, h1]
  · rw [h2 l _ (wD_lt _)]
    simp [hl, hv]
  · rw [h2 l r hr]
    simp [hn]

/-- An instruction whose body is a 64-bit result per lane, into a pair that fits. -/
theorem Writes64.of {i : Instr} {s : State} {c g : Nat} {w : W64} {opc : Nat} {u : Uses} {e : IEnv} {f : IEnv → Nat → Nat} {v : Nat → W64}
    (h : Issues s c g w opc u e) (hd : wD e.w + 1 < 256)
    (hx : exec i s = .next (s.issue c g w opc u fun e s => e.lanes64 (f e) s))
    (hv : ∀ l ∈ e.ex, BitVec.ofNat 64 (f e l) = v l) : Writes64 i s e v := by
  obtain ⟨rs, h1, h2⟩ := Group.foldl_setPair (wD e.w) (f e) hd e.ex e.gr
  refine ⟨rs, ?_, fun l hl => ⟨?_, ?_⟩, fun l r hr hn => ?_⟩
  · rw [hx, State.issue_of h]
    simp only [IEnv.lanes64, h1]
  · rw [h2 l _ (wD_lt _), ← hv l hl]
    simp only [hl, true_and, if_true]
    apply BitVec.eq_of_toNat_eq
    simp only [BitVec.toNat_ofNat, BitVec.extractLsb'_toNat, Nat.shiftRight_zero]
    omega
  · rw [h2 l _ hd, ← hv l hl]
    simp only [hl, true_and, if_true, Nat.add_eq_left, Nat.one_ne_zero, if_false]
    apply BitVec.eq_of_toNat_eq
    simp only [BitVec.toNat_ofNat, BitVec.extractLsb'_toNat, Nat.shiftRight_eq_div_pow]
    omega
  · rw [h2 l r hr]
    have : ¬ (l ∈ e.ex ∧ r = wD e.w) := by tauto
    have : ¬ (l ∈ e.ex ∧ r = wD e.w + 1) := by tauto
    simp [*]

/-- An instruction whose body is a predicate result per lane. -/
theorem WritesPred.of {i : Instr} {s : State} {c g : Nat} {w : W64} {opc : Nat} {u : Uses} {e : IEnv} {f : IEnv → Nat → Bool} {v : Nat → Bool}
    (h : Issues s c g w opc u e) (hd : wD e.w < 8)
    (hx : exec i s = .next (s.issue c g w opc u fun e s => e.lanesP (f e) s))
    (hv : ∀ l ∈ e.ex, f e l = v l) : WritesPred i s e v := by
  obtain ⟨ps, h1, h2⟩ := Group.foldl_setPred (wD e.w) (f e) hd e.ex e.gr
  refine ⟨ps, ?_, fun l hl => ?_, fun l r hr hn => ?_⟩
  · rw [hx, State.issue_of h]
    simp only [IEnv.lanesP, h1]
  · rw [h2 l _ hd]
    simp [hl, hv]
  · rw [h2 l r hr]
    simp [hn]

end Sys2Proof.Machine
end

