-- ==== Sys2Proof/WellFormed.lean ====
section
/-! DEFINITION. Which commands are well formed: operands that the types do not bound have the lengths and ranges that the spec gives
what they stand for. -/

namespace Sys2Proof

/-- A flit carries a body of 248 bytes (R250), a packet at most 4,096 bytes of payload in units of 32 (R263, Table 11.10). -/
def pktOk (x : Pkt) : Bool := decide (x.data.length ≤ 4096) && decide (x.data.length % 32 = 0)

/-- Bytes that a host returned: as many as were read. -/
def hostBytesOk (n : Nat) : HostBytes → Bool
  | .bytes l => decide (l.length = n)
  | .fail _ => true

/-- A fetched golden block is 4,096 bytes (R207). -/
def fetchOk : FetchEnd → Bool
  | .data l => decide (l.length = 4096)
  | _ => true

/-- A symbol in error differs from the one that was written (R199). -/
def errsOk (l : SymErrs) : Bool := l.all fun e => e.2 != 0

/-- The same of units in error. -/
def unitErrsOk (us : UnitErrs) : Bool := us.all fun e => errsOk e.2

/-- A record has its 8 header bytes and data in multiples of 8 bytes (R399); bytes given by place lie in it, in rising order. -/
def recOk : TunRec → Bool
  | .bytes l => decide (8 ≤ l.length) && decide (l.length % 8 = 0)
  | .fill hdr n _ cells => decide (hdr.length = 8) && decide (n % 8 = 0) && decide (cells.Pairwise fun a b => a.1 < b.1) && cells.all fun e => decide (e.1 < n)

/-- An image's header has 64 bytes (R398). -/
def imgOk : HostGot TunImg → Bool
  | .got x => decide (x.hdr.length = 64) && x.recs.all recOk
  | .fail => true

/-- A command is well formed. -/
def Instr.wf : Instr → Bool
  | .wireEdge _ _ => true
  | .wireSourceTimeout => true
  | .fabricSourceTimeout _ => true
  | .stringBoundary => true
  | .holdoverExpiry => true
  | .stringLostStop => true
  | .strCountLoadWrite _ _ _ => true
  | .phaseSend l => decide (l.length = 16)
  | .phase _ _ _ _ _ _ => true
  | .laserPowerSample _ _ _ => true
  | .mxi _ _ _ => true
  | .heldIssueRetry _ _ => true
  | .passStart _ _ _ => true
  | .passEnd _ _ _ us _ => unitErrsOk us
  | .passComplete _ _ => true
  | .nop _ _ _ => true
  | .iadd _ _ _ _ => true
  | .iaddi _ _ _ _ => true
  | .isub _ _ _ _ => true
  | .imul _ _ _ _ => true
  | .imad _ _ _ _ => true
  | .idiv _ _ _ => true
  | .iminmax _ _ _ => true
  | .lop _ _ _ => true
  | .lopi _ _ _ => true
  | .shf _ _ _ => true
  | .bits _ _ _ => true
  | .movi _ _ _ => true
  | .mov _ _ _ => true
  | .sel _ _ _ => true
  | .fadd _ _ _ => true
  | .fmul _ _ _ => true
  | .ffma _ _ _ => true
  | .faddi _ _ _ => true
  | .fmuli _ _ _ => true
  | .fminmax _ _ _ => true
  | .xfn _ _ _ => true
  | .fdiv _ _ _ => true
  | .hop2 _ _ _ => true
  | .cvt _ _ _ => true
  | .rng _ _ _ => true
  | .shfl _ _ _ => true
  | .vote _ _ _ => true
  | .icmp _ _ _ => true
  | .fcmp _ _ _ => true
  | .pcomb _ _ _ => true
  | .ldl _ _ _ _ errs => errsOk errs
  | .stl _ _ _ _ => true
  | .ldg _ _ _ _ => true
  | .globalLoadReturn _ _ errs => errsOk errs
  | .stg _ _ _ _ => true
  | .fence _ _ _ => true
  | .ncinv _ _ _ => true
  | .pref _ _ _ _ us => unitErrsOk us
  | .atomg _ _ _ _ _ us => unitErrsOk us
  | .redg _ _ _ _ _ us => unitErrsOk us
  | .atoml _ _ _ _ => true
  | .bra _ _ _ => true
  | .brx _ _ _ => true
  | .call _ _ _ => true
  | .exit _ _ _ => true
  | .bar _ _ _ => true
  | .trap _ _ _ => true
  | .yield _ _ _ => true
  | .vxi _ _ _ => true
  | .cxi _ _ _ => true
  | .twait _ _ _ => true
  | .tread _ _ _ => true
  | .sreg _ _ _ => true
  | .blockStart _ _ => true
  | .contextKillDone _ => true
  | .watchdogExpired _ _ => true
  | .contextEnd _ => true
  | .vecCvt _ us => unitErrsOk us
  | .vecAdd _ us => unitErrsOk us
  | .vecMul _ us => unitErrsOk us
  | .vecFma _ us => unitErrsOk us
  | .vecMin _ us => unitErrsOk us
  | .vecMax _ us => unitErrsOk us
  | .vecCmp _ us => unitErrsOk us
  | .vecSel _ us => unitErrsOk us
  | .vecRed _ us => unitErrsOk us
  | .vectorDescComplete _ => true
  | .patrolRead _ off errs => decide (off < 0x1000000000) && errsOk errs
  | .stackFail _ _ => true
  | .hbmThermalSample _ _ => true
  | .refillStart => true
  | .refillFetchDone _ r => fetchOk r
  | .heldReadTimeout _ => true
  | .pinLeaseExpiry _ _ => true
  | .open_ _ => true
  | .close _ => true
  | .closeAddBackDone _ => true
  | .norm _ => true
  | .normDone _ us => unitErrsOk us
  | .apply _ => true
  | .applyHoldDrained _ => true
  | .applyGateOpen _ => true
  | .updateEngineLine _ _ us => unitErrsOk us
  | .applyCommitDone _ => true
  | .gateTimeout _ => true
  | .emit _ => true
  | .emitDone _ => true
  | .abandon _ => true
  | .pipelineChoose _ _ => true
  | .flitReceive _ x => decide (x.body.length = 248)
  | .nakResendTimeout _ => true
  | .flitSlotTransmit _ => true
  | .nak _ _ => true
  | .credit _ _ _ _ _ => true
  | .train _ _ _ _ _ _ _ _ _ _ => true
  | .delayReq _ _ _ _ _ => true
  | .delayRsp _ _ _ _ _ _ => true
  | .delayMeasureStart _ ts => decide (ts.length = 16)
  | .planEntries _ _ _ count es => decide (es.length = count.toNat)
  | .flowEntries _ _ _ count es => decide (es.length = count.toNat)
  | .planSend _ _ es fs _ => es.all (fun e => decide (e.1 < 256)) && fs.all fun e => decide (e.1 < 256)
  | .planAck _ _ _ => true
  | .planNak _ _ _ _ _ => true
  | .switch _ _ _ => true
  | .switchWithdraw _ => true
  | .planSwitch _ => true
  | .keyNonce _ _ => true
  | .keyConfirmation _ _ => true
  | .down _ _ => true
  | .lateAck _ => true
  | .lateAckLimit _ => true
  | .replayLimit _ => true
  | .fecLimit _ _ _ => true
  | .tagFailureLimit _ => true
  | .silentTimeout _ => true
  | .rekey _ => true
  | .retrainBackoffExpiry _ => true
  | .trainingStepTimeout _ step _ => decide (step.val ≠ 0)
  | .linkUp _ => true
  | .retrain _ _ => true
  | .put _ x => pktOk x
  | .getReq _ x us => pktOk x && unitErrsOk us
  | .reducePut _ x _ => pktOk x
  | .permutePacket _ x => pktOk x
  | .getRsp _ x => pktOk x
  | .putDone _ x => pktOk x
  | .collectivePacketReceive _ x _ => pktOk x
  | .segmentForward _ _ _ _ errs _ => errsOk errs
  | .pass _ x us _ => pktOk x && unitErrsOk us
  | .stepPass _ x => pktOk x
  | .retract _ x => pktOk x
  | .leave _ x => pktOk x
  | .sealQuery _ x errs => pktOk x && errsOk errs
  | .sealNone _ x => pktOk x
  | .sealQueryTimeout _ _ => true
  | .allReduce _ => true
  | .reduceScatter _ => true
  | .allGather _ => true
  | .broadcast _ => true
  | .allToAll _ => true
  | .permute _ => true
  | .stepset _ => true
  | .collectiveStart _ _ => true
  | .passSend _ _ us _ => unitErrsOk us
  | .stepPassSend _ => true
  | .stepPassResend _ => true
  | .permuteCommit _ _ us => unitErrsOk us
  | .collectiveComplete _ _ us _ => unitErrsOk us
  | .collectiveDeadline _ _ => true
  | .retractedCollectiveEnd _ _ => true
  | .leaveEnd _ _ => true
  | .kick _ _ _ _ => true
  | .doorbellScan _ _ r => hostBytesOk 32 r
  | .doorbellRead _ x => hostBytesOk 8 x
  | .descriptorRead _ x => hostBytesOk 64 x
  | .seqReread _ x => hostBytesOk 64 x
  | .kernelLaunch _ => true
  | .copy _ _ us => unitErrsOk us
  | .accumCopy _ _ _ us => unitErrsOk us
  | .fill _ _ => true
  | .vectorStream _ => true
  | .matrixStream _ => true
  | .streamEntriesDone _ => true
  | .fenceDesc _ => true
  | .signal _ => true
  | .wait _ => true
  | .eventWaitSatisfied _ => true
  | .waitTime _ => true
  | .waitTimeReached _ => true
  | .eventWaitTimeout _ => true
  | .tallyRead _ _ => true
  | .completionRecord _ _ => true
  | .coalesceTimeout _ _ => true
  | .ringCreate _ _ => true
  | .ringStop _ _ => true
  | .ringStopDone _ => true
  | .ringResume _ _ => true
  | .ringDestroy _ _ => true
  | .flr _ => true
  | .perst _ => true
  | .hostPortLeavesL0 _ _ => true
  | .atsInvalidate _ _ => true
  | .ideKm _ _ _ _ => true
  | .ideIntegrityFailure _ _ _ => true
  | .spdmRequest _ _ => true
  | .setFabricKey _ _ _ => true
  | .pqSign _ _ => true
  | .getPqCert _ _ _ _ => true
  | .lockInterface _ _ => true
  | .startInterface _ => true
  | .stopInterface _ => true
  | .getInterfaceReport _ => true
  | .tdiUnlockDone _ => true
  | .stallCreate _ _ => true
  | .stallReset _ _ => true
  | .stallResetDone _ => true
  | .stallDestroy _ _ => true
  | .assign _ _ => true
  | .inval _ _ => true
  | .setShare _ _ => true
  | .share _ _ => true
  | .unshare _ _ => true
  | .fnQuota _ _ => true
  | .setRkey _ _ => true
  | .goldenAdd _ _ => true
  | .goldenRemove _ _ => true
  | .shareOffer _ _ => true
  | .shareWithdraw _ _ => true
  | .quantumEnd _ => true
  | .coreGrant => true
  | .contextSave _ _ => true
  | .contextRestore _ _ _ => true
  | .windowClose _ => true
  | .ldgCtlWrite _ _ _ => true
  | .ldgBaseWrite _ _ _ _ => true
  | .run _ _ => true
  | .fieldTestDone _ => true
  | .cancel _ _ => true
  | .fenceUnit _ _ => true
  | .fenceTakeEffect => true
  | .planEntryLeaseExpiry _ _ => true
  | .windowLeaseExpiry _ _ => true
  | .heldGetLeaseExpiry _ => true
  | .stage _ img => imgOk img
  | .stageDone _ => true
  | .applyLive _ => true
  | .tuningPrepareDone _ => true
  | .tuningSwitch _ => true
  | .qPoint _ _ => true
  | .qLimitExpiry _ _ => true
  | .tuningCommit _ => true
  | .tuningRevert _ => true
  | .applyAtReset _ => true
  | .rollback _ => true
  | .discard _ => true
  | .capture _ => true
  | .resetDevice _ _ => true
  | .unsealedFieldApply => true
  | .powerOn _ => true
  | .bootReady => true
  | .bootTimeout _ => true
  | .powerDown => true
  | .coreRailRemove => true
  | .fwWrite _ _ => true
  | .commitSvn _ => true
  | .nonce _ => true
  | .keyAdd _ _ => true
  | .keyRevoke _ _ => true
  | .debugUnlock _ _ => true
  | .slowPowerLoop x => decide (x.pDie.length = 6) && decide (x.energy.length = 6)
  | .pwrCapOvrWrite _ _ => true
  | .droop _ => true
  | .droopHoldExpiry _ => true
  | .pwrbrakeAssert => true
  | .brakeRelease => true
  | .brakeRampFret => true
  | .thermalSample _ _ => true
  | .mctpControl _ _ => true
  | .pldmBaseDiscovery _ => true
  | .pldmGetSensor _ _ => true
  | .deviceResetEffecter _ _ => true
  | .pldmFwUpdate _ _ => true
  | .ledgerRead _ _ => true
  | .registerWrite _ off _ _ _ => decide (off < 0x40000)
  | .lowHalfReadLatch _ off size _ => decide (off < 0x40000) && decide (0 < size)
  | .doorbellConfigWrite _ off _ _ => decide (off < 0x40000)
  | .tunOp _ _ _ => true
  | .perstDeassert _ => true
  | .hostPortReachesL0 _ _ _ => true
  | .vfEnable _ _ => true
  | .pwrbrakeDeassert => true
  | .droopSupplyRecovery _ => true
  | .oldKeyAcceptExpiry _ => true

end Sys2Proof
end

