-- ==== Sys2Proof/Tests/Slice0.lean ====
section
/-! SUPPORT. Tests of the model on small states. Each theorem lists expressions about one command on one small state and says that each is true: `runs` gives the fields
of the next state that the rules of the spec fix, worked out by hand from them, and `stays` that the command changes nothing. They are also the witnesses of the hypotheses of
the statements in Certificates/Slice0/Obligations.lean: their states are in canonical form (`State.wf`) and meet the premises of the clause that the expression names. -/

namespace Sys2Proof.Tests

set_option Elab.async false

open Sys2Proof Sys2Proof.Machine

/-- The answer is a next state that meets `p`. -/
def runs (r : Res) (p : Machine.State → Bool) : Bool :=
  match r with
  | .next t => p t
  | _ => false

/-- The command changes nothing. -/
def stays (i : Instr) (s : Machine.State) : Bool := runs (exec i s) fun t => decide (t = s)

/-! ### A group of two lanes on core 0 -/

/-- A word: opcode, MOD, D, A and the low 32 bits. -/
def wd (opc mod d a lo : Nat) : W64 := BitVec.ofNat 64 (opc * 2 ^ 57 + mod * 2 ^ 48 + d * 2 ^ 40 + a * 2 ^ 32 + lo)

/-- Registers 0 to 11 of lanes 0 and 1. -/
def regs2 : Tbl (Option W32) :=
  ([6, 0, 3, 0, 0x3F800000, 0x40000000, 0x100, 0, 1, 2, 0x40, 0] : List W32).zipIdx.map (fun e => (e.2, some e.1)) ++
    ([0xFFFFFFFE, 0xFFFFFFFF, 3, 0, 0x40400000, 0x3F000000, 0x108, 0, 1, 3, 0x48, 0] : List W32).zipIdx.map fun e => (256 + e.2, some e.1)

def gr2 : Group := { serial := 1, paths := [{ pc := 0, mask := 3 }], regs := regs2, preds := [(0, some true), (1, some false), (8, some false), (9, some false)] }

def core2 : Core := { ctx := some 1, groups := [(0, gr2)], blocks := [(0, { ctx := 1, slots := [0] })] }

def ctx2 : Ctx := { st := .running, cores := [0], nreg := 64, placed := [0] }

/-- The core's context is one of stall 0, whose addresses are device addresses. -/
def thr : Machine.State := { cores := [(0, core2)], ctxs := [(1, some ctx2)] }

def env (w : W64) : IEnv :=
  { c := 0, g := 0, n := 1, x := ctx2, gr := gr2, pc := 0, w := w, act := 3, ex := (maskList 32 3).filter (guardOf gr2 w) }

/-- Register `r` of lane `l` after a step. -/
def rg (t : Machine.State) (l r : Nat) : Nat := ((t.group? 0 0).map fun g => (g.reg l r).toNat).getD 0
def pd (t : Machine.State) (l p : Nat) : Bool := ((t.group? 0 0).map fun g => g.pred l p).getD false
def pcOf (t : Machine.State) : List Nat := ((t.group? 0 0).map fun g => g.paths.map PathEnt.pc).getD []

/-- Fault of the context of `thr`. -/
def faulted (t : Machine.State) (cause : Nat) : Bool := ((t.ctx? 1).bind fun x => x.fault.map CtxFault.cause) == some cause

theorem test_thr_wf : thr.wf = true := by decide +kernel

theorem thr_fetch : thr.fetchErr 0 0 = none := by decide +kernel

/-- Every word with a listed opcode that passes the decode checks issues on the group: the premise of the statements about instructions of a group. -/
theorem test_issues (w : W64) (opc : Nat) (u : Uses) (ho : wOpc w = opc) (hd : decodeCheck u 64 w = none) : Issues thr 0 0 w opc u (env w) :=
  { ctx := rfl, running := rfl, issues := rfl, group := ⟨gr2, { pc := 0, mask := 3 }, [], rfl, rfl, rfl, rfl, rfl, rfl⟩, lanes := rfl, core := rfl,
    slot := rfl, word := rfl, opcode := ho, fetch := thr_fetch, decode := hd, board := rfl }

theorem test_fetches (w : W64) (opc : Nat) (ho : wOpc w = opc) : Fetches thr 0 0 w opc (env w) :=
  { ctx := rfl, running := rfl, issues := rfl, group := ⟨gr2, { pc := 0, mask := 3 }, [], rfl, rfl, rfl, rfl, rfl, rfl⟩, lanes := rfl, core := rfl,
    slot := rfl, word := rfl, opcode := ho, fetch := thr_fetch }

theorem test_reset_queue : Machine.State.reset.pending = [] := rfl

/-! ### Arithmetic, conversions and comparisons of a group -/

/-- Integer instructions: sums and products wrap, a pair carries into its high word, IDIV by zero gives all ones and A (R151, R152). -/
theorem test_integer : ([runs (exec (.iadd 0 0 (wd 1 0 12 0 0x2000000) false) thr) fun t => rg t 0 12 == 9 && rg t 1 12 == 1 && pcOf t == [8],
    runs (exec (.iadd 0 0 (wd 1 1 12 0 0x2000000) false) thr) fun t => rg t 0 12 == 9 && rg t 1 12 == 1 && rg t 0 13 == 0 && rg t 1 13 == 0,
    runs (exec (.iaddi 0 0 (wd 2 0 12 0 0xFFFFFFFF) false) thr) fun t => rg t 0 12 == 5 && rg t 1 12 == 0xFFFFFFFD,
    runs (exec (.isub 0 0 (wd 3 0 12 2 0) false) thr) fun t => rg t 0 12 == 0xFFFFFFFD && rg t 1 12 == 5,
    runs (exec (.isub 0 0 (wd 3 1 12 2 0) false) thr) fun t => rg t 0 12 == 0xFFFFFFFD && rg t 0 13 == 0xFFFFFFFF,
    runs (exec (.imul 0 0 (wd 4 0 12 0 0x2000000) false) thr) fun t => rg t 0 12 == 18 && rg t 1 12 == 0xFFFFFFFA,
    runs (exec (.imul 0 0 (wd 4 1 12 0 0x2000000) false) thr) fun t => rg t 0 12 == 0 && rg t 1 12 == 0xFFFFFFFF,
    runs (exec (.imul 0 0 (wd 4 2 12 0 0x2000000) false) thr) fun t => rg t 0 12 == 0 && rg t 1 12 == 2,
    runs (exec (.imad 0 0 (wd 5 0 12 0 0x2080000) false) thr) fun t => rg t 0 12 == 19 && rg t 1 12 == 0xFFFFFFFB,
    runs (exec (.idiv 0 0 (wd 6 0 12 0 0x2000000)) thr) fun t => rg t 0 12 == 2 && rg t 1 12 == 0,
    runs (exec (.idiv 0 0 (wd 6 1 12 0 0x2000000)) thr) fun t => rg t 0 12 == 2 && rg t 1 12 == 0x55555554,
    runs (exec (.idiv 0 0 (wd 6 2 12 0 0x2000000)) thr) fun t => rg t 0 12 == 0 && rg t 1 12 == 0xFFFFFFFE,
    runs (exec (.idiv 0 0 (wd 6 0 12 0 0x3000000)) thr) fun t => rg t 0 12 == 0xFFFFFFFF && rg t 1 12 == 0xFFFFFFFF,
    runs (exec (.idiv 0 0 (wd 6 3 12 0 0x3000000)) thr) fun t => rg t 0 12 == 6 && rg t 1 12 == 0xFFFFFFFE,
    runs (exec (.iadd 0 0 (wd 1 0 12 0 0x2000000) true) thr) fun t => faulted t 0x12,
    runs (exec (.imad 0 0 (wd 5 0 12 0 0x2080000 + 1 <<< 55 + 1 <<< 52) true) thr) fun t => pcOf t == [8]] : List Bool).all id = true := by decide +kernel

/-- Orders, bitwise operations, shifts, bit counts and moves (R151). -/
theorem test_bits : ([runs (exec (.iminmax 0 0 (wd 7 0 12 0 0x2000000)) thr) fun t => rg t 0 12 == 3 && rg t 1 12 == 0xFFFFFFFE,
    runs (exec (.iminmax 0 0 (wd 7 3 12 0 0x2000000)) thr) fun t => rg t 0 12 == 6 && rg t 1 12 == 0xFFFFFFFE,
    runs (exec (.lop 0 0 (wd 8 0 12 0 0x2000000)) thr) fun t => rg t 0 12 == 2 && rg t 1 12 == 2,
    runs (exec (.lop 0 0 (wd 8 3 12 0 0x2000000)) thr) fun t => rg t 0 12 == 4 && rg t 1 12 == 0xFFFFFFFC,
    runs (exec (.lopi 0 0 (wd 9 2 12 0 1)) thr) fun t => rg t 0 12 == 7 && rg t 1 12 == 0xFFFFFFFF,
    runs (exec (.shf 0 0 (wd 0x0A 0 12 0 0x2000000)) thr) fun t => rg t 0 12 == 48 && rg t 1 12 == 0xFFFFFFF0,
    runs (exec (.shf 0 0 (wd 0x0A 2 12 0 0x2000000)) thr) fun t => rg t 0 12 == 0 && rg t 1 12 == 0xFFFFFFFF,
    runs (exec (.bits 0 0 (wd 0x0B 0 12 0 0)) thr) fun t => rg t 0 12 == 2 && rg t 1 12 == 31,
    runs (exec (.bits 0 0 (wd 0x0B 1 12 3 0)) thr) fun t => rg t 0 12 == 32,
    runs (exec (.bits 0 0 (wd 0x0B 2 12 0 0)) thr) fun t => rg t 0 12 == 0x60000000 && rg t 1 12 == 0x7FFFFFFF,
    runs (exec (.movi 0 0 (wd 0x0C 0 12 0 0xABCD)) thr) fun t => rg t 0 12 == 0xABCD && rg t 1 12 == 0xABCD,
    runs (exec (.mov 0 0 (wd 0x0D 1 12 0 0)) thr) fun t => rg t 1 12 == 0xFFFFFFFE && rg t 1 13 == 0xFFFFFFFF,
    runs (exec (.sel 0 0 (wd 0x0E 0 12 0 0x2000000)) thr) fun t => rg t 0 12 == 6 && rg t 1 12 == 3] : List Bool).all id = true := by decide +kernel

/-- FP32, paired and converting instructions (R151 to R153). -/
theorem test_float : ([runs (exec (.fadd 0 0 (wd 0x10 0 12 4 0x5000000)) thr) fun t => rg t 0 12 == 0x40400000 && rg t 1 12 == 0x40600000,
    runs (exec (.fmul 0 0 (wd 0x11 0 12 4 0x5000000)) thr) fun t => rg t 0 12 == 0x40000000 && rg t 1 12 == 0x3FC00000,
    runs (exec (.ffma 0 0 (wd 0x12 0 12 4 0x5040000)) thr) fun t => rg t 0 12 == 0x40400000 && rg t 1 12 == 0x40900000,
    runs (exec (.faddi 0 0 (wd 0x13 0 12 4 0x3F800000)) thr) fun t => rg t 0 12 == 0x40000000 && rg t 1 12 == 0x40800000,
    runs (exec (.fmuli 0 0 (wd 0x14 0 12 4 0x40000000)) thr) fun t => rg t 0 12 == 0x40000000 && rg t 1 12 == 0x40C00000,
    runs (exec (.fminmax 0 0 (wd 0x15 0 12 4 0x5000000)) thr) fun t => rg t 0 12 == 0x3F800000 && rg t 1 12 == 0x3F000000,
    runs (exec (.fminmax 0 0 (wd 0x15 1 12 4 0x5000000)) thr) fun t => rg t 0 12 == 0x40000000 && rg t 1 12 == 0x40400000,
    runs (exec (.fdiv 0 0 (wd 0x17 0 12 4 0x5000000)) thr) fun t => rg t 0 12 == 0x3F000000 && rg t 1 12 == 0x40C00000,
    runs (exec (.fdiv 0 0 (wd 0x17 0 12 4 0x3000000)) thr) fun t => rg t 0 12 == 0x7F800000,
    runs (exec (.xfn 0 0 (wd 0x16 4 12 5 0)) thr) fun t => rg t 0 12 == 0x3FB504F3,
    runs (exec (.hop2 0 0 (wd 0x18 0 12 4 0x4000000)) thr) fun t => rg t 0 12 == 0x40000000,
    runs (exec (.cvt 0 0 (wd 0x20 0 12 4 0x050000)) thr) fun t => rg t 0 12 == 1 && rg t 1 12 == 3,
    runs (exec (.cvt 0 0 (wd 0x20 1 12 4 0x2010000)) thr) fun t => rg t 0 12 == 0x3F80,
    runs (exec (.rng 0 0 (wd 0x21 0 12 6 0x2000000)) thr) fun t => decide (rg t 0 12 < 2 ^ 16)] : List Bool).all id = true := by decide +kernel

/-- SHFL, VOTE and the instructions that write a predicate (R151). -/
theorem test_predicates : ([runs (exec (.shfl 0 0 (wd 0x22 3 12 0 0x8000000)) thr) fun t => rg t 0 12 == 0xFFFFFFFE,
    runs (exec (.shfl 0 0 (wd 0x22 0 12 0 0x3000000)) thr) fun t => rg t 0 12 == 6 && rg t 1 12 == 6,
    runs (exec (.vote 0 0 (wd 0x23 0 2 0 0)) thr) fun t => !pd t 0 2 && !pd t 1 2,
    runs (exec (.vote 0 0 (wd 0x23 1 2 0 0)) thr) fun t => pd t 0 2 && pd t 1 2,
    runs (exec (.vote 0 0 (wd 0x23 2 12 0 0)) thr) fun t => rg t 0 12 == 1 && rg t 1 12 == 1,
    runs (exec (.icmp 0 0 (wd 0x30 2 2 0 0x2000000)) thr) fun t => !pd t 0 2 && pd t 1 2,
    runs (exec (.icmp 0 0 (wd 0x30 10 2 0 0x2000000)) thr) fun t => !pd t 0 2 && !pd t 1 2,
    runs (exec (.fcmp 0 0 (wd 0x31 4 2 4 0x5000000)) thr) fun t => !pd t 0 2 && pd t 1 2,
    runs (exec (.pcomb 0 0 (wd 0x32 3 2 0 0x1000000)) thr) fun t => pd t 0 2 && !pd t 1 2] : List Bool).all id = true := by decide +kernel

/-- Words that fail a decode check fault their context: an unlisted MOD, a reserved field, a register beyond NREG (R150). -/
theorem test_decode : ([runs (exec (.imad 0 0 (wd 5 1 12 0 0) false) thr) fun t => faulted t 1,
    runs (exec (.nop 0 0 (wd 0 0 1 0 0)) thr) fun t => faulted t 2,
    runs (exec (.movi 0 0 (wd 0x0C 0 64 0 0)) thr) fun t => faulted t 3,
    runs (exec (.bar 0 0 (wd 0x64 0 0 0 0 + 1 <<< 55)) thr) fun t => faulted t 2,
    runs (exec (.movi 0 0 (wd 0x0C 0 1 0 0 + 3 <<< 55)) thr) fun t => faulted t 2,
    runs (exec (.movi 0 0 (wd 0x0C 0 1 0 0 + 1 <<< 52)) thr) fun t => faulted t 2,
    runs (exec (.mxi 0 0 (wd 0x70 0 0 6 1)) thr) fun t => faulted t 2] : List Bool).all id = true := by decide +kernel

/-! ### Memory accesses, control flow and calls of a group -/

/-- Words of the instructions of a group, one for each opcode, that pass the decode checks: with test_issues, premises of the statements. -/
theorem test_words_issue : ∀ q ∈ ([(0, 0, 0, 0), (1, 12, 0, 2 <<< 24), (2, 12, 0, 1), (3, 12, 0, 0), (4, 12, 0, 0), (5, 12, 0, 0), (6, 12, 0, 0), (7, 12, 0, 0), (8, 12, 0, 0), (9, 12, 0, 1),
      (0x0A, 12, 0, 0), (0x0B, 12, 0, 0), (0x0C, 12, 0, 5), (0x0D, 12, 0, 0), (0x0E, 12, 0, 0), (0x10, 12, 4, 0), (0x11, 12, 4, 0), (0x12, 12, 4, 0), (0x13, 12, 4, 0), (0x14, 12, 4, 0),
      (0x15, 12, 4, 0), (0x16, 12, 4, 0), (0x17, 12, 4, 0), (0x18, 12, 4, 0), (0x20, 12, 4, 0), (0x21, 12, 6, 0), (0x22, 12, 0, 0), (0x23, 2, 0, 0), (0x30, 2, 0, 0), (0x31, 2, 0, 0),
      (0x32, 2, 0, 0), (0x40, 12, 6, 0), (0x41, 12, 6, 0), (0x42, 12, 6, 0), (0x43, 12, 6, 0), (0x44, 0, 0, 0), (0x45, 0, 0, 0), (0x46, 0, 6, 0), (0x50, 12, 6, 0), (0x51, 0, 6, 0),
      (0x52, 12, 6, 0), (0x60, 0, 0, 0), (0x61, 0, 6, 0), (0x62, 12, 0, 0), (0x63, 0, 0, 0), (0x64, 0, 0, 0), (0x65, 0, 0, 0), (0x66, 0, 0, 0), (0x70, 0, 6, 0), (0x71, 0, 6, 0), (0x72, 0, 6, 0),
      (0x73, 0, 0, 0), (0x74, 12, 0, 0), (0x75, 12, 0, 0)] : List (Nat × Nat × Nat × Nat)),
    (threadForms 0 0 (wd q.1 0 q.2.1 q.2.2.1 q.2.2.2)).any (fun f => f.2.1 == wOpc (wd q.1 0 q.2.1 q.2.2.1 q.2.2.2) &&
      (decodeCheck f.2.2 64 (wd q.1 0 q.2.1 q.2.2.1 q.2.2.2)).isNone) = true := by decide +kernel

/-- The same core with a second group of the block, held or not. -/
def thr2 (h : Held) : Machine.State :=
  thr.setCore 0 { core2 with groups := [(0, gr2), (1, { gr2 with serial := 2, idx := 1, held := h })], blocks := [(0, { ctx := 1, slots := [0, 1] })] }
def helds (t : Machine.State) : List Held := (t.core 0).groups.map fun e => e.2.held
def near1 : Core := { core2 with near := [(2, List.replicate 128 7)] }
def load1 (mode : Nat) : Load := { slot := 0, serial := 1, d := 12, pc := 0, mode := mode, act := 3, lanes := [(0, 0x100, 0x100), (1, 0x108, 0x108)] }

/-- BRA splits a divergent group, BRX its targets, CALL links (R154, R155). -/
theorem test_branches : ([runs (exec (.bra 0 0 (wd 0x60 0 0 0 4)) thr) fun t => pcOf t == [32],
    runs (exec (.bra 0 0 (wd 0x60 0 0 0 4 + 1 <<< 55 + 1 <<< 52 + 6 <<< 24)) thr) fun t => pcOf t == [8],
    runs (exec (.bra 0 0 (wd 0x60 0 0 0 4 + 1 <<< 55 + 6 <<< 24)) thr) fun t => pcOf t == [8, 32, 48],
    runs (exec (.brx 0 0 (wd 0x61 0 0 2 0)) thr) fun t => faulted t 5,
    runs (exec (.brx 0 0 (wd 0x61 0 0 6 5)) thr) fun t => pcOf t == [0x100, 0x108, 40],
    runs (exec (.call 0 0 (wd 0x62 0 12 0 2)) thr) fun t => pcOf t == [16] && rg t 0 12 == 8 && rg t 1 13 == 0] : List Bool).all id = true := by decide +kernel

/-- EXIT frees the block with its last lane; BAR releases a block of one group; TWAIT, TRAP, YIELD, TREAD and SREG (R151, R156, R159, R160). -/
theorem test_holding : ([runs (exec (.exit 0 0 (wd 0x63 0 0 0 0)) thr) fun t => (t.core 0).blocks == [] && (t.core 0).groups == [],
    runs (exec (.exit 0 0 (wd 0x63 0 0 0 0 + 1 <<< 55)) thr) fun t => ((t.group? 0 0).map Group.live) == some 2,
    runs (exec (.bar 0 0 (wd 0x64 0 0 0 3)) thr) fun t => pcOf t == [8],
    runs (exec (.twait 0 0 (wd 0x73 0 0 0 2)) thr) fun t => pcOf t == [8],
    runs (exec (.twait 0 0 (wd 0x73 0 0 0 2)) (thr.setGroup 0 0 { gr2 with tokens := [(2, 1)] })) fun t => ((t.group? 0 0).map Group.held) == some (.token 2 0),
    runs (exec (.trap 0 0 (wd 0x65 0 0 0 9)) thr) fun t => faulted t 0x13,
    runs (exec (.yield 0 0 (wd 0x66 0 0 0 0)) thr) fun t => ((t.group? 0 0).map Group.yielded) == some true,
    runs (exec (.nop 0 0 (wd 0 0 0 0 0)) thr) fun t => pcOf t == [8],
    runs (exec (.tread 0 0 (wd 0x74 0 12 0 2)) (thr.setGroup 0 0 { gr2 with tokens := [(2, 5)] })) fun t => rg t 1 12 == 5,
    runs (exec (.sreg 0 0 (wd 0x75 0 12 0 0)) thr) fun t => rg t 0 12 == 0 && rg t 1 12 == 1,
    runs (exec (.sreg 0 0 (wd 0x75 0 12 0 0x10)) { thr with str := { time := 7 } }) fun t => rg t 0 12 == 7 && rg t 1 13 == 0,
    runs (exec (.sreg 0 0 (wd 0x75 0 12 0 0x11)) thr) fun t => pcOf t == [8],
    runs (exec (.bar 0 0 (wd 0x64 0 0 0 3)) (thr2 .no)) fun t => helds t == [.barrier 3, .no] && pcOf t == [0],
    runs (exec (.bar 0 0 (wd 0x64 0 0 0 3)) (thr2 (.barrier 3))) fun t => helds t == [.no, .no] && ((t.group? 0 1).map fun g => g.paths.map PathEnt.pc) == some [8]] : List Bool).all id = true := by decide +kernel

/-- LDL and STL: extension, the highest lane's bytes, and the checks of every lane before any access (R161, R164). -/
theorem test_local_memory : ([runs (exec (.stl 0 0 (wd 0x41 2 0 6 0) false) thr) fun t => tget 0 (t.core 0).mem 0x100 == 6 && tget 0 (t.core 0).mem 0x108 == 0xFE,
    runs (exec (.stl 0 0 (wd 0x41 0 0 8 0) false) thr) fun t => tget 0 (t.core 0).mem 1 == 0xFE,
    runs (exec (.ldl 0 0 (wd 0x40 5 12 6 0) false []) (thr.setCore 0 { core2 with mem := [(0x100, 0x80)] })) fun t => rg t 0 12 == 0xFFFFFF80 && rg t 1 12 == 0,
    runs (exec (.ldl 0 0 (wd 0x40 2 12 8 0) false []) thr) fun t => faulted t 5,
    runs (exec (.ldl 0 0 (wd 0x40 2 12 6 0x300000) false []) thr) fun t => faulted t 4,
    runs (exec (.ldl 0 0 (wd 0x40 2 12 6 0) true []) thr) fun t => faulted t 0x12,
    runs (exec (.stl 0 0 (wd 0x41 2 0 6 0) true) thr) fun t => faulted t 0x12 && (t.core 0).mem == [],
    runs (exec (.ldl 0 0 (wd 0x40 2 12 6 0) false []) (thr.setCore 0 { core2 with poison := [8] })) fun t => faulted t 0x11,
    runs (exec (.ldl 0 0 (wd 0x40 2 12 6 0) false [(0, 1), (7, 1)]) thr) fun t => faulted t 0x11 && (t.core 0).poison == [8],
    runs (exec (.ldl 0 0 (wd 0x40 2 12 6 0) false [(3, 5)]) (thr.setCore 0 { core2 with mem := [(0x100, 9)] })) fun t => rg t 0 12 == 9 && (t.core 0).poison == [],
    runs (exec (.stl 0 0 (wd 0x41 2 0 6 0) false) (thr.setCore 0 { core2 with poison := [8, 9] })) fun t => (t.core 0).poison == [8, 9] && (t.core 0).mem == [],
    runs (exec (.stl 0 0 (wd 0x41 4 0 6 0) false) (thr.setCore 0 { core2 with poison := [9] })) fun t => (t.core 0).poison == [9]] : List Bool).all id = true := by decide +kernel

/-- LDG, its return, STG, fences, NCINV and PREF (R161, R163, R164). -/
theorem test_global_memory : ([runs (exec (.ldg 0 0 (wd 0x42 2 12 6 0) false) thr) fun t => (t.core 0).loads.length == 1 && pcOf t == [8],
    runs (exec (.globalLoadReturn 0 0 []) (thr.setCore 0 { core2 with loads := [{ slot := 0, serial := 1, d := 12, pc := 0, mode := 10, act := 3, lanes := [(0, 0x100, 0x100), (1, 0x108, 0x108)] }] }))
      fun t => (t.core 0).loads == [] && rg t 0 12 == 0,
    runs (exec (.stg 0 0 (wd 0x43 2 0 6 0) false) thr) fun t => t.byteAt 0x100 == 6 && t.byteAt 0x108 == 0xFE && t.byteAt 0x110 == 0,
    runs (exec (.fence 0 0 (wd 0x44 1 0 0 0)) thr) fun t => pcOf t == [8],
    stays (.fence 0 0 (wd 0x44 1 0 0 0)) (thr.setCore 0 { core2 with loads := [{ slot := 0, serial := 1, d := 12, pc := 0, mode := 10, act := 3, lanes := [] }] }),
    runs (exec (.ncinv 0 0 (wd 0x45 0 0 0 0)) (thr.setCore 0 { core2 with near := [(2, [1])] })) fun t => (t.core 0).near == [],
    runs (exec (.pref 0 0 (wd 0x46 0 0 6 0) false []) thr) fun t => pcOf t == [8] && (t.core 0).near.length == 1,
    runs (exec (.pref 0 0 (wd 0x46 0 0 6 0) true []) thr) fun t => faulted t 0x12,
    runs (exec (.ldg 0 0 (wd 0x42 2 12 6 0) true) thr) fun t => faulted t 0x12,
    runs (exec (.stg 0 0 (wd 0x43 2 0 6 0) true) thr) fun t => faulted t 0x12 && t.byteAt 0x100 == 0,
    runs (exec (.ldg 0 0 (wd 0x42 2 12 6 1) false) thr) fun t => faulted t 5 && (t.core 0).loads == [],
    stays (.stg 0 0 (wd 0x43 2 0 6 0) false) (thr.setCore 0 { core2 with loads := [load1 10] }),
    stays (.globalLoadReturn 0 1 []) (thr.setCore 0 { core2 with loads := [load1 10, load1 10] }),
    (thr.setCore 0 { near1 with loads := [load1 2] }).wf,
    runs (exec (.globalLoadReturn 0 0 []) (thr.setCore 0 { near1 with loads := [load1 10] })) fun t => rg t 0 12 == 0,
    runs (exec (.globalLoadReturn 0 0 []) { thr.setCore 0 { core2 with loads := [load1 10] } with mem := { poison := [8] } }) fun t => faulted t 0x11] : List Bool).all id = true := by decide +kernel

/-- Atomics in lane order: a sum, its return and REDG's silence (R166, R167). -/
theorem test_atomics : ([runs (exec (.atoml 0 0 (wd 0x52 0 12 8 (2 <<< 24 + 3)) false) thr) fun t => (t.core 0).rd 4 4 == [6, 0, 0, 0] && rg t 0 12 == 0 && rg t 1 12 == 3,
    runs (exec (.atomg 0 0 (wd 0x50 0 12 2 (8 <<< 24 + 1)) false 0 []) thr) fun t => bytesAt t 4 4 == [2, 0, 0, 0] && rg t 0 12 == 0 && rg t 1 12 == 1,
    runs (exec (.redg 0 0 (wd 0x51 0 0 2 (8 <<< 24 + 1)) false 0 []) thr) fun t => bytesAt t 4 4 == [2, 0, 0, 0] && pcOf t == [8],
    runs (exec (.atoml 0 0 (wd 0x52 0 12 8 (2 <<< 24 + 3)) true) thr) fun t => faulted t 0x12,
    runs (exec (.atomg 0 0 (wd 0x50 0 12 2 (8 <<< 24 + 1)) true 0 []) thr) fun t => faulted t 0x12 && bytesAt t 4 4 == [0, 0, 0, 0],
    runs (exec (.redg 0 0 (wd 0x51 0 0 2 (8 <<< 24 + 1)) true 0 []) thr) fun t => faulted t 0x12,
    runs (exec (.atomg 0 0 (wd 0x50 0 12 2 (8 <<< 24 + 1)) false 2 []) thr) fun t => faulted t 0x11 && t.mem.poison == [0],
    runs (exec (.redg 0 0 (wd 0x51 0 0 2 (8 <<< 24 + 1)) false 2 []) thr) fun t => faulted t 0x11 && t.mem.poison == [0],
    runs (exec (.atomg 0 0 (wd 0x50 0 12 2 (8 <<< 24 + 1)) false 1 []) thr) fun t => bytesAt t 4 4 == [2, 0, 0, 0],
    stays (.redg 0 0 (wd 0x51 0 0 2 (8 <<< 24 + 1)) false 0 []) (thr.setCore 0 { core2 with loads := [{ load1 10 with lanes := [(0, 4, 4)] }] })] : List Bool).all id = true := by decide +kernel

/-! ### Issues: matrix, vector and collective descriptors of a group -/

/-- A matrix descriptor at 0x200 of local memory (BF16, one element, no read-out) and, at 0x400, a vector descriptor of the given operation. -/
def mxWords : List W64 := [0x100211, 0, 0x800, 0x1000, 0, 0, 0, 0]
def vxWords (op : Nat) : List W64 :=
  [BitVec.ofNat 64 (op * 2 ^ 58 + (if op = 6 then 15 * 2 ^ 46 else 0)), 0, 0x200, 0, 0x204, 0, (if op = 3 then 0x208 else 0), 0, 0x300, 0, 0, 0, 0, 0, 0, 0]

def mxd : Desc := { addr := 0, words := mxWords }
def vxd (op : Nat) : Desc := { addr := 0, words := vxWords op }

/-- The context with words in its core's local memory from address 0. -/
def memAt (ws : List W64) : Machine.State := thr.setCore 0 { core2 with mem := tsetMany 0 [] 0 (ws.flatMap fun w => toBytes 8 w.toNat) }
def mx0 : Machine.State := memAt mxWords
def vx0 : Machine.State := memAt (vxWords 1)
def cx0 : Machine.State := memAt [0x10 <<< 40, 0, 0, 0, 0, 0, 0, 0]

def held (t : Machine.State) : Held := ((t.group? 0 0).map Group.held).getD .no
def passes (n : Nat) (ph : PassPhase) : List Pass := (List.range n).map fun i => { id := i + 5, serial := 1, desc := mxd, phase := ph }

/-- A core with one vector descriptor at the head of its queue: 0x40400000, 0x40000000 and 0x3F800000 are its three sources. -/
def vq0 (op : Nat) (done : Bool) : Machine.State :=
  thr.setCore 0 { core2 with mem := tsetMany 0 [] 0x200 ([0x40400000, 0x40000000, 0x3F800000].flatMap fun w => toBytes 4 w),
                             vq := [{ serial := 1, desc := vxd op, done := done }, { serial := 1, desc := vxd 0 }] }
def vout (t : Machine.State) : Nat := (t.core 0).w32 0x300

/-- A read-out of FP32 at 0x3000, with alpha 2. -/
def rdo1 : List W64 := [0x40000000, 0x40003000, 0, 0, 0, 0, 0, 0]
def tok (n : Nat) : Group := { gr2 with tokens := if n = 0 then [] else [(0, n)] }

/-- MXI, VXI and CXI issue on a core (R91, R157, R158, R174). -/
theorem test_group_wide : ([mx0.wf && vx0.wf && cx0.wf,
    runs (exec (.mxi 0 0 (wd 0x70 0 0 6 0)) thr) fun t => faulted t 0x0B,
    runs (exec (.vxi 0 0 (wd 0x71 0 0 6 0)) thr) fun t => faulted t 0x0C,
    runs (exec (.cxi 0 0 (wd 0x72 0 0 6 0)) thr) fun t => faulted t 0x0D,
    runs (exec (.mxi 0 0 (wd 0x70 0 0 8 0)) thr) fun t => faulted t 0x0E,
    runs (exec (.vxi 0 0 (wd 0x71 0 0 8 0)) thr) fun t => faulted t 0x0E,
    runs (exec (.cxi 0 0 (wd 0x72 0 0 8 0)) thr) fun t => faulted t 0x0E,
    runs (exec (.mxi 0 0 (wd 0x70 0 0 3 0)) mx0) fun t => (t.core 0).passes.length == 1 && ((t.group? 0 0).map fun g => g.token 0) == some 1 && pcOf t == [8],
    runs (exec (.vxi 0 0 (wd 0x71 0 0 3 0)) vx0) fun t => (t.core 0).vq.length == 1 && ((t.group? 0 0).map fun g => g.token 0) == some 1 && pcOf t == [8],
    runs (exec (.cxi 0 0 (wd 0x72 0 0 3 0)) cx0) fun t => faulted t 0x0E,
    runs (exec (.mxi 0 0 (wd 0x70 0 0 3 0 + 1 <<< 55 + 1 <<< 52)) mx0) fun t => (t.core 0).passes.length == 0 && pcOf t == [8],
    runs (exec (.mxi 0 0 (wd 0x70 0 0 3 0)) (mx0.setCore 0 { mx0.core 0 with passes := passes 8 .queued })) fun t => held t == .mxi mxd,
    runs (exec (.mxi 0 0 (wd 0x70 0 0 3 0)) (mx0.setGroup 0 0 (tok 255))) fun t => held t == .mxi mxd,
    runs (exec (.vxi 0 0 (wd 0x71 0 0 3 0)) (vx0.setGroup 0 0 (tok 255))) fun t => held t == .vxi (vxd 1)] : List Bool).all id = true := by decide +kernel

/-- A held issue enters once there is room, and stays where there is none (R158). -/
theorem test_held_issue : ([runs (exec (.heldIssueRetry 0 0) (mx0.setGroup 0 0 { gr2 with held := .mxi mxd })) fun t => (t.core 0).passes.length == 1 && held t == .no && pcOf t == [8],
    stays (.heldIssueRetry 0 0) (mx0.setGroup 0 0 { tok 255 with held := .mxi mxd }),
    runs (exec (.heldIssueRetry 0 0) (vx0.setGroup 0 0 { gr2 with held := .vxi (vxd 1) })) fun t => (t.core 0).vq.length == 1 && held t == .no && pcOf t == [8],
    stays (.heldIssueRetry 0 0) (vx0.setGroup 0 0 { tok 255 with held := .vxi (vxd 1) }),
    runs (exec (.heldIssueRetry 0 0) { mx0.setGroup 0 0 { gr2 with held := .mxi mxd } with led := { arrFenced := [0] } }) fun t => faulted t 0x0F && (t.core 0).passes == []] : List Bool).all id = true := by decide +kernel

/-- A pass starts, ends and completes (R90, R91, R117); a residue that does not hold faults (R386). -/
theorem test_passes : ([runs (exec (.passStart 0 0 false) (mx0.setCore 0 { mx0.core 0 with passes := passes 1 .queued })) fun t => (t.core 0).passes.map Pass.phase == [.streaming],
    runs (exec (.passEnd 0 0 false [] []) (thr.setCore 0 { core2 with passes := passes 1 .streaming, mem := tsetMany 0 [] 0x800 [0x80, 0x3F] ++ tsetMany 0 [] 0x1000 [0x40, 0x40] }))
      fun t => (t.core 0).passes.map Pass.phase == [.ended] && (t.core 0).acc.length == 1 && ((t.core 0).acc.map fun e => e.2.hi) == [0x40400000],
    runs (exec (.passEnd 0 0 true [] []) (thr.setCore 0 { core2 with passes := passes 1 .streaming })) fun t => faulted t 0x12,
    runs (exec (.passEnd 0 0 false [] []) (thr.setCore 0 { core2 with passes := [{ id := 5, serial := 1, desc := { mxd with rdo := rdo1 }, phase := .streaming }], mem := tsetMany 0 [] 0x800 [0x80, 0x3F] ++ tsetMany 0 [] 0x1000 [0x40, 0x40] }))
      fun t => (t.core 0).w32 0x3000 == 0x40C00000,
    stays (.passStart 0 0 false) (mx0.setCore 0 { mx0.core 0 with passes := passes 1 .streaming ++ [{ id := 9, serial := 1, desc := mxd, phase := .queued }] }),
    runs (exec (.passComplete 0 0) ((thr.setCore 0 { core2 with passes := passes 1 .ended }).setGroup 0 0 (tok 2))) fun t => (t.core 0).passes == [] && ((t.group? 0 0).map fun g => g.token 0) == some 1] : List Bool).all id = true := by decide +kernel

/-- The vector operations on 3, 2 and 1, and completion (R174, R179 to R183). -/
theorem test_vector : ([runs (exec (.vecCvt 0 []) (vq0 0 false)) fun t => vout t == 0x40400000 && ((t.core 0).vq.map VJob.done) == [true, false],
    runs (exec (.vecAdd 0 []) (vq0 1 false)) fun t => vout t == 0x40A00000,
    runs (exec (.vecMul 0 []) (vq0 2 false)) fun t => vout t == 0x40C00000,
    runs (exec (.vecFma 0 []) (vq0 3 false)) fun t => vout t == 0x40E00000,
    runs (exec (.vecMin 0 []) (vq0 4 false)) fun t => vout t == 0x40000000,
    runs (exec (.vecMax 0 []) (vq0 5 false)) fun t => vout t == 0x40400000,
    runs (exec (.vecCmp 0 []) (vq0 6 false)) fun t => (t.core 0).vq.map VJob.done == [true, false],
    runs (exec (.vecSel 0 []) (vq0 7 false)) fun t => (t.core 0).vq.map VJob.done == [true, false],
    runs (exec (.vecRed 0 []) (vq0 8 false)) fun t => vout t == 0x40400000,
    stays (.vecAdd 0 []) (vq0 2 false),
    stays (.vecAdd 0 []) (vq0 1 true),
    runs (exec (.vectorDescComplete 0) ((vq0 1 true).setGroup 0 0 (tok 1))) fun t => (t.core 0).vq.length == 1 && ((t.group? 0 0).map fun g => g.token 0) == some 0] : List Bool).all id = true := by decide +kernel

/-- Blocks start, contexts end, are killed or expire, and cores are granted (R145, R156, R169, R171, R357). -/
theorem test_contexts : ([runs (exec (.blockStart 0 0) (thr.setCtx 1 (some { ctx2 with placed := [], nreg := 8 }))) fun t => ((t.group? 0 1).map fun g => (g.paths, g.regs)) == some ([{ pc := 0, mask := 0xFFFFFFFF }], []),
    runs (exec (.contextEnd 0) (thr.setCore 0 { core2 with blocks := [], groups := [] })) fun t => t.ctx? 1 == none && (t.core 0).ctx == none,
    stays (.contextEnd 0) thr,
    runs (exec (.contextKillDone 0) (thr.setCtx 1 (some { ctx2 with st := .killing, fault := some { cause := 4 } }))) fun t => t.ctx? 1 == none && t.led.seq == 1,
    stays (.contextKillDone 0) thr,
    runs (exec (.watchdogExpired 0 true) { thr.setCtx 1 (some { ctx2 with stall := 1 }) with tun := { thr.tun with live := { thr.tun.live with timer := 0 } }, str := { time := 256000000 } })
      fun t => faulted t 0x14,
    stays (.streamEntriesDone 0) ((thr.setCore 0 { core2 with blocks := [], groups := [] }).setCtx 1 (some { ctx2 with kind := .vecStream, copyHeld := [0] })),
    stays (.blockStart 0 0) (thr.setCtx 1 (some { ctx2 with placed := [], nreg := 8, copyHeld := [1] })),
    runs (exec (.streamEntriesDone 0) ((thr.setCore 0 { core2 with blocks := [], groups := [] }).setCtx 1 (some { ctx2 with kind := .vecStream }))) fun t => t.ctx? 1 == none,
    stays .coreGrant thr,
    runs (exec .coreGrant { cores := [(0, { reserved := some 1 })], ctxs := [(1, some { kind := .test, cores := [0] })] }) fun t => ((t.ctx? 1).map Ctx.st) == some .running && (t.core 0).ctx == some 1] : List Bool).all id = true := by decide +kernel

/-! ### String time -/

/-- A READY block: every register answers function 0, which is the operator's. -/
def rdy : Machine.State := { tun := { boot := .ready }, pins := { pwrok := true } }
/-- The same with its String time unit as given. -/
def str (x : Str) : Machine.State := { rdy with str := x }
def lockedWire : Str := { time := 65536 * 3 + 256, st := .locked, source := .wire, srcStratum := 0, slew := 3, wireEdgeAt := 65536 * 3, acq := { acquired := true } }
/-- Port 0 is up. -/
def up0 (x : Str) : Machine.State := { str x with ports := [(0, { st := .up })] }
def prt (t : Machine.State) (p : Nat) : Port := t.port p

/-- STRING_BOUNDARY in LOCKED and HOLDOVER, with a source and without (R31, R35, R36, Table 2.2). -/
theorem test_string_boundary : ([runs (exec .stringBoundary (str lockedWire)) fun t => t.str.time == 65536 * 4 && t.str.st == .locked && t.str.slew == 2,
    runs (exec .stringBoundary (str { lockedWire with source := .port 3 })) fun t => t.str.st == .locked && t.str.source == .wire,
    runs (exec .stringBoundary (str { st := .locked, source := .port 3 })) fun t => t.str.st == .holdover && t.str.holdoverUsed == 1 && t.str.source == .none && t.str.time == 65536,
    runs (exec .stringBoundary (str { st := .holdover, holdoverUsed := 4 })) fun t => t.str.st == .holdover && t.str.holdoverUsed == 5,
    runs (exec .stringBoundary (str { st := .holdover, holdoverUsed := 4096 })) fun t => t.str.st == .lost && t.str.lostSeen && t.str.lostStop == some 65792,
    runs (exec .stringBoundary (str { acq := { acquired := true, count := 9, good := 8, off := 0 }, load := some 9 })) fun t => t.str.st == .locked && t.str.source == .wire && t.str.time == 9 * 65536 && t.str.load == none,
    runs (exec .stringBoundary (str { st := .acquiring })) fun t => t.str.st == .free && t.str.time == 65536,
    runs (exec .stringBoundary (str { st := .lost, everLocked := true, acq := { acquired := true, count := 9, good := 8, off := 1000 } })) fun t => t.str.st == .locked && t.str.slew == 4 && t.str.time == 65536,
    runs (exec .stringBoundary (str { st := .lost, everLocked := true, acq := { acquired := true, count := 9, good := 8, off := 128000 } })) fun t => t.str.st == .locked && t.str.slew == 512,
    runs (exec .stringBoundary (str { st := .lost, everLocked := true, acq := { acquired := true, count := 9, good := 8, off := -64000 * 200 } })) fun t => t.str.st == .lost && t.str.time == 65536,
    runs (exec .stringBoundary (str { st := .lost, everLocked := true, acq := { acquired := true, count := 9, good := 8, off := 384000 } })) fun t => t.str.st == .locked && t.str.slew == 0 && t.str.time == 65536 + 1536 && t.str.base == 1536,
    runs (exec .stringBoundary (str { st := .lost, everLocked := true })) fun t => t.str.st == .lost && t.str.source == .none] : List Bool).all id = true := by decide +kernel

/-- The timeouts, HOLDOVER_EXPIRY and STRING_LOST_STOP, due and not due (R35, R36, R38). -/
theorem test_string_limits : ([stays .wireSourceTimeout (str lockedWire),
    runs (exec .wireSourceTimeout (str { lockedWire with time := 65536 * 9 + 256 })) fun t => t.str.st == .holdover && t.str.holdoverUsed == 1 && t.str.acq == {},
    stays (.fabricSourceTimeout 2) (str { lockedWire with fab := [(2, { valid := true, at_ := 65536 * 3 })] }),
    runs (exec (.fabricSourceTimeout 2) (str { lockedWire with fab := [(2, { valid := true, consecutive := 4 })] })) fun t => t.str.fab == [],
    stays .holdoverExpiry (str { st := .holdover, holdoverUsed := 4095 }),
    runs (exec .holdoverExpiry (str { st := .holdover, holdoverUsed := 4096 })) fun t => t.str.st == .lost,
    stays .stringLostStop (str { st := .lost, time := 255, lostStop := some 256 }),
    runs (exec .stringLostStop (str { st := .lost, time := 256, lostStop := some 256 })) fun t => t.str.lostStop == none && t.str.st == .lost,
    runs (exec (.fabricSourceTimeout 2) (str { lockedWire with source := .port 2, acq := {}, fab := [(2, { valid := true, consecutive := 4 })] })) fun t => t.str.st == .holdover && t.str.source == .none] : List Bool).all id = true := by decide +kernel

/-- Edges, strays, frames and the loaded count (R30, R33, R41, R269). -/
theorem test_string_sources : ([runs (exec (.wireEdge 3200 2048000) (str lockedWire)) fun t => t.str.strays == 0 && t.str.acq.off == 12800 && t.str.wireEdgeAt == t.str.time,
    runs (exec (.wireEdge (-3201) 2048000) (str lockedWire)) fun t => t.str.strays == 1 && t.str.straySeen && t.str.slew == 3,
    runs (exec (.wireEdge 5 (256 * 1000 * 16)) (str { acq := { count := 7, edges := 7, good := 7 } })) fun t => t.str.acq.acquired,
    runs (exec (.wireEdge 5 (256 * 1000 * 16 + 5000)) (str { acq := { count := 7, edges := 7, good := 7 } })) fun t => !t.str.acq.acquired,
    stays (.phase 0 3 1 1 0 0) (str lockedWire),
    runs (exec (.phase 0 3 1 0 0 0) (up0 lockedWire)) fun t => (prt t 0).cnt == [(7, 1)] && t.str == lockedWire,
    runs (exec (.phase 0 4 1 1 0 0) (up0 lockedWire)) fun t => t.str.fab.map (fun e => (e.1, e.2.excluded)) == [(0, true)],
    runs (exec (.phase 0 3 1 1 0 0) (up0 lockedWire)) fun t => t.str.fab.map (fun e => (e.1, e.2.valid, e.2.stratum, e.2.count)) == [(0, true, 1, 3)],
    runs (exec (.phaseSend [7]) (up0 lockedWire)) fun t => (prt t 0).txq.length == 1 && (prt t 0).txq.map TxItem.kind == [1],
    stays (.phaseSend [7]) (up0 { lockedWire with time := 65536 * 3 }),
    runs (exec (.strCountLoadWrite 0 .whole (BitVec.ofNat 64 (9 * 65536))) (str {})) fun t => t.str.load == some 9,
    runs (exec (.strCountLoadWrite 0 .low 0x50000) (str {})) fun t => t.str.loadLow == 0x50000 && t.str.load == none,
    runs (exec (.strCountLoadWrite 0 .high 1) (str { loadLow := 0x50000 })) fun t => t.str.load == some 0x10005,
    runs (exec (.strCountLoadWrite 0 .whole 9) (str lockedWire)) fun t => t.str == lockedWire,
    stays (.strCountLoadWrite 1 .whole 9) (str {}),
    runs (exec (.wireEdge 43750 2048000) (str { lockedWire with slew := 700 })) fun t => t.str.strays == 0 && t.str.slew == 700,
    runs (exec (.wireEdge 46951 2048000) (str { lockedWire with slew := 700 })) fun t => t.str.strays == 1 && t.str.slew == 700,
    runs (exec (.wireEdge 5 2048000) (str { acq := { count := 7, edges := 63, good := 1 } })) fun t => t.str.acq == {} && t.led.seq == 1] : List Bool).all id = true := by decide +kernel

/-- LASER_POWER_SAMPLE inside and outside +13 to +20 dBm (R18). -/
theorem test_lasers : ([runs (exec (.laserPowerSample 0 1300 2000) (up0 {})) fun t => t.pins.lasers == [(0, 1300), (1, 2000)] && (prt t 0).st == .up,
    runs (exec (.laserPowerSample 0 1299 2000) (up0 {})) fun t => (prt t 0).st == .wait && (prt t 0).reason == 1,
    runs (exec (.laserPowerSample 0 2001 1500) { rdy with ports := [(0, { st := .training })] }) fun t => (prt t 0).st == .wait && (prt t 0).reason == 1,
    stays (.laserPowerSample 0 0 0) (str {})] : List Bool).all id = true := by decide +kernel

/-! ### Device memory -/

def ready (m : Mem) : Machine.State := { tun := { boot := .ready }, mem := m }
/-- Block 2 is a golden block of stall 1. -/
def golden : Machine.State :=
  { ready { owner := [(2, 0x2001)], poison := [256, 300], refills := [{ block := 2, trigger := some (.engine 1) }], held := [{ unit := 256, who := .engine 1 }] } with
    stalls := [(1, { st := .active, golden := [{ base := 0x2000, blocks := [2], kind := 1, src := 0x10000 }] })] }
def running : Machine.State := { golden with mem := { golden.mem with refills := [{ block := 2, running := true }], held := [] } }
def region1 : Region := { base := 0x2000, len := 4096 }
def pinned (t : Nat) : Machine.State :=
  { (ready { owner := [(2, 1)] }).modStall 1 fun x => { x with st := .active, regions := [region1] } with slices := { pins := [(64, { stall := 1, base := 0x2000, parts := List.replicate 32 0x3F800000 })], order := [64] }, str := { time := t } }

/-- The patrol, the loss of a stack and its temperature (R201, R203, R211, R219). -/
theorem test_patrol_and_stacks : ([(ready {}).wf && golden.wf && running.wf,
    stays (.patrolRead 0 64 []) (ready {}),
    runs (exec (.patrolRead 0 64 [(3, 5)]) (ready {})) fun t => t.mem.poison == [] && (t.mem.stks.map fun e => e.2.ce) == [1],
    runs (exec (.patrolRead 0 64 [(0, 1), (7, 1)]) (ready {})) fun t => t.mem.poison.length == 1,
    runs (exec (.patrolRead 0 64 [(3, 5)]) { ready {} with slices := { fixed := [((ready {}).stackDpa 0 64 / 32, 4)] } })
      fun t => t.mem.poison == [] && (t.mem.stks.map fun e => (e.2.ce, e.2.hard.length, e.2.st)) == [(1, 1, .degraded)],
    runs (exec (.stackFail 4 .phy) (ready {})) fun t => (tget {} t.mem.stks 4).st == .failed && t.nv.health.stks == [(4, 2)],
    stays (.stackFail 4 .phy) (ready { stks := [(4, { st := .failed })] }),
    runs (exec (.hbmThermalSample 4 400) (ready {})) fun t => (tget {} t.mem.stks 4).therm == 4,
    runs (exec (.hbmThermalSample 4 339) (ready {})) fun t => (tget {} t.mem.stks 4).therm == 0,
    runs (exec (.hbmThermalSample 4 333) (ready { stks := [(4, { therm := 1 })] })) fun t => (tget {} t.mem.stks 4).therm == 1,
    runs (exec (.hbmThermalSample 4 332) (ready { stks := [(4, { therm := 1 })] })) fun t => (tget {} t.mem.stks 4).therm == 0,
    runs (exec (.hbmThermalSample 4 420) (ready {})) fun t => t.pwr.trip && t.pins.thermtrip && !t.pwr.coreClocks,
    runs (exec (.hbmThermalSample 4 340) (ready {})) fun t => (tget {} t.mem.stks 4).therm == 1,
    runs (exec (.hbmThermalSample 4 360) (ready { stks := [(4, { therm := 1 })] })) fun t => (tget {} t.mem.stks 4).therm == 2,
    runs (exec (.hbmThermalSample 4 353) (ready { stks := [(4, { therm := 2 })] })) fun t => (tget {} t.mem.stks 4).therm == 2,
    runs (exec (.hbmThermalSample 4 352) (ready { stks := [(4, { therm := 2 })] })) fun t => (tget {} t.mem.stks 4).therm == 1,
    runs (exec (.hbmThermalSample 4 380) (ready { stks := [(4, { therm := 2 })] })) fun t => (tget {} t.mem.stks 4).therm == 3,
    runs (exec (.hbmThermalSample 4 372) (ready { stks := [(4, { therm := 3 })] })) fun t => (tget {} t.mem.stks 4).therm == 2] : List Bool).all id = true := by decide +kernel

/-- Golden refills, held reads and the lease of pinned lines (R207 to R209, R215, R390). -/
theorem test_refills : ([runs (exec .refillStart golden) fun t => t.mem.refills == [{ block := 2, running := true, trigger := some (.engine 1) }] && t.out == [.hostRead 0 0 0x10000 4096],
    stays .refillStart running,
    runs (exec (.refillFetchDone 2 .unreachable) running) fun t => t.mem.refills == [] && !t.goldenBit 2,
    runs (exec (.refillFetchDone 2 (.data [7])) running) fun t => t.mem.refills == [] && !t.goldenBit 2 && t.byteAt 0x2000 == 0,
    stays (.refillFetchDone 3 .error) running,
    stays (.heldReadTimeout 0) { golden with str := { time := 51199 } },
    runs (exec (.heldReadTimeout 0) { golden with str := { time := 102400 } }) fun t => t.mem.held == [] && !t.goldenBit 2,
    stays (.pinLeaseExpiry 1 0x2000) (pinned 0),
    runs (exec (.pinLeaseExpiry 1 0x2000) (pinned (256 * 0x100000))) fun t => (t.stall 1).regions.map (fun r => r.len) == [4096] && t.pinsOf 1 0x2000 == [] && bytesAt t 0x2000 4 == [0, 0, 0x80, 0x3F],
    ((running.goldenOf 2).map fun e => e.2.1.digest == 0) == some true && running.slices.under == [] && running.heldAt 2 == []] : List Bool).all id = true := by decide +kernel

/-! ### Power and temperature -/

def pw (p : Pwr) : Machine.State := { tun := { boot := .ready }, pwr := p }
def power (a b : Nat) : PowerIn := { pDie := [a, a, a, a, b, b], pOther := 100, energy := [1, 2, 3, 4, 5, 6] }
def later (s : Machine.State) (n : Nat) : Machine.State := { s with str := { s.str with time := n } }

/-- The slow loop, the cap and who writes OVR_W (R442, R443, R451). -/
theorem test_slow_loop : ([runs (exec (.slowPowerLoop (power 500 100)) (pw {})) fun t => t.pwr.devW == 2300 && t.pwr.pStretch == 64 && !t.pwr.capUnmet,
    runs (exec (.slowPowerLoop (power 1000 100)) (pw {})) fun t => t.pwr.pStretch == 122,
    runs (exec (.slowPowerLoop (power 500 100)) (pw { pStretch := 128 })) fun t => t.pwr.pStretch == 124,
    runs (exec (.slowPowerLoop (power 4000 1200)) (pw {})) fun t => t.pwr.pStretch == 256 && t.pwr.capUnmet && bitAt t.pwr.alertSeen 0,
    stays (.slowPowerLoop (power 4000 1200)) (later (pw { loopDue := 512 }) 256),
    runs (exec (.pwrCapOvrWrite (.inr 0) 0xF5DC) (pw {})) fun t => t.pwr.capOvr == 0x5DC,
    stays (.pwrCapOvrWrite (.inr 1) 0x5DC) (pw {}),
    runs (exec (.pwrCapOvrWrite (.inl (.smbus 0x4E)) 0x5DC) (later { pw {} with pins := { pwrok := true } } 10240000)) fun t => t.pwr.capOvr == 0x5DC,
    stays (.pwrCapOvrWrite (.inl (.smbus 0x4E)) 0x5DC) (later { pw {} with pins := { pwrok := true } } 10239999),
    runs (exec (.pwrCapOvrWrite (.inl (.vdm 1)) 0x5DC) (pw {})) fun t => t.pwr.capOvr == 0] : List Bool).all id = true := by decide +kernel

/-- Droop, its hold, and PWRBRAKE_N (R444, R445, Table 18.1). -/
theorem test_droop_and_brake : ([runs (exec (.droop 2) (pw {})) fun t => t.pwr.droopStretch 2 == 128 && t.pwr.droopStretch 1 == 64 && t.pwr.effective 2 == 128 && t.pwr.droops == [(2, 1)],
    stays (.droop 2) (pw { droop := [(2, .drooping)] }),
    runs (exec (.droopSupplyRecovery 2) (later (pw { droop := [(2, .drooping)] }) 9)) fun t => t.pwr.droop == [(2, .holding)] && t.pwr.droopAt == [(2, 9)],
    stays (.droopSupplyRecovery 2) (pw {}),
    stays (.droopHoldExpiry 2) (later (pw { droop := [(2, .holding)] }) 16),
    runs (exec (.droopHoldExpiry 2) (later (pw { droop := [(2, .holding)] }) 17)) fun t => t.pwr.droop == [],
    runs (exec .pwrbrakeAssert (pw {})) fun t => t.pwr.brakePin && t.pwr.brake == .asserted && t.pwr.brakeStretch == 256,
    stays .pwrbrakeAssert (pw { brakePin := true }),
    runs (exec .pwrbrakeDeassert (later (pw { brakePin := true, brake := .asserted }) 4)) fun t => t.pwr.brake == .releasing && t.pwr.brakeAt == 4 && !t.pwr.brakePin,
    stays .brakeRelease (later (pw { brake := .releasing }) 2559),
    runs (exec .brakeRelease (later (pw { brake := .releasing }) 2560)) fun t => t.pwr.brake == .ramping,
    runs (exec .brakeRampFret (later (pw { brake := .ramping, brakeStretch := 69 }) 256)) fun t => t.pwr.brakeStretch == 65 && t.pwr.brakeAt == 256 && t.pwr.brake == .ramping,
    stays .brakeRampFret (later (pw { brake := .ramping, brakeStretch := 68 }) 255),
    runs (exec .brakeRampFret (later (pw { brake := .ramping, brakeStretch := 68 }) 256)) fun t => t.pwr.brakeStretch == 64 && t.pwr.brake == .idle,
    stays .brakeRampFret (pw {})] : List Bool).all id = true := by decide +kernel

/-- Throttle points, the release 2 °C below them, and the trip (R446, R447, Tables 18.2 and 18.3). -/
theorem test_throttle_and_trip : ([runs (exec (.thermalSample (.compute 1) 400) (pw {})) fun t => t.pwr.thermal 1 == 68 && t.pwr.thermal 0 == 64,
    runs (exec (.thermalSample (.compute 1) 393) (pw { thermStretch := [(1, 68)] })) fun t => t.pwr.thermal 1 == 68,
    runs (exec (.thermalSample (.compute 1) 392) (pw { thermStretch := [(1, 68)] })) fun t => t.pwr.thermal 1 == 67,
    runs (exec (.thermalSample (.link 1) 400) (pw {})) fun t => t.pwr.thermLink == 2,
    runs (exec (.thermalSample (.optic 3) 300) (pw {})) fun t => (t.port 3).throttled,
    runs (exec (.thermalSample (.stack 3) 340) (pw {})) fun t => (tget {} t.mem.stks 3).therm == 1,
    runs (exec (.thermalSample (.optic 3) 340) { pw {} with ports := [(0, { st := .up })] }) fun t => t.pwr.trip && (t.port 0).st == .down && t.pwr.selfRefresh,
    runs (exec (.thermalSample (.compute 3) 440) (pw {})) fun t => t.pins.thermtrip && !t.pwr.coreClocks] : List Bool).all id = true := by decide +kernel

/-! ### Tuning -/

/-- A tuning image that passes every check: the reset values in every record. -/
def imageOf (n : Nat) (recs : List TunRec) : TunImg :=
  { hdr := toBytes 4 0x4E555457 ++ toBytes 2 1 ++ toBytes 2 0 ++ toBytes 4 n ++ toBytes 4 (recs.map TunRec.size).sum ++ List.replicate 48 0,
    recs := recs, rsaOk := true, slhOk := true, digest := 7 }
def allRecs : List TunRec := ({} : TunRegs).body
def image (n : Nat) : TunImg := imageOf n allRecs

/-- A READY device with operator key pair 0, tuning 1 current in slot 0, and tuning 2 previous in slot 2. -/
def dir1 : Dir := { gen := 5, cur := some 0, curNum := 1, prev := some 2, prevNum := 2 }
def tuned : Machine.State :=
  { tun := { boot := .ready, sealed_ := true, curNum := 1, arg1 := BitVec.ofNat 64 (image 3).size, live := (image 1).regs, regs := (image 1).regs },
    nv := { slotProg := 1, dirs := [dir1.bytes, []], slots := [some (image 1), none, some (image 2)] }, stalls := [(1, { st := .active })] }
def staged : Machine.State := { tuned with nv := { tuned.nv with dirs := [{ dir1 with pend := some 1, pendState := 1, pendNum := 3 }.bytes, []], slots := [some (image 1), some (image 3), some (image 2)] } }
def change (ph : ChangePhase) : Change :=
  { ph := ph, oldNum := 1, newNum := 3, old := (image 1).regs, new := { (image 3).regs with pwrCap := 2000, timer := 0x20000001 }, at_ := some 256, qLimit := 16,
    switched := if ph = .mixed then some 256 else none }
def changing (ph : ChangePhase) (q : Bool) : Machine.State :=
  { staged with tun := { staged.tun with cmd := { busy := true }, change := some (change ph) }, stalls := [(1, { st := .active, qDone := q })] }
def rolling (ld : Bool) : Machine.State :=
  { changing .rollingBack false with tun := { staged.tun with cmd := { busy := true }, change := some { change .rollingBack with lDone := ld, switched := some 256 }, live := { staged.tun.live with pwrCap := 2000 } } }
def at2 (s : Machine.State) (n : Nat) : Machine.State := { s with str := { s.str with time := n } }
def tunRes (t : Machine.State) : Bool × Nat := (t.tun.cmd.busy, t.tun.cmd.result)

/-- STAGE, STAGE_DONE, APPLY_AT_RESET, DISCARD and CAPTURE (R397, R400, R401, R408, R414, R415). -/
theorem test_staging : ([tuned.wf && staged.wf && (changing .mixed true).wf,
    runs (exec (.stage 0 (.got (image 3))) tuned) fun t => tunRes t == (true, 0) && (t.tun.staging.map (·.1)) == some 1,
    runs (exec (.stage 0 (.got { image 3 with rsaOk := false })) tuned) fun t => tunRes t == (false, 1) && t.tun.valCheck == 1,
    runs (exec (.stage 0 (.got (imageOf 3 (allRecs.drop 1)))) { tuned with tun := { tuned.tun with arg1 := BitVec.ofNat 64 (imageOf 3 (allRecs.drop 1)).size } }) fun t => tunRes t == (false, 2) && t.tun.valCheck == 3,
    runs (exec (.stage 0 (.got (image 1))) tuned) fun t => tunRes t == (false, 2) && t.tun.valCheck == 8,
    runs (exec (.stage 0 .fail) tuned) fun t => tunRes t == (false, 6),
    runs (exec (.stageDone true) { tuned with tun := { tuned.tun with staging := some (1, image 3) } }) fun t => tunRes t == (false, 0) && t.dir.pend == some 1 && t.dir.pendNum == 3 && t.dir.gen == 6,
    runs (exec (.stageDone false) { tuned with tun := { tuned.tun with staging := some (1, image 3) } }) fun t => tunRes t == (false, 4) && t.dir.pend == none,
    runs (exec (.applyAtReset 0) tuned) fun t => tunRes t == (false, 3),
    runs (exec (.applyAtReset 0) staged) fun t => tunRes t == (false, 0) && t.dir.pendState == 2,
    runs (exec (.discard 0) staged) fun t => tunRes t == (false, 0) && t.dir.pend == none && t.dir.cur == some 0,
    runs (exec (.discard 0) tuned) fun t => tunRes t == (false, 3),
    runs (exec (.capture 0) tuned) fun t => tunRes t == (false, 5) && t.out == [],
    runs (exec (.capture 0) { tuned with tun := { tuned.tun with sealed_ := false } }) fun t => tunRes t == (false, 0) && t.out.length == 1,
    runs (exec (.stage 0 (.got (image 3))) { tuned with tun := { tuned.tun with arg1 := 0 } }) fun t => tunRes t == (false, 2) && t.tun.valCheck == 2 && t.tun.staging == none] : List Bool).all id = true := by decide +kernel

/-- A live change from APPLY_LIVE to its commit, its failures and its revert (R409, R411, R412). -/
theorem test_live_change : ([runs (exec (.applyLive 0) tuned) fun t => tunRes t == (false, 3),
    runs (exec (.applyLive 0) staged) fun t => tunRes t == (true, 0) && (t.tun.change.map Change.ph) == some .preparing,
    runs (exec (.applyLive 0) { staged with tun := { staged.tun with applyCtl := 0x100 } }) fun t => tunRes t == (false, 3),
    stays (.tuningPrepareDone true) tuned,
    runs (exec (.tuningPrepareDone true) (changing .preparing true)) fun t => (t.tun.change.map Change.ph) == some .ready,
    runs (exec (.tuningPrepareDone false) (changing .preparing true)) fun t => t.tun.change == none && tunRes t == (false, 7) && t.dir.pendState == 4,
    stays (.tuningSwitch none) (at2 (changing .ready true) 255),
    runs (exec (.tuningSwitch none) (at2 (changing .ready false) 256)) fun t => (t.tun.change.map Change.ph) == some .mixed && t.tun.live.pwrCap == 2000 && t.tun.live.timer == staged.tun.live.timer && !(t.stall 1).qDone,
    runs (exec (.tuningSwitch (some 8)) (at2 (changing .ready true) 256)) fun t => (t.tun.change.map Change.ph) == some .rollingBack,
    stays (.tuningCommit true) (changing .mixed false),
    runs (exec (.tuningCommit true) (changing .mixed true)) fun t => t.tun.change == none && tunRes t == (false, 0) && t.tun.curNum == 3 && t.dir.cur == some 1 && t.dir.prev == some 0 && t.tun.live.timer == 0x20000001,
    runs (exec (.tuningCommit false) (changing .mixed true)) fun t => (t.tun.change.map Change.ph) == some .rollingBack,
    runs (exec (.tuningRevert none) (at2 (rolling false) 256)) fun t => t.tun.live.pwrCap == staged.tun.live.pwrCap && (t.tun.change.map Change.lDone) == some true] : List Bool).all id = true := by decide +kernel

/-- The stall's context streams a pass. -/
def inPass (s : Machine.State) : Machine.State :=
  { s.modStall 1 (fun x => { x with lastQEnd := some 256 }) with ctxs := [(1, some { ctx2 with stall := 1, quantum := 4 })], cores := [(0, { core2 with passes := [{ id := 5, serial := 1, desc := { addr := 0, words := [] }, phase := .streaming }] })] }
/-- Q points, ROLLBACK and fields of an unsealed device (R410, R412, R414, R415). -/
theorem test_q_points : ([(changing .mixed false).qDue 1 && (changing .mixed false).atQPoint (change .mixed) 1,
    runs (exec (.qPoint 1 true) (changing .mixed false)) fun t => (t.stall 1).qTimer == 0x20000001 && (t.stall 1).qDone,
    runs (exec (.qPoint 1 false) (changing .mixed false)) fun t => (t.tun.change.map Change.ph) == some .rollingBack,
    stays (.qLimitExpiry 1 true) (changing .mixed false),
    runs (exec (.qLimitExpiry 1 true) (at2 (changing .mixed false) (256 + 16 * 65536))) fun t => (t.stall 1).qDone,
    runs (exec (.qPoint 1 true) (rolling true)) fun t => t.tun.change == none && tunRes t == (false, 7),
    stays (.rollback 0) (rolling true),
    runs (exec (.rollback 0) (changing .preparing true)) fun t => t.tun.change == none && tunRes t == (false, 7),
    runs (exec (.rollback 0) tuned) fun t => (t.tun.change.map Change.exchange) == some true && tunRes t == (true, 0),
    runs (exec (.rollback 0) { tuned with nv := { tuned.nv with slots := [some (image 1), none, none] } }) fun t => tunRes t == (false, 3),
    stays .unsealedFieldApply tuned,
    runs (exec .unsealedFieldApply { tuned with tun := { tuned.tun with sealed_ := false, dirty := true, regs := { tuned.tun.regs with pwrCap := 1300 } } })
      fun t => t.tun.live.pwrCap == 1300 && !t.tun.dirty,
    runs (exec (.qPoint 1 true) (inPass (changing .mixed false))) fun t => !(t.stall 1).qDone && !t.issues 1,
    runs (exec (.qPoint 1 true) ((changing .mixed false).modStall 1 fun x => { x with qHold := true })) fun t => (t.stall 1).qDone && t.issues 1] : List Bool).all id = true := by decide +kernel

/-! ### Start-up -/

def bin : BootIn := { diesOk := 0x3F, stacksOk := 0xFFF }
def fw (v : Nat) : FwImg :=
  { hdr := toBytes 4 0x4D524657 ++ toBytes 4 2 ++ toBytes 4 v ++ toBytes 4 8 ++ List.replicate 47 0 ++ [0xFF], body := List.replicate 8 0, rsaOk := true, slhOk := true }
/-- Powered and booting, with a new image in bank 1. -/
def nvB : Nv := { banks := [{ img := some (fw 1), state := 0x3F }, { img := some (fw 2), state := 0xFF }] }
def cold : Machine.State := { nv := nvB }
def booting : Machine.State := { nv := { nvB with banks := [{ img := some (fw 1), state := 0x3F }, { img := some (fw 2), state := 0x7F }] }, pins := { pwrok := true }, tun := { source := 3 }, sec := { bank := 1, svn := 2 } }
def upB : Machine.State := { booting with tun := { boot := .ready }, cores := [(0, { mem := [(0, 1)] })], mem := { cells := [(0, 9)] } }
/-- The same with no image in its banks. -/
def up0B : Machine.State := { upB with nv := {} }

/-- POWER_ON, BOOT_TIMEOUT, RESET_DEVICE, the effecter, POWER_DOWN and CORE_RAIL_REMOVE (R417 to R419, R470). -/
theorem test_resets : ([runs (exec (.powerOn bin) cold) fun t => t.tun.boot == .booting && t.pins.pwrok && t.sec.bank == 1 && ((t.nv.banks[1]?).map Bank.state) == some 0x7F,
    runs (exec (.powerOn { bin with rsaOk := false }) cold) fun t => t.tun.boot == .stopped && t.tun.bootCause == 4,
    runs (exec (.powerOn bin) { cold with nv := {} }) fun t => t.tun.boot == .stopped && t.tun.bootCause == 3,
    runs (exec (.powerOn { bin with diesOk := 0x3E }) cold) fun t => t.tun.boot == .stopped && t.tun.bootCause == 1,
    stays (.powerOn bin) up0B,
    stays (.bootTimeout bin) up0B,
    runs (exec (.bootTimeout bin) { booting with str := { time := 1024000000 } }) fun t => t.str.time == 0 && t.sec.bank == 0,
    runs (exec (.resetDevice 0 bin) upB) fun t => t.tun.boot == .booting && t.cores == [] && t.mem.cells == [],
    stays (.resetDevice 1 bin) up0B,
    runs (exec (.deviceResetEffecter (.smbus 0x4E) bin) { upB with str := { time := 10240000 } }) fun t => t.tun.boot == .booting && t.cores == [],
    runs (exec .powerDown upB) fun t => !t.pins.pwrok && t.cores == [] && t.nv.banks.length == 2,
    stays .powerDown {},
    runs (exec .coreRailRemove { upB with pins := { pwrok := true, thermtrip := true } }) fun t => !t.pins.thermtrip,
    runs (exec (.powerOn bin) { cold with nv := { staged.nv with banks := nvB.banks } }) fun t => t.tun.source == 0 && t.tun.curNum == 1,
    runs (exec (.powerOn bin) { cold with nv := { staged.nv with banks := nvB.banks, dirs := [{ dir1 with pend := some 1, pendState := 2, pendNum := 3 }.bytes, []] } }) fun t => t.tun.source == 2 && t.tun.curNum == 3 && t.dir.pendState == 3,
    runs (exec (.powerOn bin) { cold with nv := { staged.nv with banks := nvB.banks, slots := [none, none, some (image 2)] } }) fun t => t.tun.source == 1 && t.tun.curNum == 2,
    runs (exec (.powerOn bin) { cold with nv := { nvB with banks := [{ img := some (fw 1), state := 0x3F }, { img := some (fw 2), state := 0x7F }] } }) fun t => t.sec.bank == 0 && ((t.nv.banks[1]?).map Bank.state) == some 0,
    runs (exec .powerDown { upB with ports := [(0, { st := .up })] }) fun t => (t.port 0).st == .down && t.tun.boot == .booting] : List Bool).all id = true := by decide +kernel

/-- BOOT_READY makes stall 0, keeps an unsealed device unsealed, and makes the tried bank good (R340, R415 to R417, R426). -/
theorem test_boot_ready : ([runs (exec .bootReady booting) fun t => t.tun.boot == .ready && !t.tun.sealed_ && (t.stall 0).st == .active && (t.stall 0).maxCtx == 192 && (t.bank 1).state == 0x3F && (t.bank 0).state == 0x1F,
    stays .bootReady up0B] : List Bool).all id = true := by decide +kernel

/-! ### Registers and management -/

def mg : Machine.State := { tun := { boot := .ready }, pins := { pwrok := true }, str := { time := 40000 * 256 * 2 } }
def entry5 : Entry := { time := 0, seq := 5, event := 0x0A03, severity := 0, local_ := false, kind := 0, unit := 0, stall := none, temp := 0 }
def bin0 : BootIn := { diesOk := 0x3F, stacksOk := 0xFFF }
def fwI : FwImg :=
  { hdr := toBytes 4 0x4D524657 ++ toBytes 4 2 ++ toBytes 4 9 ++ toBytes 4 8 ++ List.replicate 47 0 ++ [0xFF], body := List.replicate 8 0, rsaOk := true, slhOk := true }
def outOf (r : Res) (kind : String) (l : List Int) : Bool := runs r fun t => t.out == [.mgmt (.smbus 0x4E) kind l]

/-- Management reads and writes, and a path that is not heard (R450, R451, R463). -/
theorem test_management : ([mg.mgmtUp (.smbus 0x4E) && mg.mgmtMay (.smbus 0x4E) && !mg.mgmtMay (.vdm 1),
    outOf (exec (.mctpControl (.smbus 0x4E) .getEid) mg) "ENDPOINT_ID" [0],
    outOf (exec (.mctpControl (.smbus 0x4E) (.setEid 9)) mg) "SET_ENDPOINT_ID" [9],
    outOf (exec (.pldmBaseDiscovery (.smbus 0x4E)) mg) "PLDM_TYPES" [0, 2, 5],
    outOf (exec (.pldmGetSensor (.smbus 0x4E) (.sensor 1)) mg) "SENSOR" [0],
    outOf (exec (.pldmGetSensor (.smbus 0x4E) (.sensor 0)) mg) "INVALID_SENSOR_ID" [],
    outOf (exec (.ledgerRead (.smbus 0x4E) 5) mg) "NO_ENTRY" [],
    runs (exec (.ledgerRead (.smbus 0x4E) 5) { mg with led := { buf := [entry5] } }) fun t => t.out == [.mgmt (.smbus 0x4E) "LEDGER_ENTRY" entry5.fields],
    stays (.mctpControl (.smbus 0x4E) .getEid) { mg with pins := {} },
    outOf (exec (.pldmFwUpdate (.smbus 0x4E) (.start (.got fwI))) { mg with sec := { cmd := { busy := true } } }) "NOT_READY" [],
    runs (exec (.pldmFwUpdate (.smbus 0x4E) (.start (.got fwI))) mg) fun t => t.sec.cmd.busy && (t.bank 1).img.isNone,
    runs (exec (.pldmFwUpdate (.smbus 0x4E) (.finish true)) { mg with sec := { cmd := { busy := true }, writing := some (fwI, true) } }) fun t => !t.sec.cmd.busy && (t.bank 1).img.isSome && (t.bank 1).state == 0xFF,
    outOf (exec (.tunOp (.smbus 0x4E) 1 bin0) mg) "ERROR_UNSUPPORTED" [],
    outOf (exec (.tunOp (.smbus 0x4E) 5 bin0) { mg with tun := { boot := .ready, cmd := { busy := true } } }) "ERROR_NOT_READY" [],
    outOf (exec (.tunOp (.smbus 0x4E) 5 bin0) mg) "TUN_OP" [0, 3],
    runs (exec (.deviceResetEffecter (.vdm 1) bin0) { mg with hosts := { l0 := 15 } }) fun t => t.tun.boot == .ready || t.out.length == 1,
    mg.mgmtUp (.i3c 0x4E) && !mg.mgmtUp (.i3c 9),
    runs (exec (.mctpControl (.i3c 0x4E) (.setAddr 9)) mg) fun t => t.pwr.i3cAddr == some 9 && t.mgmtUp (.i3c 9) && t.out == [],
    stays (.mctpControl (.smbus 0x4E) (.setAddr 9)) mg,
    runs (exec (.pldmGetSensor (.smbus 0x4E) (.events true)) mg) fun t => t.pwr.eventsTo == some (.smbus 0x4E),
    outOf (exec (.pldmFwUpdate (.smbus 0x4E) (.start (.got { fwI with rsaOk := false }))) mg) "FW_UPDATE" [1],
    outOf (exec (.pldmFwUpdate (.smbus 0x4E) (.start .fail)) mg) "FW_UPDATE" [6],
    outOf (exec (.pldmFwUpdate (.smbus 0x4E) (.finish false)) { mg with sec := { cmd := { busy := true }, writing := some (fwI, true) } }) "FW_UPDATE" [4],
    runs (exec (.tunOp (.smbus 0x4E) 7 bin0) mg) fun t => t.cores == [] && t.str.time == 0,
    runs (exec (.pldmFwUpdate (.vdm 1) (.start (.got fwI))) { mg with hosts := { l0 := 15 } }) fun t => t.out == [.mgmt (.vdm 1) "ERROR_UNSUPPORTED" []]] : List Bool).all id = true := by decide +kernel

/-- Writes and reads of set-up registers (R455, R456, R458 to R460, Table 19.2). -/
theorem test_registers : ([stays (.registerWrite 0 0x3FFF0 4 1 none) mg,
    stays (.registerWrite 1 0x4108 8 1 none) mg,
    runs (exec (.registerWrite 0 0x4108 2 1 none) mg) fun t => t.tun == mg.tun,
    runs (exec (.registerWrite 0 0x4108 8 0x123456789 none) mg) fun t => t.tun.arg0 == 0x123456789,
    runs (exec (.registerWrite 0 0x4118 8 0x100 none) mg) fun t => t.tun.applyCtl == 0x100,
    runs (exec (.registerWrite 0 0x10018 4 (BitVec.ofNat 64 (2 ^ 19)) none) { mg with str := { lostSeen := true, straySeen := true } }) fun t => !t.str.lostSeen && t.str.straySeen,
    runs (exec (.registerWrite 0 0x11000 4 0xFFFFF5DC none) mg) fun t => t.tun.regs.pwrCap == 0x5DC && t.tun.dirty && t.tun.live.pwrCap == 0x960,
    runs (exec (.registerWrite 0 0x11000 4 0x5DC none) { mg with tun := { boot := .ready, sealed_ := true } }) fun t => t.tun.regs.pwrCap == 0x960,
    runs (exec (.lowHalfReadLatch 0 0x4108 4 none) { mg with tun := { boot := .ready, arg0 := 0x500000007 } }) fun t => t.out == [.regData 0 0x4108 7],
    runs (exec (.lowHalfReadLatch 0 0x410C 4 none) { mg with tun := { boot := .ready, arg0 := 0x500000007 } }) fun t => t.out == [.regData 0 0x410C 5],
    runs (exec (.lowHalfReadLatch 0 0x10000 4 none) { mg with str := { time := 0x500000007 } }) fun t => (t.fn 0).latch == [(0x10000, 5)] && t.out == [.regData 0 0x10000 7],
    runs (exec (.lowHalfReadLatch 0 0x10004 4 none) ({ mg with str := { time := 0x600000007 } }.modFn 0 fun x => { x with latch := [(0x10000, 5)] })) fun t => t.out == [.regData 0 0x10004 5] && (t.fn 0).latch == [],
    runs (exec (.lowHalfReadLatch 0 0x3FFF0 4 none) mg) fun t => t.out == [.regData 0 0x3FFF0 0],
    runs (exec (.registerWrite 0 0x8094 4 7 none) mg) fun t => tget {} (t.fn 0).msix 9 == ({ addr := 7 <<< 32 } : MsixEnt),
    runs (exec (.registerWrite 0 0x809C 4 0 none) (mg.modFn 0 fun f => { f with pba := [9], msix := [(9, { addr := 0x1000, data := 7 })] })) fun t => t.out == [.msix 0 9 0x1000 7] && (t.fn 0).pba == [],
    runs (exec (.lowHalfReadLatch 0 0x7000 4 none) (mg.modFn 0 fun f => { f with pba := [9] })) fun t => t.out == [.regData 0 0x7000 0x200],
    runs (exec (.lowHalfReadLatch 0 0x4108 8 none) { mg with tun := { boot := .ready, arg0 := 0x500000007 } }) fun t => t.out == [.regData 0 0x4108 0x500000007],
    runs (exec (.lowHalfReadLatch 0 0x4108 2 none) { mg with tun := { boot := .ready, arg0 := 0x500000007 } }) fun t => t.out == [.regData 0 0x4108 0],
    runs (exec (.lowHalfReadLatch 1 0x4108 4 none) { mg with hosts := { l0 := 15, vfs := [(0, 2)] } }) fun t => t.out == [.regData 1 0x4108 0],
    runs (exec (.lowHalfReadLatch 0 0x10004 4 none) { mg with str := { time := 0x600000007 } }) fun t => t.out == [.regData 0 0x10004 6],
    runs (exec (.lowHalfReadLatch 0 0x8098 4 none) (mg.modFn 0 fun f => { f with msix := [(9, { addr := 0x1000, data := 7 })] })) fun t => t.out == [.regData 0 0x8098 7]] : List Bool).all id = true := by decide +kernel

/-- Doorbell registers with and without a ring, LDG_CTL and LDG_BASE (R374, R460, Tables 15.5 and 19.3). -/
theorem test_doorbell_and_ledger : ([runs (exec (.doorbellConfigWrite 0 0x10 4 0x80000000) mg) fun t => (t.fn 0).kickOnly,
    runs (exec (.doorbellConfigWrite 0 0x18 8 0x12345) mg) fun t => (t.fn 0).dbBase == 0x12000,
    runs (exec (.doorbellConfigWrite 0 0x20 4 0xFFFFFFFF) mg) fun t => (t.fn 0).dbPasid == 0x1FFFFF,
    runs (exec (.doorbellConfigWrite 0 0x10 4 0x80000000) { mg with rings := [(3, { st := .running })] }) fun t => !(t.fn 0).kickOnly,
    stays (.ldgCtlWrite 1 true 0) mg,
    runs (exec (.ldgCtlWrite 0 false 0x02C00000) mg) fun t => t.led.op.ctl == 0x02C00000,
    runs (exec (.ldgCtlWrite 0 true 0xFFFFFFFF) mg) fun t => (t.fn 0).led.ctl == 0x87F007FF,
    runs (exec (.ldgBaseWrite 0 true .whole 0x12345) mg) fun t => (t.fn 0).led.base == 0x12000,
    stays (.ldgBaseWrite 0 true .whole 0x12345) (mg.modFn 0 fun x => { x with led := { ctl := 0x83200000 } })] : List Bool).all id = true := by decide +kernel

/-! ### Security -/

def fwAt (n : Nat) : FwImg :=
  { hdr := toBytes 4 0x4D524657 ++ toBytes 4 n ++ toBytes 4 9 ++ toBytes 4 8 ++ List.replicate 47 0 ++ [0xFF], body := List.replicate 8 0, rsaOk := true, slhOk := true }
def fwS : FwImg := fwAt 2
def sc : Machine.State := { tun := { boot := .ready, arg1 := 16680 }, pins := { pwrok := true }, str := { time := 40000 * 256 * 2 }, nv := { banks := [{ img := some fwS, state := 0x3F }, {}] }, sec := { svn := 2 } }
/-- An image is being written, by SEC_FW_CMD or by PLDM. -/
def wr2 (mgmt : Bool) : Machine.State := { sc with sec := { svn := 2, cmd := { busy := true }, writing := some (fwS, mgmt) } }
def keyRec (slot signer : Nat) : KeyRec :=
  { body := toBytes 32 slot ++ toBytes 32 5 ++ toBytes 384 77 ++ toBytes 48 88, pre := [0, BitVec.ofNat 8 signer, 0, 0, 0, 0, 0, 0], rsaOk := true, slhOk := true }
def revRec (slot signer : Nat) : KeyRec := { keyRec slot signer with body := (keyRec slot signer).body.take 64 }
def keyed (prog : BitVec 4) : Machine.State := { sc with nv := { sc.nv with slotProg := prog }, sec := { sc.sec with nonce := some 5 } }
def secRes (t : Machine.State) : Bool × Nat := (t.sec.cmd.busy, t.sec.cmd.result)
def dbgTok (level device : Nat) (who : Option (Fin 4)) : DebugTok := { body := toBytes 16 level ++ toBytes 16 device ++ toBytes 32 5, signer := who, rsaOk := true, slhOk := true }
/-- Stream 7 of host port 0, with K0 in use for every direction and sub-stream. -/
def ide7 : IdeStream := { port := 0, stream := 7, keys := (List.range 6).map fun i => (i, some 1), use := (List.range 6).map fun i => (i, some false) }
/-- A VF of host port 0 with an ACTIVE stall 4 and a keyed stream. -/
def vf (tdi : TdiState) : Machine.State :=
  { sc with hosts := { vfs := [(0, 2)] }, nv := {}, sec := { sc.sec with ide := [ide7], sess := [1, 4096] }, stalls := [(4, { st := .active, func := 1 })],
            fns := if tdi = .unlocked then [] else [(1, { tdi := tdi, tdiStream := 7 })] }
def kinds (t : Machine.State) : List String := t.out.map fun | .spdm _ k _ => k | _ => ""

/-- FW_WRITE, COMMIT_SVN and NONCE (R425 to R428, R431). -/
theorem test_firmware : ([sc.wf && (vf .locked).wf,
    runs (exec (.fwWrite 0 (.start (.got fwS))) sc) fun t => t.sec.cmd.busy && t.sec.writing.isSome && (t.bank 0).state == 0x3F,
    runs (exec (.fwWrite 0 (.finish true)) (wr2 false)) fun t => secRes t == (false, 0) && (t.bank 1).state == 0xFF && (t.bank 1).img.isSome && (t.bank 0).state == 0x3F,
    stays (.fwWrite 0 (.finish true)) { sc with nv := {} },
    runs (exec (.fwWrite 0 (.start (.got fwS))) { sc with tun := { boot := .ready, arg1 := 16672 } }) fun t => secRes t == (false, 2),
    runs (exec (.fwWrite 0 (.finish false)) (wr2 false)) fun t => secRes t == (false, 4) && (t.bank 1).img == none && t.sec.writing == none,
    runs (exec (.fwWrite 0 (.start (.got { fwS with rsaOk := false }))) sc) fun t => secRes t == (false, 1),
    runs (exec (.fwWrite 0 (.start (.got (fwAt 0)))) { sc with nv := { sc.nv with floor := 1 } }) fun t => secRes t == (false, 2),
    runs (exec (.fwWrite 0 (.start .fail)) sc) fun t => secRes t == (false, 6),
    runs (exec (.commitSvn 0) sc) fun t => secRes t == (false, 0) && t.nv.floor == 2,
    runs (exec (.commitSvn 0) { sc with sec := { sc.sec with bank := 1 } }) fun t => secRes t == (false, 3) && t.nv.floor == 0,
    runs (exec (.nonce 0) sc) fun t => secRes t == (false, 0) && t.sec.nonce.isSome && t.rnd == 4] : List Bool).all id = true := by decide +kernel

/-- Operator keys and debug tokens (R431, R439, R440). -/
theorem test_keys : ([runs (exec (.keyAdd 0 (.got (keyRec 1 0))) (keyed 0)) fun t => secRes t == (false, 0) && t.nv.slotProg == 2 && t.sec.nonce == none,
    runs (exec (.keyAdd 0 (.got (keyRec 1 0))) { keyed 0 with tun := { boot := .ready, sealed_ := true } }) fun t => secRes t == (false, 5),
    runs (exec (.keyAdd 0 (.got (keyRec 1 0))) (keyed 1)) fun t => secRes t == (false, 0) && t.nv.slotProg == 3,
    runs (exec (.keyAdd 0 (.got (keyRec 1 0))) (keyed 2)) fun t => secRes t == (false, 3),
    runs (exec (.keyAdd 0 (.got (keyRec 1 2))) (keyed 1)) fun t => secRes t == (false, 1),
    runs (exec (.keyAdd 0 (.got { keyRec 1 0 with body := toBytes 32 1 ++ toBytes 32 6 ++ toBytes 432 77 })) (keyed 0)) fun t => secRes t == (false, 6) && t.sec.nonce == some 5,
    runs (exec (.keyRevoke 0 (.got (revRec 1 0))) (keyed 3)) fun t => secRes t == (false, 0) && t.nv.slotRev == 2,
    runs (exec (.keyRevoke 0 (.got (revRec 1 0))) (keyed 1)) fun t => secRes t == (false, 3),
    runs (exec (.debugUnlock 0 (.token (.got (dbgTok 2 0 none)))) (keyed 0)) fun t => secRes t == (false, 0) && t.sec.debugNext && t.sec.debug == 0,
    runs (exec (.debugUnlock 0 (.token (.got (dbgTok 1 0 (some 0))))) { keyed 1 with tun := { boot := .ready, live := { secCtl := 0x40000000 } } }) fun t => secRes t == (false, 0) && t.sec.debug == 1,
    runs (exec (.debugUnlock 0 (.token (.got (dbgTok 2 1 none)))) (keyed 0)) fun t => secRes t == (false, 1) && !t.sec.debugNext,
    runs (exec (.debugUnlock 0 (.tap .idcode)) { keyed 0 with pins := { pwrok := true } }) fun t => t.out.length == 1 && (t.out.map fun | .tdo l => l.take 12 | _ => []) == [[true, true, false, true, true, false, true, false, false, true, false, true]],
    runs (exec (.debugUnlock 0 (.tap (.bypass [true, false, true]))) { keyed 0 with pins := { pwrok := true } }) fun t => t.out == [.tdo [false, true, false]]] : List Bool).all id = true := by decide +kernel

/-- SPDM requests and vendor requests (R434, R436, R437). -/
theorem test_spdm : ([runs (exec (.spdmRequest .mctp .version) sc) fun t => t.out == [.spdm .mctp "VERSION" [0x12, 0x13]],
    stays (.spdmRequest .mctp .version) { sc with nv := {}, pins := {} },
    runs (exec (.spdmRequest (.doe 0) (.certificate 1 0 0)) sc) fun t => kinds t == ["ERROR InvalidRequest"],
    runs (exec (.spdmRequest (.doe 0) .keyExchange) sc) fun t => t.sec.hand == [0] && t.sec.signed.map Prod.fst == [0],
    runs (exec (.spdmRequest (.doe 0) .finish) { sc with sec := { hand := [0] } }) fun t => t.sec.sess == [0] && t.sec.hand == [],
    runs (exec (.spdmRequest (.doe 0) .finish) sc) fun t => kinds t == ["ERROR UnexpectedRequest"],
    runs (exec (.spdmRequest (.doe 0) .endSession) { sc with sec := { sess := [0] } }) fun t => t.sec.sess == [],
    runs (exec (.setFabricKey (.doe 0) true 9) { sc with sec := { sess := [0] } }) fun t => t.sec.fmk == some 9,
    runs (exec (.setFabricKey .mctp true 9) { sc with sec := { sess := [4096] } }) fun t => t.sec.fmk == none && kinds t == ["ERROR UnexpectedRequest"],
    runs (exec (.pqSign (.doe 0) true) { sc with sec := { signed := [(0, "CHALLENGE_AUTH", [])] } }) fun t => t.sec.signed == [] && kinds t == ["PQ_SIGNATURE"],
    runs (exec (.pqSign (.doe 0) true) sc) fun t => kinds t == ["ERROR UnexpectedRequest"],
    runs (exec (.pqSign (.doe 0) false) { sc with sec := { signed := [(0, "CHALLENGE_AUTH", [])] } }) fun t => t.sec.signed.length == 1 && kinds t == ["ERROR UnsupportedRequest"],
    runs (exec (.getPqCert (.doe 0) true 8 0x20000) sc) fun t => t.out == [.spdm (.doe 0) "PQ_CERT" [8, 0x10000]]] : List Bool).all id = true := by decide +kernel

/-- IDE streams and the interface of a VF (R435, R438, Table 17.5). -/
theorem test_interfaces : ([runs (exec (.ideKm 1 9 (.prog true false 2 5) true) (vf .unlocked)) fun t => t.ide? 0 9 == some { port := 0, stream := 9, keys := [(8, some 5)] } && t.ide? 0 7 == some ide7,
    runs (exec (.ideKm 1 7 (.go false true 0) true) ((vf .unlocked).modFn 0 fun x => { x with insecure := [7] })) fun t => (t.fn 0).insecure == [],
    runs (exec (.ideKm 1 7 (.stop true 1) true) (vf .unlocked)) fun t => !t.ideKeyed 0 7,
    runs (exec (.ideKm 1 9 (.prog true false 2 5) false) (vf .unlocked)) fun t => t.sec.ide == [ide7] && kinds t == ["ERROR UnexpectedRequest"],
    stays (.ideIntegrityFailure 0 9 1) (vf .run),
    runs (exec (.kick 1 (.read 4) 3 none) (vf .run)) fun t => t.out == [.unsupported 1],
    runs (exec (.kick 1 (.read 4) 3 (some 7)) (vf .run)) fun t => t.out == [.barRead 1 [0, 0, 0, 0]],
    runs (exec (.lowHalfReadLatch 1 0 4 (some 9)) (vf .run)) fun t => t.out == [.unsupported 1],
    runs (exec (.ideIntegrityFailure 0 7 1) (vf .run)) fun t => (t.fn 1).tdi == .error && (t.fn 0).insecure == [7],
    runs (exec (.lockInterface 0 7) (vf .unlocked)) fun t => kinds t == ["TDISP_ERROR InvalidInterface"],
    (vf .unlocked).lockMay 1 7 && !(vf .locked).lockMay 1 7,
    runs (exec (.lockInterface 1 7) (vf .locked)) fun t => kinds t == ["TDISP_ERROR InvalidInterfaceState"],
    runs (exec (.startInterface 1) (vf .locked)) fun t => (t.fn 1).tdi == .run,
    runs (exec (.startInterface 1) (vf .run)) fun t => (t.fn 1).tdi == .run && kinds t == ["TDISP_ERROR InvalidInterfaceState"],
    runs (exec (.stopInterface 1) (vf .run)) fun t => (t.fn 1).tdiBusy,
    runs (exec (.getInterfaceReport 1) (vf .unlocked)) fun t => kinds t == ["TDISP_ERROR InvalidInterfaceState"],
    stays (.tdiUnlockDone 1) (vf .run),
    runs (exec (.tdiUnlockDone 1) ((vf .run).modFn 1 fun x => { x with tdiBusy := true })) fun t => (t.fn 1).tdi == .unlocked && !(t.fn 1).tdiBusy] : List Bool).all id = true := by decide +kernel

/-! ### Stalls and time-slicing -/

/-- A sealed READY device: stall 0 sees every address at itself; stall 1 is ACTIVE and owns block 2, which is offered. -/
def sl : Machine.State :=
  { tun := { boot := .ready, sealed_ := true }, mem := { owner := [(2, 0x4001)] },
    stalls := [(0, { st := .active, coreMask := BitVec.allOnes 192 }), (1, { st := .active, memKey := 4, coreMask := 1, golden := [{ base := 0x2000, blocks := [2], kind := 1 }] })] }
/-- STL_CMD and STL_FN_CMD words: an operation on a stall. -/
def cmd (op st : Nat) : W32 := BitVec.ofNat 32 (op * 2 ^ 24 + st)
def arg (s : Machine.State) (ws : List W64) : Machine.State := { s with stlCtx := ws }
def stlRes (t : Machine.State) : Bool × Nat := (t.stl.busy, t.stl.result)
def fnRes (t : Machine.State) : Bool × Nat := ((t.fn 0).stl.busy, (t.fn 0).stl.result)
/-- An argument record for a stall with one core, its save region at 4 MiB. -/
def rec1 : List W64 := [0, 0x400000, 1, 0, 0, BitVec.ofNat 64 (2 ^ 16 + 2 ^ 24 + 2 ^ 32), 0, 0]
/-- Stall 0 bound to function 0, with bytes at 0x10000 and the address of them in STL_FN_ARG0. -/
def fnArg (bs : List Byte) (own : List (Nat × W16)) : Machine.State :=
  { sl with mem := { sl.mem with cells := tsetMany 0 [] 0x10000 bs, owner := own ++ [(2, 0x4001)] }, fns := [(0, { stlArg := 0x10000 })] }
/-- The context of `thr` saved at 0, with its core given back to it. -/
def core9 : Core := { core2 with mem := [(4, 9)] }
def savedThr : Machine.State :=
  (((thr.setCore 0 core9).writeImage 0 64 0).setCtx 1 (some { ctx2 with st := .saved, images := [core9.image 0 0] })).setCore 0 { ctx := some 1 }
def offerRec : List Byte := toBytes 8 0x20000 ++ toBytes 8 4096
def goldRec : List Byte := toBytes 8 0x20000 ++ toBytes 8 4096 ++ [1] ++ List.replicate 7 0 ++ toBytes 8 0x9000 ++ List.replicate 32 0

/-- A VF in CONFIG_LOCKED has recorded a table block. -/
def locked (b : Nat) : Machine.State := { sl with fns := [(1, { tdi := .locked, tdiBlocks := [b] })] }
/-- A load of stall 1 from block 2 is in flight. -/
def loading : Machine.State :=
  { sl with ctxs := [(1, some { ctx2 with stall := 1 })], cores := [(0, { core2 with loads := [{ slot := 0, serial := 1, d := 12, pc := 0, mode := 10, act := 1, lanes := [(0, 0x2000, 0x2000)] }] })] }
/-- The argument record of stall 0 lies in a poisoned unit of one of its golden blocks. -/
def badArg (g : Bool) : Machine.State :=
  let s := fnArg offerRec []
  { s with mem := { s.mem with poison := [0x800], owner := (2, 0x4001) :: if g then [(16, 0x7000)] else [] }, fns := [(0, { stlArg := 0x10000 })] }.modStall 0 fun x =>
    { x with golden := if g then [{ base := 0x10000, blocks := [16], kind := 1 }] else [] }
/-- CREATE's checks, RESET, STALL_RESET_DONE and DESTROY (R342, R366, R367). -/
theorem test_stall_life : ([sl.wf,
    (arg sl rec1).stallCtxOk && (arg sl rec1).shareFits 5,
    runs (exec (.stallCreate 0 (cmd 1 0)) (arg sl rec1)) fun t => stlRes t == (false, 5),
    runs (exec (.stallCreate 0 (cmd 1 1)) (arg sl rec1)) fun t => stlRes t == (false, 2),
    runs (exec (.stallCreate 0 (cmd 1 5)) sl) fun t => stlRes t == (false, 3) && t.stalls == sl.stalls,
    runs (exec (.stallReset 0 (cmd 2 0)) sl) fun t => stlRes t == (false, 5),
    runs (exec (.stallReset 0 (cmd 2 5)) sl) fun t => stlRes t == (false, 2),
    runs (exec (.stallReset 0 (cmd 2 1)) { sl with rings := [(3, { st := .running, stall := 1 })] }) fun t => t.stl.busy && (t.stall 1).st == .resetting && (t.ring 3).st == .free && (t.stall 1).memKey == 4,
    stays (.stallResetDone 1) sl,
    runs (exec (.stallResetDone 1) (sl.modStall 1 fun x => { x with st := .resetting, resetCmd := true })) fun t => (t.stall 1).st == .active && stlRes t == (false, 0),
    runs (exec (.stallDestroy 0 (cmd 3 1)) sl) fun t => t.stall 1 == {} && t.owner 2 == 0 && stlRes t == (false, 0),
    runs (exec (.stallDestroy 0 (cmd 3 0)) sl) fun t => stlRes t == (false, 5),
    runs (exec (.stallCreate 0 (cmd 1 5)) (arg (locked 0x401) rec1)) fun t => stlRes t == (false, 5) && (t.stall 5).st == .free] : List Bool).all id = true := by decide +kernel

/-- ASSIGN, INVAL, SET_SHARE, SHARE, UNSHARE and FN_QUOTA (R344, R348, R352, R354, R362). -/
theorem test_stall_arguments : ([runs (exec (.assign 0 (cmd 4 1)) (arg sl [0x8000, 2, 0, 0, 0, 0, 0, 0])) fun t => t.owner 8 == 1 && t.owner 9 == 1 && t.owner 10 == 0 && stlRes t == (false, 0),
    runs (exec (.assign 0 (cmd 4 1)) (arg sl [0x2000, 1, 0, 0, 0, 0, 0, 0])) fun t => stlRes t == (false, 3) && t.mem == sl.mem,
    runs (exec (.assign 0 (cmd 4 0)) sl) fun t => stlRes t == (false, 5),
    runs (exec (.inval 0 (cmd 5 1)) sl) fun t => stlRes t == (false, 0),
    runs (exec (.inval 0 (cmd 5 6)) sl) fun t => stlRes t == (false, 2),
    runs (exec (.setShare 0 (cmd 6 1)) (arg sl rec1)) fun t => ((t.stall 1).newShare.map NewShare.due) == some 256 && (t.stall 1).weight == 1,
    runs (exec (.share 0 (cmd 7 1)) (arg sl [0x2000, 1, 0, 0, 0, 0, 0, 0])) fun t => t.shared 2 && t.owner 2 == 1 && stlRes t == (false, 0),
    runs (exec (.unshare 0 (cmd 8 1)) (arg { sl with mem := { owner := [(2, 0x7001)] } } [0x2000, 1, 0, 0, 0, 0, 0, 0])) fun t => !t.shared 2 && !t.goldenBit 2 && t.offered 2 && (t.stall 1).golden == [],
    runs (exec (.fnQuota 0 (cmd 9 0)) (arg sl [BitVec.ofNat 64 (8 * 2 ^ 32 + 16 * 2 ^ 16), 0, 0, 0, 0, 0, 0, 0])) fun t => (t.fn 0).quotaBase == 16 && (t.fn 0).quotaCount == 8 && stlRes t == (false, 0),
    runs (exec (.fnQuota 0 (cmd 9 0)) (arg sl [BitVec.ofNat 64 (8 * 2 ^ 32 + 65529 * 2 ^ 16), 0, 0, 0, 0, 0, 0, 0])) fun t => stlRes t == (false, 3),
    runs (exec (.assign 0 (cmd 4 1)) (arg (locked 8) [0x8000, 2, 0, 0, 0, 0, 0, 0])) fun t => stlRes t == (false, 5) && t.owner 8 == 0,
    runs (exec (.inval 0 (cmd 5 1)) (arg loading [0x2000, 1, 0, 0, 0, 0, 0, 0])) fun t => t.stl.busy && t.stlInval == some (1, 0x2000, 1),
    runs (exec (.inval 0 (cmd 5 1)) (arg loading [0x3000, 1, 0, 0, 0, 0, 0, 0])) fun t => stlRes t == (false, 0) && t.stlInval == none,
    runs (exec (.fnQuota 0 (cmd 9 0)) { arg sl [BitVec.ofNat 64 (8 * 2 ^ 32 + 16 * 2 ^ 16), 0, 0, 0, 0, 0, 0, 0] with rings := [(3, { st := .running })] }) fun t => stlRes t == (false, 2)] : List Bool).all id = true := by decide +kernel

/-- SET_RKEY, golden sources and offers of a function's own stall (R351, R362, R363, R369). -/
theorem test_stall_function : ([runs (exec (.setRkey 0 (cmd 1 0)) (fnArg [] [])) fun t => (t.stall 0).rkey == 0x10000 && fnRes t == (false, 0),
    runs (exec (.setRkey 0 (cmd 1 7)) (fnArg [] [])) fun t => fnRes t == (false, 1),
    runs (exec (.goldenAdd 0 (cmd 2 0)) { fnArg goldRec [] with mem := { cells := tsetMany 0 [] 0x10000 goldRec, owner := [(0x20, 0x5000)] } }) fun t => (t.stall 0).golden.length == 1 && t.goldenBit 0x20 && fnRes t == (false, 0),
    runs (exec (.goldenAdd 0 (cmd 2 0)) (fnArg goldRec [])) fun t => fnRes t == (false, 3) && (t.stall 0).golden == [],
    runs (exec (.goldenRemove 0 (cmd 3 0)) ((fnArg [] []).modStall 0 fun x => { x with golden := [{ base := 0x10000, blocks := [16], kind := 1 }] })) fun t => (t.stall 0).golden == [] && fnRes t == (false, 0),
    runs (exec (.goldenRemove 0 (cmd 3 0)) (fnArg [] [])) fun t => fnRes t == (false, 3),
    runs (exec (.shareOffer 0 (cmd 4 0)) (fnArg offerRec [])) fun t => t.offered 0x20 && fnRes t == (false, 0),
    runs (exec (.shareWithdraw 0 (cmd 5 0)) { fnArg offerRec [] with mem := { (fnArg offerRec []).mem with owner := [(0x20, 0x5000)] } }) fun t => fnRes t == (false, 2),
    runs (exec (.shareWithdraw 0 (cmd 5 0)) { fnArg offerRec [] with mem := { (fnArg offerRec []).mem with owner := [(0x20, 0x4000)] } }) fun t => fnRes t == (false, 0) && !t.offered 0x20,
    runs (exec (.shareOffer 0 (cmd 4 0)) (badArg false)) fun t => fnRes t == (false, 3),
    runs (exec (.shareOffer 0 (cmd 4 0)) (badArg true)) fun t => (t.fn 0).stl.busy && (t.fn 0).stlHeld == some 4 && t.mem.refills.length == 1] : List Bool).all id = true := by decide +kernel

/-- Quantum ends, saves, grants and restores (R353, R357 to R361). -/
theorem test_time_slicing : ([runs (exec (.quantumEnd 0) { thr.setCtx 1 (some { ctx2 with stall := 0, quantum := 2 }) with str := { time := 511 } }) fun t => (t.ctx? 1).map Ctx.start == some 0,
    runs (exec (.quantumEnd 0) { thr.setCtx 1 (some { ctx2 with stall := 0, quantum := 2 }) with str := { time := 512 }, tun := { live := { timer := 0 } } }) fun t => (t.ctx? 1).map Ctx.start == some 512 && (t.stall 0).used == 2,
    runs (exec (.quantumEnd 0) { (thr.setCtx 1 (some { ctx2 with quantum := 2 })).setCtx 2 (some { stall := 1, st := .saved, cores := [0] }) with str := { time := 512 }, stalls := [(1, { st := .active })] })
      fun t => (t.ctx? 1).map Ctx.st == some .saving && (t.core 0).reserved == some 2,
    stays (.contextSave 0 false) thr,
    runs (exec (.contextSave 0 false) (thr.setCtx 1 (some { ctx2 with st := .saving }))) fun t => (t.ctx? 1).map Ctx.st == some .saved && (t.core 0).ctx == none && (t.core 0).groups == [] && ((t.ctx? 1).map fun x => x.images.map CoreImg.groups) == some [[(0, gr2)]],
    runs (exec (.contextSave 0 true) (thr.setCtx 1 (some { ctx2 with st := .saving }))) fun t => faulted t 0x12,
    runs (exec (.contextRestore 0 true false) savedThr) fun t => ((t.core 0).groups.map (·.1)) == [0] && rg t 0 0 == 6 && rg t 1 1 == 0xFFFFFFFF && tget 0 (t.core 0).mem 4 == 9 && (t.ctx? 1).map Ctx.st == some .running,
    runs (exec (.contextRestore 0 true true) savedThr) fun t => faulted t 0x12,
    runs (exec (.contextRestore 0 true false) { savedThr with mem := { savedThr.mem with cells := tset 0 savedThr.mem.cells 0x3C2000 (savedThr.byteAt 0x3C2000 + 1) } }) fun t => faulted t 0x10,
    runs (exec (.contextRestore 0 false false) ((thr.setCore 0 { ctx := some 1 }).setCtx 1 (some { ctx2 with st := .saved }))) fun t => faulted t 0x10,
    stays (.contextRestore 0 true false) thr,
    runs (exec (.quantumEnd 0) { (thr.setCtx 1 (some { ctx2 with quantum := 9 })).setCtx 2 (some { stall := 1, kind := .test, cores := [0] }) with stalls := [(1, { st := .active })] })
      fun t => (t.ctx? 1).map Ctx.st == some .saving && (t.core 0).reserved == some 2] : List Bool).all id = true := by decide +kernel

/-! ### Checks, the ledger and field tests -/

def ck0 : Machine.State := { tun := { boot := .ready }, stalls := [(1, { st := .active, qCheck := 0x10, closeDue := 1024 })], str := { time := 1024 } }
def tcmd (op kind n : Nat) : W32 := BitVec.ofNat 32 (op * 2 ^ 24 + kind * 2 ^ 19 + n)
def fam (f : Nat) (s : Machine.State) : Machine.State := { s with led := { s.led with testArg := BitVec.ofNat 64 f } }
def testing (c : Option Nat) : Machine.State := { ck0 with led := { ck0.led with testCmd := { busy := true }, test := some { kind := 7, number := 3, families := 0x3000, passes := 1, autoFence := false, ctx := c } } }
def tres (t : Machine.State) : Bool × Nat := (t.led.testCmd.busy, t.led.testCmd.result)

/-- WINDOW_CLOSE at its boundary, between boundaries, and of a tainted stall (R377 to R381). -/
theorem test_windows : ([runs (exec (.windowClose 1) ck0) fun t => (t.stall 1).epoch == 2 && (t.stall 1).closeDue == 1280 && (t.stall 1).qCheck == 0x2281E002,
    stays (.windowClose 1) (ck0.modStall 1 fun x => { x with closeDue := 1536 }),
    stays (.windowClose 2) ck0,
    runs (exec (.windowClose 1) (ck0.modStall 1 fun x => { x with tainted := true })) fun t => (t.stall 1).failedEps == [1] && (t.stall 1).tainted] : List Bool).all id = true := by decide +kernel

/-- RUN, CANCEL and FIELD_TEST_DONE (R387). -/
theorem test_field_tests : ([runs (exec (.run 0 (tcmd 1 3 5)) (fam 0x3 ck0)) fun t => tres t == (true, 0) && ((t.led.test.bind FieldTest.ctx).bind t.ctx?).map Ctx.cores == some [5],
    runs (exec (.run 0 (tcmd 1 3 5)) (fam 0x4 ck0)) fun t => ((t.led.test.bind FieldTest.ctx).bind t.ctx?).map Ctx.cores == some [5, 4],
    runs (exec (.run 0 (tcmd 1 7 5)) (fam 0x3000 ck0)) fun t => tres t == (true, 0) && (t.led.test.map FieldTest.ctx) == some none,
    runs (exec (.run 0 (tcmd 1 3 192)) (fam 0x3 ck0)) fun t => tres t == (false, 2) && t.led.test == none,
    runs (exec (.run 0 (tcmd 1 4 5)) (fam 0x100 ck0)) fun t => tres t == (false, 2),
    runs (exec (.run 0 (tcmd 1 3 5)) (testing none)) fun t => tres t == (true, 2),
    runs (exec (.cancel 0 (tcmd 3 0 0)) (testing none)) fun t => tres t == (false, 3) && t.led.test == none,
    runs (exec (.fieldTestDone 0x1001) (testing none)) fun t => tres t == (false, 1) && t.led.testFail == 0x1000 && t.led.test == none,
    runs (exec (.fieldTestDone 0) (testing none)) fun t => tres t == (false, 0),
    stays (.fieldTestDone 0) ck0,
    stays (.fieldTestDone 0) (testing (some 9))] : List Bool).all id = true := by decide +kernel

/-- FENCE_UNIT and FENCE_TAKE_EFFECT (R388, R389). -/
theorem test_fencing : ([runs (exec (.fenceUnit 0 (tcmd 2 4 9)) ck0) fun t => t.led.fences == [(4, 9, 1)] && t.led.arrFenced == [],
    runs (exec (.fenceUnit 0 (tcmd 2 7 9)) ck0) fun t => tres t == (false, 2) && t.led.fences == [],
    runs (exec .fenceTakeEffect { ck0 with led := { fences := [(4, 9, 1)] } }) fun t => t.led.arrFenced == [9] && t.nv.health.arrays == [9] && t.led.fences == [],
    runs (exec .fenceTakeEffect { ck0 with led := { fences := [(3, 1, 1)] } }) fun t => t.led.coreFenced == [1] && t.led.arrFenced == [8, 9, 10, 11, 12, 13, 14, 15],
    stays .fenceTakeEffect { ck0 with led := { fences := [(4, 0, 1)] }, cores := [(0, { passes := [{ id := 1 }] })] },
    runs (exec .fenceTakeEffect { ck0 with led := { fences := [(4, 1, 1)] }, cores := [(0, { passes := [{ id := 1 }] })] }) fun t => t.led.arrFenced == [1],
    runs (exec .fenceTakeEffect { ck0 with led := { fences := [(3, 1, 1)] }, ctxs := [(4, some { cores := [1], ring := 3, num := 4 })], rings := [(3, { st := .running, next := 5, ds := [{ num := 4, ph := .running }] })] })
      fun t => t.ctx? 4 == none && (t.ring 3).ds.map (fun d => (d.ph == .done, d.status)) == [(true, 0x0E)]] : List Bool).all id = true := by decide +kernel

/-! ### Collectives -/

/-- Words of a collective: word 1, the rank set and its table, SRC, DST, START and word 7. -/
def cws (w1 src dst w7 : Nat) : List W64 := [5 * 2 ^ 60, BitVec.ofNat 64 w1, 0x1000, 0x2000, BitVec.ofNat 64 src, BitVec.ofNat 64 dst, 1024, BitVec.ofNat 64 w7]
/-- An ungated FP32 operation. -/
def cop (op : Nat) : Nat := op * 2 ^ 60 + 2 ^ 52
def cn2 : Nat := 2 * 2 ^ 48 + 4 * 2 ^ 28
/-- Collective 2 of stall 0 in progress between this device, 5, and device 6: member 0 of two, two shards of eight elements. -/
def co (op : Nat) : Coll :=
  { id := 1, stall := 0, num := 2, words := cws (cop op) 0x3000 0x4000 cn2, ring := some (3, 4), members := [(5, 0), (6, 0)], nstripe := 1,
    routes := [(1, 0, 3)], extents := [(0, 8), (8, 8)], ph := .sending, start := 512, deadline := 2560 }
/-- A READY device 5 on String time with those collectives, on ring 3 of stall 0, whose descriptor 4 runs. -/
def cl (cs : List Coll) : Machine.State :=
  { tun := { boot := .ready, live := { fabId := 5, route0 := [(6, 0)] } }, str := { st := .locked, time := 512 },
    stalls := [(0, { st := .active, lbShare := 64, stepSet := some (1, [(5, 0), (6, 0)]) })],
    ports := [(0, { st := .up, plans := [{ flows := [(3, some { dst := 6, coll := 2 })] }, {}] })],
    rings := [(3, { st := .running, next := 5, ds := [{ num := 4, words := cws (cop 0) 0x3000 0x4000 cn2, ph := .running }] })], colls := cs }
/-- The same with descriptor 4 ready and its tables in memory. -/
def disp (ws : List W64) (ext : List Nat) : Machine.State :=
  { cl [] with
    rings := [(3, { st := .running, next := 5, ds := [{ num := 4, words := ws, ph := .ready }] })]
    mem := { cells := tsetMany 0 (tsetMany 0 [] 0x1000 (toBytes 4 2 ++ toBytes 4 0 ++ toBytes 2 1 ++ [1] ++ List.replicate 53 0 ++ toBytes 4 0x5000 ++ toBytes 4 0x6000 ++
      toBytes 4 0x8003)) 0x2000 (ext.flatMap (toBytes 8)) } }
def ended (status : Nat) (t : Machine.State) : Bool := t.colls == [] && ((t.ring 3).ds.map fun d => (d.ph == .done, d.status)) == [(true, status)]
def held1 (t : Machine.State) : Bool := (t.colls.map fun c => (c.ph == .waiting, c.start, c.deadline)) == [(true, 1024, 2048)] && (t.ring 3).ds.map (fun d => d.ph == .running) == [true]
/-- A packet of a type from stall 0 of device `src` at an offset. -/
def px (typ src off coll aux : Nat) (data : List Byte) : Pkt :=
  { w0 := BitVec.ofNat 64 (typ * 2 ^ 60 + data.length / 32 * 2 ^ 52 + 5 * 2 ^ 20 + src), w1 := BitVec.ofNat 64 off, w2 := 0, w3 := BitVec.ofNat 64 (coll * 2 ^ 48 + aux), data := data }
def nt (kind step attempt member : Nat) : Pkt := px 5 6 0 2 kind (toBytes 4 step ++ toBytes 4 attempt ++ toBytes 4 member ++ List.replicate 20 0)
def d32 : List Byte := List.replicate 32 1
def c3 : Coll := { co 0 with members := [(5, 0), (6, 0), (7, 0)], extents := [(0, 8), (8, 8), (16, 8)] }
def perm (n : Nat) : Coll := { co 5 with extents := [], recvs := [{ member := 1, bytes := n }] }
def cstep (n : Nat) : Coll := { co 0 with words := cws (cop 0 + n) 0x3000 0x4000 cn2 }
def counted (t : Machine.State) : Bool := tget 0 (t.port 0).cnt 7 == 1
def segsOfT (t : Machine.State) : List (Nat × Nat × Nat) := t.colls.flatMap fun c => c.segs.map fun g => (g.shard, g.off, g.bytes.length)
def gated (j : UpdJob) (steps : List Step) : Machine.State := (cl []).modStall 0 fun x => { x with upd := some j, steps := steps }
def job2 : UpdJob := { op := .apply, ring := 3, num := 4, words := [0, 2], ph := .gate }

/-- A collective whose word 1 has more bits, gathered but for its end. -/
def gath (w1 : Nat) : Coll := { co 2 with words := cws (cop 2 + w1) 0x3000 0x4000 cn2, landed := [(0, 8), (1, 8)], sentN := 8 }
/-- An accumulating, gated reduction that lacks only PASS of member 1, and what member 1 sent. -/
def accC : Coll := { co 0 with words := cws (2 ^ 51) 0x3000 0x4000 cn2, passSent := true, segs := [{ kind := .provisional, shard := 0, off := 0, bytes := f32Bytes (List.replicate 8 0x3F800000) }] }
def clr (cs : List Coll) : Machine.State := (cl cs).modStall 0 fun x => { x with regions := [{ base := 0x4000, len := 4096 }] }
def kept1 (bad : List Nat) : Kept := { stall := 0, coll := 2, members := [(5, 0), (6, 0)], shard := 1, step := 0, bytes := d32, bad := bad }
/-- CXI's descriptor at local address 0: a collective with its result record at 0x300. -/
def cxiS (onStr : Bool) : Machine.State :=
  let s := disp (cws (cop 0) 0x3000 0x4000 cn2) [0, 8, 8, 8]
  { s with rings := [], ctxs := [(1, some ctx2)], str := if onStr then s.str else {},
           cores := [(0, { core2 with mem := tsetMany 0 [] 0 (((0x300 <<< 40 : W64) :: (cws (cop 0) 0x3000 0x4000 cn2).drop 1).flatMap fun w => toBytes 8 w.toNat) })] }
def queued (k : Nat) (s : Machine.State) : Machine.State := { s with mem := { s.mem with waiting := [(0, nt k 0 0 0)] } }
/-- Each operation's check, reservation and wait for START; STEPSET; checks that fail (R278 to R281, R288, R299). -/
theorem test_collective_dispatch : ([(cl [co 0]).wf && (disp (cws (cop 0) 0x3000 0x4000 cn2) [0, 8, 8, 8]).wf && (cl [c3]).wf && (gated job2 []).wf,
    runs (exec (.allReduce 3) (disp (cws (cop 0) 0x3000 0x4000 cn2) [0, 8, 8, 8])) fun t => held1 t && (t.stall 0).lbHeld == 0x40000,
    runs (exec (.reduceScatter 3) (disp (cws (cop 1) 0x3000 0x4000 cn2) [0, 8, 8, 8])) held1,
    runs (exec (.allGather 3) (disp (cws (cop 2) 0x3000 0x4000 cn2) [0, 8, 8, 8])) held1,
    runs (exec (.broadcast 3) (disp (cws (cop 3) 0x3000 0 cn2) [0, 16])) held1,
    runs (exec (.allToAll 3) (disp (cws (cop 4) 0x3000 0x4000 cn2) [0, 8, 8, 8, 0, 8, 8, 8])) held1,
    runs (exec (.permute 3) (disp (cws (cop 5) 0x3000 0x4000 cn2) [1 + 2 ^ 32, 0, 1 + 32 * 2 ^ 32, 0, 0, 0, 1 + 32 * 2 ^ 32])) held1,
    runs (exec (.stepset 3) (disp [5 * 2 ^ 60, BitVec.ofNat 64 (6 * 2 ^ 60 + 9), 0x1000, 0, 0, 0, 0, 0] [])) fun t => ended 0 t && (t.stall 0).stepSet == some (9, [(5, 0), (6, 0)]),
    stays (.allGather 3) (disp (cws (cop 0) 0x3000 0x4000 cn2) [0, 8, 8, 8]),
    runs (exec (.allReduce 3) (disp (cws (cop 0 + 2 ^ 40) 0x3000 0x4000 cn2) [0, 8, 8, 8])) (ended 0x0E),
    runs (exec (.allReduce 3) (disp (cws (cop 0) 0x3000 0x4000 cn2) [0, 8, 9, 8])) (ended 0x0E),
    runs (exec (.allReduce 3) { disp (cws (cop 0) 0x3000 0x4000 cn2) [] with mem := { poison := [0x80] } }) (ended 0x11),
    runs (exec (.cxi 0 0 (wd 0x72 0 0 3 0)) (cxiS true)) fun t => (t.colls.map fun c => (c.ph == .waiting, c.issue.isSome)) == [(true, true)] && ((t.group? 0 0).map fun g => g.token 0) == some 1 && (t.stall 0).lbHeld == 0x40000,
    runs (exec (.cxi 0 0 (wd 0x72 0 0 3 0)) (cxiS false)) fun t => t.colls == [] && ((t.group? 0 0).map fun g => g.token 0) == some 0 && (t.core 0).rd 0x300 2 == [0x24, 0]] : List Bool).all id = true := by decide +kernel

/-- START and segments sent (R282, R283, R286). -/
theorem test_collective_sends : ([runs (exec (.collectiveStart 0 2) (cl [{ co 0 with ph := .waiting }])) fun t => t.colls == [co 0],
    runs (exec (.collectiveStart 0 2) { cl [{ co 0 with ph := .waiting }] with ports := [] }) (ended 0x26),
    stays (.collectiveStart 0 2) (cl [{ co 0 with ph := .waiting, start := 513 }]),
    runs (exec (.segmentForward 0 2 1 0 [] 0) (cl [{ co 0 with segs := [{ kind := .partialSum, shard := 1, off := 0, bytes := d32 }] }])) fun t => segsOfT t == [] && (t.colls.map Coll.sent) == [[(0, 1, 0)]] && (t.port 0).txq.length == 1,
    runs (exec (.segmentForward 0 2 0 0 [] 0) (cl [{ co 0 with segs := [{ kind := .partialSum, shard := 0, off := 0, bytes := (f32Bytes (List.replicate 8 0x3F800000)) }] }])) fun t => segsOfT t == [(0, 0, 32)] && (t.colls.map fun c => tget 0 c.landed 0) == [8] && t.byteAt 0x4003 == 0x3F,
    runs (exec (.segmentForward 0 2 1 0 [] 0) (cl [{ co 0 with segs := [{ kind := .deliver, shard := 1, off := 0, bytes := d32 }] }])) fun t => segsOfT t == [] && (t.colls.map Coll.sent) == [[(1, 1, 0)]] && (t.colls.map Coll.sentN) == [8],
    runs (exec (.segmentForward 0 2 0 0 [] 0) (cl [{ co 3 with extents := [(0, 8)] }])) fun t => (t.colls.map Coll.sent) == [[(1, 0, 0)]],
    stays (.segmentForward 0 2 1 0 [] 0) (cl [{ co 0 with ph := .waiting }]),
    runs (exec (.segmentForward 0 2 1 0 [(0, 1), (7, 1)] 0) (cl [{ co 0 with segs := [{ kind := .partialSum, shard := 1, off := 0, bytes := d32 }] }])) (ended 0x11),
    runs (exec (.segmentForward 0 2 1 0 [] 0) (cl [{ co 0 with segs := [{ kind := .deliver, shard := 1, off := 0, bytes := d32, bad := [0] }] }])) (ended 0x11),
    runs (exec (.segmentForward 0 2 0 0 [(3, 5)] 2) (cl [{ co 0 with segs := [{ kind := .partialSum, shard := 0, off := 0, bytes := (f32Bytes (List.replicate 8 0x3F800000)) }] }])) fun t => segsOfT t == [(0, 0, 32)]] : List Bool).all id = true := by decide +kernel

/-- Packets admitted, discarded and poisoned (R277, R287, R302). -/
theorem test_collective_receives : ([runs (exec (.collectivePacketReceive 0 (px 3 7 32 2 0 d32) 0) (cl [c3])) fun t => segsOfT t == [(1, 0, 32)],
    runs (exec (.collectivePacketReceive 0 (px 3 6 32 2 0 d32) 0) (cl [c3])) fun t => counted t && t.colls == [c3],
    runs (exec (.collectivePacketReceive 0 { px 3 7 32 2 0 d32 with poisoned := true } 0) (cl [c3])) (ended 0x11),
    runs (exec (.collectivePacketReceive 0 (px 1 6 32 2 0 d32) 0) (cl [co 2])) fun t => (t.colls.map fun c => tget 0 c.landed 1) == [8] && t.byteAt 0x4020 == 1,
    runs (exec (.collectivePacketReceive 0 (px 4 6 64 2 0 d32) 0) (cl [perm 32])) fun t => segsOfT t == [(1, 64, 32)],
    runs (exec (.collectivePacketReceive 0 (px 4 6 64 2 0 d32) 0) (cl [perm 31])) (ended 0x2A),
    runs (exec (.collectivePacketReceive 0 (px 3 6 32 9 0 d32) 0) (cl [co 0])) fun t => counted t && t.colls == [co 0],
    stays (.collectivePacketReceive 0 (px 3 6 32 0 0 d32) 0) (cl [co 0]),
    runs (exec (.collectivePacketReceive 0 (px 1 6 32 2 0x8000 d32) 0) { cl [co 2] with mem := { waiting := [(0, px 2 6 0 0 0 [])] } }) fun t => t.mem.waiting.length == 2] : List Bool).all id = true := by decide +kernel

/-- PASS, STEP_PASS, RETRACT, LEAVE and seal queries (R292 to R304, R391). -/
theorem test_collective_notices : ([runs (exec (.pass 0 (nt 1 0 0 0) [] 0) (cl [co 0])) fun t => (t.colls.map Coll.passFrom) == [[1]],
    runs (exec (.pass 0 (nt 1 0 0 0) [] 0) (cl [])) counted,
    runs (exec (.leave 0 (nt 4 0 0 0)) (cl [co 0])) fun t => (t.colls.map fun c => (c.fenced, c.endWith)) == [([1], some (0x21, 768))],
    runs (exec (.sealNone 0 (nt 6 0 0 0)) (cl [{ co 2 with sealQ := some { shard := 0, since := 0 } }])) fun t => (t.colls.map Coll.sealQ) == [some { shard := 0, asked := 3, since := 512 }],
    runs (exec (.stepPass 0 (nt 2 2 0 0)) (cl [])) fun t => ((t.stall 0).stepRec 2).passFrom == [(6, 0)],
    runs (exec (.retract 0 (nt 3 2 0 0)) (cl [cstep 2])) fun t => (t.stall 0).attemptOf 2 == 1 && (t.colls.map Coll.endWith) == [some (0x23, 768)],
    runs (exec (.retract 0 (nt 3 2 7 0)) (cl [cstep 2])) fun t => (t.stall 0).attemptOf 2 == 8,
    runs (exec (.sealQuery 0 (nt 5 0 0 1) []) (cl [co 2])) fun t => (t.port 0).txq == (cl []).pktFlits 0 2 0 (noticePkt 5 6 0 0 2 0 6 0 0 0 1 0),
    runs (exec (.sealQuery 0 (nt 5 0 0 1) []) (cl [])) counted,
    runs (exec (.pass 0 (nt 1 0 0 0) [] 0) (clr [accC])) fun t => segsOfT t == [] && (t.colls.map Coll.passFrom) == [[1]],
    runs (exec (.pass 0 (nt 1 0 0 0) [(0, [(0, 1), (7, 1)])] 0) (clr [accC])) (ended 0x11),
    runs (exec (.pass 0 (nt 1 0 0 0) [] 2) (clr [accC])) (ended 0x11),
    runs (exec (.leave 0 (nt 4 0 0 0)) { cl [co 0] with mem := { waiting := [(0, px 2 6 0 0 0 [])] } }) fun t => t.colls == [co 0] && t.mem.waiting.length == 2,
    stays (.leave 0 (nt 4 0 0 0)) { cl [co 0] with mem := { waiting := [(0, px 2 6 0 0 0 []), (0, nt 4 0 0 0)] } },
    runs (exec (.leave 0 (nt 4 0 0 0)) (queued 4 (cl [co 0]))) fun t => (t.colls.map fun c => c.fenced) == [[1]] && t.mem.waiting == [],
    runs (exec (.sealQuery 0 (nt 5 0 0 1) []) { cl [] with kept := [kept1 []] }) fun t => t.kept == [kept1 []] && (t.port 0).txq != [],
    runs (exec (.sealQuery 0 (nt 5 0 0 1) []) { cl [] with kept := [kept1 [0]] }) fun t => (t.port 0).txq == (cl []).pktFlits 0 2 0 (noticePkt 5 6 0 0 2 0 6 0 0 0 1 0)] : List Bool).all id = true := by decide +kernel

/-- PASS and STEP_PASS sent once, and seal queries that time out (R292, R294, R299, R391). -/
theorem test_collective_passes : ([runs (exec (.passSend 0 2 [] 0) (cl [{ co 0 with sentN := 16 }])) fun t => (t.colls.map Coll.passSent) == [true] && (t.port 0).txq.length == 1,
    stays (.passSend 0 2 [] 0) (cl [co 0]),
    runs (exec (.passSend 0 2 [] 0) { cl [] with passDue := [{ co 0 with sentN := 16 }] }) fun t => t.passDue == [] && (t.port 0).txq.length == 1,
    runs (exec (.stepPassSend 0) (gated job2 [])) fun t => ((t.stall 0).stepRec 2).sent && ((t.stall 0).stepRec 2).passFrom == [(5, 0)] && (t.port 0).txq.length == 1,
    stays (.stepPassSend 0) (gated job2 [{ step := 2, sent := true }]),
    stays (.stepPassSend 0) (cl []),
    runs (exec (.stepPassResend 0) { gated job2 [{ step := 2, sent := true, committed := some 0 }] with str := { st := .locked, time := 65536 } }) fun t => ((t.stall 0).stepRec 2).resent == some 1,
    runs (exec (.sealQueryTimeout 0 2) (cl [{ co 2 with sealQ := some { shard := 0, since := 0 } }])) fun t => (t.colls.map Coll.sealQ) == [some { shard := 0, asked := 3, since := 512 }],
    stays (.sealQueryTimeout 0 2) (cl [{ co 2 with sealQ := some { shard := 0, since := 1 } }]),
    runs (exec (.passSend 0 2 [] 0) (clr [{ accC with passSent := false, passFrom := [1], sentN := 16 }])) fun t => segsOfT t == [] && (t.colls.map Coll.passSent) == [true]] : List Bool).all id = true := by decide +kernel

/-- Success, the commit of a PERMUTE, deadline, retraction and LEAVE (R290, R295, R298, R300, R301). -/
theorem test_collective_ends : ([runs (exec (.permuteCommit 0 2 []) (cl [{ perm 32 with landed := [(1, 32)], segs := [{ kind := .staged, shard := 1, off := 64, bytes := d32 }] }])) fun t => ended 0 t && t.byteAt 0x4040 == 1,
    stays (.permuteCommit 0 2 []) (cl [perm 32]),
    runs (exec (.collectiveComplete 0 2 [] 0) (cl [{ co 0 with landed := [(0, 8), (1, 8)], sentN := 16 }])) (ended 0),
    stays (.collectiveComplete 0 2 [] 0) (cl [{ co 0 with landed := [(0, 8), (1, 8)], sentN := 15 }]),
    runs (exec (.collectiveDeadline 0 2) (cl [{ co 0 with deadline := 512, lb := 0x40000 }])) (ended 0x21),
    stays (.collectiveDeadline 0 2) (cl [{ co 0 with deadline := 513 }]),
    runs (exec (.retractedCollectiveEnd 0 2) (cl [{ co 0 with endWith := some (0x23, 512) }])) (ended 0x23),
    runs (exec (.leaveEnd 0 2) (cl [{ co 0 with endWith := some (0x21, 512) }])) (ended 0x21),
    stays (.leaveEnd 0 2) (cl [{ co 0 with endWith := some (0x21, 513) }]),
    stays (.leaveEnd 0 2) (cl [{ co 0 with endWith := some (0x23, 512) }]),
    runs (exec (.permuteCommit 0 2 [(0, [(0, 1), (7, 1)])]) (cl [{ perm 32 with landed := [(1, 32)], segs := [{ kind := .staged, shard := 1, off := 64, bytes := d32 }] }])) (ended 0x11),
    runs (exec (.collectiveComplete 0 2 [] 0) (cl [gath 0])) (ended 0),
    runs (exec (.collectiveComplete 0 2 [] 0) { cl [gath (2 ^ 49)] with mem := { cells := [(0x4000, 1)] } }) fun t => ended 0 t && bytesAt t 0x2020 8 == toBytes 8 (crc64 (1 :: List.replicate 31 0)),
    runs (exec (.collectiveComplete 0 2 [] 0) { cl [gath (2 ^ 50)] with mem := { cells := [(0x4000, 1)] } }) (ended 0x22),
    runs (exec (.collectiveComplete 0 2 [] 0) (cl [gath (2 ^ 50)])) (ended 0),
    stays (.collectiveComplete 0 2 [] 0) (cl [{ gath 0 with deadline := 512 }])] : List Bool).all id = true := by decide +kernel

/-! ### Weight updates -/

/-- Words of an update descriptor: its operation, STEP, records, count with GATE_FRETS, and word 7. -/
def uws (op step : Nat) (srec hyp : Bool) (w6 w7 : Nat) : List W64 :=
  [6 * 2 ^ 60, BitVec.ofNat 64 (op * 2 ^ 60 + step), if op = 5 then 0 else 0x20000, if srec then 0x21000 else 0, if hyp then 0x22000 else 0, 0, BitVec.ofNat 64 w6, BitVec.ofNat 64 w7]
/-- One tensor of one element: the master 2.0, the gradient 2.0 or 0, a BF16 working copy or none. -/
def tens (fmt : Nat) : List Byte :=
  ([0x10000, 0x12000, 0x13000, 0x13100, 0x13200, 0x13300, 0x11000, if fmt = 0 then 0 else 0x14000, 0, 0, 0, 0, 0].flatMap (toBytes 8)) ++
    [1, 1, 256, 0x3F800000, 1, fmt * 2 ^ 28].flatMap (toBytes 4)
/-- LR 1.0, EPS 1.0, WD 0.5. -/
def hyp0 (b1 : Nat) : List Byte := [0x3F800000, b1, 0, 0x3F800000, 0x3F000000, 0].flatMap (toBytes 4)
def srec0 (gsq active st : Nat) : List Byte := toBytes 8 0 ++ toBytes 4 gsq ++ toBytes 4 0 ++ toBytes 4 active ++ toBytes 4 st
def umem (fmt grad b1 : Nat) (srec : List Byte) : Mem :=
  { cells := ([(0x10000, toBytes 4 0x40000000), (0x11000, toBytes 4 grad), (0x20000, tens fmt), (0x21000, srec), (0x22000, hyp0 b1)] : List (Nat × List Byte)).foldl
      (fun m e => tsetMany 0 m e.1 e.2) [] }
/-- Stall 0 with that memory, ring 3 with one update descriptor, and perhaps its job. -/
def us (ws : List W64) (x : Stall) (m : Mem) : Machine.State :=
  { tun := { boot := .ready }, str := { st := .locked, time := 512 }, mem := m, stalls := [(0, { x with st := .active })],
    rings := [(3, { st := .running, next := 5, ds := [{ num := 4, words := ws, ph := if x.upd.isSome then .running else .ready }] })] }
def job (op : UpdOp) (ph : UpdPhase) (ws : List W64) : Stall :=
  { upd := some { op := op, ring := 3, num := 4, words := ws, ph := ph, hyp := [0x3F800000, 0, 0, 0x3F800000, 0x3F000000, 0], f := 0x3F800000 }, hold := op == .apply }
def uEnd (status : Nat) (t : Machine.State) : Bool := (t.stall 0).upd == none && ((t.ring 3).ds.map fun d => (d.ph == .done, d.status)) == [(true, status)]
def uRun (op : UpdOp) (ph : UpdPhase) (t : Machine.State) : Bool := ((t.stall 0).upd.map fun j => (j.op, j.ph)) == some (op, ph) && (t.ring 3).ds.map (fun d => d.ph == .running) == [true]
def w32At (t : Machine.State) (a : Nat) : Nat := ofBytes (bytesAt t a 4)
def m0 : Mem := umem 0 0 0 (srec0 0 0 0)
def normW : List W64 := uws 2 0 true false 0 0
def applyW : List W64 := uws 3 1 true true 1 0
def emitW : List W64 := uws 4 0 false false 0 0
def eng : EngineNo := Fin.ofNat 64 ((us [] {} m0).homeSlice 0x10000)

/-- Each operation runs its own descriptor; one with a reserved field fails (R230 to R232). -/
theorem test_update_dispatch : ([(us applyW (job .apply .work applyW) m0).wf,
    stays (.open_ 3) (us (uws 1 0 false false 0 0) {} m0),
    runs (exec (.open_ 3) (us (uws 0 0 false false (2 ^ 24) 1) {} m0)) (uEnd 0x0E),
    runs (exec (.close 3) (us (uws 1 0 false false 0 1) {} m0)) (uEnd 0x0E),
    runs (exec (.norm 3) (us (uws 2 0 true false 0 1) {} m0)) (uEnd 0x0E),
    runs (exec (.apply 3) (us (uws 3 1 true true 1 1) {} m0)) (uEnd 0x0E),
    runs (exec (.emit 3) (us (uws 4 0 false false 0 1) {} m0)) (uEnd 0x0E),
    runs (exec (.abandon 3) (us (uws 5 1 true false 0 1) {} m0)) (uEnd 0x0E)] : List Bool).all id = true := by decide +kernel

/-- OPEN, CLOSE and its add-backs (R214 to R216). -/
theorem test_accumulation_regions : ([runs (exec (.open_ 3) (us (uws 0 0 false false (2 ^ 24) 0) {} {})) fun t => uEnd 0 t && (t.stall 0).regions == [{ base := 0x20000, len := 128 }],
    runs (exec (.open_ 3) (us (uws 0 0 false false (2 ^ 24) 0) { regions := [{ base := 0x1FF80, len := 256 }] } {})) (uEnd 0x0E),
    runs (exec (.close 3) (us (uws 1 0 false false 0 0) {} {})) (uEnd 0x0E),
    runs (exec (.close 3) (us (uws 1 0 false false 0 0) { regions := [{ base := 0x20000, len := 128 }] } {})) fun t => uRun .close .work t && (t.stall 0).regions.map Region.closing == [true],
    runs (exec (.closeAddBackDone 0) { us [6 * 2 ^ 60] { job .close .work (uws 1 0 false false 0 0) with regions := [{ base := 0x20000, len := 128 }] } {} with
      slices := { pins := [(0x400, { stall := 0, base := 0x20000, parts := [0, 0x3F800000] })], order := [0x400] } })
      fun t => uEnd 0 t && (t.stall 0).regions == [] && w32At t 0x20004 == 0x3F800000,
    runs (exec (.closeAddBackDone 0) (us [6 * 2 ^ 60] { job .close .work (uws 1 0 false false 0 0) with regions := [{ base := 0x20000, len := 128, lost := true }] } {})) (uEnd 0x11),
    stays (.closeAddBackDone 0) (us normW (job .norm .work normW) m0)] : List Bool).all id = true := by decide +kernel

/-- NORM and its sums (R236, R242). -/
theorem test_norm : ([runs (exec (.norm 3) (us normW {} m0)) (uRun .norm .work),
    runs (exec (.norm 3) (us normW { partial_ := true } m0)) (uEnd 0x0E),
    runs (exec (.norm 3) (us normW {} (umem 0 0 0 (srec0 0 0 2)))) (uEnd 0x0E),
    runs (exec (.normDone 0 []) (us normW (job .norm .work normW) (umem 0 0x40000000 0 (srec0 0 0 0)))) fun t => uEnd 0 t && w32At t 0x13200 == 0x40800000 && w32At t 0x13304 == 0x40800000 && w32At t 0x21000 == 0x40800000,
    stays (.normDone 0 []) (us applyW (job .apply .work applyW) m0),
    stays (.normDone 0 []) { us normW (job .norm .work normW) m0 with pwr := { coreClocks := false } },
    runs (exec (.normDone 0 [(0x880, [(0, 1), (7, 1)])]) (us normW (job .norm .work normW) (umem 0 0x40000000 0 (srec0 0 0 0)))) (uEnd 0x11),
    runs (exec (.normDone 0 [(0x880, [(3, 5)])]) (us normW (job .norm .work normW) (umem 0 0x40000000 0 (srec0 0 0 0)))) (uEnd 0)] : List Bool).all id = true := by decide +kernel

/-- APPLY's checks, hold, drain, gate, taint, a norm that is not finite, and the gate's timeout (R233, R237, R240, R241, R380). -/
theorem test_apply_gate : ([runs (exec (.apply 3) (us applyW {} m0)) fun t => uRun .apply .drain t && (t.stall 0).hold && ((t.stall 0).stepRec 1).open_,
    runs (exec (.apply 3) (us applyW {} (umem 0 0 0x3F800000 (srec0 0 0 0)))) (uEnd 0x0E),
    runs (exec (.apply 3) (us (uws 3 2 true true 1 0) {} m0)) (uEnd 0x0E),
    runs (exec (.applyHoldDrained 0) (us applyW (job .apply .drain applyW) m0)) (uRun .apply .gate),
    stays (.applyHoldDrained 0) (us applyW (job .apply .gate applyW) m0),
    runs (exec (.applyGateOpen 0) (us applyW (job .apply .gate applyW) m0)) fun t => uRun .apply .work t && ((t.stall 0).upd.map UpdJob.f) == some 0x3F800000 && w32At t 0x13004 == 0x3F800000 && t.byteAt 0x21014 == 1,
    runs (exec (.applyGateOpen 0) (us applyW { job .apply .gate applyW with tainted := true } m0)) fun t => uEnd 0x23 t && !(t.stall 0).hold && !(t.stall 0).tainted,
    runs (exec (.applyGateOpen 0) (us applyW (job .apply .gate applyW) (umem 0 0 0 (srec0 0x7F800000 0 0)))) fun t => uEnd 0x2C t && w32At t 0x2100C == 1,
    stays (.applyGateOpen 0) (us applyW (job .apply .drain applyW) m0),
    runs (exec (.gateTimeout 0) (us applyW (job .apply .gate applyW) m0)) fun t => uEnd 0x2B t && !(t.stall 0).hold,
    stays (.gateTimeout 0) (us applyW (job .apply .work applyW) m0),
    runs (exec (.gateTimeout 0) (us applyW { job .apply .gate applyW with partial_ := true } m0)) fun t => uEnd 0x2B t && (t.stall 0).hold && (t.stall 0).partial_,
    runs (exec (.apply 3) (us applyW { partial_ := true, hold := true } (umem 0 0 0 (srec0 0 1 2)))) (uRun .apply .drain),
    runs (exec (.apply 3) (us applyW { partial_ := true, hold := true } m0)) (uEnd 0x0E)] : List Bool).all id = true := by decide +kernel

/-- Lines of APPLY and EMIT, their ends, a line that stops, and ABANDON (R237, R238, R240, R242, R243). -/
theorem test_update_lines : ([runs (exec (.updateEngineLine 0 eng []) (us applyW (job .apply .work applyW)
      { m0 with cells := tsetMany 0 (tsetMany 0 m0.cells 0x13004 (toBytes 4 0x3F800000)) 0x13108 (toBytes 4 0x3F800000 ++ toBytes 4 0x3F800000) })) fun t => w32At t 0x10000 == 0x3F800000 && w32At t (0x21040 + 4 * eng.val) == 1,
    runs (exec (.updateEngineLine 0 eng []) (us applyW (job .apply .work applyW) { m0 with poison := [0x800] })) fun t => uEnd 0x11 t && (t.stall 0).partial_ && (t.stall 0).hold && t.byteAt 0x21014 == 2,
    stays (.updateEngineLine 0 (eng + 1) []) (us applyW (job .apply .work applyW) m0),
    runs (exec (.applyCommitDone 0) (us applyW (job .apply .work applyW) { m0 with cells := tsetMany 0 m0.cells (0x21040 + 4 * eng.val) [1] })) fun t => uEnd 0 t && !(t.stall 0).hold && ((t.stall 0).stepRec 1).committed == some 0 && w32At t 0x2100C == 1 && t.byteAt 0x21015 == 1,
    stays (.applyCommitDone 0) (us applyW (job .apply .work applyW) m0),
    runs (exec (.emit 3) (us emitW {} m0)) (uRun .emit .work),
    runs (exec (.emit 3) (us emitW { partial_ := true } m0)) (uEnd 0x0E),
    runs (exec (.updateEngineLine 0 eng []) (us emitW (job .emit .work emitW) (umem 1 0 0 []))) fun t => w32At t 0x14000 == 0x4000 && ((t.stall 0).upd.map fun j => tget 0 j.hwm eng) == some 1,
    runs (exec (.emitDone 0) (us emitW { job .emit .work emitW with upd := some { op := .emit, ring := 3, num := 4, words := emitW, ph := .work, hwm := [(eng.val, 1)] } } (umem 1 0 0 []))) (uEnd 0),
    stays (.emitDone 0) (us emitW (job .emit .work emitW) (umem 1 0 0 [])),
    runs (exec (.abandon 3) (us (uws 5 1 true false 0 0) { partial_ := true, hold := true } (umem 0 0 0 (srec0 0 1 2)))) fun t => uEnd 0 t && !(t.stall 0).partial_ && !(t.stall 0).hold && t.byteAt 0x21014 == 0,
    runs (exec (.abandon 3) (us (uws 5 2 true false 0 0) { partial_ := true } (umem 0 0 0 (srec0 0 1 2)))) (uEnd 0x0E),
    stays (.updateEngineLine 0 eng []) { us applyW (job .apply .work applyW) m0 with pwr := { coreClocks := false } },
    stays (.applyCommitDone 0) { us applyW (job .apply .work applyW) { m0 with cells := tsetMany 0 m0.cells (0x21040 + 4 * eng.val) [1] } with pwr := { coreClocks := false } }] : List Bool).all id = true := by decide +kernel

/-- PIPELINE_CHOOSE (R226, R227). -/
theorem test_pipelines : ([runs (exec (.pipelineChoose 0 2) { us [] {} {} with rings := [(3, { st := .running, cls := 1, pipe := 2, ds := [{ num := 0, words := [2 ^ 60], ph := .ready }] })] }) fun t => (tget {} (t.stall 0).pipes 2).chosen == some 3,
    stays (.pipelineChoose 0 2) (us [] { pipes := [(2, { chosen := some 3 })] } {})] : List Bool).all id = true := by decide +kernel

/-! ### The link layer -/

/-- A READY device 5 on String time, whose port 0 leads to device 6 and has link encryption or not. -/
def lk (enc : Bool) (time : Nat) (x : Port) : Machine.State :=
  { tun := { boot := .ready, live := { fabId := 5, route0 := [(6, 0)], fabCtl := [(0, if enc then 0xC000003C else 0x8000003C)] } },
    str := { st := .locked, time := time }, ports := [(0, x)], pins := { lasers := [(0, 1500), (1, 1500)] } }
def upP : Port := { st := .up }
def trP (step : Nat) : Port := { st := .training, link := { step := step } }
def keyP : Port := { st := .up, link := { nonceOwn := some 1, nonceIn := some 2, keyRx := { key := 4 }, keyTx := { key := 4 }, confSent := true, fmk := some 3 } }
def endsAs (st : PortState) (reason : Nat) (t : Machine.State) : Bool := (t.port 0).st == st && (t.port 0).reason == reason
def fret : Byte := BitVec.ofNat 8 (fld (lk false 0 upP).tun.live.strFretLen 1 0)
def flit (h : W32) : Flit := { hdr := h, body := List.replicate 248 0, crc := BitVec.ofNat 32 (flitCrc h (List.replicate 248 0)) }
def old (seq : Nat) (h : W32) : Sent := { seq := seq, hdr := h }
def item : TxItem := { kind := 0, vc := 0, body := List.replicate 248 7 }

/-- Each condition of Table 11.6 takes an up link down with its reason, and no other (R255, R257, R258, R270). -/
theorem test_link_failures : ([(lk true 65536 keyP).wf && (lk false 0 upP).wf && (lk false 0 (trP 1)).wf,
    runs (exec (.lateAckLimit 0) (lk false 0 { upP with lateAcks := 64 })) (endsAs .wait 8),
    stays (.lateAckLimit 0) (lk false 0 { upP with lateAcks := 63 }),
    runs (exec (.replayLimit 0) (lk false 0 { upP with replay := [{ old 3 0 with resends := 16 }] })) fun t => endsAs .wait 7 t && (t.port 0).replay == [],
    runs (exec (.fecLimit 0 2 1999999) (lk false 0 upP)) (endsAs .wait 3),
    stays (.fecLimit 0 2 2000000) (lk false 0 upP),
    runs (exec (.tagFailureLimit 0) (lk false 0 { upP with tagFails := 4 })) (endsAs .wait 6),
    runs (exec (.silentTimeout 0) (lk false 65536 upP)) (endsAs .wait 9),
    stays (.silentTimeout 0) (lk false 0 upP),
    stays (.silentTimeout 0) (lk false 65536 { st := .wait }),
    runs (exec (.down 0 9) (lk false 0 upP)) fun t => endsAs .wait 9 t && (t.port 0).fails == 0,
    runs (exec (.down 0 12) (lk false 0 { trP 1 with fails := 7 })) fun t => endsAs .held 0 t && (t.port 0).fails == 8,
    stays (.down 0 9) (lk false 0 {})] : List Bool).all id = true := by decide +kernel

/-- An attempt's start, TRAIN's checks in turn, late steps and UP (R258, R271, R273). -/
theorem test_link_training : ([runs (exec (.retrainBackoffExpiry 0) (lk false 0 { st := .wait })) fun t => (t.port 0).st == .training && (t.port 0).link.step == 2,
    stays (.retrainBackoffExpiry 0) (lk false 0 { st := .wait, link := { waitUntil := 1 } }),
    runs (exec (.retrain 0 0) (lk false 0 { st := .held, fails := 8 })) fun t => (t.port 0).st == .training && (t.port 0).fails == 0,
    runs (exec (.retrain 0 0) { lk false 0 { st := .held } with pins := { lasers := [(0, 1399), (1, 1500)] } }) (endsAs .wait 1),
    stays (.retrain 1 0) (lk false 0 { st := .held }),
    runs (exec (.train 0 6 1 (fret + 1) false 64 2048 256 256 0) (lk false 0 (trP 1))) (endsAs .wait 5),
    runs (exec (.train 0 6 1 fret false 64 2048 255 256 0) (lk false 0 (trP 1))) (endsAs .wait 4),
    runs (exec (.train 0 6 1 fret true 64 2048 256 256 0) (lk false 0 (trP 1))) (endsAs .wait 6),
    runs (exec (.train 0 6 1 fret false 64 2048 256 257 0) (lk false 0 (trP 6))) fun t => (t.port 0).link.step == 7 && (t.port 0).link.partnerId == 6 && (t.port 0).credit 1 == 2048 && (t.port 0).credit 3 == 257,
    runs (exec (.trainingStepTimeout 0 8 none) (lk true 6553600 (trP 8))) (endsAs .held 6),
    runs (exec (.trainingStepTimeout 0 8 none) (lk true 6553600 { trP 8 with link := { step := 8, fmk := some 3 } })) (endsAs .wait 6),
    stays (.trainingStepTimeout 0 8 none) (lk true 512 (trP 8)),
    runs (exec (.trainingStepTimeout 0 4 (some 9)) (lk false 6553600 (trP 2))) (endsAs .wait 2),
    runs (exec (.trainingStepTimeout 0 8 none) (lk true 6553600 { upP with link := { started := some 0 } })) (endsAs .held 6),
    runs (exec (.linkUp 0) (lk false 0 { trP 9 with fails := 3, txSeq := 7 })) fun t => (t.port 0).st == .up && (t.port 0).fails == 0 && (t.port 0).txSeq == 0,
    stays (.linkUp 0) (lk false 0 (trP 8)),
    stays (.retrainBackoffExpiry 0) { lk false 0 { st := .wait } with nv := { health := { engines := [0] } } },
    runs (exec (.train 0 6 1 fret false 64 2048 256 257 0) (lk false 0 (trP 2))) fun t => (t.port 0).link.step == 2 && (t.port 0).link.trainIn] : List Bool).all id = true := by decide +kernel

/-- Nonces, confirmations and the old key's fret (R270, R433). -/
theorem test_link_keys : ([runs (exec (.rekey 0) (lk true 0 upP)) fun t => (t.port 0).link.nonceOwn.isSome && (t.port 0).txq.length == 1,
    stays (.rekey 0) (lk false 0 upP),
    runs (exec (.keyNonce 0 2) (lk true 0 upP)) (endsAs .held 6),
    runs (exec (.keyNonce 0 2) { lk true 512 { upP with link := { keyRx := { key := 4 } } } with sec := { fmk := some 3 } }) fun t => ((t.port 0).link.oldRx.map fun k => (k.1.key, k.2)) == some (4, 0, 768) && (t.port 0).link.confSent,
    runs (exec (.keyConfirmation 0 true) (lk true 0 keyP)) fun t => (t.port 0).link.nonceOwn == none && (t.port 0).link.started == none,
    runs (exec (.keyConfirmation 0 true) (lk true 0 { keyP with st := .training, link := { keyP.link with step := 8 } })) fun t => (t.port 0).link.step == 9,
    runs (exec (.keyConfirmation 0 false) (lk true 0 keyP)) (endsAs .wait 6),
    stays (.keyConfirmation 0 true) (lk true 0 upP),
    runs (exec (.oldKeyAcceptExpiry 0) (lk true 256 { upP with link := { oldRx := some ({ key := 4 }, 0, 256) } })) fun t => (t.port 0).link.oldRx == none,
    stays (.oldKeyAcceptExpiry 0) (lk true 255 { upP with link := { oldRx := some ({ key := 4 }, 0, 256) } })] : List Bool).all id = true := by decide +kernel

/-- 16 exchanges and their median; a DELAY_REQ is answered (R269). -/
theorem test_link_delay : ([runs (exec (.delayReq 0 3 1 2 4) (lk false 0 upP)) fun t => ((t.port 0).txq.map fun q => (q.kind, q.vc, q.body.take 8)) == [(1, 0, [4, 2, 3, 0, 1, 0, 0, 0])],
    runs (exec (.delayReq 0 3 1 2 4) (lk false 0 (trP 7))) fun t => t.out.length == 1 && (t.port 0).txq == [],
    stays (.delayReq 0 3 1 2 4) (lk false 0 {}),
    runs (exec (.delayMeasureStart 0 []) (lk false 0 (trP 7))) fun t => (t.port 0).link.measured == some 0 && t.out.length == 16,
    runs (exec (.delayMeasureStart 0 []) (lk false 0 upP)) fun t => (t.port 0).txq.length == 16,
    stays (.delayMeasureStart 0 []) (lk false 65536 { upP with link := { measured := some 1 } }),
    runs (exec (.delayRsp 0 15 100 110 115 165) (lk false 0 { trP 7 with link := { step := 7, measured := some 0, samples := (List.range 15).map fun i => (i, (60 + i : Int)) } })) fun t => (t.port 0).delay == 33 && (t.port 0).link.step == 9,
    runs (exec (.delayRsp 0 3 100 110 115 165) (lk false 0 { upP with link := { measured := some 0 } })) fun t => (t.port 0).link.samples == [(3, 60)] && (t.port 0).delay == 0] : List Bool).all id = true := by decide +kernel

/-- Accepted flits, gaps, bad CRCs, idle flits, NAK, CREDIT and LATE_ACK (R250 to R256). -/
theorem test_flit_receipt : ([runs (exec (.flitReceive 0 (flit (mkHdr 0 2 9 4 1 3))) (lk false 8 { upP with rxSeq := 9, replay := [old 3 0, old 4 0, old 5 0] })) fun t => (t.port 0).rxSeq == 10 && (t.port 0).replay.map Sent.seq == [5] && (t.port 0).credit 1 == 3 && tget 0 (t.port 0).owed 2 == 1 && (t.port 0).rxAt == 8,
    runs (exec (.flitReceive 0 (flit (mkHdr 0 2 10 4 1 3))) (lk false 8 { upP with rxSeq := 9, replay := [old 4 0] })) fun t => (t.port 0).rxSeq == 9 && (t.port 0).nakOut && ((t.port 0).txq.map fun q => q.body.take 3) == [[1, 9, 0]] && (t.port 0).replay.length == 1,
    runs (exec (.flitReceive 0 { flit (mkHdr 0 2 9 4 1 3) with crc := 0 }) (lk false 8 { upP with rxSeq := 9 })) fun t => (t.port 0).rxSeq == 9 && (t.port 0).nakOut,
    runs (exec (.flitReceive 0 { flit (mkHdr 0 2 9 4 1 3) with tagOk := false }) (lk true 8 { upP with rxSeq := 9 })) fun t => (t.port 0).rxSeq == 9 && (t.port 0).tagFails == 1,
    runs (exec (.flitReceive 0 (flit (mkHdr 2 0 0 4 1 3))) (lk false 8 { upP with rxSeq := 9, replay := [old 4 0] })) fun t => (t.port 0).rxSeq == 9 && (t.port 0).replay == [] && (t.port 0).rxAt == 8,
    runs (exec (.flitReceive 0 { flit (mkHdr 2 0 0 4 1 3) with errs := [3, 16] }) (lk false 8 { upP with replay := [old 4 0] })) fun t => (t.port 0).replay.length == 1 && (t.port 0).rxAt == 0 && (t.port 0).txq == [],
    runs (exec (.nakResendTimeout 0) (lk false 2560 { upP with rxSeq := 9, nakOut := true })) fun t => (t.port 0).nakAt == 2560 && (t.port 0).txq.length == 1,
    stays (.nakResendTimeout 0) (lk false 0 { upP with nakOut := true }),
    runs (exec (.nak 0 4) (lk false 0 { upP with replay := [old 3 0, old 4 0, old 5 0] })) fun t => (t.port 0).resend.map Sent.seq == [4, 5] && (t.port 0).replay.length == 3,
    runs (exec (.credit 0 1 2 3 4) (lk false 0 { upP with credits := [(1, 5)] })) fun t => (t.port 0).credit 0 == 1 && (t.port 0).credit 1 == 7 && (t.port 0).credit 2 == 3 && (t.port 0).credit 3 == 4,
    runs (exec (.lateAck 0) (lk false 2560 { upP with replay := [old 3 0, old 4 (mkHdr 1 0 4 0 0 0)] })) fun t => (t.port 0).lateAcks == 1 && (t.port 0).replay.map Sent.late == [false, true],
    stays (.lateAck 0) (lk false 0 { upP with replay := [old 4 (mkHdr 1 0 4 0 0 0)] }),
    runs (exec (.flitReceive 0 (flit 0)) (lk false 0 { st := .training, link := { step := 5, good := 62 } })) fun t => (t.port 0).link.good == 63 && t.out == [],
    runs (exec (.flitReceive 0 (flit 0)) (lk false 0 { st := .training, link := { step := 5, good := 63 } })) fun t => (t.port 0).link.step == 6 && t.out.length == 1,
    runs (exec (.flitReceive 0 { flit 0 with crc := 1 }) (lk false 0 { st := .training, link := { step := 5, good := 63 } })) fun t => (t.port 0).link.good == 0 && (t.port 0).link.step == 5] : List Bool).all id = true := by decide +kernel

/-- A resend first, then what plan and credits allow, else an idle flit (R254, R256, R260, R261). -/
theorem test_flit_slots : ([runs (exec (.flitSlotTransmit 0) (lk false 0 { upP with txSeq := 9, resend := [old 4 5, old 5 6], txq := [item], credits := [(0, 2)] })) fun t => (t.port 0).resend.length == 1 && (t.port 0).txSeq == 9 && (t.port 0).txq.length == 1 && t.out.length == 1,
    runs (exec (.flitSlotTransmit 0) (lk false 0 { upP with txSeq := 4095, txq := [item], credits := [(0, 2)] })) fun t => (t.port 0).txSeq == 0 && (t.port 0).txq == [] && (t.port 0).replay.map Sent.seq == [4095] && (t.port 0).credit 0 == 1 && (t.out.map fun | .flit _ h b _ => (fKind h, b) | _ => (9, [])) == [(0, item.body)],
    runs (exec (.flitSlotTransmit 0) (lk false 0 { upP with txSeq := 9, txq := [item] })) fun t => (t.port 0).txSeq == 9 && (t.port 0).txq == [item] && (t.out.map fun | .flit _ h _ _ => fKind h | _ => 9) == [2],
    stays (.flitSlotTransmit 0) (lk false 0 {})] : List Bool).all id = true := by decide +kernel

/-- Entries and flows to the inactive plan, switches and leases (R252, R262, R355, R390). -/
theorem test_fret_plans : ([runs (exec (.planEntries 0 7 254 2 [0x4001, 0x4002]) (lk false 0 upP)) fun t => (t.port 0).inactive.entries == [(254, 0x4001), (255, 0x4002)] && (t.port 0).active == {} && ((t.port 0).txq.map fun q => q.body.take 8) == [[7, 1, 6, 0, 7, 0, 0, 0]],
    runs (exec (.planEntries 0 7 255 2 [0x4001, 0x4002]) (lk false 0 upP)) fun t => (t.port 0).plans == [{}, {}] && ((t.port 0).txq.map fun q => q.body.take 8) == [[7, 2, 6, 0, 7, 0, 255, 3]],
    runs (exec (.flowEntries 0 7 3 1 [{ dst := 6, coll := 2 }]) (lk false 0 upP)) fun t => (t.port 0).inactive.flows == [(3, some { dst := 6, coll := 2 })],
    runs (exec (.flowEntries 0 7 3 30 []) (lk false 0 upP)) fun t => (t.port 0).plans == [{}, {}] && (t.port 0).txq.length == 1,
    runs (exec (.switch 0 9 512) (lk false 0 upP)) fun t => (t.port 0).sw == some { tag := 9, at_ := 512, acked := true, own := false },
    runs (exec (.switch 0 9 511) (lk false 0 upP)) fun t => (t.port 0).sw == none && ((t.port 0).txq.map fun q => q.body.drop 7 |>.take 1) == [[3]],
    runs (exec (.switch 0 9 256) (lk false 0 upP)) fun t => (t.port 0).sw == none && ((t.port 0).txq.map fun q => q.body.drop 7 |>.take 1) == [[4]],
    runs (exec (.planSend 0 9 [(5, 0x4003)] [(3, { dst := 6 })] 1024) (lk false 0 upP)) fun t => (t.port 0).sw == some { tag := 9, at_ := 1024, sent := false } && (t.port 0).planTags == [(10, false), (11, true)] && (t.port 0).txq.length == 2,
    runs (exec (.planSend 0 9 [(5, 0x4003)] [(3, { dst := 6, stall := 2 })] 1024) (lk false 0 upP)) fun t => t.ports == (lk false 0 upP).ports,
    runs (exec (.planSend 0 9 [] [] 256) (lk false 0 upP)) fun t => (t.port 0).sw == none && (t.port 0).plans == [{}, {}] && (t.port 0).txq == [],
    runs (exec (.planAck 0 0x06 10) (lk false 0 { upP with sw := some { tag := 9, at_ := 1024, sent := false }, planTags := [(10, false), (11, true)] })) fun t => (t.port 0).planTags == [(11, true)],
    runs (exec (.planAck 0 0x06 10) (lk false 0 { upP with sw := some { tag := 9, at_ := 1024, sent := false }, planTags := [(10, false)] })) fun t => (t.port 0).sw == some { tag := 9, at_ := 1024 } && (t.port 0).txq.length == 1,
    runs (exec (.planAck 0 0x06 10) (lk false 513 { upP with sw := some { tag := 9, at_ := 1024, sent := false }, planTags := [(10, false)] })) fun t => (t.port 0).sw == none,
    runs (exec (.planAck 0 0x08 9) (lk false 0 { upP with sw := some { tag := 9, at_ := 1024 } })) fun t => ((t.port 0).sw.map SwitchReq.acked) == some true,
    runs (exec (.planNak 0 0x06 10 0 3) (lk false 0 { upP with sw := some { tag := 9, at_ := 1024, sent := false }, planTags := [(10, false)] })) fun t => (t.port 0).sw == none && (t.port 0).planTags == [],
    runs (exec (.switchWithdraw 0) (lk false 768 { upP with sw := some { tag := 9, at_ := 1024 } })) fun t => (t.port 0).sw == none,
    stays (.switchWithdraw 0) (lk false 767 { upP with sw := some { tag := 9, at_ := 1024 } }),
    runs (exec (.planSwitch 0) (lk false 1024 { upP with sw := some { tag := 9, at_ := 1024, acked := true }, plans := [{}, { entries := [(5, 0x4003)], flows := [(3, some { dst := 6 })] }] })) fun t => (t.port 0).activePlan == 1 && (t.port 0).sw == none && (t.port 0).leases.map FlowLease.flow == [3],
    runs (exec (.planSwitch 0) (lk false 1024 { upP with sw := some { tag := 9, at_ := 1024 } })) fun t => (t.port 0).activePlan == 0 && (t.port 0).sw == none,
    stays (.planSwitch 0) (lk false 1023 { upP with sw := some { tag := 9, at_ := 1024, acked := true } }),
    runs (exec (.planEntryLeaseExpiry 0 3) (lk false 256 { upP with leases := [{ flow := 3, due := 8 }], plans := [{ entries := [(5, 0x4003), (6, 0x4004)], flows := [(3, some { dst := 6 })] }, {}] })) fun t => (t.port 0).active == { entries := [(6, 0x4004)] } && (t.port 0).leases == [],
    stays (.planEntryLeaseExpiry 0 3) (lk false 7 { upP with leases := [{ flow := 3, due := 8 }] }),
    runs (exec (.switch 0 9 512) (lk false 0 { upP with sw := some { tag := 3, at_ := 1024, sent := false }, planTags := [(10, false)] })) fun t => (t.port 0).sw == some { tag := 9, at_ := 512, acked := true, own := false } && (t.port 0).planTags == []] : List Bool).all id = true := by decide +kernel

/-! ### Packets of the String fabric -/

/-- Device 5 with an ACTIVE stall 0, whose window 0 gives 0x10000 to 0x10FFF to every device for every operation until String time 1024. -/
def win : List Byte := toBytes 8 0x10000 ++ toBytes 8 0x1000 ++ toBytes 8 (15 * 2 ^ 48) ++ toBytes 8 1024
def pk (x : Stall) : Machine.State :=
  { cl [] with stalls := [(0, { x with st := .active, winTable := 0x8000 })], mem := { cells := tsetMany 0 [] 0x8000 win } }
def one : List Byte := (f32Bytes (List.replicate 8 0x3F800000))
/-- The status that the answer to a packet carries, if it is one of those flits. -/
def answered (t : Machine.State) (typ status : Nat) (data : List Byte) : Bool := (t.port 0).txq == t.pktFlits 0 3 0 (rspPkt 5 (px 1 6 0 0 0 []) typ status data)
def best1 (got : List Byte) : Machine.State :=
  { pk {} with
    best := [{ tag := 0, port := 0, block := 2, got := got }], stalls := [(0, { st := .active, golden := [{ base := 0x2000, blocks := [2], kind := 1 }] })],
    mem := { owner := [(2, 0x2000)] } }
def st9 (n : Nat) (x : Pkt) : Pkt := { x with w2 := BitVec.ofNat 64 (n * 2 ^ 12) }

/-- Reserved types, another device's packets, and packets of collectives (R264, R269). -/
theorem test_packet_checks : ([(pk {}).wf && (best1 []).wf,
    runs (exec (.put 0 (px 7 6 0 0 0 d32)) (pk {})) fun t => counted t && t.mem == (pk {}).mem,
    runs (exec (.put 0 { px 1 6 0 0 0 d32 with w0 := BitVec.ofNat 64 (2 ^ 60 + 2 ^ 52 + 9 * 2 ^ 20 + 6) }) (pk {})) fun t => counted t && t.mem == (pk {}).mem,
    stays (.put 0 (px 2 6 0 0 0 d32)) (pk {}),
    stays (.getReq 1 (px 2 6 0 0 0 []) []) (pk {}),
    runs (exec (.put 0 (px 1 6 32 2 0 d32)) (cl [co 2])) fun t => (t.colls.map fun c => tget 0 c.landed 1) == [8],
    runs (exec (.reducePut 0 (px 3 7 32 2 0 d32) 0) (cl [c3])) fun t => segsOfT t == [(1, 0, 32)],
    runs (exec (.permutePacket 0 (px 4 6 64 2 0 d32)) (cl [perm 32])) fun t => segsOfT t == [(1, 64, 32)],
    runs (exec (.permutePacket 0 (px 4 6 64 2 0 d32)) (cl [])) counted] : List Bool).all id = true := by decide +kernel

/-- Puts, reductions and gets through a window (R240, R264 to R267). -/
theorem test_best_effort : ([runs (exec (.put 0 (px 1 6 0x20 0 1 d32)) (pk {})) fun t => answered t 9 0 [] && t.byteAt 0x10020 == 1 && t.byteAt 0x1003F == 1,
    runs (exec (.put 0 (px 1 6 0x1000 0 1 d32)) (pk {})) fun t => answered t 9 0xA [] && t.mem == (pk {}).mem && counted t,
    runs (exec (.put 0 (px 1 6 0x20 0 1 d32)) { pk {} with str := { st := .locked, time := 1024 } }) fun t => answered t 9 0xA [],
    runs (exec (.put 0 { px 1 6 0x20 0 1 d32 with poisoned := true }) (pk {})) fun t => answered t 9 1 [] && t.mem == (pk {}).mem,
    runs (exec (.put 0 (px 1 6 0x20 0 1 d32)) { pk {} with stalls := [] }) fun t => answered t 9 4 [],
    runs (exec (.put 0 (px 1 6 0x20 0 1 d32)) (pk { regions := [{ base := 0x10000, len := 128 }] })) fun t => answered t 9 3 [] && t.mem == (pk {}).mem,
    runs (exec (.put 0 (px 1 6 0x20 0 1 d32)) { pk {} with mem := { (pk {}).mem with refills := [{ block := 0x10, running := true }] } }) fun t => t.mem.waiting.length == 1 && t.mem.cells == (pk {}).mem.cells && t.ports == (pk {}).ports,
    runs (exec (.reducePut 0 (px 3 6 0x20 0 1 one) 0) { pk {} with mem := { cells := tsetMany 0 (pk {}).mem.cells 0x10020 one } }) fun t => answered t 9 0 [] && t.byteAt 0x10023 == 0x40 && t.byteAt 0x10022 == 0,
    runs (exec (.reducePut 0 { px 3 6 0x20 0 1 one with w1 := BitVec.ofNat 64 (3 * 2 ^ 48 + 0x20) } 0) (pk {})) fun t => counted t && t.mem == (pk {}).mem,
    runs (exec (.getReq 0 (px 2 6 0x20 0 0 []) []) { pk {} with mem := { cells := tsetMany 0 (pk {}).mem.cells 0x10020 one } }) fun t => answered t 8 0 one,
    runs (exec (.getReq 0 (px 2 6 0x20 0 0 []) []) { pk {} with mem := { (pk {}).mem with poison := [0x801] } }) fun t => answered t 8 1 [],
    runs (exec (.getReq 0 (px 2 6 0x20 0 128 []) []) (pk {})) fun t => answered t 8 0xA [],
    runs (exec (.getReq 0 (px 2 6 0x20 0 0 []) []) (pk { hold := true })) fun t => (t.stall 0).heldGets == [(0, px 2 6 0x20 0 0 [], 1536)] && (t.port 0).txq == [],
    runs (exec (.put 0 (px 1 6 0x20 0 1 d32)) { pk {} with mem := { (pk {}).mem with waiting := [(0, px 1 6 0x40 0 1 d32)] } }) fun t => t.mem.waiting.length == 2 && t.mem.cells == (pk {}).mem.cells,
    runs (exec (.reducePut 0 (px 3 6 0x20 0 1 one) 2) (pk {})) fun t => answered t 9 1 [] && t.mem.poison == [0x801] && (t.stall 0).tainted,
    runs (exec (.getReq 0 (px 2 6 0x20 0 0 []) [(0x801, [(0, 1), (7, 1)])]) (pk {})) fun t => answered t 8 1 [],
    runs (exec (.getReq 0 (px 2 6 0x20 0 0 []) []) { pk {} with mem := { (pk {}).mem with waiting := [(0, px 1 6 0x40 0 1 d32)] } }) fun t => t.mem.waiting.length == 2 && t.ports == (pk {}).ports] : List Bool).all id = true := by decide +kernel

/-- Data of a get, a failed get, window and held-get leases (R208, R266, R356, R390). -/
theorem test_responses_and_leases : ([stays (.putDone 0 (px 9 6 0 0 0 [])) (pk {}),
    runs (exec (.putDone 0 (st9 5 (px 9 6 0 0 0 []))) (pk {})) counted,
    stays (.getRsp 0 (px 8 6 0 0 0 d32)) (pk {}),
    runs (exec (.getRsp 0 (px 8 6 0 0 0 d32)) (best1 [])) fun t => (t.best.map fun b => b.got) == [d32] && t.goldenBit 2,
    runs (exec (.getRsp 0 (st9 1 (px 8 6 0 0 0 []))) (best1 [])) fun t => t.best == [] && !t.goldenBit 2,
    stays (.windowLeaseExpiry 0 0) (pk {}),
    runs (exec (.windowLeaseExpiry 0 0) { pk {} with str := { st := .locked, time := 1024 } }) fun t => t.led.seq == 1 && t.mem == (pk {}).mem,
    stays (.heldGetLeaseExpiry 0) (pk { heldGets := [(0, px 2 6 0 0 0 [], 513)] }),
    runs (exec (.heldGetLeaseExpiry 0) (pk { heldGets := [(0, px 2 6 0 0 0 [], 512)] })) fun t => (t.stall 0).heldGets == [] && answered t 8 0xB []] : List Bool).all id = true := by decide +kernel

/-- A golden block that is whole: the premises of its write (R266, Table 15.8). -/
theorem test_block_whole : ((best1 []).best.find? fun b => b.tag == 0) = some { tag := 0, port := 0, block := 2 } ∧
    (List.replicate 4064 (0 : Byte) ++ List.replicate 32 0).length = 4096 ∧ ((best1 []).goldenOf 2).isSome = true ∧
    (best1 []).digestOk 0 { base := 0x2000, blocks := [2], kind := 1 } 0 (List.replicate 4064 0 ++ List.replicate 32 0) = true :=
  ⟨rfl, by simp only [List.length_append, List.length_replicate], by decide +kernel, rfl⟩

/-! ### Rings, the host interface, functions and ports -/

/-- A READY device with an ACTIVE stall 0 and ring 3 of the operator function, whose quota is rings 0 to 7. -/
def rg3 (x : Ring) (m : Mem) : Machine.State :=
  { tun := { boot := .ready }, str := { st := .locked, time := 512 }, mem := m, stalls := [(0, { st := .active })],
    rings := [(3, { x with local_ := 3 })], fns := [(0, { quotaCount := 8 })], pins := { pwrok := true }, hosts := { l0 := 1 } }
def run1 (ds : List RDesc) : Ring := { st := .running, next := 6, ds := ds }
def dsc (ph : DPhase) (ws : List W64) : RDesc := { num := 4, words := ws, ph := ph }
/-- Ring 3 with descriptor 4. -/
def r1 (ph : DPhase) (ws : List Nat) : Machine.State := rg3 (run1 [dsc ph (ws.map (BitVec.ofNat 64))]) {}
def r1m (ph : DPhase) (ws : List Nat) (bs : List Byte) : Machine.State := { r1 ph ws with mem := { cells := tsetMany 0 [] 0x9000 bs } }
def dEnd (status : Nat) (t : Machine.State) : Bool := ((t.ring 3).ds.map fun d => (d.ph == .done, d.status)) == [(true, status)]
def dPh (t : Machine.State) : List DPhase := (t.ring 3).ds.map RDesc.ph
def type2 (mode len : Nat) : List Nat := [2 * 2 ^ 60, mode * 2 ^ 62 + len]
def ev (op timeout addr value : Nat) : List Nat := [7 * 2 ^ 60, op * 2 ^ 60 + timeout, addr, value]
def kern (mask : Nat) : List Nat := [2 ^ 60 + 4, 0, 0, 2 ^ 48, 0, mask, 0, 0]
def rcmd (op : Nat) : W32 := BitVec.ofNat 32 (op * 2 ^ 24 + 3)
def rcRes (t : Machine.State) : Bool × Nat := ((t.fn 0).ringCmd.busy, (t.fn 0).ringCmd.result)
/-- Ring 3 interrupts on vector 9, masked or not. -/
def irq9 (x : Ring) (ctl : W32) : Machine.State :=
  (rg3 { x with irqEn := true, vector := 9 } {}).modFn 0 fun f => { f with msix := [(9, { addr := 0x1000, data := 7, ctl := ctl })] }
/-- Two rings of one stall with a fill ready on each, and their PRIO. -/
def two (p q : Nat) : Machine.State :=
  let x := run1 [dsc .ready ((type2 2 8 ++ [0x1122334455667788, 0xA000]).map (BitVec.ofNat 64))]
  { rg3 {} {} with rings := [(3, { x with prio := p }), (4, { x with prio := q })] }
def noRing : Machine.State := { rg3 {} {} with rings := [] }
def vf1 : Machine.State := { rg3 { st := .running, func := 1 } {} with hosts := { l0 := 1, vfs := [(0, 2)] } }

/-- Kicks, scans and doorbell words (R312 to R319). -/
theorem test_kicks_and_doorbells : ([(rg3 (run1 []) {}).wf && (r1 .ready (kern 1)).wf && vf1.wf && (r1m .ready [] [1, 2]).wf,
    runs (exec (.kick 0 (.write 4) 3 none) (rg3 (run1 []) {})) fun t => t.hosts.kicks == [3],
    runs (exec (.kick 0 (.write 8) 3 none) (rg3 (run1 []) {})) fun t => t.hosts.kicks == [] && tget 0 (t.stall 0).tally 0x88 == 1,
    runs (exec (.kick 0 (.write 4) 0x10003 none) (rg3 (run1 []) {})) fun t => t.hosts.kicks == [] && tget 0 (t.stall 0).tally 0x88 == 1,
    stays (.kick 0 (.write 4) 8 none) (rg3 (run1 []) {}),
    runs (exec (.kick 0 (.read 4) 8 none) (rg3 (run1 []) {})) fun t => t.out == [.barRead 0 [0, 0, 0, 0]],
    runs (exec (.kick 0 .atomicOp 8 none) (rg3 (run1 []) {})) fun t => t.out == [.unsupported 0],
    runs (exec (.kick 0 (.write 4) 3 none) { rg3 (run1 []) {} with hosts := { l0 := 1, waitKicks := [(5, 4, 1)] } }) fun t => t.hosts.kicks == [] && t.hosts.waitKicks == [(5, 4, 1), (0, 4, 3)],
    runs (exec (.doorbellScan 0 0 (.bytes (([8, 0, 0, 0] : List Nat).flatMap (toBytes 8)))) (rg3 (run1 []) {})) fun t => (t.ring 3).summary && t.out == [.hostRead 0 0 0 32, .hostSwap 0 0 0],
    runs (exec (.doorbellScan 0 0 (.fail .untranslatable)) (rg3 (run1 []) {})) fun t => t.rings == (rg3 (run1 []) {}).rings,
    stays (.doorbellScan 0 1 (.bytes (([8, 0, 0, 0] : List Nat).flatMap (toBytes 8)))) (rg3 (run1 []) {}),
    runs (exec (.doorbellRead 3 (.bytes (([8] : List Nat).flatMap (toBytes 8)))) { rg3 (run1 []) {} with hosts := { kicks := [3] } }) fun t => (t.ring 3).next == 8 && (t.ring 3).ds.map RDesc.num == [6, 7] && t.hosts.kicks == [],
    runs (exec (.doorbellRead 3 (.bytes (([0x1000000000008] : List Nat).flatMap (toBytes 8)))) (rg3 { run1 [] with summary := true } {})) fun t => (t.ring 3).next == 6 && (t.ring 3).ds == [] && tget 0 (t.stall 0).tally 0x80 == 1,
    runs (exec (.doorbellRead 3 (.bytes (([71] : List Nat).flatMap (toBytes 8)))) (rg3 { run1 [] with summary := true } {})) fun t => (t.ring 3).next == 6,
    runs (exec (.doorbellRead 3 (.bytes (([70] : List Nat).flatMap (toBytes 8)))) (rg3 { run1 [] with summary := true } {})) fun t => (t.ring 3).next == 70,
    runs (exec (.doorbellRead 3 (.fail .ideFailure)) (rg3 { run1 [] with summary := true } {})) fun t => (t.ring 3).st == .cancelling,
    stays (.doorbellRead 3 (.bytes (([8] : List Nat).flatMap (toBytes 8)))) (rg3 (run1 []) {}),
    stays (.kick 0 (.read 4) 8 none) { rg3 (run1 []) {} with hosts := { l0 := 1, waitKicks := [(5, 4, 1)] } },
    stays (.kick 0 .atomicOp 8 none) { rg3 (run1 []) {} with hosts := { l0 := 1, waitKicks := [(5, 4, 1)] } }] : List Bool).all id = true := by decide +kernel

/-- Reads, SEQ and its second read, reserved types (R316, R320). -/
theorem test_descriptor_reads : ([runs (exec (.descriptorRead 3 (.bytes ((kern 1).flatMap (toBytes 8)))) (r1 .submitted [])) fun t => dPh t == [.ready] && t.out.length == 1,
    runs (exec (.descriptorRead 3 (.bytes (([4, 0, 0, 0, 0, 0, 0, 0] : List Nat).flatMap (toBytes 8)))) (r1 .submitted [])) (dEnd 0x0E),
    runs (exec (.descriptorRead 3 (.bytes (([0x1000000000000005, 0, 0, 0, 0, 0, 0, 0] : List Nat).flatMap (toBytes 8)))) (r1 .submitted [])) fun t => dPh t == [.reread] && (t.ring 3).ds.map RDesc.since == [512],
    runs (exec (.descriptorRead 3 (.fail .ideFailure)) (r1 .submitted [])) fun t => (t.ring 3).st == .cancelling,
    stays (.descriptorRead 3 (.bytes [])) (r1 .ready []),
    runs (exec (.seqReread 3 (.bytes ((kern 1).flatMap (toBytes 8)))) (r1 .reread [])) fun t => dPh t == [.ready],
    runs (exec (.seqReread 3 (.bytes (([0x1000000000000005, 0, 0, 0, 0, 0, 0, 0] : List Nat).flatMap (toBytes 8)))) (r1 .reread [])) (dEnd 0x0E),
    runs (exec (.seqReread 3 (.fail .ideFailure)) (r1 .reread [])) fun t => (t.ring 3).st == .cancelling,
    stays (.seqReread 3 (.bytes [])) { r1 .reread [] with str := { time := 255 } }] : List Bool).all id = true := by decide +kernel

/-- Kernels and streams (R321, R323). -/
theorem test_launches : ([runs (exec (.kernelLaunch 3) (r1 .ready (kern 1))) fun t => ((t.ctx? 0).map fun x => (x.kind == .kernel, x.cores, x.gx, x.num)) == some (true, [0], 2, 4),
    runs (exec (.kernelLaunch 3) (r1 .ready (kern 0))) (dEnd 0x0E),
    runs (exec (.vectorStream 3) (r1 .ready [3 * 2 ^ 60, 0, 0, 5 * 2 ^ 8, 0, 0, 0, 0])) fun t => ((t.ctx? 0).map fun x => (x.kind == .vecStream, x.cores)) == some (true, [5]),
    runs (exec (.matrixStream 3) (r1 .ready [4 * 2 ^ 60, 0, 0, 5 * 2 ^ 8, 0, 0, 0, 0])) fun t => ((t.ctx? 0).map fun x => (x.kind == .mtxStream, x.cores)) == some (true, [5]),
    runs (exec (.vectorStream 3) (r1 .ready [3 * 2 ^ 60, 1, 0, 5 * 2 ^ 8, 0, 0, 0, 0])) (dEnd 0x0E),
    stays (.matrixStream 3) (r1 .ready (kern 1)),
    stays (.fill 3 (.bytes [])) (two 1 2),
    runs (exec (.fill 4 (.bytes [])) (two 1 2)) fun t => t.byteAt 0xA000 == 0x88 && tget 0 t.hosts.turn 2 == 5,
    stays (.fill 4 (.bytes [])) { two 1 1 with hosts := { l0 := 1, turn := [(1, 0)] } },
    runs (exec (.fill 4 (.bytes [])) { two 1 1 with hosts := { l0 := 1, turn := [(1, 4)] } }) fun t => t.byteAt 0xA000 == 0x88] : List Bool).all id = true := by decide +kernel

/-- Copies, accumulating copies and fills (R322). -/
theorem test_copies : ([runs (exec (.copy 3 (.bytes []) []) (r1m .ready (type2 0 4 ++ [0x9000, 0xA000]) [1, 2, 3, 4])) fun t => dEnd 0 t && bytesAt t 0xA000 4 == [1, 2, 3, 4],
    runs (exec (.copy 3 (.bytes []) []) (r1m .ready (type2 0 (4 + 2 ^ 60) ++ [0x9000, 0xA000]) [1, 2, 3, 4])) fun t => dEnd 0 t && t.out == [.hostWrite 0 0 0xA000 [1, 2, 3, 4] false],
    runs (exec (.copy 3 (.bytes [5, 6, 7, 8]) []) (r1 .ready (type2 0 (4 + 2 ^ 61) ++ [0x9000, 0xA000]))) fun t => dEnd 0 t && bytesAt t 0xA000 4 == [5, 6, 7, 8],
    runs (exec (.copy 3 (.fail .ideFailure) []) (r1 .ready (type2 0 (4 + 2 ^ 61) ++ [0x9000, 0xA000]))) (dEnd 0x2F),
    stays (.copy 3 (.bytes [5]) []) (r1 .ready (type2 0 (4 + 2 ^ 61) ++ [0x9000, 0xA000])),
    runs (exec (.copy 3 (.bytes []) []) { r1 .ready (type2 0 4 ++ [0x9000, 0xA000]) with mem := { poison := [0x480] } }) (dEnd 0x11),
    runs (exec (.copy 3 (.bytes []) []) (r1 .ready (type2 0 0 ++ [0x9000, 0xA000]))) (dEnd 0x0E),
    runs (exec (.fill 3 (.bytes [])) (r1 .ready (type2 2 10 ++ [0x0807060504030201, 0xA000]))) fun t => dEnd 0 t && bytesAt t 0xA000 11 == [1, 2, 3, 4, 5, 6, 7, 8, 1, 2, 0],
    runs (exec (.accumCopy 3 (.bytes []) 0 []) { r1m .ready (type2 1 4 ++ [0x9000, 0xA000]) (toBytes 4 0x3F800000) with stalls := [(0, { st := .active, regions := [{ base := 0xA000, len := 128 }] })] })
      fun t => dEnd 0 t && (t.pin 0x140).parts.head? == some 0x3F800000 && t.byteAt 0xA003 == 0,
    runs (exec (.accumCopy 3 (.bytes []) 0 []) (r1 .ready (type2 1 4 ++ [0x9000, 0xA000]))) (dEnd 0x0E),
    runs (exec (.copy 3 (.bytes []) [(0x480, [(0, 1), (7, 1)])]) (r1m .ready (type2 0 4 ++ [0x9000, 0xA000]) [1, 2, 3, 4])) (dEnd 0x11),
    runs (exec (.accumCopy 3 (.bytes []) 2 []) { r1m .ready (type2 1 4 ++ [0x9000, 0xA000]) (toBytes 4 0x3F800000) with stalls := [(0, { st := .active, regions := [{ base := 0xA000, len := 128 }] })] })
      fun t => t.mem.poison != [] && (t.stall 0).tainted,
    runs (exec (.accumCopy 3 (.bytes []) 0 [(0x480, [(0, 1), (7, 1)])]) { r1m .ready (type2 1 4 ++ [0x9000, 0xA000]) (toBytes 4 0x3F800000) with stalls := [(0, { st := .active, regions := [{ base := 0xA000, len := 128 }] })] }) (dEnd 0x11)] : List Bool).all id = true := by decide +kernel

/-- Fences, events, timed waits and tally reads (R40, R324, R325, R330, R365). -/
theorem test_events_and_tallies : ([runs (exec (.fenceDesc 3) (r1 .ready (ev 0 0 0 0))) (dEnd 0),
    runs (exec (.signal 3) (r1m .ready (ev 1 0 0x9000 5) [3])) fun t => dEnd 0 t && t.byteAt 0x9000 == 5,
    runs (exec (.signal 3) (r1m .ready (ev 1 0 0x9000 5) [7])) fun t => dEnd 0 t && t.byteAt 0x9000 == 7,
    runs (exec (.wait 3) (r1 .ready (ev 2 0 0x9000 5))) fun t => dPh t == [.running],
    runs (exec (.waitTime 3) (r1 .ready (ev 3 0 0 1000))) fun t => dPh t == [.running] && (t.ring 3).ds.map RDesc.aux == [1024],
    runs (exec (.waitTime 3) { r1 .ready (ev 3 0 0 1000) with str := {} }) (dEnd 0x24),
    runs (exec (.wait 3) (r1 .ready (ev 2 0 0x9001 5))) (dEnd 0x0E),
    stays (.signal 3) (r1 .ready (ev 2 0 0x9000 5)),
    stays (.fenceDesc 3) (rg3 (run1 [{ num := 3, ph := .running }, dsc .ready ((ev 0 0 0 0).map (BitVec.ofNat 64))]) {}),
    runs (exec (.eventWaitSatisfied 3) (r1m .running (ev 2 0 0x9000 5) [5])) (dEnd 0),
    stays (.eventWaitSatisfied 3) (r1m .running (ev 2 0 0x9000 5) [4]),
    runs (exec (.waitTimeReached 3) (rg3 (run1 [{ dsc .running ((ev 3 0 0 512).map (BitVec.ofNat 64)) with aux := 512 }]) {})) (dEnd 0),
    stays (.waitTimeReached 3) (rg3 (run1 [{ dsc .running ((ev 3 0 0 512).map (BitVec.ofNat 64)) with aux := 513 }]) {}),
    runs (exec (.eventWaitTimeout 3) (r1 .running (ev 2 2 0x9000 5))) (dEnd 0x30),
    stays (.eventWaitTimeout 3) (r1 .running (ev 2 3 0x9000 5)),
    stays (.eventWaitTimeout 3) (r1 .running (ev 2 0 0x9000 5)),
    runs (exec (.tallyRead 3 (.bytes [])) ((r1 .ready [8 * 2 ^ 60, 3 * 2 ^ 62, 0xA000]).tally 0 0x80 7)) fun t => dEnd 0 t && tget 0 (t.stall 0).tally 0x80 == 0 &&
      (t.out.map fun | .hostWrite _ _ a l _ => (a, l.length, (l.drop 0x80).take 2) | _ => (0, 0, [])) == [(0xA000, 256, [7, 0])],
    runs (exec (.tallyRead 3 (.bytes [])) ((r1 .ready [8 * 2 ^ 60, 0, 0xA000]).tally 0 0x80 7)) fun t => dEnd 0 t && t.byteAt 0xA080 == 7 && tget 0 (t.stall 0).tally 0x80 == 7,
    runs (exec (.tallyRead 3 (.fail .ideFailure)) (r1 .ready [8 * 2 ^ 60, 2 ^ 63, 0xA000])) (dEnd 0x2F),
    runs (exec (.tallyRead 3 (.bytes [])) (r1 .ready [8 * 2 ^ 60, 0, 0xA020])) (dEnd 0x0E),
    runs (exec (.tallyRead 3 (.fail .ideFailure)) (r1 .ready [8 * 2 ^ 60, 2 ^ 63, 0xA020])) (dEnd 0x0E)] : List Bool).all id = true := by decide +kernel

/-- Records in order, refused records, statuses that cancel, interrupts (R327 to R334, R337). -/
theorem test_completion_records : ([runs (exec (.completionRecord 3 .all) (rg3 (run1 [dsc .done [0x7000000000000004], { num := 5, ph := .done }]) {})) fun t => (t.ring 3).ds.map RDesc.num == [5] && (t.ring 3).st == .running &&
      t.out == [.hostWrite 0 0 64 ([0, 0, 1, 0, 4, 0, 0, 0, 0, 2, 0, 0, 0, 0, 0, 0]) false],
    runs (exec (.completionRecord 3 .all) (irq9 (run1 [dsc .done [0x7800000000000004]]) 0)) fun t => t.out.drop 1 == [.msix 0 9 0x1000 7],
    runs (exec (.completionRecord 3 .all) (irq9 (run1 [dsc .done [0x7800000000000004]]) 1)) fun t => t.out.length == 1 && (t.fn 0).pba == [9],
    runs (exec (.completionRecord 3 .noInterrupt) (irq9 (run1 [dsc .done [0x7800000000000004]]) 0)) fun t => t.out.length == 1 && (t.ring 3).st == .stopped,
    runs (exec (.completionRecord 3 .all) (rg3 (run1 [{ dsc .done [0x2000000000000004] with status := 0x0E }, { num := 5 }]) {})) fun t => (t.ring 3).st == .cancelling && (t.ring 3).ds.map RDesc.status == [0x20],
    runs (exec (.completionRecord 3 .noRecord) (rg3 (run1 [dsc .done [0x7000000000000004]]) {})) fun t => (t.ring 3).st == .stopped && t.out == [],
    stays (.completionRecord 3 .all) (r1 .running []),
    stays (.completionRecord 3 .all) (rg3 (run1 []) {}),
    runs (exec (.coalesceTimeout 3 true) (irq9 { run1 [] with coalFirst := some 0, coalN := 1, coalFrets := 2 } 0)) fun t => t.out == [.msix 0 9 0x1000 7] && (t.ring 3).coalFirst == none,
    runs (exec (.coalesceTimeout 3 true) (irq9 { run1 [] with coalFirst := some 0, coalN := 1, coalFrets := 2 } 1)) fun t => t.out == [] && (t.fn 0).pba == [9],
    runs (exec (.coalesceTimeout 3 false) (irq9 { run1 [] with coalFirst := some 0, coalN := 1, coalFrets := 2 } 0)) fun t => t.out == [] && (t.ring 3).st == .stopped,
    stays (.coalesceTimeout 3 true) (rg3 { run1 [] with coalFirst := some 1, irqEn := true, coalN := 1, coalFrets := 2 } {}),
    stays (.completionRecord 3 .all) (rg3 (run1 [dsc .done [0x7000000000000004]]) { delayed := [{ stall := 0, at_ := 0x9000, bytes := [1] }] })] : List Bool).all id = true := by decide +kernel

/-- RING_CMD's operations and results (R310, R311, R461). -/
theorem test_ring_commands : ([runs (exec (.ringCreate 0 (rcmd 1)) { noRing with fns := [(0, { quotaCount := 8, ringCtx := [0x5000, 0x6000, 0x70000000A, 0x600000000, 0, 0, 0, 0] })] }) fun t => rcRes t == (false, 0) && (t.ring 3).st == .running && (t.ring 3).next == 10 && (t.ring 3).gen == 7,
    runs (exec (.ringCreate 0 (rcmd 1)) noRing) fun t => rcRes t == (false, 4),
    runs (exec (.ringCreate 0 (rcmd 1)) { noRing with fns := [(0, { quotaCount := 8, ringCtx := [0, 0, 0x5000000000000, 0x600000000, 0, 0, 0, 0] })] }) fun t => rcRes t == (false, 3),
    runs (exec (.ringCreate 0 (rcmd 1)) (rg3 (run1 []) {})) fun t => rcRes t == (false, 2),
    runs (exec (.ringCreate 0 0x1000008) (rg3 (run1 []) {})) fun t => rcRes t == (false, 5),
    runs (exec (.ringStop 0 0x2000008) (rg3 (run1 []) {})) fun t => rcRes t == (false, 1),
    runs (exec (.ringStop 0 (rcmd 2)) (rg3 (run1 []) {})) fun t => rcRes t == (true, 0) && (t.ring 3).stopping,
    runs (exec (.ringStop 0 (rcmd 2)) noRing) fun t => rcRes t == (false, 2),
    runs (exec (.ringResume 0 (rcmd 3)) (rg3 { st := .stopped, next := 6, failed := some 2, ds := [dsc .ready []] } {})) fun t => rcRes t == (false, 0) && (t.ring 3).st == .running && (t.ring 3).failed == none && (t.fn 0).ringCount == 4,
    runs (exec (.ringResume 0 (rcmd 3)) (rg3 (run1 []) {})) fun t => rcRes t == (false, 2),
    runs (exec (.ringDestroy 0 (rcmd 4)) (rg3 { st := .stopped } {})) fun t => rcRes t == (false, 0) && t.ring 3 == {},
    runs (exec (.ringDestroy 0 (rcmd 4)) (rg3 (run1 []) {})) fun t => rcRes t == (false, 2),
    stays (.ringDestroy 0 (rcmd 3)) (rg3 { st := .stopped } {}),
    runs (exec (.ringStopDone 3) (rg3 { run1 [dsc .ready []] with stopping := true } {})) fun t => (t.ring 3).st == .stopped && (t.fn 0).ringCount == 4 && !(t.fn 0).ringCmd.busy,
    stays (.ringStopDone 3) (rg3 { run1 [dsc .running []] with stopping := true } {}),
    stays (.ringStopDone 3) (rg3 (run1 [dsc .ready []]) {}),
    runs (exec (.ringDestroy 0 (rcmd 4)) { rg3 { st := .stopped, next := 6, ds := [dsc .ready []] } {} with ctxs := [(0, some { ring := 3, num := 4, cores := [0] })] }) fun t => t.ctx? 0 == none] : List Bool).all id = true := by decide +kernel

/-- FLR, VFs, PERST and L0 (R306 to R308, R338, R419, R457, R472). -/
theorem test_functions_and_ports : ([runs (exec (.flr 1) vf1) fun t => (t.ring 3).st == .free && tget 0 t.hosts.vfs 0 == 2 && (t.fn 0).quotaCount == 8,
    runs (exec (.flr 0) vf1) fun t => (t.ring 3).st == .free && tget 0 t.hosts.vfs 0 == 0 && (t.fn 0).quotaCount == 8,
    stays (.flr 3) vf1,
    runs (exec (.atsInvalidate 1 5) vf1) fun t => t.out == [.cfgDone 1 5],
    stays (.atsInvalidate 3 5) vf1,
    runs (exec (.perst 0) vf1) fun t => t.pins.perst == 1 && t.hosts.l0 == 0 && tget 0 t.hosts.vfs 0 == 0 && t.out.getLast? == some (.link 0 false),
    stays (.perst 0) { vf1 with pins := { pwrok := true, perst := 1 } },
    runs (exec (.perstDeassert 0) { vf1 with pins := { pwrok := true, perst := 1 } }) fun t => t.pins.perst == 0 && t.out == [.link 0 true],
    runs (exec (.hostPortLeavesL0 0 9) vf1) fun t => t.hosts.l0 == 0 && (t.ring 3).st == .free,
    stays (.hostPortLeavesL0 1 9) vf1,
    runs (exec (.hostPortReachesL0 0 true 0) { vf1 with hosts := {} }) fun t => t.hosts.l0 == 1,
    runs (exec (.hostPortReachesL0 0 false 0) { vf1 with hosts := {} }) fun t => t.hosts.l0 == 0 && t.led.seq == 1,
    stays (.hostPortReachesL0 0 true 0) vf1,
    runs (exec (.vfEnable 0 5) (rg3 (run1 []) {})) fun t => tget 0 t.hosts.vfs 0 == 5,
    runs (exec (.vfEnable 0 0) vf1) fun t => tget 0 t.hosts.vfs 0 == 0 && (t.ring 3).st == .free,
    stays (.vfEnable 0 1021) vf1,
    runs (exec (.flr 0) { vf1 with tun := { boot := .booting } }) fun t => t.out == [.configRetry 0],
    runs (exec (.vfEnable 0 5) { vf1 with tun := { boot := .booting } }) fun t => t.out == [.configRetry 0],
    runs (exec (.perst 0) { vf1 with pins := {} }) fun t => t.pins.perst == 1 && t.hosts == vf1.hosts] : List Bool).all id = true := by decide +kernel

/-! ### The block as a whole -/

/-- What reset leaves (R26, R34, R419). -/
theorem test_reset : ([Machine.State.reset.wf && Memory.wf Machine.State.reset.mem,
    Machine.State.reset.str.time == 0 && Machine.State.reset.str.st == .free,
    Machine.State.reset.tun.live.lbPart == 0xE0603820 && Machine.State.reset.tun.boot == .booting] : List Bool).all id = true := by decide +kernel

/-- The front of the queue is taken; an empty queue is one sub-fret (log entry 2). -/
theorem test_step : ([runs (Machine.step { lk false 0 upP with pending := [.fecLimit 0 1 1000000, .linkUp 0] }) fun t => t == { lk false 0 upP with pending := [.linkUp 0] },
    runs (Machine.step { lk false 0 upP with pending := [.nak 0 1, .linkUp 0] }) fun t => t.pending == [.linkUp 0] && t.wf && Memory.wf t.mem,
    runs (Machine.step { lk false 7 upP with pins := { pwrok := true } }) fun t => t.str.time == 8 && t.pending == [],
    runs (Machine.step { lk false 255 upP with pins := { pwrok := true } }) fun t => t.str.time == 256 && t.pending == [],
    runs (Machine.step (lk false 7 upP)) fun t => t.str.time == 7] : List Bool).all id = true := by decide +kernel

/-- A FENCE is its ring's head until it is done, and records go out in order: the premises of those statements (R329, R330). -/
theorem test_orders : ([((rg3 (run1 [dsc .ready ((ev 0 0 0 0).map (BitVec.ofNat 64)), { num := 5, ph := .ready }]) {}).ring 3).head?.map RDesc.num == some 4,
    ((run1 [dsc .done [], { num := 5 }]).ds.map RDesc.num) == [4, 5]] : List Bool).all id = true := by decide +kernel

/-! ### Well-formed commands -/

def okFail (w : HostBytes) (n : Nat) : Bool := hostBytesOk n w && hostBytesOk n (.fail .ideFailure)
def img0 (r : TunRec) : TunImg :=
  { hdr := List.replicate 64 0, recs := [r], rsaOk := true, slhOk := true, digest := 0 }
def bytesN (n : Nat) : HostBytes := .bytes (List.replicate n 0)
/-- A route table: its header, all bytes the same but one. -/
def fillRec (k : Nat) : TunRec := .fill (toBytes 8 (2 + 0x100000 * 2 ^ 32)) 0x100000 0xFF [(k, 3)]

/-- What the host, the fabric and the pins bring: an operand of the right length or range is accepted. -/
theorem test_well_formed : ([okFail (bytesN 64) 64 && Instr.wf (.descriptorRead 3 (bytesN 64)) && Instr.wf (.seqReread 3 (bytesN 64)) && Instr.wf (.doorbellScan 0 0 (bytesN 32)) && Instr.wf (.doorbellRead 3 (bytesN 8)),
    Instr.wf (.put 0 (px 1 6 0 0 0 d32)) && Instr.wf (.pass 0 (nt 1 0 0 0) [(5, [(0, 1)])] 0) && Instr.wf (.flitReceive 0 (flit 0)) && Instr.wf (.refillFetchDone 2 .error),
    Instr.wf (.globalLoadReturn 0 0 []) && Instr.wf (.globalLoadReturn 0 0 [(35, 255)]) && Instr.wf (.patrolRead 0 0xFFFFFFFFF []) && Instr.wf (.ldl 0 0 0 false [(0, 1)]) && Instr.wf (.segmentForward 0 0 0 0 [(0, 1)] 0),
    Instr.wf (.delayMeasureStart 0 (List.replicate 16 0)) && Instr.wf (.planEntries 0 7 254 2 [1, 2]) && Instr.wf (.flowEntries 0 7 3 1 [{ dst := 6 }]) && Instr.wf (.planSend 0 9 [(255, 1)] [(255, {})] 0),
    Instr.wf (.phaseSend (List.replicate 16 0)) && Instr.wf (.trainingStepTimeout 0 9 none) && Instr.wf (.stage 0 (.got (img0 (fillRec 0xFFFFF)))) && Instr.wf (.stage 0 (.got (img0 (.bytes (List.replicate 16 0))))) && Instr.wf (.slowPowerLoop { pDie := [0, 0, 0, 0, 0, 0], pOther := 0, energy := [0, 0, 0, 0, 0, 0] }),
    Instr.wf (.registerWrite 0 0x3FFFC 4 0 none) && Instr.wf (.lowHalfReadLatch 0 0x3FFFC 4 none) && Instr.wf (.doorbellConfigWrite 0 0x3FFFC 4 0)] : List Bool).all id = true := by decide +kernel

/-- For each check of Instr.wf a command that it refuses. -/
theorem test_ill_formed : ([!Instr.wf (.descriptorRead 3 (bytesN 8)) && !Instr.wf (.seqReread 3 (bytesN 8)) && !Instr.wf (.doorbellScan 0 0 (bytesN 8)) && !Instr.wf (.doorbellRead 3 (bytesN 64)),
    !Instr.wf (.put 0 { px 1 6 0 0 0 [] with data := [1] }) && !Instr.wf (.getReq 0 { px 2 6 0 0 0 [] with data := [1] } []) && !Instr.wf (.getReq 0 (px 2 6 0 0 0 []) [(5, [(0, 0)])]) && !Instr.wf (.reducePut 0 { px 3 6 0 0 0 [] with data := [1] } 0),
    !Instr.wf (.permutePacket 0 { px 4 6 0 0 0 [] with data := [1] }) && !Instr.wf (.getRsp 0 { px 8 6 0 0 0 [] with data := [1] }) && !Instr.wf (.putDone 0 { px 9 6 0 0 0 [] with data := [1] }),
    ([(.collectivePacketReceive 0 · 0), (.pass 0 · [] 0), .stepPass 0, .retract 0, .leave 0, (.sealQuery 0 · []), .sealNone 0] : List (Pkt → Instr)).all fun f => !Instr.wf (f { px 5 6 0 0 0 [] with data := [1] }),
    !Instr.wf (.pass 0 (nt 1 0 0 0) [(5, [(0, 0)])] 0) && !Instr.wf (.sealQuery 0 (nt 1 0 0 0) [(0, 0)]) && !Instr.wf (.passSend 0 0 [(5, [(0, 0)])] 0) && !Instr.wf (.permuteCommit 0 0 [(5, [(0, 0)])]) && !Instr.wf (.collectiveComplete 0 0 [(5, [(0, 0)])] 0),
    ([(.passEnd 0 0 false · []), (.pref 0 0 0 false ·), (.atomg 0 0 0 false 0 ·), (.redg 0 0 0 false 0 ·), .vecCvt 0, .vecAdd 0, .vecMul 0, .vecFma 0, .vecMin 0, .vecMax 0, .vecCmp 0, .vecSel 0, .vecRed 0, .normDone 0, .updateEngineLine 0 0, .copy 3 (.bytes []), .accumCopy 3 (.bytes []) 0] : List (UnitErrs → Instr)).all fun f => !Instr.wf (f [(5, [(0, 0)])]),
    !Instr.wf (.flitReceive 0 { flit 0 with body := [] }) && !Instr.wf (.refillFetchDone 2 (.data [7])),
    !Instr.wf (.globalLoadReturn 0 0 [(0, 0)]) && !Instr.wf (.ldl 0 0 0 false [(0, 1), (3, 0)]) && !Instr.wf (.patrolRead 0 0x1000000000 []) && !Instr.wf (.patrolRead 0 0 [(0, 0)]) && !Instr.wf (.segmentForward 0 0 0 0 [(0, 0)] 0),
    !Instr.wf (.delayMeasureStart 0 [0]) && !Instr.wf (.planEntries 0 7 254 2 [1]) && !Instr.wf (.flowEntries 0 7 3 2 []) && !Instr.wf (.planSend 0 9 [(256, 1)] [] 0) && !Instr.wf (.planSend 0 9 [] [(256, {})] 0),
    !Instr.wf (.phaseSend [7]) && !Instr.wf (.trainingStepTimeout 0 0 none) && !Instr.wf (.stage 0 (.got { img0 (fillRec 0) with hdr := [] })) && ([fillRec 0x100000, .fill [] 8 0 [], .fill (List.replicate 8 0) 9 0 [], .fill (List.replicate 8 0) 8 0 [(3, 1), (3, 2)], .bytes [], .bytes (List.replicate 9 0)] : List TunRec).all fun r => !Instr.wf (.stage 0 (.got (img0 r))) && !Instr.wf (.slowPowerLoop { pDie := [0], pOther := 0, energy := [0, 0, 0, 0, 0, 0] }) && !Instr.wf (.slowPowerLoop { pDie := [0, 0, 0, 0, 0, 0], pOther := 0, energy := [] }),
    !Instr.wf (.registerWrite 0 0x40000 4 0 none) && !Instr.wf (.lowHalfReadLatch 0 0x40000 4 none) && !Instr.wf (.lowHalfReadLatch 0 0 0 none) && !Instr.wf (.doorbellConfigWrite 0 0x40000 4 0)] : List Bool).all id = true := by decide +kernel

end Sys2Proof.Tests
end

section
/-! PROOF. The String time unit over its boundaries (O22): the statement asks nothing of the table of phase frames, and one that is not in canonical
form refutes it. `State.wf` does not cover that table either, so the refuting state is in canonical form. -/

namespace Sys2Proof.Machine

/-- LOCKED to the wire at stratum 3, with port 5 up and two entries under key 5: the first, the default, hides a frame of stratum 0. -/
def hiddenFrame : State :=
  { pins := { pwrok := true }
    tun := { live := { strWire := 3 } }
    ports := [(5, { st := .up })]
    str := { st := .locked, source := .wire, fab := [(5, {}), (5, { valid := true, stratum := 0 })] } }

theorem hiddenFrame_wf : hiddenFrame.wf = true := by decide

/-- Before the boundary the first entry answers for port 5, which is no candidate: the choice of R31 is the wire. -/
theorem hiddenFrame_choice : hiddenFrame.atNext.chooseSource = .wire := by decide

/-- The slew of the boundary rewrites the table, which drops the default entry: the hidden frame is read, and the unit changes to port 5. -/
theorem hiddenFrame_boundary : (Res.state hiddenFrame (exec .stringBoundary hiddenFrame)).str.source = .port 5 := by decide

end Sys2Proof.Machine

open Sys2Proof Sys2Proof.Machine

/-- Refutes O22: in `hiddenFrame`, whose frame table lists key 5 twice, the choice of R31 before the boundary is the wire in use, yet STRING_BOUNDARY
changes to port 5. The clause on a unit that stays LOCKED wants the premise `twf {} s.str.fab = true`, which `State.wf` does not give. -/
theorem not_stringBoundaries : ¬ Obligations.StringBoundaries := by
  unfold Obligations.StringBoundaries
  intro h
  obtain ⟨stays, -⟩ := h hiddenFrame rfl
  obtain ⟨t, ht, -, -, same, -⟩ := stays rfl hiddenFrame_choice (by rw [hiddenFrame_choice]; decide)
  have moved := hiddenFrame_boundary
  rw [ht] at moved
  exact absurd (same.symm.trans moved) (by decide)
end

section
/-! PROOF. What the end and the dispatch of a descriptor leave (R326 to R329), for the statements about rings. -/

namespace Sys2Proof.Machine

/-! ### Reads after writes -/

theorem State.wf_units {s : State} (h : s.wf = true) : twf {} s.stalls = true ∧ twf {} s.rings = true := by
  simp only [State.wf, State.tablesWf, Bool.and_eq_true] at h
  tauto

theorem State.ring_setRing {s : State} (h : twf {} s.rings = true) (r n : Nat) (x : Ring) :
    (s.setRing r x).ring n = if n = r then x else s.ring n := tget_tset ({} : Ring) r x n h

theorem State.stall_setStall {s : State} (h : twf {} s.stalls = true) (k n : Nat) (x : Stall) :
    (s.setStall k x).stall n = if n = k then x else s.stall n := tget_tset ({} : Stall) k x n h

/-- A property that each step of a fold keeps. -/
theorem forEach_inv {α : Type} {P : State → Prop} {f : α → State → State} (hf : ∀ x s, P s → P (f x s)) :
    ∀ (l : List α) {s : State}, P s → P (forEach l s f)
  | [], _, h => h
  | x :: l, _, h => forEach_inv hf l (hf x _ h)

/-- A descriptor as changed, where the change keeps its number. -/
theorem Ring.desc?_setDesc {x : Ring} {n : W32} {d : RDesc} {f : RDesc → RDesc} (hf : ∀ e : RDesc, (f e).num = e.num)
    (h : x.desc? n = some d) : (x.setDesc n f).desc? n = some (f d) := by
  have same : ((fun e : RDesc => e.num == n) ∘ fun e => if e.num = n then f e else e) = fun e => e.num == n := by
    funext e
    by_cases he : e.num = n <;> simp [he, hf]
  have hn : d.num = n := by simpa using List.find?_some h
  unfold Ring.desc? Ring.setDesc at *
  rw [List.find?_map, same, h]
  simp [hn]

/-! ### A descriptor leaves the scheduler -/

@[simp] theorem State.turned_mem (s : State) (r : Nat) : (s.turned r).mem = s.mem := rfl
@[simp] theorem State.turned_out (s : State) (r : Nat) : (s.turned r).out = s.out := rfl
@[simp] theorem State.turned_rings (s : State) (r : Nat) : (s.turned r).rings = s.rings := rfl
@[simp] theorem State.turned_stalls (s : State) (r : Nat) : (s.turned r).stalls = s.stalls := rfl

/-- `taken` changes at most the turn of the rings. -/
theorem State.taken_cases (s : State) (r : Nat) (n : W32) : s.taken r n = s ∨ s.taken r n = s.turned r := by
  unfold State.taken
  split
  · split
    · exact .inr rfl
    · exact .inl rfl
  · exact .inl rfl

@[simp] theorem State.taken_mem (s : State) (r : Nat) (n : W32) : (s.taken r n).mem = s.mem := by
  obtain h | h := s.taken_cases r n <;> simp [h]
@[simp] theorem State.taken_out (s : State) (r : Nat) (n : W32) : (s.taken r n).out = s.out := by
  obtain h | h := s.taken_cases r n <;> simp [h]
@[simp] theorem State.taken_rings (s : State) (r : Nat) (n : W32) : (s.taken r n).rings = s.rings := by
  obtain h | h := s.taken_cases r n <;> simp [h]
@[simp] theorem State.taken_stalls (s : State) (r : Nat) (n : W32) : (s.taken r n).stalls = s.stalls := by
  obtain h | h := s.taken_cases r n <;> simp [h]

/-- `pipeIdle` changes at most the pipelines of one stall. -/
theorem State.pipeIdle_cases (s : State) (r : Nat) :
    s.pipeIdle r = s ∨ ∃ k p, s.pipeIdle r = s.modStall k fun y => { y with pipes := p } := by
  unfold State.pipeIdle State.pipeClear
  dsimp only
  split
  · split
    · exact .inr ⟨_, _, rfl⟩
    · exact .inl rfl
  · exact .inl rfl

@[simp] theorem State.pipeIdle_mem (s : State) (r : Nat) : (s.pipeIdle r).mem = s.mem := by
  obtain h | ⟨k, p, h⟩ := s.pipeIdle_cases r <;> simp [h]
@[simp] theorem State.pipeIdle_out (s : State) (r : Nat) : (s.pipeIdle r).out = s.out := by
  obtain h | ⟨k, p, h⟩ := s.pipeIdle_cases r <;> simp [h]
@[simp] theorem State.pipeIdle_rings (s : State) (r : Nat) : (s.pipeIdle r).rings = s.rings := by
  obtain h | ⟨k, p, h⟩ := s.pipeIdle_cases r <;> simp [h]

theorem State.pipeIdle_tally {s : State} (h : twf {} s.stalls = true) (r n : Nat) : ((s.pipeIdle r).stall n).tally = (s.stall n).tally := by
  obtain e | ⟨k, p, e⟩ := s.pipeIdle_cases r
  · rw [e]
  · rw [e, State.modStall_eq, State.stall_setStall h]
    split
    · simp [*]
    · rfl

/-! ### A descriptor done, dispatched or refused -/

section
variable {s : State} {r : Nat} {n : W32} {d : RDesc}

/-- Whether a descriptor is done with a status is read in the rings. -/
theorem State.descIs_of_rings {t u : State} {st : Nat} (e : u.rings = t.rings) (h : t.descIs r n st) : u.descIs r n st := by
  unfold State.descIs State.ring at *
  rwa [e]

/-- A descriptor as `descDone` leaves it. -/
def RDesc.ended (d : RDesc) (st fl : Nat) : RDesc := { d with ph := .done, status := st, flags := fl, aux := 0 }

/-- What `descDone` does: the descriptor leaves the scheduler, its ring is set, and its pipeline may be full no more. In the ring the descriptor is ended
where it was not. -/
theorem State.descDone_spec (s : State) (r : Nat) (n : W32) (st fl : Nat) :
    ∃ v x, (v = s ∨ v = s.taken r n) ∧ s.descDone r n st fl = (v.setRing r x).pipeIdle r ∧
      ∀ d, (s.ring r).desc? n = some d → d.ph ≠ .done → x.desc? n = some (d.ended st fl) := by
  have ends {d : RDesc} (hd : (s.ring r).desc? n = some d) := Ring.desc?_setDesc (f := (·.ended st fl)) (fun _ => rfl) hd
  have ring : (s.taken r n).ring r = s.ring r := by simp [State.ring]
  by_cases h : st = 0x20
  · refine ⟨s, _, .inl rfl, by rw [State.descDone, if_pos h]; rfl, fun d hd hp => ?_⟩
    beta_reduce
    rw [hd]
    dsimp only
    rw [if_neg hp]
    split <;> exact ends hd
  · refine ⟨s.taken r n, _, .inr rfl, by rw [State.descDone, if_neg h]; rfl, fun d hd hp => ?_⟩
    beta_reduce
    rw [ring, hd]
    dsimp only
    rw [if_neg hp]
    split <;> exact ends hd

@[simp] theorem State.descDone_mem (st fl : Nat) : (s.descDone r n st fl).mem = s.mem := by
  obtain ⟨v, x, rfl | rfl, e, -⟩ := s.descDone_spec r n st fl <;> simp [e]

@[simp] theorem State.descDone_out (st fl : Nat) : (s.descDone r n st fl).out = s.out := by
  obtain ⟨v, x, rfl | rfl, e, -⟩ := s.descDone_spec r n st fl <;> simp [e]

theorem State.descDone_tally (h : twf {} s.stalls = true) (st fl k : Nat) :
    ((s.descDone r n st fl).stall k).tally = (s.stall k).tally := by
  obtain ⟨v, x, rfl | rfl, e, -⟩ := s.descDone_spec r n st fl <;>
    rw [e, State.pipeIdle_tally (by simpa using h)] <;> simp [State.stall]

theorem State.descDone_rings_wf (h : twf {} s.rings = true) (st fl : Nat) : twf {} (s.descDone r n st fl).rings = true := by
  obtain ⟨v, x, rfl | rfl, e, -⟩ := s.descDone_spec r n st fl <;>
    rw [e, State.pipeIdle_rings] <;> exact tset_wf _ _ _ (by simpa using h)

/-- A descriptor of the ring that is not done is done with the status. -/
theorem State.descDone_descIs (h : twf {} s.rings = true) (hd : (s.ring r).desc? n = some d) (hp : d.ph ≠ .done) (st fl : Nat) :
    (s.descDone r n st fl).descIs r n st := by
  obtain ⟨v, x, hv, e, ends⟩ := s.descDone_spec r n st fl
  have rings : v.rings = s.rings := by obtain rfl | rfl := hv <;> simp
  refine State.descIs_of_rings (t := v.setRing r x) (by rw [e]; simp) ⟨d.ended st fl, ?_, rfl, rfl⟩
  rw [State.ring_setRing (by rwa [rings]), if_pos rfl]
  exact ends d hd hp

/-- Another value in AUX leaves a descriptor done as it was. -/
theorem State.descIs_setAux {st : Nat} (h : twf {} s.rings = true) (a : Nat) (hd : s.descIs r n st) :
    (s.modRing r fun x => x.setDesc n fun d => { d with aux := a }).descIs r n st := by
  obtain ⟨e, he, hp, hs⟩ := hd
  refine ⟨{ e with aux := a }, ?_, hp, hs⟩
  rw [State.modRing_eq, State.ring_setRing h, if_pos rfl]
  exact Ring.desc?_setDesc (fun _ => rfl) he

@[simp] theorem State.descInvalid_mem (off : Nat) : (s.descInvalid r n off).mem = s.mem := by simp [State.descInvalid]

theorem State.descInvalid_descIs (h : twf {} s.rings = true) (hd : (s.ring r).desc? n = some d) (hp : d.ph ≠ .done) (off : Nat) :
    (s.descInvalid r n off).descIs r n 0x0E :=
  State.descIs_setAux (State.descDone_rings_wf h _ _) _ (State.descDone_descIs h hd hp _ _)

@[simp] theorem State.dispatchDesc_mem (aux : Nat) : (s.dispatchDesc r n aux).mem = s.mem := by simp [State.dispatchDesc]

/-- A descriptor dispatched runs from now on. -/
theorem State.dispatchDesc_desc (h : twf {} s.rings = true) (hd : (s.ring r).desc? n = some d) (aux : Nat) :
    ((s.dispatchDesc r n aux).ring r).desc? n = some { d with ph := .running, since := s.clock, aux := aux } := by
  have hr : (s.taken r n).ring r = s.ring r := by simp [State.ring]
  have e : (s.dispatchDesc r n aux).ring r = (s.ring r).setDesc n fun d => { d with ph := .running, since := s.clock, aux := aux } := by
    unfold State.dispatchDesc
    rw [show ∀ v : State, (v.pipeIdle r).ring r = v.ring r from fun v => by simp [State.ring], State.modRing_eq,
      State.ring_setRing (by simpa using h), if_pos rfl, hr]
  rw [e]
  exact Ring.desc?_setDesc (fun _ => rfl) hd

end

/-! ### The descriptor at the head of a ring -/

theorem Ring.head?_ph {x : Ring} {d : RDesc} (h : x.head? = some d) : d.ph = .ready := by
  unfold Ring.head? at h
  dsimp only at h
  split at h
  · cases h
  split at h
  · cases h
  split at h
  · cases h
  split at h
  · split at h
    · next ready => exact Option.some.inj h ▸ ready.1
    · cases h
  · cases h

theorem State.headOf_ph {s : State} {r type : Nat} {d : RDesc} (h : s.headOf r type = some d) : d.ph = .ready := by
  unfold State.headOf at h
  split at h
  · next e he =>
    split at h
    · cases h
      unfold State.headReady at he
      dsimp only at he
      split at he
      · next f hf =>
        split at he
        · exact Option.some.inj he ▸ Ring.head?_ph hf
        · cases he
      · cases he
    · cases h
  · cases h

end Sys2Proof.Machine
end

section
/-! PROOF. What the memory path reads of stalls and rings: the tallies of a stall decide nothing (R365), so a write by two states that differ in them
alone leaves the same memory; and neither a read nor a write of memory changes a ring. -/

namespace Sys2Proof.Machine

/-- `s` and `t` came from `a` and `b` in step, by operations that write no stall and no ring: they differ in the stalls alone, which they still have from
`a` and `b`, and those differ in their tallies alone. -/
structure Twin (a b s t : State) : Prop where
  alike : ∀ n, { b.stall n with tally := [] } = { a.stall n with tally := [] }
  stalls : s.stalls = a.stalls
  rings : s.rings = a.rings
  same : t = { s with stalls := b.stalls }

variable {a b s t : State}

theorem Twin.refl (s : State) : Twin s s s s := ⟨fun _ => rfl, rfl, rfl, rfl⟩

/-- What is computed from a stall without its tallies is the same of both. -/
theorem Twin.ofStall {β : Type} (h : Twin a b s t) (f : Stall → β) (hf : ∀ x : Stall, f x = f { x with tally := [] }) (n : Nat) :
    f (t.stall n) = f (s.stall n) := by
  have e : t.stall n = b.stall n := by rw [h.same]; rfl
  have e' : s.stall n = a.stall n := by unfold State.stall; rw [h.stalls]
  rw [e, e', hf, h.alike, ← hf]

/-- The next two states, which have their stalls and rings from these. -/
theorem Twin.next (h : Twin a b s t) {u v : State} (hs : u.stalls = s.stalls) (hr : u.rings = s.rings) (e : v = { u with stalls := t.stalls }) :
    Twin a b u v :=
  ⟨h.alike, hs.trans h.stalls, hr.trans h.rings, by rw [e, h.same]⟩

theorem Twin.ite {p q : Prop} [Decidable p] [Decidable q] {x x' y y' : State} (e : p ↔ q) (hx : Twin a b x x') (hy : Twin a b y y') :
    Twin a b (if p then x else y) (if q then x' else y') := by
  by_cases hp : p
  · rwa [if_pos hp, if_pos (e.mp hp)]
  · rwa [if_neg hp, if_neg (mt e.mpr hp)]

theorem Twin.forEach {α : Type} {f : α → State → State} (hf : ∀ x s t, Twin a b s t → Twin a b (f x s) (f x t)) :
    ∀ (l : List α) {s t : State}, Twin a b s t → Twin a b (forEach l s f) (forEach l t f)
  | [], _, _, h => h
  | x :: l, _, _, h => Twin.forEach hf l (hf x _ _ h)

/-! ### The ledger -/

theorem Twin.concerns (h : Twin a b s t) (e : Entry) : t.concerns e = s.concerns e := by
  have st := h.ofStall Stall.st fun _ => rfl
  have func := h.ofStall Stall.func fun _ => rfl
  have ring : t.ring = s.ring := by rw [h.same]; rfl
  simp only [State.concerns, st, func, ring]

theorem drive_twin (o : Out) (h : Twin a b s t) : Twin a b (s.drive o) (t.drive o) := h.next rfl rfl (by rw [h.same]; rfl)

theorem msix_twin (f v : Nat) (h : Twin a b s t) : Twin a b (s.msix f v) (t.msix f v) := by
  have fn : t.fn f = s.fn f := by rw [h.same]; rfl
  unfold State.msix
  rw [fn]
  exact Twin.ite Iff.rfl (h.next rfl rfl (by rw [h.same]; rfl)) (drive_twin _ h)

theorem ledgerTo_twin (op : Bool) (f : Nat) (e : Entry) (h : Twin a b s t) :
    Twin a b (s.ledgerTo op f e).1 (t.ledgerTo op f e).1 ∧ (t.ledgerTo op f e).2 = (s.ledgerTo op f e).2 := by
  have cause : t.ledgerCause f = s.ledgerCause f := by rw [h.same]; rfl
  have regs : (if op then t.led.op else (t.fn f).led) = if op then s.led.op else (s.fn f).led := by rw [h.same]; rfl
  unfold State.ledgerTo
  rw [cause, regs]
  generalize (if op then s.led.op else (s.fn f).led) = r
  dsimp only
  obtain ⟨r', k⟩ := ledgerPut (s.ledgerCause f) r
  have put : Twin a b
      (if op then { s with rnd := s.rnd + 1, led := { s.led with op := r' } }
        else { s.modFn f (fun x => { x with led := r' }) with rnd := s.rnd + 1 })
      (if op then { t with rnd := t.rnd + 1, led := { t.led with op := r' } }
        else { t.modFn f (fun x => { x with led := r' }) with rnd := t.rnd + 1 }) :=
    Twin.ite Iff.rfl (h.next rfl rfl (by rw [h.same])) (h.next rfl rfl (by rw [h.same]; rfl))
  cases k with
  | off => exact ⟨put, rfl⟩
  | dropped => exact ⟨put, rfl⟩
  | failed c => exact ⟨put, rfl⟩
  | written =>
    exact ⟨Twin.ite Iff.rfl (msix_twin _ _ (drive_twin _ put)) (drive_twin _ put), rfl⟩

theorem buffered_twin (e : Entry) (h : Twin a b s t) : Twin a b (s.buffered e) (t.buffered e) :=
  h.next (by simp only [State.buffered]) (by simp only [State.buffered]) (by simp only [State.buffered]; rw [h.same])

theorem setHealth_twin (x : Health) (h : Twin a b s t) : Twin a b (s.setHealth x) (t.setHealth x) :=
  h.next rfl rfl (by unfold State.setHealth; rw [h.same])

theorem failEntry_twin (f : Nat) (n : W32) (c : Nat × Nat) (h : Twin a b s t) :
    Twin a b (s.failEntry f n c).2 (t.failEntry f n c).2 ∧ (t.failEntry f n c).1 = (s.failEntry f n c).1 :=
  ⟨h.next rfl rfl (by rw [h.same]; rfl), by rw [h.same]; rfl⟩

/-- A fold whose states go in step and whose answers are the same. -/
theorem Twin.foldl {α β : Type} {f : State × β → α → State × β}
    (hf : ∀ x l {s t : State}, Twin a b s t → Twin a b (f (s, l) x).1 (f (t, l) x).1 ∧ (f (t, l) x).2 = (f (s, l) x).2) :
    ∀ (xs : List α) (l : β) {s t : State}, Twin a b s t →
      Twin a b (xs.foldl f (s, l)).1 (xs.foldl f (t, l)).1 ∧ (xs.foldl f (t, l)).2 = (xs.foldl f (s, l)).2
  | [], _, _, _, h => ⟨h, rfl⟩
  | x :: xs, l, s, t, h => by
    obtain ⟨h', e⟩ := hf x l h
    rw [List.foldl_cons, List.foldl_cons, ← Prod.eta (f (t, l) x), e]
    exact Twin.foldl hf xs _ h'

theorem sendAll_twin (ps : List (Bool × Nat)) (e : Entry) (h : Twin a b s t) :
    Twin a b (s.sendAll ps e).1 (t.sendAll ps e).1 ∧ (t.sendAll ps e).2 = (s.sendAll ps e).2 := by
  refine Twin.foldl (fun p l {s t} h => ?_) ps [] h
  obtain ⟨g, c⟩ := ledgerTo_twin p.1 p.2 e h
  dsimp only
  revert g c
  obtain ⟨s', c'⟩ := s.ledgerTo p.1 p.2 e
  obtain ⟨t', c''⟩ := t.ledgerTo p.1 p.2 e
  intro g (same : c'' = c')
  subst same
  cases c'' with
  | none => exact ⟨g, rfl⟩
  | some c => exact ⟨g, rfl⟩

theorem deliverEntry_twin : ∀ (n : Nat) (ps : List (Bool × Nat)) (e : Entry) {s t : State}, Twin a b s t →
    Twin a b (s.deliverEntry n ps e) (t.deliverEntry n ps e)
  | 0, ps, e, _, _, h => (sendAll_twin ps e h).1
  | n + 1, ps, e, s, t, h => by
    obtain ⟨g, bad⟩ := sendAll_twin ps e h
    unfold State.deliverEntry
    rw [← Prod.eta (t.sendAll ps e), bad]
    refine Twin.forEach (fun x s t h => ?_) _ g
    obtain ⟨g, e⟩ := failEntry_twin x.1.2 e.seq x.2 h
    dsimp only
    rw [e]
    exact deliverEntry_twin n _ _ g

theorem platformEvent_twin (e : Entry) (h : Twin a b s t) : Twin a b (s.platformEvent e) (t.platformEvent e) := by
  have path : t.pwr.eventsTo = s.pwr.eventsTo := by rw [h.same]
  unfold State.platformEvent
  rw [path]
  cases s.pwr.eventsTo with
  | none => exact h
  | some path => exact Twin.ite (by rw [h.same]; rfl) (drive_twin _ h) h

/-- The entry as it is written: with its time, number and readings (Table 15.1). -/
def State.stamped (s : State) (e : Entry) : Entry :=
  { e with time := s.str.time, seq := s.led.seq, local_ := !s.onString, temp := s.unitTemp e.kind e.unit,
           volt := (Config.supplyMv s.rnd ((dieOfUnit e.kind e.unit).getD 6)).toNat }

/-- The health record with a fatal entry. -/
def Health.withFatal (h : Health) (e : Entry) : Health :=
  { h with fatal := (h.fatal ++ [e]).drop (h.fatal.length + 1 - 64), counts := tmod 0 h.counts (fatalSource e.event) (· + 1) }

/-- The state in which a stamped entry has taken its number. -/
def State.numbered (s : State) (e : Entry) : State :=
  { s with rnd := s.rnd + 1, led := { s.led with seq := s.led.seq + 1, op := if e.severity = 3 then { s.led.op with alert := true } else s.led.op } }

/-- The same with the entry kept where its severity asks for it. -/
def State.entered (s : State) (e : Entry) : State :=
  let u := if e.severity = 3 then (s.numbered e).setHealth (s.nv.health.withFatal e) else s.numbered e
  if 2 ≤ e.severity then u.buffered e else u

theorem ledgerEntry_eq (s : State) (e : Entry) :
    s.ledgerEntry e =
      let x := s.stamped e
      let u := s.entered x
      let ps := (true, u.operFn) :: (u.concerns x).map fun f => (false, f)
      (u.deliverEntry (ps.length + 1) ps x).platformEvent x := rfl

theorem entered_twin (e : Entry) (h : Twin a b s t) : Twin a b (s.entered e) (t.entered e) := by
  have nv : t.nv = s.nv := by rw [h.same]
  have n : Twin a b (s.numbered e) (t.numbered e) := h.next rfl rfl (by unfold State.numbered; rw [h.same])
  have k := Twin.ite (p := e.severity = 3) Iff.rfl (setHealth_twin (s.nv.health.withFatal e) n) n
  unfold State.entered
  rw [nv]
  exact Twin.ite Iff.rfl (buffered_twin e k) k

theorem ledgerEntry_twin (e : Entry) (h : Twin a b s t) : Twin a b (s.ledgerEntry e) (t.ledgerEntry e) := by
  have x : t.stamped e = s.stamped e := by rw [h.same]; rfl
  have g := entered_twin (s.stamped e) h
  have oper : (t.entered (s.stamped e)).operFn = (s.entered (s.stamped e)).operFn := by rw [g.same]; rfl
  rw [ledgerEntry_eq, ledgerEntry_eq, x]
  dsimp only
  rw [oper, g.concerns]
  exact platformEvent_twin _ (deliverEntry_twin _ _ _ g)

theorem ledger_twin (event sev kind unit : Nat) (stall : Option Nat) (a0 a1 a2 a3 oper count : Nat) (h : Twin a b s t) :
    Twin a b (s.ledger event sev kind unit stall a0 a1 a2 a3 oper count) (t.ledger event sev kind unit stall a0 a1 a2 a3 oper count) :=
  ledgerEntry_twin _ h

/-! ### Writes by device physical address -/

theorem Twin.mem (h : Twin a b s t) : t.mem = s.mem := by rw [h.same]

theorem Twin.slices (h : Twin a b s t) : t.slices = s.slices := by rw [h.same]

theorem Twin.rnd (h : Twin a b s t) : t.rnd = s.rnd := by rw [h.same]

theorem Twin.tableByte (h : Twin a b s t) : t.tableByte = s.tableByte := by rw [h.same]; rfl

/-- The key of a block is its owner's, which is no tally. -/
theorem Twin.blockKey (h : Twin a b s t) : t.blockKey = s.blockKey := by
  have owner : t.owner = s.owner := by rw [h.same]; rfl
  funext k
  unfold State.blockKey
  rw [owner, h.ofStall Stall.memKey fun _ => rfl]

/-- What a byte reads as follows from the owner table, the keys of blocks and the bytes. Nothing may unfold an applied `byteAt`: its match would be
evaluated, and with it the size of the reserved area that `tableByte` takes away. The function itself is unfolded. -/
theorem byteAt_congr {s t : State} (table : t.tableByte = s.tableByte) (key : t.blockKey = s.blockKey) (mem : t.mem = s.mem)
    (era : t.keyEra = s.keyEra) (ent : t.ownerEnt = s.ownerEnt) (x : Nat) : t.byteAt x = s.byteAt x := by
  have go : ∀ f : State → Nat → Byte, State.byteAt = f → f t x = f s x := by
    delta State.byteAt
    intro f h
    subst h
    beta_reduce
    rw [table, key, mem, era, ent]
  exact go _ rfl

theorem Twin.byteAt (h : Twin a b s t) : t.byteAt = s.byteAt :=
  funext (byteAt_congr h.tableByte h.blockKey h.mem (by rw [h.same]) (by rw [h.same]; rfl))

theorem Twin.bytesAt (h : Twin a b s t) : ∀ x n, bytesAt t x n = bytesAt s x n
  | _, 0 => rfl
  | x, n + 1 => by rw [Machine.bytesAt, Machine.bytesAt, h.byteAt, h.bytesAt]

theorem rekeyBlock_twin (k : Nat) (h : Twin a b s t) : Twin a b (s.rekeyBlock k) (t.rekeyBlock k) := by
  unfold State.rekeyBlock
  rw [h.blockKey, h.mem, h.bytesAt]
  generalize bytesAt s (4096 * k) 4096 = bs
  exact Twin.ite Iff.rfl h (h.next rfl rfl (by rw [h.same]))

theorem freeBytes_twin (x n : Nat) (h : Twin a b s t) : Twin a b (s.freeBytes x n) (t.freeBytes x n) := by
  have g := rekeyBlock_twin (x / 4096) h
  exact g.next rfl rfl (by unfold State.freeBytes; dsimp only; rw [g.same])

theorem wrTable_twin (x : Nat) (bs : List Byte) (h : Twin a b s t) : Twin a b (s.wrTable x bs) (t.wrTable x bs) := by
  refine Twin.forEach (fun e s t h => ?_) _ h
  have ent : t.ownerEnt = s.ownerEnt := by rw [h.same]; rfl
  rw [h.tableByte, ent]
  cases s.tableByte (x + e.2) with
  | none => exact h
  | some y => exact h.next rfl rfl (by unfold State.setOwner; rw [h.same])

theorem setFixed_twin (u n : Nat) (h : Twin a b s t) : Twin a b (s.setFixed u n) (t.setFixed u n) :=
  h.next rfl rfl (by unfold State.setFixed; rw [h.same])

theorem modStk_twin (k : Nat) (f : Stack → Stack) (h : Twin a b s t) : Twin a b (s.modStk k f) (t.modStk k f) :=
  h.next rfl rfl (by unfold State.modStk; rw [h.same])

theorem markPoison_twin (u : Nat) (h : Twin a b s t) : Twin a b (s.markPoison u) (t.markPoison u) :=
  h.next rfl rfl (by unfold State.markPoison; rw [h.same])

theorem clearPoison_twin (u : Nat) (h : Twin a b s t) : Twin a b (s.clearPoison u) (t.clearPoison u) :=
  h.next rfl rfl (by unfold State.clearPoison; rw [h.same])

theorem garble_twin (u : Nat) (h : Twin a b s t) : Twin a b (s.garble u) (t.garble u) :=
  freeBytes_twin _ _ (h.next rfl rfl (by rw [h.same]))

theorem readPlain_twin (u : Nat) (h : Twin a b s t) : Twin a b (s.readPlain u) (t.readPlain u) := by
  have stk : t.dpaStack = s.dpaStack := by rw [h.same]; rfl
  have pc : t.pcOf = s.pcOf := by rw [h.same]; rfl
  unfold State.readPlain
  dsimp only
  rw [stk, pc, h.mem, h.rnd]
  refine Twin.ite (by rw [h.same]; rfl) h ?_
  cases List.filter (fun x => x.1 == s.pcOf (32 * u)) (tget {} s.mem.stks (s.dpaStack (32 * u)).1).hard with
  | nil => exact setFixed_twin _ _ h
  | cons x l => exact Twin.ite Iff.rfl (setFixed_twin _ _ h) (modStk_twin _ _ (setFixed_twin _ _ h))

theorem evict_twin (line : Nat) (h : Twin a b s t) : Twin a b (s.evict line) (t.evict line) := by
  unfold State.evict
  dsimp only
  rw [h.slices]
  have g := h.next (u := { s with slices := { s.slices with lines := tset .absent s.slices.lines line .absent, under := tclear (4 * line) (4 * line + 4) s.slices.under } })
    (v := { t with slices := { s.slices with lines := tset .absent s.slices.lines line .absent, under := tclear (4 * line) (4 * line + 4) s.slices.under } })
    rfl rfl (by rw [h.same])
  refine Twin.ite Iff.rfl (Twin.forEach (fun u v w k => ?_) _ g) g
  split
  · exact markPoison_twin _ k
  · exact garble_twin _ k
  · exact k

theorem makeWay_twin (line : Nat) (h : Twin a b s t) : Twin a b (s.makeWay line) (t.makeWay line) := by
  have set : t.setOf = s.setOf := by rw [h.same]; rfl
  unfold State.makeWay
  dsimp only
  rw [h.slices, h.rnd, set]
  refine Twin.ite Iff.rfl h (Twin.ite Iff.rfl h ?_)
  split
  · exact evict_twin _ h
  · exact h

theorem touch_twin (dirty : Bool) (line : Nat) (h : Twin a b s t) : Twin a b (s.touch dirty line) (t.touch dirty line) := by
  have pin : t.pin = s.pin := by rw [h.same]; rfl
  have way := makeWay_twin line h
  have k : Twin a b (if tget .absent s.slices.lines line = .absent then (s.makeWay line).fresh else s)
      (if tget .absent s.slices.lines line = .absent then (t.makeWay line).fresh else t) :=
    Twin.ite Iff.rfl (way.next rfl rfl (by unfold State.fresh; rw [way.same])) h
  unfold State.touch
  dsimp only
  rw [pin, h.slices]
  exact Twin.ite Iff.rfl h (k.next rfl rfl (by rw [k.same]))

theorem wrUnit_twin (x : Nat) (bs : List Byte) (h : Twin a b s t) : Twin a b (s.wrUnit x bs) (t.wrUnit x bs) := by
  have place : t.unitPlace = s.unitPlace := by rw [h.same]; rfl
  have g := touch_twin true (x / 128) (clearPoison_twin (x / 32) (Twin.ite (p := bs.length = 32) Iff.rfl h (readPlain_twin (x / 32) h)))
  have k := rekeyBlock_twin (x / 4096) g
  unfold State.wrUnit
  rw [place]
  refine Twin.ite (by rw [h.same]; rfl) h (Twin.ite (by rw [h.same]) (ledger_twin _ _ _ _ _ _ _ _ _ _ _ h) ?_)
  exact Twin.ite (by rw [g.tableByte]) (wrTable_twin _ _ g) (k.next rfl rfl (by rw [k.same]))

theorem wrDpa_twin (x : Nat) (bs : List Byte) (h : Twin a b s t) : Twin a b (s.wrDpa x bs) (t.wrDpa x bs) :=
  Twin.forEach (fun e _ _ h => wrUnit_twin e.1 e.2 h) _ h

theorem wrOwn_twin (st x : Nat) (bs : List Byte) (h : Twin a b s t) : Twin a b (s.wrOwn st x bs) (t.wrOwn st x bs) :=
  Twin.ite (by rw [h.same]; rfl) (h.next rfl rfl (by rw [h.same])) (wrDpa_twin _ _ h)

theorem scatter_twin (st : Nat) : ∀ (ps : List (Nat × Nat)) (bs : List Byte) {s t : State}, Twin a b s t → Twin a b (s.scatter st ps bs) (t.scatter st ps bs)
  | [], _, _, _, h => h
  | (x, n) :: ps, bs, _, _, h => scatter_twin st ps (bs.drop n) (wrOwn_twin st x (bs.take n) h)

/-! ### Translation, and writes by device virtual address -/

theorem Twin.pte (h : Twin a b s t) : t.pte = s.pte := by
  funext dva x level
  have mapped : t.dpaMapped = s.dpaMapped := by rw [h.same]; rfl
  have owner : t.owner = s.owner := by rw [h.same]; rfl
  have poisoned : t.memPoisoned = s.memPoisoned := by rw [h.same]; rfl
  simp only [State.pte, mapped, owner, poisoned, h.bytesAt]

theorem Twin.walk (h : Twin a b s t) : t.walk = s.walk := by
  funext st dva
  simp only [State.walk, State.walkTable, h.pte, h.ofStall Stall.ptRoot fun _ => rfl]

theorem Twin.xlate (h : Twin a b s t) : t.xlate = s.xlate := by
  funext st dva k
  have mapped : t.dpaMapped = s.dpaMapped := by rw [h.same]; rfl
  have reserved : t.dpaReserved = s.dpaReserved := by rw [h.same]; rfl
  have owner : t.ownerOk = s.ownerOk := by rw [h.same]; rfl
  simp only [State.xlate, h.walk, mapped, reserved, owner]

theorem Twin.xrange (h : Twin a b s t) (st : Nat) (k : Acc) : ∀ f dva n, t.xrange st k f dva n = s.xrange st k f dva n
  | 0, _, _ => rfl
  | f + 1, dva, n => by simp only [State.xrange, h.xlate, h.xrange st k f]

theorem Twin.pieces (h : Twin a b s t) (st : Nat) (k : Acc) (dva n : Nat) : t.pieces st k dva n = s.pieces st k dva n := h.xrange _ _ _ _ _

/-- A write by two such states fails alike, or leaves two such states but for what it counts. -/
theorem wrDva_twin (st dva : Nat) (bs : List Byte) (h : Twin a b s t) :
    (∃ m, s.wrDva st dva bs = .error m ∧ t.wrDva st dva bs = .error m) ∨
      ∃ u v, Twin a b u v ∧ s.wrDva st dva bs = .ok (u.tally st 0x20 bs.length) ∧ t.wrDva st dva bs = .ok (v.tally st 0x20 bs.length) := by
  have hit : (t.stall st).regionHit dva bs.length = (s.stall st).regionHit dva bs.length :=
    h.ofStall (fun x => x.regionHit dva bs.length) (fun _ => rfl) st
  unfold State.wrDva
  rw [h.pieces, hit]
  cases s.pieces st .write dva bs.length with
  | error m => exact .inl ⟨m, rfl, rfl⟩
  | ok ps =>
    cases hr : (s.stall st).regionHit dva bs.length with
    | true => exact .inl ⟨_, rfl, rfl⟩
    | false => exact .inr ⟨_, _, scatter_twin st ps bs h, rfl, rfl⟩

end Sys2Proof.Machine
end

section
/-! PROOF. Events, fences, timed waits and tally reads (O55; R324, R325, R330, R365). -/

namespace Sys2Proof.Machine

variable {s : State} {r : Nat} {d : RDesc}

/-! ### What a read and a write of memory leave -/

theorem didRead_rings (st x n : Nat) : (s.didRead st x n).rings = s.rings := by
  unfold State.didRead
  split
  · exact (Twin.forEach (fun l _ _ h => touch_twin false l h) _ (Twin.forEach (fun u _ _ h => readPlain_twin u h) _ (Twin.refl s))).rings
  · rfl

theorem wrDva_rings {u : State} {st x : Nat} {bs : List Byte} (h : s.wrDva st x bs = .ok u) : u.rings = s.rings := by
  obtain ⟨m, e, -⟩ | ⟨v, _, tw, e, -⟩ := wrDva_twin st x bs (Twin.refl s)
  · rw [e] at h
    cases h
  · rw [e] at h
    cases h
    exact tw.rings

/-- No line in the slices hides what HBM's copy became, and the bytes are those of `c`. -/
def State.Plain (c : List Host.Cell) (s : State) : Prop := s.slices.under = [] ∧ s.mem.cells = c

variable {c : List Host.Cell}

theorem readPlain_plain (u : Nat) (h : s.Plain c) : (s.readPlain u).Plain c := by
  unfold State.readPlain
  dsimp only
  split
  · exact h
  · split
    · split
      · exact h
      · exact h
    · exact h

/-- A clean line leaves nothing behind in HBM where its units are as HBM holds them. -/
theorem evict_plain (line : Nat) (h : s.Plain c) : (s.evict line).Plain c := by
  obtain ⟨under, cells⟩ := h
  unfold State.evict
  dsimp only
  rw [under]
  split
  · exact forEach_inv (P := State.Plain c) (fun _ _ h => h) _ ⟨rfl, cells⟩
  · exact ⟨rfl, cells⟩

theorem makeWay_plain (line : Nat) (h : s.Plain c) : (s.makeWay line).Plain c := by
  unfold State.makeWay
  dsimp only
  split
  · exact h
  · split
    · exact h
    · split
      · exact evict_plain _ h
      · exact h

theorem touch_plain (dirty : Bool) (line : Nat) (h : s.Plain c) : (s.touch dirty line).Plain c := by
  unfold State.touch
  dsimp only
  split
  · exact h
  · split
    · exact makeWay_plain line h
    · exact h

theorem didRead_cells (st x n : Nat) (h : s.slices.under = []) : (s.didRead st x n).mem.cells = s.mem.cells := by
  unfold State.didRead
  split
  · exact (forEach_inv (P := State.Plain s.mem.cells) (fun _ _ h => touch_plain _ _ h) _
      (forEach_inv (P := State.Plain s.mem.cells) (fun _ _ h => readPlain_plain _ h) _ ⟨h, rfl⟩)).2
  · rfl

/-! ### What the ledger writes -/

/-- From `s` to `t` nothing but what an entry of the ledger writes changed: registers of functions, the health record, the ledger, what is driven out and
the counter of free values. -/
def LedgerOnly (s t : State) : Prop := t = { s with fns := t.fns, nv := t.nv, led := t.led, out := t.out, rnd := t.rnd }

theorem LedgerOnly.trans {s t u : State} (h : LedgerOnly s t) (g : LedgerOnly t u) : LedgerOnly s u := by
  unfold LedgerOnly at *
  rw [g, h]

theorem ite_only {p : Prop} [Decidable p] {x y : State} (hx : LedgerOnly s x) (hy : LedgerOnly s y) : LedgerOnly s (if p then x else y) := by
  split
  · exact hx
  · exact hy

theorem drive_only (o : Out) : LedgerOnly s (s.drive o) := rfl

theorem msix_only (f v : Nat) : LedgerOnly s (s.msix f v) := by
  unfold State.msix
  dsimp only
  split
  · rfl
  · exact drive_only _

theorem ledgerTo_only (op : Bool) (f : Nat) (e : Entry) : LedgerOnly s (s.ledgerTo op f e).1 := by
  unfold State.ledgerTo
  generalize (if op then s.led.op else (s.fn f).led) = r
  dsimp only
  obtain ⟨r', k⟩ := ledgerPut (s.ledgerCause f) r
  have put : LedgerOnly s (if op then { s with rnd := s.rnd + 1, led := { s.led with op := r' } }
      else { s.modFn f (fun x => { x with led := r' }) with rnd := s.rnd + 1 }) := by
    cases op <;> rfl
  cases k with
  | off => exact put
  | dropped => exact put
  | failed c => exact put
  | written => exact ite_only ((put.trans (drive_only _)).trans (msix_only _ _)) (put.trans (drive_only _))

theorem failEntry_only (f : Nat) (n : W32) (c : Nat × Nat) : LedgerOnly s (s.failEntry f n c).2 := by
  unfold State.failEntry State.buffered
  rfl

/-- A fold over states with something beside them. -/
theorem foldl_only {α β : Type} {f : State × β → α → State × β} (hf : ∀ b x, LedgerOnly b.1 (f b x).1) :
    ∀ (l : List α) (b : State × β), LedgerOnly b.1 (l.foldl f b).1
  | [], _ => rfl
  | x :: l, b => (hf b x).trans (foldl_only hf l (f b x))

theorem sendAll_only (ps : List (Bool × Nat)) (e : Entry) : LedgerOnly s (s.sendAll ps e).1 := by
  refine foldl_only (fun b p => ?_) ps (s, [])
  have g := ledgerTo_only (s := b.1) p.1 p.2 e
  split
  · next u c h => rwa [h] at g
  · next u h => rwa [h] at g

theorem deliverEntry_only : ∀ (n : Nat) (ps : List (Bool × Nat)) (e : Entry) {s : State}, LedgerOnly s (s.deliverEntry n ps e)
  | 0, ps, e, _ => sendAll_only ps e
  | n + 1, ps, e, s => by
    unfold State.deliverEntry
    exact forEach_inv (P := LedgerOnly s) (fun _ _ h => (h.trans (failEntry_only _ _ _)).trans (deliverEntry_only n _ _)) _ (sendAll_only ps e)

theorem platformEvent_only (e : Entry) : LedgerOnly s (s.platformEvent e) := by
  unfold State.platformEvent
  split
  · split
    · exact drive_only _
    · rfl
  · rfl

theorem entered_only (e : Entry) : LedgerOnly s (s.entered e) := by
  unfold State.entered State.buffered
  have kept : LedgerOnly s (if e.severity = 3 then (s.numbered e).setHealth (s.nv.health.withFatal e) else s.numbered e) := ite_only rfl rfl
  exact ite_only (kept.trans rfl) kept

theorem ledger_only (event sev kind unit : Nat) (stall : Option Nat) (a0 a1 a2 a3 oper count : Nat) :
    LedgerOnly s (s.ledger event sev kind unit stall a0 a1 a2 a3 oper count) := by
  unfold State.ledger
  rw [ledgerEntry_eq]
  exact ((entered_only _).trans (deliverEntry_only _ _ _)).trans (platformEvent_only _)

theorem noteErr_only (kind unit st oper : Nat) (m : MemErr) : LedgerOnly s (s.noteErr kind unit st oper m) := by
  unfold State.noteErr
  split
  · exact ledger_only _ _ _ _ _ _ _ _ _ _ _
  · split
    · split
      · split
        · rfl
        · exact ledger_only _ _ _ _ _ _ _ _ _ _ _
      · rfl
    · rfl

/-! ### A descriptor whose access fails -/

theorem noteLevel_mem (n : W32) (m : MemErr) : (s.noteLevel r n m).mem = s.mem := by
  unfold State.noteLevel
  split <;> rfl

theorem noteLevel_descIs {n : W32} {st : Nat} (m : MemErr) (w : twf {} s.rings = true) (h : s.descIs r n st) : (s.noteLevel r n m).descIs r n st := by
  unfold State.noteLevel
  split
  · exact State.descIs_setAux w _ h
  · exact h

/-- A failed access that no refill holds ends the descriptor with its cause. -/
theorem descFault_ends {m : MemErr} (w : twf {} s.rings = true) (hd : (s.ring r).desc? d.num = some d) (hp : d.ph ≠ .done)
    (free : s.holdFor (.desc r d.num) m = none) : (s.descFault r d m).descIs r d.num m.cause ∧ (s.descFault r d m).mem = s.mem := by
  have note := noteErr_only (s := s) 0x0E r (s.ring r).stall (d.type * 4096) m
  have rings : (s.noteErr 0x0E r (s.ring r).stall (d.type * 4096) m).rings = s.rings := by rw [note]
  have ends := State.descDone_descIs (by rwa [rings]) (by rwa [State.ring, rings]) hp m.cause 0
  unfold State.descFault
  rw [free]
  exact ⟨noteLevel_descIs _ (State.descDone_rings_wf (by rwa [rings]) _ _) ends, by rw [noteLevel_mem, State.descDone_mem, note]⟩

/-! ### Event descriptors at the head of their ring -/

section
variable {op : Nat} {f : State → RDesc → State}

theorem eventHead_ph (h : s.eventHead r op = some d) : d.ph ≠ .done := by
  unfold State.eventHead at h
  split at h
  · next e he =>
    split at h
    · cases h
      rw [State.headOf_ph he]
      decide
    · cases h
  · cases h

theorem eventRun_none (h : s.eventHead r op = none) : s.eventRun r op f = s := by
  unfold State.eventRun
  rw [h]

theorem eventRun_early (h : s.eventHead r op = some d) (ho : op < 2) (hb : (s.ring r).allBefore d.num = false) : s.eventRun r op f = s := by
  unfold State.eventRun
  rw [h]
  exact if_pos ⟨ho, by simp [hb]⟩

theorem eventRun_bad {o : Nat} (h : s.eventHead r op = some d) (hb : 2 ≤ op ∨ (s.ring r).allBefore d.num = true)
    (bad : eventBad d.words = some o) : s.eventRun r op f = s.descInvalid r d.num o := by
  unfold State.eventRun
  rw [h]
  dsimp only
  rw [if_neg (by rintro ⟨h1, h2⟩; exact hb.elim (by omega) h2), bad]

theorem eventRun_start (h : s.eventHead r op = some d) (hb : 2 ≤ op ∨ (s.ring r).allBefore d.num = true)
    (good : eventBad d.words = none) : s.eventRun r op f = f s d := by
  unfold State.eventRun
  rw [h]
  dsimp only
  rw [if_neg (by rintro ⟨h1, h2⟩; exact hb.elim (by omega) h2), good]

/-- The four rows of event descriptors run the head descriptor of their OP. -/
theorem exec_eventRow (r : RingNo) {i : Instr × Nat}
    (hi : i ∈ ([(.fenceDesc r, 0), (.signal r, 1), (.wait r, 2), (.waitTime r, 3)] : List (Instr × Nat))) :
    ∃ f, exec i.1 s = .next (s.eventRun r i.2 f) := by
  simp only [List.mem_cons, List.not_mem_nil, or_false] at hi
  obtain rfl | rfl | rfl | rfl := hi <;> exact ⟨_, rfl⟩

end

/-! ### Events that run -/

theorem waiting_ph {x : Ring} {op : Nat} (h : x.waiting op = some d) : d.ph ≠ .done := by
  have := List.find?_some h
  simp only [Bool.and_eq_true, beq_iff_eq] at this
  rw [this.1.1]
  decide

/-! ### Tally reads -/

/-- The cycles of the running contexts are counted in cores and tallies alone. -/
theorem countCores_frame (w : twf {} s.stalls = true) (st : Nat) :
    (s.countCores st).mem = s.mem ∧ (s.countCores st).rings = s.rings ∧ (s.countCores st).out = s.out ∧ twf {} (s.countCores st).stalls = true :=
  forEach_inv (P := fun t => t.mem = s.mem ∧ t.rings = s.rings ∧ t.out = s.out ∧ twf {} t.stalls = true)
    (f := fun c s => s.countCore st c) (fun _ _ ⟨mem, rings, out, w⟩ => ⟨mem, rings, out, tset_wf _ _ _ (tset_wf _ _ _ w)⟩) _ ⟨rfl, rfl, rfl, w⟩

/-- What a host write drives out is told by its operands. -/
theorem hostWrites_out {t : State} (h : t.out = s.out) (f : Nat) (p : W32) (a : Nat) (bs : List Byte) (ro : Bool) :
    (t.hostWrites f p a bs ro).out = (s.hostWrites f p a bs ro).out := by
  unfold State.hostWrites
  generalize hostCuts 512 (bs.length / 512 + 2) a bs.length = l
  induction l generalizing s t with
  | nil => exact h
  | cons e l ih => exact ih (by simp [State.drive, h])

theorem hostWrites_only (f : Nat) (p : W32) (a : Nat) (bs : List Byte) (ro : Bool) : LedgerOnly s (s.hostWrites f p a bs ro) :=
  forEach_inv (P := LedgerOnly s) (fun _ _ h => h.trans (drive_only _)) _ rfl

/-- A stall whose tallies are cleared. -/
def State.cleared0 (s : State) (st : Nat) : State := s.modStall st fun y => { y with tally := [] }

theorem cleared0_twin (w : twf {} s.stalls = true) (st : Nat) : Twin s (s.cleared0 st) s (s.cleared0 st) := by
  refine ⟨fun n => ?_, rfl, rfl, rfl⟩
  unfold State.cleared0
  rw [State.modStall_eq, State.stall_setStall w]
  split
  · next h => rw [h]
  · rfl

end Sys2Proof.Machine
end

section
/-! PROOF. Events, fences, timed waits and tally reads (O55), continued: what each row does. -/

namespace Sys2Proof.Machine

variable {s : State} {r : RingNo} {d : RDesc}

/-! ### Rows of event descriptors (R324, R330, R365) -/

theorem exec_fenceDesc_ends (w : twf {} s.rings = true) (hd : (s.ring r).desc? d.num = some d) (good : eventBad d.words = none)
    (head : s.eventHead r 0 = some d) (before : (s.ring r).allBefore d.num = true) :
    ∃ t, exec (.fenceDesc r) s = .next t ∧ t.descIs r d.num 0 ∧ t.mem = s.mem := by
  refine ⟨_, rfl, ?_⟩
  rw [eventRun_start head (.inr before) good]
  exact ⟨State.descDone_descIs w hd (eventHead_ph head) _ _, State.descDone_mem _ _⟩

theorem exec_signal_waits (good : eventBad d.words = none) (head : s.eventHead r 1 = some d) (before : (s.ring r).allBefore d.num = true)
    (busy : s.writeWaits (s.ring r).stall (eAddr d.words) 8 = true) : exec (.signal r) s = .next s := by
  show Host.Outcome.next _ = _
  rw [eventRun_start head (.inr before) good]
  dsimp only
  rw [if_pos busy]

theorem exec_signal_writes {bs : List Byte} {u : State} (w : twf {} s.rings = true) (hd : (s.ring r).desc? d.num = some d)
    (good : eventBad d.words = none) (head : s.eventHead r 1 = some d) (before : (s.ring r).allBefore d.num = true)
    (free : s.writeWaits (s.ring r).stall (eAddr d.words) 8 = false) (rd : s.rdDva (s.ring r).stall (eAddr d.words) 8 = .ok bs)
    (wr : (s.didRead (s.ring r).stall (eAddr d.words) 8).wrDva (s.ring r).stall (eAddr d.words)
      (toBytes 8 (max (ofBytes bs) (eValue d.words))) = .ok u) :
    ∃ t, exec (.signal r) s = .next t ∧ t.descIs r d.num 0 ∧ t.mem = u.mem := by
  have rings : u.rings = s.rings := (wrDva_rings wr).trans (didRead_rings _ _ _)
  refine ⟨_, rfl, ?_⟩
  rw [eventRun_start head (.inr before) good]
  dsimp only
  rw [if_neg (by simp [free]), rd]
  dsimp only
  rw [wr]
  exact ⟨State.descDone_descIs (by rwa [rings]) (by rwa [State.ring, rings]) (eventHead_ph head) _ _, State.descDone_mem _ _⟩

theorem exec_wait_runs {bs : List Byte} (w : twf {} s.rings = true) (hd : (s.ring r).desc? d.num = some d) (good : eventBad d.words = none)
    (head : s.eventHead r 2 = some d) (rd : s.rdDva (s.ring r).stall (eAddr d.words) 8 = .ok bs) :
    ∃ t, exec (.wait r) s = .next t ∧ t.descRuns r d.num ∧ t.mem = s.mem := by
  refine ⟨_, rfl, ?_⟩
  rw [eventRun_start head (.inl (Nat.le_refl 2)) good, rd]
  exact ⟨⟨_, State.dispatchDesc_desc w hd 0, rfl⟩, State.dispatchDesc_mem 0⟩

theorem exec_waitTime_runs (w : twf {} s.rings = true) (hd : (s.ring r).desc? d.num = some d) (good : eventBad d.words = none)
    (head : s.eventHead r 3 = some d) (on : s.onString = true) :
    ∃ t, exec (.waitTime r) s = .next t ∧
      (t.ring r).desc? d.num = some { d with ph := .running, since := s.clock, aux := s.clockOf (fretCeil (eValue d.words)) } ∧ t.mem = s.mem := by
  refine ⟨_, rfl, ?_⟩
  rw [eventRun_start head (.inl (by decide)) good, if_pos on]
  exact ⟨State.dispatchDesc_desc w hd _, State.dispatchDesc_mem _⟩

theorem exec_waitTime_lost (w : twf {} s.rings = true) (hd : (s.ring r).desc? d.num = some d) (good : eventBad d.words = none)
    (head : s.eventHead r 3 = some d) (off : s.onString = false) :
    ∃ t, exec (.waitTime r) s = .next t ∧ t.descIs r d.num 0x24 ∧ t.mem = s.mem := by
  refine ⟨_, rfl, ?_⟩
  rw [eventRun_start head (.inl (by decide)) good, if_neg (by simp [off])]
  exact ⟨State.descDone_descIs w hd (eventHead_ph head) _ _, State.descDone_mem _ _⟩

/-! ### Waits that end (R324) -/

theorem exec_eventWaitSatisfied_ends {bs : List Byte} (w : twf {} s.rings = true) (hq : (s.ring r).waiting 2 = some d)
    (hd : (s.ring r).desc? d.num = some d) (rd : s.rdDva (s.ring r).stall (eAddr d.words) 8 = .ok bs) (reached : eValue d.words ≤ ofBytes bs) :
    ∃ t, exec (.eventWaitSatisfied r) s = .next t ∧ t.descIs r d.num 0 ∧ (s.slices.under = [] → t.mem.cells = s.mem.cells) := by
  have rings := didRead_rings (s := s) (s.ring r).stall (eAddr d.words) 8
  refine ⟨((s.didRead (s.ring r).stall (eAddr d.words) 8).descDone r d.num 0 0), ?_, ?_, fun h => by rw [State.descDone_mem, didRead_cells _ _ _ h]⟩
  · show execEventWaitSatisfied r s = _
    unfold execEventWaitSatisfied
    rw [hq]
    dsimp only
    rw [rd]
    exact if_pos reached
  · exact State.descDone_descIs (by rwa [rings]) (by rwa [State.ring, rings]) (waiting_ph hq) _ _

theorem exec_eventWaitSatisfied_stays {bs : List Byte} (hq : (s.ring r).waiting 2 = some d) (rd : s.rdDva (s.ring r).stall (eAddr d.words) 8 = .ok bs)
    (short : ofBytes bs < eValue d.words) : exec (.eventWaitSatisfied r) s = .next s := by
  show execEventWaitSatisfied r s = _
  unfold execEventWaitSatisfied
  rw [hq]
  dsimp only
  rw [rd]
  exact if_neg (by omega)

theorem exec_eventWaitSatisfied_none (none : (s.ring r).waiting 2 = none) : exec (.eventWaitSatisfied r) s = .next s := by
  show execEventWaitSatisfied r s = _
  unfold execEventWaitSatisfied
  rw [none]

theorem exec_waitTimeReached_none (none : (s.ring r).waiting 3 = none) : exec (.waitTimeReached r) s = .next s := by
  show execWaitTimeReached r s = _
  unfold execWaitTimeReached
  rw [none]

theorem exec_waitTimeReached (hq : (s.ring r).waiting 3 = some d) :
    exec (.waitTimeReached r) s = if d.aux ≤ s.clock then .next (s.descDone r d.num 0 0) else .next s := by
  show execWaitTimeReached r s = _
  unfold execWaitTimeReached
  rw [hq]

theorem exec_eventWaitTimeout (hq : ((s.ring r).ds.find? fun d => d.ph == .running && d.type == 7) = some d) :
    exec (.eventWaitTimeout r) s =
      if eTimeout d.words ≠ 0 ∧ d.since + 256 * eTimeout d.words ≤ s.clock then .next (s.descDone r d.num 0x30 0) else .next s := by
  show execEventWaitTimeout r s = _
  unfold execEventWaitTimeout
  rw [hq]

/-- A descriptor that runs is not done. -/
theorem running_ph {x : Ring} (h : (x.ds.find? fun d => d.ph == .running && d.type == 7) = some d) : d.ph ≠ .done := by
  have runs := List.find?_some h
  simp only [Bool.and_eq_true, beq_iff_eq] at runs
  rw [runs.1]
  decide

/-! ### Tally reads (R325, R365) -/

theorem exec_tallyRead_bad {o : Nat} (x : HostBytes) (w : twf {} s.rings = true) (head : s.headOf r 8 = some d) (hd : (s.ring r).desc? d.num = some d)
    (bad : tallyBad d.words = some o) : ∃ t, exec (.tallyRead r x) s = .next t ∧ t.descIs r d.num 0x0E ∧ t.mem = s.mem := by
  refine ⟨s.descInvalid r d.num o, ?_, State.descInvalid_descIs w hd (by rw [State.headOf_ph head]; decide) o, State.descInvalid_mem o⟩
  show execTallyRead r x s = _
  unfold execTallyRead
  rw [head]
  dsimp only
  rw [bad]

theorem exec_tallyRead_waits (x : HostBytes) (head : s.headOf r 8 = some d) (good : tallyBad d.words = none) (dev : wf d.words 1 63 63 = 0)
    (busy : s.writeWaits (s.ring r).stall (devAddr' (wf d.words 2 63 0)) 256 = true) : exec (.tallyRead r x) s = .next s := by
  show execTallyRead r x s = _
  unfold execTallyRead
  rw [head]
  dsimp only
  rw [good]
  exact if_pos ⟨by rw [dev]; decide, busy⟩

/-- The state in which a tally read writes its snapshot: the cores counted, and the tallies cleared where CLEAR is 1. -/
def State.snapshot (s : State) (st : Nat) (w : List W64) : State :=
  if Machine.wf w 1 62 62 = 1 then (s.countCores st).cleared0 st else s.countCores st

/-- Counting and clearing leave memory, rings and what is driven out. -/
theorem snapshot_frame (ws : twf {} s.stalls = true) (st : Nat) (w : List W64) :
    (s.snapshot st w).mem = s.mem ∧ (s.snapshot st w).rings = s.rings ∧ (s.snapshot st w).out = s.out ∧ twf {} (s.snapshot st w).stalls = true := by
  obtain ⟨mem, rings, out, wc⟩ := countCores_frame ws st
  unfold State.snapshot
  split
  · exact ⟨mem, rings, out, tset_wf _ _ _ wc⟩
  · exact ⟨mem, rings, out, wc⟩

theorem snapshot_cleared (ws : twf {} s.stalls = true) (st : Nat) {w : List W64} (clear : wf w 1 62 62 = 1) : ((s.snapshot st w).stall st).tally = [] := by
  obtain ⟨-, -, -, wc⟩ := countCores_frame ws st
  unfold State.snapshot State.cleared0
  rw [if_pos clear, State.modStall_eq, State.stall_setStall wc, if_pos rfl]

/-- The state that writes the snapshot differs in tallies alone from the one with the cores counted. -/
theorem snapshot_twin (ws : twf {} s.stalls = true) (st : Nat) (w : List W64) :
    Twin (s.countCores st) (s.snapshot st w) (s.countCores st) (s.snapshot st w) := by
  unfold State.snapshot
  split
  · exact cleared0_twin (countCores_frame ws st).2.2.2 st
  · exact Twin.refl _

theorem Twin.holdFor_none {a b s t : State} (h : Twin a b s t) {who : Reader} {m : MemErr} (free : s.holdFor who m = none) : t.holdFor who m = none := by
  have holds : t.goldenHolds = s.goldenHolds := by rw [h.same]; rfl
  unfold State.holdFor at *
  dsimp only at *
  rw [holds, h.mem]
  split at free
  · cases free
  · next no => rw [if_neg no]

/-- A tally read into host memory. -/
theorem exec_tallyRead_host (x : HostBytes) (head : s.headOf r 8 = some d) (good : tallyBad d.words = none) (host : wf d.words 1 63 63 = 1) :
    exec (.tallyRead r x) s =
      let q := s.ring r
      let u := s.snapshot q.stall d.words
      match x with
      | .fail _ => .next (u.descDone r d.num stHostFault 0)
      | .bytes _ => .next (((u.hostWrites q.func q.pasid (wf d.words 2 63 0) ((s.countCores q.stall).tallyBlock q.stall) q.roData).tally q.stall 0x30 256).descDone
          r d.num 0 0) := by
  show execTallyRead r x s = _
  unfold execTallyRead
  rw [head]
  dsimp only
  rw [good]
  dsimp only
  rw [if_neg (by rintro ⟨h, -⟩; exact h host), if_pos host]
  cases x <;> rfl

/-- A tally read into device memory. -/
theorem exec_tallyRead_device (x : HostBytes) (head : s.headOf r 8 = some d) (good : tallyBad d.words = none) (dev : wf d.words 1 63 63 = 0)
    (free : s.writeWaits (s.ring r).stall (devAddr' (wf d.words 2 63 0)) 256 = false) :
    exec (.tallyRead r x) s =
      let q := s.ring r
      let u := s.snapshot q.stall d.words
      match devAddr (wf d.words 2 63 0) >>= fun a => u.wrDva q.stall a ((s.countCores q.stall).tallyBlock q.stall) with
      | .error m => .next (u.descFault r d m)
      | .ok v => .next (v.descDone r d.num 0 0) := by
  show execTallyRead r x s = _
  unfold execTallyRead
  rw [head]
  dsimp only
  rw [good]
  dsimp only
  rw [if_neg (by rintro ⟨-, h⟩; simp [free] at h), if_neg (by rw [dev]; decide)]
  rfl

/-- A snapshot for the host that fails ends the read with HOST_FAULT. -/
theorem exec_tallyRead_hostFails (ws : twf {} s.stalls = true) (wr : twf {} s.rings = true) (head : s.headOf r 8 = some d)
    (hd : (s.ring r).desc? d.num = some d) (good : tallyBad d.words = none) (host : wf d.words 1 63 63 = 1) (c : HostFail) :
    ∃ t, exec (.tallyRead r (.fail c)) s = .next t ∧ t.descIs r d.num 0x2F ∧ t.mem = s.mem := by
  obtain ⟨mem, rings, -, -⟩ := snapshot_frame ws (s.ring r).stall d.words
  exact ⟨_, exec_tallyRead_host _ head good host,
    State.descDone_descIs (by rwa [rings]) (by rwa [State.ring, rings]) (by rw [State.headOf_ph head]; decide) _ _, by rw [State.descDone_mem, mem]⟩

/-- A snapshot that the host takes is the block of the instant at which the cores are counted; CLEAR leaves no tally but the bytes written. -/
theorem exec_tallyRead_hostTakes (ws : twf {} s.stalls = true) (wr : twf {} s.rings = true) (head : s.headOf r 8 = some d)
    (hd : (s.ring r).desc? d.num = some d) (good : tallyBad d.words = none) (host : wf d.words 1 63 63 = 1) (l : List Byte) :
    let q := s.ring r
    ∃ t, exec (.tallyRead r (.bytes l)) s = .next t ∧ t.descIs r d.num 0 ∧ t.mem = s.mem ∧
      t.out = (s.hostWrites q.func q.pasid (wf d.words 2 63 0) ((s.countCores q.stall).tallyBlock q.stall) q.roData).out ∧
      (wf d.words 1 62 62 = 1 → ∀ off, off ≠ 0x30 → tget 0 (t.stall q.stall).tally off = 0) := by
  intro q
  obtain ⟨mem, rings, out, wu⟩ := snapshot_frame ws q.stall d.words
  have only := hostWrites_only (s := s.snapshot q.stall d.words) q.func q.pasid (wf d.words 2 63 0) ((s.countCores q.stall).tallyBlock q.stall) q.roData
  have sent := hostWrites_out out q.func q.pasid (wf d.words 2 63 0) ((s.countCores q.stall).tallyBlock q.stall) q.roData
  refine ⟨_, exec_tallyRead_host _ head good host, ?_, ?_, ?_, fun clear off ho => ?_⟩
  all_goals revert only sent
  all_goals generalize (s.snapshot q.stall d.words).hostWrites q.func q.pasid (wf d.words 2 63 0) ((s.countCores q.stall).tallyBlock q.stall) q.roData = v
  all_goals intro only sent
  · have vr : v.rings = s.rings := by rw [only]; exact rings
    exact State.descDone_descIs (s := v.tally q.stall 0x30 256) (show twf {} v.rings = true by rwa [vr]) (show (tget {} v.rings _).desc? _ = _ by rwa [vr]) (by rw [State.headOf_ph head]; decide) _ _
  · rw [State.descDone_mem]
    show v.mem = _
    rw [only]
    exact mem
  · rw [State.descDone_out]
    exact sent
  · have vs : v.stalls = (s.snapshot q.stall d.words).stalls := by rw [only]
    have wv : twf {} v.stalls = true := by rwa [vs]
    have none : (v.stall q.stall).tally = [] := by unfold State.stall; rw [vs]; exact snapshot_cleared ws q.stall clear
    rw [State.descDone_tally (tset_wf _ _ _ wv)]
    unfold State.tally
    rw [State.modStall_eq, State.stall_setStall wv, if_pos rfl]
    dsimp only
    rw [none, tmod, tget_tset 0 _ _ _ rfl, if_neg ho]
    rfl

/-- A snapshot that device memory takes. -/
theorem exec_tallyRead_deviceTakes (ws : twf {} s.stalls = true) (wr : twf {} s.rings = true) (x : HostBytes) (head : s.headOf r 8 = some d)
    (hd : (s.ring r).desc? d.num = some d) (good : tallyBad d.words = none) (dev : wf d.words 1 63 63 = 0)
    (free : s.writeWaits (s.ring r).stall (devAddr' (wf d.words 2 63 0)) 256 = false) {u : State}
    (hu : (devAddr (wf d.words 2 63 0) >>= fun a =>
      (s.countCores (s.ring r).stall).wrDva (s.ring r).stall a ((s.countCores (s.ring r).stall).tallyBlock (s.ring r).stall)) = .ok u) :
    ∃ t, exec (.tallyRead r x) s = .next t ∧ t.descIs r d.num 0 ∧ t.mem = u.mem := by
  obtain ⟨-, rings, -, -⟩ := snapshot_frame ws (s.ring r).stall d.words
  rw [exec_tallyRead_device x head good dev free]
  dsimp only
  cases ha : devAddr (wf d.words 2 63 0) with
  | error m => rw [ha] at hu; cases hu
  | ok a =>
    rw [ha] at hu
    obtain ⟨m, e, -⟩ | ⟨v, v', tw, e, e'⟩ := wrDva_twin (s.ring r).stall a ((s.countCores (s.ring r).stall).tallyBlock (s.ring r).stall)
      (snapshot_twin ws (s.ring r).stall d.words)
    · cases e.symm.trans hu
    · cases e.symm.trans hu
      have vr : v'.rings = s.rings := by rw [tw.same]; exact tw.rings.trans (countCores_frame ws _).2.1
      refine ⟨_, by show (match State.wrDva _ _ _ _ with | .error m => _ | .ok v => _) = _; rw [e'], ?_, ?_⟩
      · exact State.descDone_descIs (s := v'.tally _ _ _) (show twf {} v'.rings = true by rwa [vr]) (show (tget {} v'.rings _).desc? _ = _ by rwa [vr])
          (by rw [State.headOf_ph head]; decide) _ _
      · rw [State.descDone_mem]
        exact tw.mem

/-- A snapshot that device memory refuses ends the read with the cause of the access. -/
theorem exec_tallyRead_deviceFails (ws : twf {} s.stalls = true) (wr : twf {} s.rings = true) (x : HostBytes) (head : s.headOf r 8 = some d)
    (hd : (s.ring r).desc? d.num = some d) (good : tallyBad d.words = none) (dev : wf d.words 1 63 63 = 0)
    (free : s.writeWaits (s.ring r).stall (devAddr' (wf d.words 2 63 0)) 256 = false) {m : MemErr}
    (hm : (devAddr (wf d.words 2 63 0) >>= fun a =>
      (s.countCores (s.ring r).stall).wrDva (s.ring r).stall a ((s.countCores (s.ring r).stall).tallyBlock (s.ring r).stall)) = .error m)
    (unheld : (s.countCores (s.ring r).stall).holdFor (.desc r d.num) m = none) :
    ∃ t, exec (.tallyRead r x) s = .next t ∧ t.descIs r d.num m.cause ∧ t.mem = s.mem := by
  obtain ⟨mem, rings, -, -⟩ := snapshot_frame ws (s.ring r).stall d.words
  have twin := snapshot_twin ws (s.ring r).stall d.words
  have ends := descFault_ends (r := r) (m := m) (by rwa [rings]) (by rwa [State.ring, rings]) (by rw [State.headOf_ph head]; decide)
    (twin.holdFor_none unheld)
  rw [mem] at ends
  refine ⟨_, ?_, ends⟩
  rw [exec_tallyRead_device x head good dev free]
  dsimp only
  cases ha : devAddr (wf d.words 2 63 0) with
  | error e =>
    rw [ha] at hm
    cases hm
    rfl
  | ok a =>
    rw [ha] at hm
    obtain ⟨e, refused, refused'⟩ | ⟨_, _, -, takes, -⟩ := wrDva_twin (s.ring r).stall a ((s.countCores (s.ring r).stall).tallyBlock (s.ring r).stall) twin
    · cases refused.symm.trans hm
      show (match State.wrDva _ _ _ _ with | .error m => _ | .ok v => _) = _
      rw [refused']
    · cases takes.symm.trans hm

end Sys2Proof.Machine
end

section

open Sys2Proof Sys2Proof.Machine

/-- Settles O55: each row runs the descriptor the ring shows it, and what it does to the event or the tallies is told by that row's own lemma. -/
theorem eventsAndTallies : Obligations.EventsAndTallies := by
  unfold Obligations.EventsAndTallies
  intro s r hw q
  obtain ⟨ws, wr⟩ := State.wf_units hw
  refine ⟨fun i hi => ?checks, fun d hd good => ⟨?fence, fun head before => ⟨?busy, fun bs u free rd wr' => ?writes⟩, ?wait, ?waitTime, ?waitTimeLost⟩,
    ?noWait, ?noWaitTime, fun d bs hq hd rd => ⟨?satisfied, ?unsatisfied⟩, fun d hq hd => ⟨?reached, ?unreached⟩,
    fun d hq hd => ⟨?timeout, ?noTimeout⟩, fun x d head hd => ⟨?tallyBad, fun good => ⟨fun host => ⟨?fails, ?takes⟩, fun dev => ⟨?waits, fun free => ⟨?stored, ?refused⟩⟩⟩⟩⟩
  case checks =>
    obtain ⟨f, run⟩ := exec_eventRow (s := s) r hi
    rw [run]
    refine ⟨fun none => by rw [eventRun_none none], fun d head hd => ⟨fun early before => by rw [eventRun_early head early before],
      fun ready o bad => ⟨_, by rw [eventRun_bad head ready bad], State.descInvalid_descIs wr hd (eventHead_ph head) o, by simp⟩⟩⟩
  case fence => exact exec_fenceDesc_ends wr hd good
  case busy => exact exec_signal_waits good head before
  case writes => exact exec_signal_writes wr hd good head before free rd wr'
  case wait => exact fun _ => exec_wait_runs wr hd good
  case waitTime => exact exec_waitTime_runs wr hd good
  case waitTimeLost => exact exec_waitTime_lost wr hd good
  case noWait => exact exec_eventWaitSatisfied_none
  case noWaitTime => exact exec_waitTimeReached_none
  case satisfied => exact exec_eventWaitSatisfied_ends wr hq hd rd
  case unsatisfied => exact exec_eventWaitSatisfied_stays hq rd
  case reached =>
    intro due
    rw [exec_waitTimeReached hq, if_pos due]
    exact ⟨_, rfl, State.descDone_descIs wr hd (waiting_ph hq) _ _, State.descDone_mem _ _⟩
  case unreached =>
    intro early
    rw [exec_waitTimeReached hq, if_neg (by omega)]
  case timeout =>
    intro timed due
    rw [exec_eventWaitTimeout hq, if_pos ⟨timed, due⟩]
    exact ⟨_, rfl, State.descDone_descIs wr hd (running_ph hq) _ _, State.descDone_mem _ _⟩
  case noTimeout =>
    intro early
    rw [exec_eventWaitTimeout hq, if_neg (by omega)]
  case tallyBad => exact fun _ => exec_tallyRead_bad x wr head hd
  case fails =>
    rintro c rfl
    exact exec_tallyRead_hostFails ws wr head hd good host c
  case takes =>
    rintro l rfl
    exact exec_tallyRead_hostTakes ws wr head hd good host l
  case waits => exact exec_tallyRead_waits x head good dev
  case stored => exact fun _ => exec_tallyRead_deviceTakes ws wr x head hd good dev free
  case refused => exact fun _ => exec_tallyRead_deviceFails ws wr x head hd good dev free

end

section
/-! PROOF. What the operations of the units keep, one lemma for each operation (in the manner of Laws/Memory.lean): stalls, descriptors,
packets and windows, updates, contexts. -/

namespace Sys2Proof.Machine

variable {a s : State}

/-! ### Accessors -/

theorem modStall_keeps (n : Nat) (f : Stall → Stall) (h : Keeps a s) : Keeps a (s.modStall n f) := h.upd

theorem modRing_keeps (r : Nat) (f : Ring → Ring) (h : Keeps a s) : Keeps a (s.modRing r f) := h.upd

theorem setPort_keeps (p : Nat) (x : Port) (h : Keeps a s) : Keeps a (s.setPort p x) := h.upd

theorem modPort_keeps (p : Nat) (f : Port → Port) (h : Keeps a s) : Keeps a (s.modPort p f) := h.upd

theorem modFn_keeps (n : Nat) (f : Fn → Fn) (h : Keeps a s) : Keeps a (s.modFn n f) := h.upd

theorem setCtx_keeps (n : Nat) (x : Option Ctx) (h : Keeps a s) : Keeps a (s.setCtx n x) := h.upd

theorem setCore_keeps (c : Nat) (x : Core) (h : Keeps a s) : Keeps a (s.setCore c x) := h.upd

theorem modCore_keeps (c : Nat) (f : Core → Core) (h : Keeps a s) : Keeps a (s.modCore c f) := h.upd

theorem setColl_keeps (c : Coll) (h : Keeps a s) : Keeps a (s.setColl c) := h.upd

theorem dropColl_keeps (c : Coll) (h : Keeps a s) : Keeps a (s.dropColl c) := h.upd

theorem dropStores_keeps (sel : Nat → Nat → Nat → Bool) (h : Keeps a s) : Keeps a (s.dropStores sel) := h.upd

theorem drive_keeps (o : Out) (h : Keeps a s) : Keeps a (s.drive o) := h.upd

theorem fresh_keeps (h : Keeps a s) : Keeps a s.fresh := h.upd

theorem taint_keeps (st : Nat) (h : Keeps a s) : Keeps a (s.taint st) := modStall_keeps _ _ h

/-- An event entered at most so often in a period. -/
theorem atMost_keeps {event unit period n : Nat} {f : Nat → State → State} (h : Keeps a s) (hf : ∀ n s, Keeps a s → Keeps a (f n s)) :
    Keeps a (s.atMost event unit period n f) := by
  unfold State.atMost
  exact ite_keeps (hf _ _ h.upd) h.upd

theorem interruption_keeps (src : Nat) (h : Keeps a s) : Keeps a (s.interruption src) := setHealth_keeps _ h

theorem noteErr_keeps (kind unit st oper : Nat) (m : MemErr) (h : Keeps a s) : Keeps a (s.noteErr kind unit st oper m) := by
  have entered {event a1 : Nat} {a2 : Nat} : Keeps a (s.ledger event 2 kind unit (some st) m.addr a1 a2 (oper := oper)) := ledger_keeps _ _ _ _ _ _ _ _ _ _ _ h
  unfold State.noteErr
  refine ite_keeps entered (ite_keeps ?_ h)
  split
  · exact ite_keeps h entered
  · exact h

/-! ### Descriptors -/

theorem pipeIdle_keeps (r : Nat) (h : Keeps a s) : Keeps a (s.pipeIdle r) :=
  ite_keeps (ite_keeps (modStall_keeps _ _ h) h) h

theorem taken_keeps (r : Nat) (n : W32) (h : Keeps a s) : Keeps a (s.taken r n) := by
  unfold State.taken
  split
  · exact ite_keeps h.upd h
  · exact h

theorem descDone_keeps (r : Nat) (n : W32) (status flags : Nat) (h : Keeps a s) : Keeps a (s.descDone r n status flags) :=
  pipeIdle_keeps _ (modRing_keeps _ _ (ite_keeps h (taken_keeps _ _ h)))

theorem noteLevel_keeps (r : Nat) (n : W32) (m : MemErr) (h : Keeps a s) : Keeps a (s.noteLevel r n m) := ite_keeps (modRing_keeps _ _ h) h

/-! ### Packets -/

theorem queuePkt_keeps (st port vc flow : Nat) (p : Pkt) (h : Keeps a s) : Keeps a (s.queuePkt st port vc flow p) :=
  tally_keeps _ _ _ (modPort_keeps _ _ h)

theorem sendPkt_keeps (st vc dst : Nat) (p : Pkt) (h : Keeps a s) : Keeps a (s.sendPkt st vc dst p) := ite_keeps (queuePkt_keeps _ _ _ _ _ h) h

theorem respond_keeps (x : Pkt) (typ status : Nat) (data : List Byte) (h : Keeps a s) : Keeps a (s.respond x typ status data) :=
  sendPkt_keeps _ _ _ _ h

theorem putDone_keeps (x : Pkt) (status : Nat) (h : Keeps a s) : Keeps a (s.putDone x status) := ite_keeps (respond_keeps _ _ _ _ h) h

theorem notify_keeps (st : Nat) (ms : List (Nat × Nat)) (coll epoch kind step attempt reason member crc : Nat) (h : Keeps a s) :
    Keeps a (s.notify st ms coll epoch kind step attempt reason member crc) :=
  forEach_keeps _ h fun _ _ h => sendPkt_keeps _ _ _ _ h

theorem winDenied_keeps (p : Nat) (x : Pkt) (h : Keeps a s) : Keeps a (s.winDenied p x) := by
  unfold State.winDenied State.fabDiscard
  exact atMost_keeps (modPort_keeps _ _ h) fun _ _ h => ledger_keeps _ _ _ _ _ _ _ _ _ _ _ h

/-! ### Accesses through windows -/

theorem windowHeld_keeps (x : Pkt) (h : Keeps a s) : KeepsSome id a (s.windowHeld x) := by
  unfold State.windowHeld
  dsimp only
  split
  · exact .none
  · split
    · exact .none
    · exact holdFor_keeps _ _ h

/-- A write through a window keeps what the write itself keeps. -/
theorem windowWrite_keeps {p op n : Nat} {x : Pkt} {f : State → Nat → Except MemErr State} (h : Keeps a s)
    (hf : ∀ s b, Keeps a s → KeepsOk id a (f s b)) : Keeps a (s.windowWrite p x op n f) := by
  unfold State.windowWrite
  refine ite_keeps (putDone_keeps _ _ h) ?_
  split
  · exact putDone_keeps _ _ (winDenied_keeps _ _ h)
  · refine ite_keeps (putDone_keeps _ _ (noteErr_keeps _ _ _ _ _ h)) ?_
    split
    · next u e => exact putDone_keeps _ _ (tally_keeps _ _ _ (hf _ _ h u e))
    · exact putDone_keeps _ _ (noteErr_keeps _ _ _ _ _ h)

theorem sliceResidue_keeps (st oper op d : Nat) (twice : Bool) (h : Keeps a s) : Keeps a (s.sliceResidue st oper op d twice) := by
  have g : ∀ sev, Keeps a (s.ledger 0x0602 sev 0x07 (s.homeSlice d) (some st) (s.homeSlice d) op d (oper := oper)) :=
    fun _ => ledger_keeps _ _ _ _ _ _ _ _ _ _ _ h
  exact ite_keeps (taint_keeps _ (poisonUnit_keeps _ (g _))) (g _)

theorem putResidue_keeps (x : Pkt) (res : Nat) (h : Keeps a s) : Keeps a (s.putResidue x res).1 := by
  unfold State.putResidue
  split
  · exact h
  · split
    · exact h
    · exact sliceResidue_keeps _ _ _ _ _ h

theorem reduceInto_keeps (st red x : Nat) (vs : List Nat) (h : Keeps a s) : KeepsOk id a (s.reduceInto st red x vs) := by
  unfold State.reduceInto
  split
  · exact accAll_keeps _ _ _ h
  · exact .bind fun _ _ => wrDva_keeps _ _ _ h

theorem getAnswer_keeps (p : Nat) (x : Pkt) (h : Keeps a s) : Keeps a (s.getAnswer p x) := by
  unfold State.getAnswer
  refine ite_keeps (respond_keeps _ _ _ _ h) ?_
  split
  · exact respond_keeps _ _ _ _ (winDenied_keeps _ _ h)
  · split
    · exact respond_keeps _ _ _ _ (didRead_keeps _ _ _ h)
    · split
      · next u e => exact holdFor_keeps _ _ h u e
      · exact respond_keeps _ _ _ _ (noteErr_keeps _ _ _ _ _ h)

theorem getNow_keeps (p : Nat) (x : Pkt) (h : Keeps a s) : Keeps a (s.getNow p x) := ite_keeps (modStall_keeps _ _ h) (getAnswer_keeps _ _ h)

/-- The state of a pair chosen by a condition. -/
theorem ite_fst_keeps {β : Type} {p : Prop} [Decidable p] {x y : State × β} (hx : Keeps a x.1) (hy : Keeps a y.1) : Keeps a (if p then x else y).1 := by
  split
  · exact hx
  · exact hy

theorem performed_keeps (p : Nat) (x : Pkt) (res : Nat) (h : Keeps a s) : Keeps a (s.performed p x res) := by
  unfold State.performed
  refine ite_keeps (windowWrite_keeps h fun _ _ h => wrDva_keeps _ _ _ h) (ite_keeps ?_ (getNow_keeps _ _ h))
  refine windowWrite_keeps (ite_fst_keeps h (putResidue_keeps _ _ h)) fun s b h => ?_
  dsimp only
  split
  · exact .error _
  · exact reduceInto_keeps _ _ _ _ h

theorem bestArrives_keeps (p : Nat) (x : Pkt) (res : Nat) (h : Keeps a s) : Keeps a (s.bestArrives p x res) := by
  unfold State.bestArrives
  refine ite_keeps (h.updSide rfl rfl rfl rfl) ?_
  split
  · next u e => exact Keeps.updSide (windowHeld_keeps _ h u e) rfl rfl rfl rfl
  · exact performed_keeps _ _ _ h

theorem drain_keeps (h : Keeps a s) : Keeps a s.drain :=
  forEach_keeps _ (h.updSide rfl rfl rfl rfl) fun _ _ h => ite_keeps (h.updSide rfl rfl rfl rfl) (bestArrives_keeps _ _ _ h)

/-! ### Updates and retractions -/

theorem storeLease_keeps (sel : Nat → Nat → Nat → Bool) (h : Keeps a s) : Keeps a (s.storeLease sel) :=
  forEach_keeps _ h fun _ _ h => forEach_keeps _ h fun _ _ h => ledger_keeps _ _ _ _ _ _ _ _ _ _ _ h

theorem releaseHold_keeps (st : Nat) (h : Keeps a s) : Keeps a (s.releaseHold st) :=
  drain_keeps (forEach_keeps _ (modStall_keeps _ _ h) fun _ _ h => getAnswer_keeps _ _ h)

theorem updEnd_keeps (st status : Nat) (keepHold : Bool) (at_ : Nat × Nat × Nat) (h : Keeps a s) : Keeps a (s.updEnd st status keepHold at_) := by
  unfold State.updEnd
  split
  · exact h
  · next j _ =>
    extract_lets s₁ s₂ step keepHold' gone s₃
    have done : Keeps a s₁ := descDone_keeps _ _ _ _ (modStall_keeps _ _ h)
    have told : Keeps a s₂ := ite_keeps done (ledger_keeps _ _ _ _ _ _ _ _ _ _ _ done)
    have dropped : Keeps a s₃ := modStall_keeps _ _ (dropStores_keeps _ (storeLease_keeps _ told))
    exact ite_keeps told (ite_keeps dropped (releaseHold_keeps _ dropped))

theorem raiseStep_keeps (st step n : Nat) (h : Keeps a s) : Keeps a (s.raiseStep st step n) := by
  unfold State.raiseStep
  dsimp only
  split
  · exact ite_keeps (updEnd_keeps _ _ _ _ (dropStores_keeps _ (Keeps.upd (modStall_keeps _ _ h)))) (dropStores_keeps _ (Keeps.upd (modStall_keeps _ _ h)))
  · exact dropStores_keeps _ (Keeps.upd (modStall_keeps _ _ h))

theorem retractStep_keeps (st step reason epoch : Nat) (h : Keeps a s) : Keeps a (s.retractStep st step reason epoch) := by
  unfold State.retractStep
  exact raiseStep_keeps _ _ _ (notify_keeps _ _ _ _ _ _ _ _ _ _ (ledger_keeps _ _ _ _ _ _ _ _ _ _ _ h))

theorem taintClose_keeps (st : Nat) (h : Keeps a s) : Keeps a (s.taintClose st) := by
  unfold State.taintClose
  extract_lets e s₁ s₂ steps
  have closed : Keeps a s₂ := Keeps.upd (modStall_keeps _ _ h)
  exact ite_keeps closed (modStall_keeps _ _ (forEach_keeps _ closed fun _ _ h => retractStep_keeps _ _ _ _ h))

/-! ### Contexts -/

theorem setGroup_keeps (c g : Nat) (x : Group) (h : Keeps a s) : Keeps a (s.setGroup c g x) := modCore_keeps _ _ h

theorem preempt_keeps (n : Nat) (x : Ctx) (m : Nat) (y : Ctx) (h : Keeps a s) : Keeps a (s.preempt n x m y) :=
  forEach_keeps _ (forEach_keeps _ (tally_keeps _ _ _ (setCtx_keeps _ _ h)) fun _ _ h => modCore_keeps _ _ h) fun _ _ h => modCore_keeps _ _ h

theorem tokenDown_keeps (c i serial t : Nat) (h : Keeps a s) : Keeps a (s.tokenDown c i serial t) := by
  unfold State.tokenDown
  split
  · exact ite_keeps (ite_keeps (setGroup_keeps _ _ _ h) (modCore_keeps _ _ (setGroup_keeps _ _ _ h))) h
  · exact h

theorem wrLocal_keeps (c x : Nat) (bs : List Byte) (h : Keeps a s) : Keeps a (s.wrLocal c x bs) :=
  forEach_keeps _ (setCore_keeps _ _ h) fun _ _ h => ledger_keeps _ _ _ _ _ _ _ _ _ _ _ h

theorem invalEnd_keeps (h : Keeps a s) : Keeps a s.invalEnd := by
  unfold State.invalEnd
  split
  · exact ite_keeps h h.upd
  · exact h

theorem abandonCore_keeps (c : Nat) (h : Keeps a s) : Keeps a (s.abandonCore c) := invalEnd_keeps (fresh_keeps (modCore_keeps _ _ h))

theorem abortColl_keeps (c : Coll) (status : Nat) (sendLeave : Bool) (h : Keeps a s) : Keeps a (s.abortColl c status sendLeave) := by
  unfold State.abortColl
  exact modStall_keeps _ _ (dropColl_keeps _ (ite_keeps (notify_keeps _ _ _ _ _ _ _ _ _ _ h) h))

theorem abortCtxColls_keeps (ctx status : Nat) (h : Keeps a s) : Keeps a (s.abortCtxColls ctx status) :=
  forEach_keeps _ h fun _ _ h => abortColl_keeps _ _ _ h

theorem countCause_keeps (st : Nat) (f : CtxFault) (h : Keeps a s) : Keeps a (s.countCause st f) :=
  ite_keeps (interruption_keeps _ (tally_keeps _ _ _ h)) (ite_keeps (interruption_keeps _ h) h)

theorem ctxFault_keeps (n : Nat) (f : CtxFault) (h : Keeps a s) : Keeps a (s.ctxFault n f) := by
  unfold State.ctxFault
  split
  · exact h
  · next x _ =>
    split
    · exact setCtx_keeps _ _ h
    · have faulted : ∀ y g, Keeps a (((forEach x.cores (s.setCtx n y) fun c s => s.abandonCore c).abortCtxColls n (CtxFault.cause g)).countCause x.stall g) :=
        fun _ _ => countCause_keeps _ _ (abortCtxColls_keeps _ _ (forEach_keeps _ (setCtx_keeps _ _ h) fun _ _ h => abandonCore_keeps _ h))
      exact ite_keeps (taint_keeps _ (faulted _ _)) (faulted _ _)

end Sys2Proof.Machine
end

section
/-! PROOF. What the operations of the units keep, continued: collectives, refills, links and tunings. -/

namespace Sys2Proof.Machine

variable {a s : State}

/-! ### Collectives that end -/

theorem collResult_keeps (c : Coll) (i : Issue) (status time : Nat) (h : Keeps a s) : Keeps a (s.collResult c i status time) := by
  unfold State.collResult
  split
  · exact ite_keeps (dropColl_keeps _ (tokenDown_keeps _ _ _ _ (wrLocal_keeps _ _ _ h))) (ite_keeps (dropColl_keeps _ h) (setColl_keeps _ h))
  · exact dropColl_keeps _ h

theorem collEnd_keeps (c : Coll) (status : Nat) (quiet : Bool) (level : Nat) (h : Keeps a s) : Keeps a (s.collEnd c status quiet level) := by
  unfold State.collEnd
  split
  extract_lets s₁ s₂ s₃ s₄
  have h₁ : Keeps a s₁ := ite_keeps h (ledger_keeps _ _ _ _ _ _ _ _ _ _ _ h)
  have h₂ : Keeps a s₂ := ite_keeps (notify_keeps _ _ _ _ _ _ _ _ _ _ h₁) h₁
  have h₃ : Keeps a s₃ := modStall_keeps _ _ h₂
  have h₄ : Keeps a s₄ := ite_keeps h₃.upd h₃
  clear_value s₄
  split
  · exact dropColl_keeps _ (descDone_keeps _ _ _ _ h₄)
  · exact collResult_keeps _ _ _ _ (ite_keeps (tally_keeps _ _ _ h₄) h₄)
  · exact dropColl_keeps _ h₄

theorem collsEnd_keeps (sel : Coll → Bool) (status : Nat) (h : Keeps a s) : Keeps a (s.collsEnd sel status) :=
  forEach_keeps _ h fun _ _ h => collEnd_keeps _ _ _ _ h

theorem collFault_keeps (c : Coll) (m : MemErr) (h : Keeps a s) : Keeps a (s.collFault c m) := by
  unfold State.collFault
  extract_lets s₁
  have h₁ : Keeps a s₁ := collEnd_keeps _ _ _ _ (noteErr_keeps _ _ _ _ _ h)
  split
  · exact noteLevel_keeps _ _ _ h₁
  · exact h₁

theorem collErr_keeps (c : Coll) (m : MemErr) (h : Keeps a s) : Keeps a (s.collErr c m) := by
  unfold State.collErr
  split
  · next u e => exact holdFor_keeps _ _ h u e
  · exact collFault_keeps _ _ h

/-! ### What a collective writes -/

theorem decodeStaged_keeps (unit : Nat × Nat) (st x i : Nat) (errs : SymErrs) (bs : List Byte) (bad : List Nat) (h : Keeps a s) :
    Keeps a (s.decodeStaged unit st x i errs bs bad).1 := by
  unfold State.decodeStaged
  refine ite_fst_keeps h ?_
  split
  · exact h
  · exact h
  · exact h
  · exact ledger_keeps _ _ _ _ _ _ _ _ _ _ _ h
  · exact ite_fst_keeps (ledger_keeps _ _ _ _ _ _ _ _ _ _ _ (fresh_keeps h)) (fresh_keeps h)

theorem readReserved_keeps (c : Coll) (us : UnitErrs) (h : Keeps a s) : Keeps a (s.readReserved c us).1 := by
  refine foldl_fst_keeps h fun b u h => ?_
  split
  · exact decodeStaged_keeps _ _ _ _ _ _ _ h
  · exact h

theorem commitStaged_keeps (c : Coll) : ∀ (l : List Seg) {s : State}, Keeps a s → KeepsOk id a (s.commitStaged c l)
  | [], _, h => .ok h
  | g :: t, s, h => by
    unfold State.commitStaged
    dsimp only
    split
    · exact .bind fun u e => commitStaged_keeps c t (wrDva_keeps _ _ _ h u e)
    · exact commitStaged_keeps c t h

theorem permuteEnd_keeps (c : Coll) (us : UnitErrs) (h : Keeps a s) : Keeps a (s.permuteEnd c us) := by
  unfold State.permuteEnd
  split
  next s₁ c₁ e =>
  have h₁ : Keeps a s₁ := (readReserved_keeps c us h).fst e
  split
  · exact collFault_keeps _ _ h₁
  · split
    · next u e => exact collEnd_keeps _ _ _ _ (commitStaged_keeps _ _ h₁ u e)
    · exact collFault_keeps _ _ h₁

theorem accEngine_keeps (st x : Nat) (vs : List Nat) (h : Keeps a s) : KeepsOk id a (s.accEngine st x vs) := by
  unfold State.accEngine
  split
  · next u e =>
    split
    · exact .ok (h.updSide rfl rfl rfl rfl)
    · exact .ok (accAll_keeps _ _ _ h u e)
  · exact .error _

theorem addHeld_keeps (c : Coll) : ∀ (l : List Seg) {s : State}, Keeps a s → KeepsOk id a (s.addHeld c l)
  | [], _, h => .ok h
  | g :: t, s, h => by
    unfold State.addHeld
    dsimp only
    split
    · exact .bind fun u e => addHeld_keeps c t (accEngine_keeps _ _ _ h u e)
    · exact addHeld_keeps c t h

theorem collResidue_keeps (c : Coll) (dva : Option Nat) (res : Nat) {go : State → State} (h : Keeps a s) (hg : ∀ s, Keeps a s → Keeps a (go s)) :
    Keeps a (s.collResidue c dva res go) := by
  unfold State.collResidue
  split
  · exact hg _ h
  · refine ite_keeps (hg _ h) ?_
    split
    · exact hg _ h
    · exact ite_keeps (collFault_keeps _ _ (sliceResidue_keeps _ _ _ _ _ h)) (hg _ (sliceResidue_keeps _ _ _ _ _ h))

/-! ### Seals -/

theorem askSeal_keeps (c : Coll) (r k : Nat) (h : Keeps a s) : Keeps a (s.askSeal c r k) := by
  unfold State.askSeal
  split
  · exact collErr_keeps _ _ h
  · split
    · exact setColl_keeps _ (notify_keeps _ _ _ _ _ _ _ _ _ _ h)
    · exact setColl_keeps _ h

theorem keepShards_keeps (c : Coll) (h : Keeps a s) : Keeps a (s.keepShards c) := by
  unfold State.keepShards
  have dropped : ∀ sel, Keeps a ((s.storeLease sel).dropStores sel) := fun _ => dropStores_keeps _ (storeLease_keeps _ h)
  exact ite_keeps h (ite_keeps (dropped _) (dropped _).upd)

theorem sealNext_keeps (c : Coll) (h : Keeps a s) : Keeps a (s.sealNext c) := by
  unfold State.sealNext
  split
  · exact askSeal_keeps _ _ _ h
  · exact collEnd_keeps _ _ _ _ (keepShards_keeps _ h)

theorem recordSeals_keeps (c : Coll) : ∀ (l : List Nat) {s : State}, Keeps a s → KeepsOk id a (s.recordSeals c l)
  | [], _, h => .ok h
  | r :: t, s, h => by
    unfold State.recordSeals
    exact .bind fun _ _ => .bind fun u e => recordSeals_keeps c t (wrDva_keeps _ _ _ (didRead_keeps _ _ _ h) u e)

theorem sealFail_keeps (c : Coll) (h : Keeps a s) : Keeps a (s.sealFail c) :=
  ite_keeps (collEnd_keeps _ _ _ _ h) (retractStep_keeps _ _ _ _ (collEnd_keeps _ _ _ _ h))

theorem collFinish_keeps (c : Coll) (us : UnitErrs) (res : Nat) (h : Keeps a s) : Keeps a (s.collFinish c us res) := by
  unfold State.collFinish
  split
  next s₁ c₁ e =>
  have h₁ : Keeps a s₁ := (readReserved_keeps c us h).fst e
  split
  · exact collFault_keeps _ _ h₁
  · refine collResidue_keeps _ _ _ h₁ fun s h => ?_
    split
    · exact collErr_keeps _ _ h
    · next u e =>
      have added : Keeps a u := addHeld_keeps _ _ h u e
      refine ite_keeps (sealNext_keeps _ added) (ite_keeps ?_ ?_)
      · split
        · exact collErr_keeps _ _ added
        · next v e => exact sealNext_keeps _ (recordSeals_keeps _ _ added v e)
      · split
        · exact collErr_keeps _ _ added
        · exact sealNext_keeps _ added
        · exact ite_keeps (sealNext_keeps _ added) (sealFail_keeps _ added)

end Sys2Proof.Machine
end

section
/-! PROOF. What the operations of the units keep, continued: what a member lands from itself, refills, String time's states, links. -/

namespace Sys2Proof.Machine

variable {a s : State}

/-! ### What a member lands from itself -/

/-- A delivery that may fail: where it succeeds, the state in it is kept to. -/
def KeepsDelivered (a : State) (r : Delivered) : Prop := ∀ t d, r = .ok t d → Keeps a t

theorem KeepsDelivered.ok {c : Coll} (h : Keeps a s) : KeepsDelivered a (.ok s c) := fun _ _ e => by cases e; exact h

theorem KeepsDelivered.fail {m : MemErr} : KeepsDelivered a (.fail m) := fun _ _ e => by cases e

theorem KeepsDelivered.full : KeepsDelivered a .full := fun _ _ e => by cases e

theorem KeepsDelivered.size : KeepsDelivered a .size := fun _ _ e => by cases e

theorem tallyCounts_keeps (st : Nat) (l : List Nat) (h : Keeps a s) : Keeps a (s.tallyCounts st l) :=
  forEach_keeps _ h fun _ _ h => tally_keeps _ _ _ h

theorem deliver_keeps (c : Coll) (r e : Nat) (bs : List Byte) (h : Keeps a s) : KeepsDelivered a (s.deliver c r e bs) := by
  unfold State.deliver
  split
  · split
    · split
      · exact .full
      · exact .ok h
    · split
      · next u e => exact .ok (accEngine_keeps _ _ _ h u e)
      · exact .fail
  · split
    · next u e => exact .ok (wrDva_keeps _ _ _ h u e)
    · exact .fail

theorem deliverSum_keeps (c : Coll) (e : Nat) (vs : List Nat) (h : Keeps a s) : KeepsDelivered a (s.deliverSum c e vs).1 := by
  unfold State.deliverSum
  split
  · exact deliver_keeps _ _ _ _ h
  · exact deliver_keeps _ _ _ _ (tallyCounts_keeps _ _ h)

theorem ownPiece_keeps (c : Coll) (h : Keeps a s) : KeepsDelivered a (s.ownPiece c) := by
  unfold State.ownPiece
  split
  · split
    · exact .ok h
    · split
      · exact .fail
      · split
        · next u e => exact .ok (wrDva_keeps _ _ _ (didRead_keeps _ _ _ h) u e)
        · exact .fail
  · exact .ok h

theorem stageOwn_keeps : ∀ (l : List Piece) (c : Coll) {s : State}, Keeps a s → KeepsDelivered a (s.stageOwn c l)
  | [], _, _, h => .ok h
  | p :: t, c, s, h => by
    unfold State.stageOwn
    split
    · exact .fail
    · dsimp only
      split
      · exact .size
      · exact stageOwn_keeps t _ (didRead_keeps _ _ _ h)

theorem landOwn_keeps (c : Coll) (h : Keeps a s) : KeepsDelivered a (s.landOwn c) := by
  unfold State.landOwn
  split
  · dsimp only
    split
    · exact .fail
    · exact deliver_keeps _ _ _ _ (didRead_keeps _ _ _ h)
  · exact .ok h
  · exact ownPiece_keeps _ h
  · exact stageOwn_keeps _ _ h
  · exact .ok h
  · split
    · exact .ok h
    · split
      · exact .fail
      · exact deliverSum_keeps _ _ _ (didRead_keeps _ _ _ h)

theorem collLand_keeps (c : Coll) (h : Keeps a s) : Keeps a (s.collLand c) := by
  unfold State.collLand
  split
  · next u d e =>
    have landed : Keeps a (u.setColl d) := setColl_keeps _ (landOwn_keeps _ h u d e)
    exact ite_keeps landed (ite_keeps landed (ite_keeps (permuteEnd_keeps _ _ landed) (collFinish_keeps _ _ _ landed)))
  · exact collErr_keeps _ _ h
  · exact collEnd_keeps _ _ _ _ h
  · exact collEnd_keeps _ _ _ _ h

theorem incomplete_keeps (c : Coll) (h : Keeps a s) : Keeps a (s.incomplete c) :=
  collEnd_keeps _ _ _ _ (forEach_keeps _ h fun _ _ h => undefRange_keeps _ _ _ h)

/-! ### Refills -/

theorem endRefill_keeps (blk : Nat) (h : Keeps a s) : Keeps a (s.endRefill blk) := h.updSide rfl rfl rfl rfl

theorem poisonHeld_keeps (r : HeldRead) (h : Keeps a s) : Keeps a (s.poisonHeld r) := by
  unfold State.poisonHeld
  extract_lets _ s₁
  have h₁ : Keeps a s₁ := h.updSide rfl rfl rfl rfl
  clear_value s₁
  split
  · exact descDone_keeps _ _ _ _ (noteErr_keeps _ _ _ _ _ h₁)
  · split
    · exact ctxFault_keeps _ _ h₁
    · exact h₁
  · split
    · split
      · exact ite_keeps h₁ (ctxFault_keeps _ _ h₁)
      · exact h₁
    · exact h₁
  · exact respond_keeps _ _ _ _ (noteErr_keeps _ _ _ _ _ h₁)
  · exact ite_keeps (h₁.updSide rfl rfl rfl rfl) h₁
  · exact modFn_keeps _ _ (noteErr_keeps _ _ _ _ _ h₁)
  · split
    · exact ite_keeps (ctxFault_keeps _ _ h₁) h₁
    · exact h₁

theorem redo_keeps (e : Delayed) (h : Keeps a s) : Keeps a (s.redo e) := by
  unfold State.redo
  refine ite_keeps ?_ (wrOwn_keeps _ _ _ h)
  split
  · next u e => exact accEngine_keeps _ _ _ h u e
  · exact h

theorem heldResults_keeps (n : Nat) (h : Keeps a s) : Keeps a (s.heldResults n) :=
  forEach_keeps _ h fun c s h => by
    split
    · exact ite_keeps (collResult_keeps _ _ _ _ h) h
    · exact h

theorem afterRefill_keeps (h : Keeps a s) : Keeps a s.afterRefill := by
  unfold State.afterRefill
  extract_lets _ s₁ _ s₂
  have redone : Keeps a s₁ := forEach_keeps _ (h.updSide rfl rfl rfl rfl) fun _ _ h => redo_keeps _ h
  have added : Keeps a s₂ := forEach_keeps _ (redone.updSide rfl rfl rfl rfl) fun _ _ h => ite_keeps (addBack_keeps _ _ h) h
  exact drain_keeps (forEach_keeps _ added fun _ _ h => heldResults_keeps _ h)

theorem refillFail_keeps (blk cause : Nat) (h : Keeps a s) : Keeps a (s.refillFail blk cause) :=
  afterRefill_keeps (ledger_keeps _ _ _ _ _ _ _ _ _ _ _ (setOwner_keeps _ _ (forEach_keeps _ (endRefill_keeps _ h) fun _ _ h => poisonHeld_keeps _ h)))

/-! ### States of the String time unit -/

theorem lostGates_keeps (h : Keeps a s) : Keeps a s.lostGates :=
  forEach_keeps _ h fun _ _ h => by
    split
    · exact ite_keeps (updEnd_keeps _ _ _ _ h) h
    · exact h

theorem strTo_keeps (n : StrState) (h : Keeps a s) : Keeps a (s.strTo n) := by
  unfold State.strTo
  refine ite_keeps h ?_
  extract_lets old lost _ s₁ s₂
  have entered : Keeps a s₂ := ledger_keeps _ _ _ _ _ _ _ _ _ _ _ h.upd
  exact ite_keeps (lostGates_keeps entered) entered

theorem toHoldover_keeps (used : Nat) (n : StrSrc) (h : Keeps a s) : Keeps a (s.toHoldover used n) := strTo_keeps _ h.upd

theorem fabLost_keeps (p : Nat) (h : Keeps a s) : Keeps a (s.fabLost p) := by
  unfold State.fabLost State.sourceFailed
  exact ite_keeps (ite_keeps h.upd (toHoldover_keeps _ _ h.upd)) h.upd

/-! ### Links -/

theorem encodeFlit_keeps (p : Nat) (bs : List Byte) (h : Keeps a s) : Keeps a (s.encodeFlit p bs) :=
  forEach_keeps _ (modPort_keeps _ _ h) fun _ _ h => drive_keeps _ h

theorem emitFlit_keeps (p : Nat) (w : W32) (body : List Byte) (h : Keeps a s) : Keeps a (s.emitFlit p w body) := by
  unfold State.emitFlit
  exact encodeFlit_keeps _ _ (drive_keeps _ (modPort_keeps _ _ h))

theorem sendFlit_keeps (p : Nat) (i : TxItem) (h : Keeps a s) : Keeps a (s.sendFlit p i) := by
  unfold State.sendFlit
  exact emitFlit_keeps _ _ _ (setPort_keeps _ _ h)

theorem sendLast_keeps (p ctype : Nat) (bytes : List Byte) (h : Keeps a s) : Keeps a (s.sendLast p ctype bytes) := ite_keeps h (sendFlit_keeps _ _ h)

theorem bestDown_keeps (p : Nat) (h : Keeps a s) : Keeps a (s.bestDown p) := forEach_keeps _ h fun _ _ h => refillFail_keeps _ _ h

theorem portFail_keeps (p reason input : Nat) (sendDown : Bool) (why : Nat) (h : Keeps a s) : Keeps a (s.portFail p reason input sendDown why) := by
  unfold State.portFail
  extract_lets up s₁ x fails st s₂ s₃ hit s₄
  have h₁ : Keeps a s₁ := ite_keeps (sendLast_keeps _ _ _ h) h
  have h₃ : Keeps a s₃ := ledger_keeps _ _ _ _ _ _ _ _ _ _ _ (setPort_keeps _ _ h₁)
  have h₄ : Keeps a s₄ := ite_keeps (interruption_keeps _ h₃) h₃
  exact ite_keeps (fabLost_keeps _ (collsEnd_keeps _ _ (bestDown_keeps _ h₄))) h₃

theorem takeDown_keeps (p reason input : Nat) (h : Keeps a s) : Keeps a (s.takeDown p reason input) := ite_keeps (portFail_keeps _ _ _ _ _ h) h

theorem trainStart_keeps (p : Nat) (h : Keeps a s) : Keeps a (s.trainStart p) := by
  unfold State.trainStart
  refine ite_keeps h ?_
  extract_lets s₁
  have h₁ : Keeps a s₁ := modPort_keeps _ _ (modPort_keeps _ _ h)
  clear_value s₁
  split
  · exact ite_keeps (portFail_keeps _ _ _ _ _ h₁) h₁
  · exact modPort_keeps _ _ h₁

theorem enableChange_keeps (p : Nat) (old new : W32) (h : Keeps a s) : Keeps a (s.enableChange p old new) := by
  unfold State.enableChange
  refine ite_keeps ?_ (ite_keeps (trainStart_keeps _ h) h)
  split
  · exact takeDown_keeps _ _ _ h
  · exact h
  · exact modPort_keeps _ _ h

end Sys2Proof.Machine
end

section
/-! PROOF. What the passage of time keeps: tunings, the items of Table 2.4, String boundaries, and a step on an empty queue (O2). -/

namespace Sys2Proof.Machine

variable {a s : State}

/-! ### Tunings -/

theorem setChange_keeps (c : Option Change) (h : Keeps a s) : Keeps a (s.setChange c) := h.upd

theorem brakeNow_keeps (h : Keeps a s) : Keeps a s.brakeNow := ite_keeps h.upd (ite_keeps h.upd h)

theorem switchGroup_keeps (n : TunRegs) (g : Nat) (h : Keeps a s) : Keeps a (s.switchGroup n g) :=
  ite_keeps (enableChange_keeps _ _ _ h.upd) (ite_keeps (brakeNow_keeps h.upd) h.upd)

theorem switchGroups_keeps (n : TunRegs) (gs : List Nat) (h : Keeps a s) : Keeps a (s.switchGroups n gs) :=
  forEach_keeps _ h fun _ _ h => switchGroup_keeps _ _ h

theorem writeDir_keeps (d : Dir) (h : Keeps a s) : Keeps a (s.writeDir d) := h.updNv rfl rfl rfl rfl rfl rfl rfl rfl

theorem rolledBack_keeps (c : Change) (h : Keeps a s) : Keeps a (s.rolledBack c) :=
  Keeps.upd (ledger_keeps _ _ _ _ _ _ _ _ _ _ _ (setChange_keeps _ (ite_keeps (writeDir_keeps _ h) h)))

theorem tryRolled_keeps (h : Keeps a s) : Keeps a s.tryRolled := by
  unfold State.tryRolled
  split
  · exact ite_keeps (rolledBack_keeps _ h) h
  · exact h

theorem changeFails_keeps (phase arg : Nat) (h : Keeps a s) : Keeps a (s.changeFails phase arg) := by
  unfold State.changeFails
  split
  · exact h
  · exact tryRolled_keeps (setChange_keeps _ (forEach_keeps _ h fun _ _ h => modStall_keeps _ _ h))

theorem relatchStr_keeps (h : Keeps a s) : Keeps a s.relatchStr := ite_keeps h.upd h

theorem revertFails_keeps (c : Change) (arg : Nat) (h : Keeps a s) : Keeps a (s.revertFails c arg) :=
  ledger_keeps _ _ _ _ _ _ _ _ _ _ _ (setChange_keeps _ h)

/-! ### The items of Table 2.4 -/

theorem ite_keepsRes {p : Prop} [Decidable p] {x y : Res} (hx : KeepsRes a x) (hy : KeepsRes a y) : KeepsRes a (if p then x else y) := by
  split
  · exact hx
  · exact hy

theorem execTuningSwitch_keeps (bad : Option (Fin 32)) (h : Keeps a s) : KeepsRes a (execTuningSwitch bad s) := by
  unfold execTuningSwitch
  split
  · refine ite_keepsRes (.next h) ?_
    extract_lets gs s₁
    have switched : Keeps a s₁ := setChange_keeps _ (switchGroups_keeps _ _ h)
    split
    · exact .next (changeFails_keeps _ _ (relatchStr_keeps switched))
    · exact .next (setChange_keeps _ switched)
  · exact .next h

theorem execTuningRevert_keeps (bad : Option (Fin 32)) (h : Keeps a s) : KeepsRes a (execTuningRevert bad s) := by
  unfold execTuningRevert
  split
  · refine ite_keepsRes (.next h) ?_
    extract_lets gs s₁
    have switched : Keeps a s₁ := switchGroups_keeps _ _ h
    split
    · exact .next (revertFails_keeps _ _ switched)
    · exact .next (tryRolled_keeps (setChange_keeps _ switched))
  · exact .next h

theorem execUnsealedFieldApply_keeps (h : Keeps a s) : KeepsRes a (execUnsealedFieldApply s) :=
  ite_keepsRes (.next h) (.next (forEach_keeps _ (Keeps.upd (switchGroups_keeps _ _ h)) fun _ _ h => modStall_keeps _ _ h))

theorem execPinLeaseExpiry_keeps (st : StallNo) (base : Nat) (h : Keeps a s) : KeepsRes a (execPinLeaseExpiry st base s) := by
  unfold execPinLeaseExpiry
  split
  · split
    · exact .next h
    · exact ite_keepsRes (.next h) (.next (ledger_keeps _ _ _ _ _ _ _ _ _ _ _ (addBackAll_keeps _ _ _ h)))
  · exact .next h

theorem execPlanEntryLeaseExpiry_keeps (p : PortNo) (flow : Byte) (h : Keeps a s) : KeepsRes a (execPlanEntryLeaseExpiry p flow s) := by
  unfold execPlanEntryLeaseExpiry
  refine ite_keepsRes ?_ (.next h)
  dsimp only
  split
  · exact .next (ledger_keeps _ _ _ _ _ _ _ _ _ _ _ (setPort_keeps _ _ h))
  · exact .next (setPort_keeps _ _ h)

theorem execWindowLeaseExpiry_keeps (st : StallNo) (win : Byte) (h : Keeps a s) : KeepsRes a (execWindowLeaseExpiry st win s) := by
  unfold execWindowLeaseExpiry
  split
  · exact ite_keepsRes (.next (ledger_keeps _ _ _ _ _ _ _ _ _ _ _ (modStall_keeps _ _ h))) (.next h)
  · exact .next h

theorem execHeldGetLeaseExpiry_keeps (st : StallNo) (h : Keeps a s) : KeepsRes a (execHeldGetLeaseExpiry st s) := by
  unfold execHeldGetLeaseExpiry
  split
  · exact ite_keepsRes (.next (drain_keeps (ledger_keeps _ _ _ _ _ _ _ _ _ _ _ (respond_keeps _ _ _ _ (modStall_keeps _ _ h))))) (.next h)
  · exact .next h

theorem execCollectiveDeadline_keeps (st : StallNo) (n : W16) (h : Keeps a s) : KeepsRes a (execCollectiveDeadline st n s) := by
  unfold execCollectiveDeadline
  split
  · refine ite_keepsRes (.next h) ?_
    extract_lets s₁ gone s₂
    have h₁ : Keeps a s₁ := ite_keeps h (forEach_keeps _ h fun _ _ h => ledger_keeps _ _ _ _ _ _ _ _ _ _ _ h)
    have h₂ : Keeps a s₂ := ite_keeps h₁ (ledger_keeps _ _ _ _ _ _ _ _ _ _ _ h₁)
    exact ite_keepsRes (.next (sealFail_keeps _ h₁)) (.next (incomplete_keeps _ h₂))
  · exact .next h

theorem execPlanSwitch_keeps (p : PortNo) (h : Keeps a s) : KeepsRes a (execPlanSwitch p s) := by
  unfold execPlanSwitch
  dsimp only
  split
  · refine ite_keepsRes (.next h) (ite_keepsRes (.next ?_) (ite_keepsRes (.next (setPort_keeps _ _ h)) (.next (collsEnd_keeps _ _ (setPort_keeps _ _ h)))))
    exact ledger_keeps _ _ _ _ _ _ _ _ _ _ _ (setPort_keeps _ _ h)
  · exact .next h

theorem execCollectiveStart_keeps (st : StallNo) (n : W16) (h : Keeps a s) : KeepsRes a (execCollectiveStart st n s) := by
  unfold execCollectiveStart
  split
  · exact ite_keepsRes (.next h) (ite_keepsRes (.next (collEnd_keeps _ _ _ _ h)) (.next (collLand_keeps _ h)))
  · exact .next h

theorem execQuantumEnd_keeps (c : CoreNo) (h : Keeps a s) : KeepsRes a (execQuantumEnd c s) := by
  unfold execQuantumEnd
  split
  · refine ite_keepsRes (.next h) (ite_keepsRes ?_ (ite_keepsRes (.next h) ?_))
    · split
      · exact .next (preempt_keeps _ _ _ _ h)
      · exact .next h
    · extract_lets s₁ again
      have charged : Keeps a s₁ := modStall_keeps _ _ h
      have goesOn : Keeps a again := setCtx_keeps _ _ charged
      refine ite_keepsRes (.next goesOn) ?_
      split
      · exact .next (preempt_keeps _ _ _ _ charged)
      · exact .next goesOn
  · exact .next h

theorem execWindowClose_keeps (st : StallNo) (h : Keeps a s) : KeepsRes a (execWindowClose st s) :=
  ite_keepsRes (.next h) (.next (modStall_keeps _ _ (ite_keeps (taintClose_keeps _ h) h)))

theorem execSlowPowerLoop_keeps (x : PowerIn) (h : Keeps a s) : KeepsRes a (execSlowPowerLoop x s) :=
  ite_keepsRes (.next h) (ite_keepsRes (.next (atMost_keeps (Keeps.upd h.upd) fun _ _ h => ledger_keeps _ _ _ _ _ _ _ _ _ _ _ h)) (.next h.upd))

/-! ### What fires at a step of String time (R43) -/

theorem resState_keeps {r : Res} (h : Keeps a s) (hr : KeepsRes a r) : Keeps a (r.state s) := by
  unfold Res.state
  split
  · exact hr _ rfl
  · exact h

theorem fireAll_keeps {α : Type} {l : List α} {f : α → State → Res} (h : Keeps a s) (hf : ∀ x s, Keeps a s → KeepsRes a (f x s)) :
    Keeps a (fireAll l f s) := forEach_keeps _ h fun x s h => resState_keeps h (hf x s h)

theorem fireWhile_keeps {due : State → Bool} {f : State → Res} (hf : ∀ s, Keeps a s → KeepsRes a (f s)) :
    ∀ (n : Nat) {s : State}, Keeps a s → Keeps a (fireWhile due f n s)
  | 0, _, h => h
  | n + 1, s, h => ite_keeps (fireWhile_keeps hf n (resState_keeps h (hf s h))) h

theorem fireLeases_keeps (h : Keeps a s) : Keeps a s.fireLeases := by
  unfold State.fireLeases
  extract_lets pins flows s₁ s₂ wins s₃ s₄
  have h₁ : Keeps a s₁ := fireAll_keeps h fun _ _ h => execPinLeaseExpiry_keeps _ _ h
  have h₂ : Keeps a s₂ := fireAll_keeps h₁ fun _ _ h => execPlanEntryLeaseExpiry_keeps _ _ h
  have h₃ : Keeps a s₃ := fireAll_keeps h₂ fun _ _ h => execWindowLeaseExpiry_keeps _ _ h
  have h₄ : Keeps a s₄ := fireAll_keeps h₃ fun _ _ h => execHeldGetLeaseExpiry_keeps _ h
  exact fireAll_keeps h₄ fun _ _ h => execCollectiveDeadline_keeps _ _ h

theorem fireTunings_keeps (h : Keeps a s) : Keeps a s.fireTunings := by
  have switched := resState_keeps h (execTuningSwitch_keeps none h)
  have reverted := resState_keeps switched (execTuningRevert_keeps none switched)
  exact resState_keeps reverted (execUnsealedFieldApply_keeps reverted)

theorem firePhases_keeps (h : Keeps a s) : Keeps a s.firePhases :=
  fireAll_keeps (fireAll_keeps h fun _ _ h => execPlanSwitch_keeps _ h) fun _ _ h => execCollectiveStart_keeps _ _ h

theorem fireDue_keeps (n : Nat) (h : Keeps a s) : Keeps a (s.fireDue n) := by
  have phases := firePhases_keeps (fireTunings_keeps (fireLeases_keeps h))
  have quanta : Keeps a (s.fireLeases.fireTunings.firePhases.fireQuanta n) :=
    forEach_keeps _ phases fun _ _ h => fireWhile_keeps (fun _ h => execQuantumEnd_keeps _ h) n h
  have windows : Keeps a ((s.fireLeases.fireTunings.firePhases.fireQuanta n).fireWindows n) :=
    forEach_keeps _ quanta fun _ _ h => fireWhile_keeps (fun _ h => execWindowClose_keeps _ h) n h
  exact fireWhile_keeps (fun _ h => execSlowPowerLoop_keeps _ (fresh_keeps h)) n windows

/-! ### String boundaries -/

theorem droopReport_keeps (h : Keeps a s) : Keeps a s.droopReport :=
  forEach_keeps _ h.upd fun _ _ h => ledger_keeps _ _ _ _ _ _ _ _ _ _ _ h

theorem lockTo_keeps (src : StrSrc) (slew : Int) (h : Keeps a s) : Keeps a (s.lockTo src slew) := strTo_keeps _ h.upd

theorem lockedBoundary_keeps (h : Keeps a s) : Keeps a s.lockedBoundary := by
  unfold State.lockedBoundary
  extract_lets s₁ n
  have slewed : Keeps a s₁ := Keeps.upd h.upd
  exact ite_keeps (toHoldover_keeps _ _ slewed) (ite_keeps slewed.upd (ite_keeps (lockTo_keeps _ _ slewed) (toHoldover_keeps _ _ slewed)))

theorem keepLeases_keeps (h : Keeps a s) : Keeps a s.keepLeases :=
  forEach_keeps _ h fun _ _ h => forEach_keeps _ h fun _ _ h => by
    split
    · exact ite_keeps (modStall_keeps _ _ h) h
    · exact h

theorem jump_keeps (d : Int) (keep : Bool) (h : Keeps a s) : Keeps a (s.jump d keep) :=
  Keeps.upd (Keeps.upd (ite_keeps (keepLeases_keeps h) h))

theorem relock_keeps (src : StrSrc) (h : Keeps a s) : Keeps a (s.relock src) := by
  unfold State.relock
  extract_lets off fromLost accept
  have accepted : ∀ {t}, Keeps a t → Keeps a (accept t) := fun h => ite_keeps h.upd h
  exact ite_keeps (strTo_keeps _ (ledger_keeps _ _ _ _ _ _ _ _ _ _ _ h))
    (ite_keeps (accepted (lockTo_keeps _ _ (jump_keeps _ _ h))) (accepted (lockTo_keeps _ _ h)))

theorem firstLock_keeps (src : StrSrc) (h : Keeps a s) : Keeps a (s.firstLock src) := by
  unfold State.firstLock
  extract_lets off s₁
  have jumped : Keeps a s₁ := by
    unfold s₁
    split <;> exact jump_keeps _ _ h
  exact lockTo_keeps _ _ jumped.upd

theorem seekBoundary_keeps (h : Keeps a s) : Keeps a s.seekBoundary := by
  unfold State.seekBoundary
  extract_lets n _ s₁
  have chosen : Keeps a s₁ := h.upd
  clear_value s₁
  split
  · exact ite_keeps (relock_keeps _ chosen) chosen
  · exact ite_keeps (relock_keeps _ chosen) chosen
  · exact ite_keeps (ite_keeps (relock_keeps _ chosen) (firstLock_keeps _ chosen)) (strTo_keeps _ chosen)

theorem atBoundary_keeps (h : Keeps a s) : Keeps a s.atBoundary := by
  unfold State.atBoundary
  extract_lets s₁ s₂
  have reported : Keeps a s₁ := droopReport_keeps h.upd
  have driven : Keeps a s₂ := ite_keeps (drive_keeps _ reported) reported
  clear_value s₂
  split
  · exact lockedBoundary_keeps driven
  · exact ite_keeps (strTo_keeps _ driven.upd) (seekBoundary_keeps driven.upd)
  · exact seekBoundary_keeps driven

theorem plansRevert_keeps (st : Nat) (h : Keeps a s) : Keeps a (s.plansRevert st) :=
  ite_keeps (modStall_keeps _ _ (forEach_keeps _ h fun _ _ h => ite_keeps (modPort_keeps _ _ h) h)) h

theorem sharesDue_keeps (h : Keeps a s) : Keeps a s.sharesDue :=
  forEach_keeps _ (forEach_keeps _ h fun _ _ h => plansRevert_keeps _ h) fun _ _ h => modStall_keeps _ _ h

theorem beginString_keeps (h : Keeps a s) : Keeps a s.beginString :=
  sharesDue_keeps (ite_keeps (fireDue_keeps _ (atBoundary_keeps h)) (atBoundary_keeps h))

/-! ### A step on an empty queue -/

theorem tick_keeps (h : Keeps a s) : Keeps a s.tick :=
  ite_keeps h (ite_keeps (beginString_keeps h.upd) (ite_keeps (sharesDue_keeps h.upd) h.upd))

theorem tick_unpowered (off : s.pins.pwrok = false) : s.tick = s := if_pos (by simp [off])

theorem step_idle (h : s.pending = []) : step s = .next s.tick := by
  unfold step
  rw [h]

/-- Within a fret no String begins, and no share falls due. -/
theorem tick_withinFret (on : s.pins.pwrok = true) (within : (s.str.time + 1) % 256 ≠ 0) :
    s.tick = { s with str := { s.str with time := s.str.time + 1 } } := by
  have noString : (s.str.time + 1) % subPerString ≠ 0 := by
    unfold subPerString
    omega
  unfold State.tick
  rw [if_neg (by simp [on])]
  dsimp only
  rw [if_neg noString]
  exact if_neg within

end Sys2Proof.Machine
end

section

open Sys2Proof Sys2Proof.Machine

/-- Settles O2: a step on an empty queue is one tick, and a tick, String boundaries with all that fires there among it, keeps the queue and the fuses. -/
theorem idleStep : Obligations.IdleStep := by
  unfold Obligations.IdleStep
  intro s empty
  rw [step_idle empty]
  refine ⟨fun off => by rw [tick_unpowered off], fun on within => by rw [tick_withinFret on within], s.tick, rfl, ?_⟩
  obtain ⟨fuses, queue, -⟩ := tick_keeps (Keeps.refl s)
  exact ⟨queue.trans empty, fuses⟩

end

section
/-! PROOF. What the units of a core read after writes: cores, contexts, groups, local memory, and the token counters of a group; for the statements about
the matrix arrays and the vector engine (O19, O20). -/

namespace Sys2Proof

variable {α : Type}

/-! ### Tables -/

theorem mem_of_afind? : ∀ {m : List (Nat × α)} {k : Nat} {v : α}, afind? m k = some v → (k, v) ∈ m
  | (k', v') :: t, k, v, h => by
    unfold afind? at h
    split at h
    · next e => cases h; subst e; exact .head _
    · exact .tail _ (mem_of_afind? h)

/-- What a key holds is the default or listed. -/
theorem tget_mem (d : α) : ∀ (m : List (Nat × α)) (k : Nat), tget d m k = d ∨ (k, tget d m k) ∈ m
  | [], _ => .inl rfl
  | (k', v') :: t, k => by
    unfold tget
    split
    · next e => subst e; exact .inr (.head _)
    · split
      · exact .inl rfl
      · exact (tget_mem d t k).imp_right (.tail _)

theorem tgetMany_eq (d : α) (m : List (Nat × α)) : ∀ (n k : Nat), tgetMany d m k n = (List.range n).map fun i => tget d m (k + i)
  | 0, _ => rfl
  | n + 1, k => by
    rw [tgetMany, tgetMany_eq d m n, List.range_succ_eq_map, List.map_cons, List.map_map]
    simp [Function.comp_def, Nat.add_comm, Nat.add_left_comm]

section
variable [DecidableEq α] {d : α}

/-- A value other than the default reads back, whatever the order of the table. -/
theorem tget_tset_of_ne : ∀ (m : List (Nat × α)) (k a : Nat) {v : α}, v ≠ d → tget d (tset d m k v) a = if a = k then v else tget d m a
  | [], k, a, v, hv => by simp [tset, hv, tget]
  | (k', v') :: t, k, a, v, hv => by
    unfold tset
    rcases Nat.lt_trichotomy k k' with h | h | h
    · rw [if_neg (by omega), if_pos h, if_neg hv]
      simp only [tget]
      split
      · rfl
      · split
        · rw [if_neg (by omega), if_pos (by omega)]
        · rfl
    · subst h
      rw [if_pos rfl, if_neg hv]
      simp only [tget]
      split <;> rfl
    · rw [if_neg (by omega), if_neg (by omega)]
      simp only [tget, tget_tset_of_ne t k a hv]
      split
      · rw [if_neg (by omega)]
      · split
        · rw [if_neg (by omega)]
        · rfl

/-- The entry with a key after a value other than the default was set. -/
theorem afind?_tset : ∀ (m : List (Nat × α)) (k a : Nat) {v : α}, v ≠ d → afind? (tset d m k v) a = if a = k then some v else afind? m a
  | [], k, a, v, hv => by simp [tset, hv, afind?]
  | (k', v') :: t, k, a, v, hv => by
    unfold tset
    rcases Nat.lt_trichotomy k k' with h | h | h
    · rw [if_neg (by omega), if_pos h, if_neg hv]
      rfl
    · subst h
      rw [if_pos rfl, if_neg hv]
      simp only [afind?]
      split <;> rfl
    · rw [if_neg (by omega), if_neg (by omega)]
      simp only [afind?, afind?_tset t k a hv]
      split
      · rw [if_neg (by omega)]
      · rfl

theorem tsetMany_append (d : α) : ∀ (x y : List α) (m : List (Nat × α)) (k : Nat),
    tsetMany d m k (x ++ y) = tsetMany d (tsetMany d m k x) (k + x.length) y
  | [], _, _, _ => rfl
  | v :: x, y, m, k => by
    rw [List.cons_append, tsetMany, tsetMany, tsetMany_append d x y, List.length_cons, Nat.add_assoc, Nat.add_comm 1]

/-- What a key holds after consecutive ones were set. -/
theorem tget_tsetMany (d : α) : ∀ (vs : List α) {m : List (Nat × α)} (k a : Nat), twf d m = true →
    tget d (tsetMany d m k vs) a = if k ≤ a then (vs[a - k]?).getD (tget d m a) else tget d m a
  | [], m, k, a, _ => by simp [tsetMany]
  | v :: vs, m, k, a, h => by
    rw [tsetMany, tget_tsetMany d vs _ _ (tset_wf d k v h), tget_tset d k v a h]
    rcases Nat.lt_trichotomy a k with g | g | g
    · rw [if_neg (by omega), if_neg (by omega), if_neg (by omega)]
    · subst g
      rw [if_neg (by omega), if_pos rfl, if_pos (Nat.le_refl _), Nat.sub_self]
      rfl
    · rw [if_pos (show k + 1 ≤ a by omega), if_pos (show k ≤ a by omega), if_neg (show ¬ a = k by omega), show a - k = (a - (k + 1)) + 1 by omega,
        List.getElem?_cons_succ]

/-- The keys just set hold the values. -/
theorem tgetMany_tsetMany (d : α) (vs : List α) {m : List (Nat × α)} (k : Nat) (h : twf d m = true) :
    tgetMany d (tsetMany d m k vs) k vs.length = vs := by
  rw [tgetMany_eq]
  refine List.ext_getElem (by simp) fun i hi hv => ?_
  simp only [List.getElem_map, List.getElem_range, tget_tsetMany d vs k _ h, if_pos (Nat.le_add_right k i), Nat.add_sub_cancel_left]
  simp [List.getElem?_eq_getElem hv]

end

end Sys2Proof

namespace Sys2Proof.Machine

/-! ### Cores, contexts and groups -/

section
variable {s : State} {c g n : Nat}

theorem State.wf_cores (h : s.wf = true) : twf {} s.cores = true := by
  simp only [State.wf, State.tablesWf, Bool.and_eq_true] at h
  tauto

theorem State.wf_ctxs (h : s.wf = true) : twf none s.ctxs = true := by
  simp only [State.wf, State.tablesWf, Bool.and_eq_true] at h
  tauto

theorem State.core_setCore (h : twf {} s.cores = true) (k : Nat) (x : Core) : (s.setCore c x).core k = if k = c then x else s.core k :=
  tget_tset ({} : Core) c x k h

theorem State.core_setCore_self (h : twf {} s.cores = true) (x : Core) : (s.setCore c x).core c = x := by
  rw [State.core_setCore h, if_pos rfl]

theorem State.setCore_cores_wf (h : twf {} s.cores = true) (x : Core) : twf {} (s.setCore c x).cores = true := tset_wf _ _ _ h

theorem State.ctx?_setCtx (h : twf none s.ctxs = true) (k : Nat) (x : Option Ctx) : (s.setCtx n x).ctx? k = if k = n then x else s.ctx? k :=
  tget_tset (none : Option Ctx) n x k h

/-- The parts of `Core.wf`. -/
structure Core.Canonical (k : Core) : Prop where
  mem : twf 0 k.mem = true
  groups : twf {} k.groups = true
  each : ∀ e ∈ k.groups, e.2.wf = true

theorem Core.canonical {k : Core} (h : k.wf = true) : k.Canonical := by
  simp only [Core.wf, Bool.and_eq_true, List.all_eq_true] at h
  obtain ⟨⟨⟨mem, groups⟩, -⟩, each⟩ := h
  exact ⟨mem, groups, each⟩

theorem State.wf_core (h : s.wf = true) (c : Nat) : (s.core c).Canonical := by
  simp only [State.wf, State.coresWf, Bool.and_eq_true, List.all_eq_true] at h
  obtain ⟨⟨-, cores, -⟩, -⟩ := h
  obtain e | e := tget_mem ({} : Core) s.cores c
  · exact Core.canonical (by rw [State.core, e]; rfl)
  · exact Core.canonical (cores _ e)

/-- The parts of `Group.wf`. -/
structure Group.Canonical (x : Group) : Prop where
  serial : x.serial ≠ 0
  tokens : twf 0 x.tokens = true

theorem State.wf_group {x : Group} (h : s.wf = true) (hg : s.group? c g = some x) : x.Canonical := by
  have w := (State.wf_core h c).each _ (mem_of_afind? hg)
  simp only [Group.wf, Bool.and_eq_true, bne_iff_ne] at w
  obtain ⟨⟨⟨serial, -⟩, -⟩, tokens⟩ := w
  exact ⟨serial, tokens⟩

theorem Group.ne_default {x : Group} (h : x.serial ≠ 0) : x ≠ {} := fun e => h (by rw [e])

/-- What a core holds, whatever else of the state changed. -/
theorem State.group?_congr {t : State} (h : (t.core c).groups = (s.core c).groups) : t.group? c g = s.group? c g := by
  unfold State.group?
  rw [h]

theorem State.core_setGroup (h : twf {} s.cores = true) (x : Group) :
    (s.setGroup c g x).core c = { s.core c with groups := tset {} (s.core c).groups g x } := State.core_setCore_self h _

theorem State.group?_setGroup (h : twf {} s.cores = true) {x : Group} (hx : x.serial ≠ 0) : (s.setGroup c g x).group? c g = some x := by
  unfold State.group?
  rw [State.core_setGroup h, afind?_tset _ _ _ (Group.ne_default hx), if_pos rfl]

theorem State.setGroup_cores_wf (h : twf {} s.cores = true) (x : Group) : twf {} (s.setGroup c g x).cores = true := tset_wf _ _ _ h

@[simp] theorem State.setGroup_ctxs (x : Group) : (s.setGroup c g x).ctxs = s.ctxs := rfl
@[simp] theorem State.setGroup_stalls (x : Group) : (s.setGroup c g x).stalls = s.stalls := rfl
@[simp] theorem State.setGroup_colls (x : Group) : (s.setGroup c g x).colls = s.colls := rfl
@[simp] theorem State.setGroup_mem (x : Group) : (s.setGroup c g x).mem = s.mem := rfl
@[simp] theorem State.setGroup_nextId (x : Group) : (s.setGroup c g x).nextId = s.nextId := rfl
@[simp] theorem State.setGroup_str (x : Group) : (s.setGroup c g x).str = s.str := rfl

/-- The context of a core is listed under its number. -/
theorem State.ctx?_of_ctxOf {x : Ctx} (h : s.ctxOf c = some (n, x)) : s.ctx? n = some x := by
  unfold State.ctxOf at h
  split at h
  · next m e =>
    obtain ⟨y, hy, e⟩ := Option.map_eq_some_iff.mp h
    cases e
    exact hy
  · cases h

end

/-! ### Token counters -/

theorem Group.token_tmod {x : Group} (h : twf 0 x.tokens = true) (t : Nat) (f : Nat → Nat) :
    ({ x with tokens := tmod 0 x.tokens t f } : Group).token t = f (x.token t) := by
  unfold Group.token tmod
  rw [tget_tset 0 _ _ _ h, if_pos rfl]

@[simp] theorem Group.release_serial (x : Group) : x.release.serial = x.serial := by unfold Group.release; split <;> rfl
@[simp] theorem Group.release_tokens (x : Group) : x.release.tokens = x.tokens := by unfold Group.release; split <;> rfl
@[simp] theorem Group.release_held (x : Group) : x.release.held = .no := by unfold Group.release; split <;> rfl

theorem Group.release_paths {x : Group} {top : PathEnt} {rest : List PathEnt} (h : x.paths = top :: rest) :
    x.release.paths = { top with pc := (top.pc + 8) % 2 ^ 64 } :: rest := by
  unfold Group.release
  rw [h]

@[simp] theorem Group.release_token (x : Group) (t : Nat) : x.release.token t = x.token t := by unfold Group.token; rw [Group.release_tokens]

/-- A counter that falls: what else of the group changes is that its wait may be over. -/
theorem Group.tokenDown_cases (x : Group) (t : Nat) :
    x.tokenDown t = { x with tokens := tmod 0 x.tokens t (· - 1) } ∨ x.tokenDown t = ({ x with tokens := tmod 0 x.tokens t (· - 1) } : Group).release := by
  unfold Group.tokenDown
  dsimp only
  split
  · split
    · exact .inr rfl
    · exact .inl rfl
  · exact .inl rfl

theorem Group.tokenDown_serial (x : Group) (t : Nat) : (x.tokenDown t).serial = x.serial := by
  obtain e | e := x.tokenDown_cases t <;> simp [e]

theorem Group.tokenDown_token {x : Group} (h : twf 0 x.tokens = true) (t : Nat) : (x.tokenDown t).token t = x.token t - 1 := by
  obtain e | e := x.tokenDown_cases t <;> simp [e, Group.token_tmod h]

/-- The completion of an issue of a group that still stands: its counter falls, and of its core nothing but the groups and the time of the last
retirement changes. -/
theorem State.tokenDown_spec {s : State} {c i t : Nat} {x : Group} (h : twf {} s.cores = true) (hg : s.group? c i = some x) (hs : x.serial ≠ 0) :
    (∃ l, (s.tokenDown c i x.serial t).core c = { s.core c with groups := tset {} (s.core c).groups i (x.tokenDown t), lastRetire := l }) ∧
      (s.tokenDown c i x.serial t).group? c i = some (x.tokenDown t) ∧ s.tokenDown c i x.serial t = { s with cores := (s.tokenDown c i x.serial t).cores } := by
  have hx : (x.tokenDown t).serial ≠ 0 := by rwa [Group.tokenDown_serial]
  have set := State.group?_setGroup (g := i) (c := c) h hx
  have core := State.core_setGroup (g := i) (c := c) h (x.tokenDown t)
  unfold State.tokenDown
  rw [hg]
  dsimp only
  rw [if_pos rfl]
  split
  · exact ⟨⟨_, core⟩, set, rfl⟩
  · generalize (s.setGroup c i (x.tokenDown t)).clock = l
    have now := State.core_setCore_self (c := c) (State.setGroup_cores_wf (c := c) (g := i) h (x.tokenDown t))
      { (s.setGroup c i (x.tokenDown t)).core c with lastRetire := l }
    refine ⟨⟨l, now.trans (by rw [core])⟩, ?_, rfl⟩
    rw [← set]
    exact State.group?_congr (congrArg Core.groups now :)

/-! ### Local memory -/

/-- The pieces of a write, put one after the other, are the write. -/
theorem unitPieces_foldl : ∀ (fuel a : Nat) (bs : List Byte) {m : List Host.Cell}, bs.length < fuel →
    (unitPieces fuel a bs).foldl (fun m p => tsetMany 0 m p.1 p.2) m = tsetMany 0 m a bs
  | 0, _, _, _, h => by omega
  | fuel + 1, a, bs, m', h => by
    unfold unitPieces
    split
    · next e => rw [List.isEmpty_iff.mp e]; rfl
    · next e =>
      have pos : 0 < bs.length := List.length_pos_iff.mpr fun e' => e (by simp [e'])
      have full : a + (bs.take (32 - a % 32)).length = a + (32 - a % 32) ∨ bs.drop (32 - a % 32) = [] := by
        rcases Nat.le_total (32 - a % 32) bs.length with le | le
        · exact .inl (by rw [List.length_take, Nat.min_eq_left le])
        · exact .inr (List.drop_of_length_le le)
      dsimp only
      rw [List.foldl_cons, unitPieces_foldl fuel _ _ (by rw [List.length_drop]; omega)]
      conv_rhs => rw [← List.take_append_drop (32 - a % 32) bs, tsetMany_append]
      obtain e | e := full
      · rw [e]
      · rw [e]; rfl

/-- A core whose memory was written: memory and the pairs noted of the wide buffer. -/
def Core.written (k : Core) (m : List Host.Cell) (hits : List Nat) : Core := { k with mem := m, hits := hits }

/-- A write to a local memory without poison: its bytes are set, and none is discarded. -/
theorem Core.wr_clean {k : Core} (h : k.poison = []) (a : Nat) (bs : List Byte) :
    ∃ hits, k.wr a bs = (k.written (tsetMany 0 k.mem a bs) hits, []) := by
  refine ⟨(widePairs k.wide a bs.length).foldl (fun l i => insertSorted i l) k.hits, ?_⟩
  rw [← unitPieces_foldl (bs.length + 1) a bs (Nat.lt_succ_self _)]
  refine List.foldl_hom (fun m => (k.written m _, ([] : List Nat))) fun m p => ?_
  show (if k.poison.contains (p.1 / 32) then _ else _) = _
  rw [h]
  rfl

theorem State.wrLocal_clean {s : State} {c : Nat} (h : (s.core c).poison = []) (a : Nat) (bs : List Byte) :
    ∃ hits, s.wrLocal c a bs = s.setCore c ((s.core c).written (tsetMany 0 (s.core c).mem a bs) hits) := by
  obtain ⟨hits, e⟩ := Core.wr_clean h a bs
  refine ⟨hits, ?_⟩
  unfold State.wrLocal
  rw [e]
  rfl

end Sys2Proof.Machine
end

section
/-! PROOF. What a group-wide issue leaves (R157, R158, R168): retirement and faults, a pass or a vector descriptor in its queue. -/

namespace Sys2Proof.Machine

section
variable {s : State} {c g n : Nat}

/-! ### The fault of a context -/

@[simp] theorem State.invalEnd_ctxs (s : State) : s.invalEnd.ctxs = s.ctxs := by
  unfold State.invalEnd
  split
  · split <;> rfl
  · rfl

@[simp] theorem State.abandonCore_ctxs (s : State) (c : Nat) : (s.abandonCore c).ctxs = s.ctxs := by
  unfold State.abandonCore
  rw [State.invalEnd_ctxs]
  rfl

@[simp] theorem State.sendPkt_ctxs (s : State) (st vc dst : Nat) (p : Pkt) : (s.sendPkt st vc dst p).ctxs = s.ctxs := by
  unfold State.sendPkt
  dsimp only
  split <;> rfl

@[simp] theorem State.notify_ctxs (s : State) (st : Nat) (ms : List (Nat × Nat)) (coll epoch kind step attempt reason member crc : Nat) :
    (s.notify st ms coll epoch kind step attempt reason member crc).ctxs = s.ctxs :=
  forEach_inv (P := fun t => t.ctxs = s.ctxs) (fun _ _ h => (State.sendPkt_ctxs _ _ _ _ _).trans h) ms rfl

@[simp] theorem State.abortColl_ctxs (s : State) (q : Coll) (status : Nat) (leave : Bool) : (s.abortColl q status leave).ctxs = s.ctxs := by
  unfold State.abortColl
  dsimp only
  split
  · exact State.notify_ctxs _ _ _ _ _ _ _ _ _ _ _
  · rfl

@[simp] theorem State.abortCtxColls_ctxs (s : State) (n status : Nat) : (s.abortCtxColls n status).ctxs = s.ctxs :=
  forEach_inv (P := fun t => t.ctxs = s.ctxs) (fun _ _ h => (State.abortColl_ctxs _ _ _ _).trans h) _ rfl

@[simp] theorem State.countCause_ctxs (s : State) (st : Nat) (f : CtxFault) : (s.countCause st f).ctxs = s.ctxs := by
  unfold State.countCause
  split
  · rfl
  · split <;> rfl

/-- A context with its first fault, as its kill begins. -/
def Ctx.killed (x : Ctx) (f : CtxFault) (status : Option Nat) : Ctx := { x with fault := some f, st := .killing, status := status }

theorem State.abandonAll_ctxs (s : State) (l : List Nat) : (forEach l s fun c s => s.abandonCore c).ctxs = s.ctxs :=
  forEach_inv (P := fun u => u.ctxs = s.ctxs) (fun _ _ h => (State.abandonCore_ctxs _ _).trans h) l rfl

/-- The first fault of a context is kept and starts its kill (R168, R169): of the contexts only that one changes. -/
theorem State.ctxFault_ctxs {x : Ctx} (hx : s.ctx? n = some x) (first : x.fault = none) (f : CtxFault) :
    ∃ k status, (s.ctxFault n f).ctxs = (s.setCtx n (some (x.killed k status))).ctxs ∧ k.cause = f.cause ∧ k.arg2 = f.arg2 ∧ k.array = f.array := by
  unfold State.ctxFault
  rw [hx]
  dsimp only
  rw [first]
  dsimp only
  generalize hk : (if f.cause = causeProt then { f with owner := s.ownerAt x.stall f.arg2 } else f) = k
  have same : k.cause = f.cause ∧ k.arg2 = f.arg2 ∧ k.array = f.array := by
    rw [← hk]
    split <;> exact ⟨rfl, rfl, rfl⟩
  refine ⟨k, some (if (x.kind != .test && (s.ring x.ring).st == .cancelling) = true then 0x20 else k.cause), ?_, same⟩
  have rest (u : State) : ((forEach x.cores u fun c s => s.abandonCore c).abortCtxColls n k.cause |>.countCause x.stall k).ctxs = u.ctxs := by
    rw [State.countCause_ctxs, State.abortCtxColls_ctxs, State.abandonAll_ctxs]
  split
  · exact rest _
  · exact rest _

theorem State.ctxFault_kills {x : Ctx} (w : twf none s.ctxs = true) (hx : s.ctx? n = some x) (first : x.fault = none) (f : CtxFault) :
    ∃ y k, (s.ctxFault n f).ctx? n = some y ∧ y.st = .killing ∧ y.fault = some k ∧ k.cause = f.cause ∧ k.arg2 = f.arg2 ∧ k.array = f.array := by
  obtain ⟨k, status, ctxs, same⟩ := State.ctxFault_ctxs hx first f
  refine ⟨x.killed k status, k, ?_, rfl, rfl, same⟩
  rw [State.ctx?, ctxs]
  exact (State.ctx?_setCtx w n _).trans (if_pos rfl)

/-! ### Retirement -/

theorem Group.setTop_paths {x : Group} {top : PathEnt} {rest : List PathEnt} (h : x.paths = top :: rest) (pc : Nat) :
    (x.setTop pc).paths = { top with pc := pc } :: rest := by
  unfold Group.setTop
  rw [h]

@[simp] theorem Group.setTop_serial (x : Group) (pc : Nat) : (x.setTop pc).serial = x.serial := by unfold Group.setTop; split <;> rfl
@[simp] theorem Group.setTop_tokens (x : Group) (pc : Nat) : (x.setTop pc).tokens = x.tokens := by unfold Group.setTop; split <;> rfl

/-- The group of an instruction that retired. -/
def IEnv.retired (e : IEnv) (x : Group) : Group := { x.setTop ((e.pc + 8) % 2 ^ 64) with yielded := false }

@[simp] theorem IEnv.retired_serial (e : IEnv) (x : Group) : (e.retired x).serial = x.serial := Group.setTop_serial _ _
@[simp] theorem IEnv.retired_tokens (e : IEnv) (x : Group) : (e.retired x).tokens = x.tokens := Group.setTop_tokens _ _
@[simp] theorem IEnv.retired_token (e : IEnv) (x : Group) (t : Nat) : (e.retired x).token t = x.token t := by unfold Group.token; rw [IEnv.retired_tokens]
@[simp] theorem IEnv.retired_paths (e : IEnv) (x : Group) : (e.retired x).paths = (x.setTop ((e.pc + 8) % 2 ^ 64)).paths := rfl

theorem IEnv.retire_core (e : IEnv) (x : Group) (w : twf {} s.cores = true) :
    (e.retire x s).core e.c = { s.core e.c with groups := tset {} (s.core e.c).groups e.g (e.retired x), lastRetire := s.clock } := by
  have set := State.core_setGroup (g := e.g) (c := e.c) w (e.retired x)
  have now := State.core_setCore_self (c := e.c) (State.setGroup_cores_wf (c := e.c) (g := e.g) w (e.retired x))
    { (s.setGroup e.c e.g (e.retired x)).core e.c with lastRetire := s.clock }
  exact now.trans (by rw [set])

theorem IEnv.retire_cores_wf (e : IEnv) (x : Group) (w : twf {} s.cores = true) : twf {} (e.retire x s).cores = true :=
  State.setCore_cores_wf (State.setGroup_cores_wf w _) _

theorem IEnv.retire_group {e : IEnv} {x : Group} (w : twf {} s.cores = true) (h : x.serial ≠ 0) :
    (e.retire x s).group? e.c e.g = some (e.retired x) := by
  unfold State.group?
  rw [e.retire_core x w]
  dsimp only
  rw [afind?_tset _ _ _ (Group.ne_default (by rwa [IEnv.retired_serial])), if_pos rfl]

@[simp] theorem IEnv.retire_ctxs (e : IEnv) (x : Group) (s : State) : (e.retire x s).ctxs = s.ctxs := rfl
@[simp] theorem IEnv.retire_stalls (e : IEnv) (x : Group) (s : State) : (e.retire x s).stalls = s.stalls := rfl
@[simp] theorem IEnv.retire_colls (e : IEnv) (x : Group) (s : State) : (e.retire x s).colls = s.colls := rfl
@[simp] theorem IEnv.retire_mem (e : IEnv) (x : Group) (s : State) : (e.retire x s).mem = s.mem := rfl
@[simp] theorem IEnv.retire_nextId (e : IEnv) (x : Group) (s : State) : (e.retire x s).nextId = s.nextId := rfl
@[simp] theorem IEnv.retire_str (e : IEnv) (x : Group) (s : State) : (e.retire x s).str = s.str := rfl
@[simp] theorem IEnv.retire_rnd (e : IEnv) (x : Group) (s : State) : (e.retire x s).rnd = s.rnd := rfl

/-! ### An instruction that issues -/

section
variable {w : W64} {opc : Nat} {u : Uses} {e : IEnv}

/-- The group of an instruction that issues is in canonical form, and stands in its slot but for the paths that were left. -/
theorem Issues.canonical (h : Issues s c g w opc u e) (wf : s.wf = true) : e.gr.Canonical := by
  obtain ⟨gr, top, rest, slot, -, -, paths, -, -⟩ := h.group
  obtain ⟨serial, tokens⟩ := State.wf_group wf slot
  rw [paths]
  exact ⟨serial, tokens⟩

/-- The entry that popping leaves on top stays there. -/
theorem popPaths_top {top : PathEnt} {rest : List PathEnt} : ∀ {l : List PathEnt}, popPaths l = top :: rest → popPaths (top :: rest) = top :: rest
  | p :: l, h => by
    unfold popPaths at h
    split at h
    · exact popPaths_top h
    · next stays =>
      cases h
      exact if_neg stays

/-- The top of its path stack is where the instruction stands. -/
theorem Issues.top (h : Issues s c g w opc u e) : ∃ top rest, e.gr.paths = top :: rest ∧ e.gr.topPath = (e.pc, e.act) := by
  obtain ⟨gr, top, rest, -, -, pop, paths, pc, act⟩ := h.group
  refine ⟨top, rest, by rw [paths], ?_⟩
  unfold Group.topPath
  rw [paths]
  dsimp only
  rw [popPaths_top pop, pc, act]

theorem IEnv.uniform_none {l : Nat} {r : List Nat} (hex : e.ex = l :: r) (differ : ∃ i ∈ r, e.vA i ≠ e.vA l) : e.uniform = none := by
  obtain ⟨i, hi, ne⟩ := differ
  unfold IEnv.uniform
  rw [hex]
  exact if_neg fun all => ne (BitVec.eq_of_toNat_eq (beq_iff_eq.mp (List.all_eq_true.mp all i hi)))

theorem IEnv.uniform_some {l : Nat} {r : List Nat} (hex : e.ex = l :: r) (same : ∀ i ∈ r, e.vA i = e.vA l) : e.uniform = some (e.rA l) := by
  unfold IEnv.uniform
  rw [hex]
  exact if_pos (List.all_eq_true.mpr fun i hi => beq_iff_eq.mpr (congrArg BitVec.toNat (same i hi)))

end

theorem Core.poisoned_clean {k : Core} (h : k.poison = []) (a n : Nat) : k.poisoned a n = false := by
  unfold Core.poisoned
  rw [h]
  rfl

/-! ### A pass or a vector descriptor enters its queue -/

/-- A pass in its quad's queue, its group's counter raised (R89 to R91). -/
theorem State.mtxEnter_spec (w : twf {} s.cores = true) (x : Ctx) {gr : Group} (hg : gr.Canonical) (d : Desc) :
    twf {} (s.mtxEnter c g x gr d).cores = true ∧
      (s.mtxEnter c g x gr d).group? c g = some { gr with tokens := tmod 0 gr.tokens (mdOf d.words).token (· + 1) } ∧
      ∃ p, ((s.mtxEnter c g x gr d).core c).passes = (s.core c).passes ++ [p] ∧ p.slot = g ∧ p.quad = (mdOf d.words).array / 4 ∧ p.desc = d ∧
        p.phase = .queued := by
  have w' := State.setCore_cores_wf (c := c) w
  unfold State.mtxEnter
  dsimp only
  refine ⟨State.setGroup_cores_wf (w' _) _, State.group?_setGroup (w' _) hg.serial, ?p, ?queue, ?_, ?_, ?_, ?_⟩
  case queue =>
    refine (congrArg Core.passes (State.core_setGroup (w' _) _) :).trans ?_
    rw [State.core_setCore_self w]
  all_goals rfl

/-- A descriptor in the vector queue, its group's counter raised (R174). -/
theorem State.vecEnter_spec (w : twf {} s.cores = true) (x : Ctx) {gr : Group} (hg : gr.Canonical) (d : Desc) :
    twf {} (s.vecEnter c g x gr d).cores = true ∧
      (s.vecEnter c g x gr d).group? c g = some { gr with tokens := tmod 0 gr.tokens (vdOf d.words).token (· + 1) } ∧
      ∃ j, ((s.vecEnter c g x gr d).core c).vq = (s.core c).vq ++ [j] ∧ j.slot = g ∧ j.desc = d ∧ j.done = false := by
  have w' := State.setCore_cores_wf (c := c) w
  unfold State.vecEnter
  dsimp only
  refine ⟨State.setGroup_cores_wf (w' _) _, State.group?_setGroup (w' _) hg.serial, ?j, ?queue, ?_, ?_, ?_⟩
  case queue =>
    refine (congrArg Core.vq (State.core_setGroup (w' _) _) :).trans ?_
    rw [State.core_setCore_self w]
  all_goals rfl

end

end Sys2Proof.Machine
end

section
/-! PROOF. A collective of the issue form as it is dispatched, or refused without String time (R278 to R281, R288), as far as a group that issues it sees. -/

namespace Sys2Proof.Machine

/-! ### What the check reads of a collective -/

/-- Collective `k` is `q` with what its tables say. -/
def Coll.Reads (q k : Coll) : Prop :=
  k = { q with members := k.members, me := k.me, nstripe := k.nstripe, routes := k.routes, extents := k.extents, sends := k.sends, recvs := k.recvs }

theorem Coll.Reads.trans {q k m : Coll} (h : q.Reads k) (g : k.Reads m) : q.Reads m := by
  unfold Coll.Reads at *
  rw [g, h]

/-- A computation that may fail went on: its first part succeeded, and so did the rest. -/
theorem ok_of_bind {ε α β : Type} {x : Except ε α} {f : α → Except ε β} {b : β} (h : (x >>= f) = .ok b) : ∃ y, x = .ok y ∧ f y = .ok b := by
  cases x with
  | error e => cases h
  | ok y => exact ⟨y, rfl, h⟩

section
variable {s : State} {q k : Coll}

theorem rankSet_reads (h : s.rankSet q = .ok k) : q.Reads k := by
  obtain ⟨_, -, h⟩ := ok_of_bind h
  dsimp only at h
  iterate 5
    split at h
    · cases h
  obtain ⟨_, -, h⟩ := ok_of_bind h
  obtain ⟨_, -, h⟩ := ok_of_bind h
  split at h
  · cases h
  split at h
  · cases h
  · cases h
    rfl

theorem permList_reads (h : s.permList q = .ok k) : q.Reads k := by
  obtain ⟨_, -, h⟩ := ok_of_bind h
  split at h
  · cases h
  obtain ⟨_, -, h⟩ := ok_of_bind h
  obtain ⟨_, -, h⟩ := ok_of_bind h
  dsimp only at h
  split at h
  · cases h
  · cases h
    rfl

theorem extTable_reads (h : s.extTable q = .ok k) : q.Reads k := by
  unfold State.extTable at h
  split at h
  · obtain ⟨_, -, h⟩ := ok_of_bind h
    split at h
    · cases h
    · cases h
      rfl
  · obtain ⟨_, -, h⟩ := ok_of_bind h
    cases h
    rfl
  · exact permList_reads h
  · cases h
    rfl
  · obtain ⟨_, -, h⟩ := ok_of_bind h
    split at h
    · cases h
    · cases h
      rfl

/-- The check changes nothing of a collective but what it reads of its tables. -/
theorem collCheck_reads (h : s.collCheck q = .ok k) : q.Reads k := by
  unfold State.collCheck at h
  split at h
  · cases h
  split at h
  · cases h
  next set =>
  split at h
  · cases h
  next table =>
  split at h
  · cases h
  · cases h
    exact (rankSet_reads set).trans (extTable_reads table)

/-! ### Dispatch -/

/-- The stall's step as a collective of it opens it (R299). -/
def State.stepOpened (s : State) (q : Coll) : State :=
  if q.step = 0 then s else s.modStall q.stall fun x => x.setStep { x.stepRec q.step with open_ := true }

/-- A collective with its times and its attempt, as its dispatch gives them. -/
def State.timed (s : State) (q : Coll) : Coll :=
  { q with start := s.clockOf (q.w 6).toNat, deadline := s.clockOf (q.w 6).toNat + 256 * fld (q.w 7) 47 28,
           attempt := (s.stall q.stall).attemptOf q.step }

/-- Opening a step changes nothing but the stall's steps. -/
theorem State.stepOpened_spec (w : twf {} s.stalls = true) (q : Coll) :
    twf {} (s.stepOpened q).stalls = true ∧ s.stepOpened q = { s with stalls := (s.stepOpened q).stalls } ∧
      ((s.stepOpened q).stall q.stall).lbHeld = (s.stall q.stall).lbHeld ∧ ((s.stepOpened q).stall q.stall).lbShare = (s.stall q.stall).lbShare := by
  unfold State.stepOpened
  split
  · exact ⟨w, rfl, rfl, rfl⟩
  · rw [State.modStall_eq, State.stall_setStall w, if_pos rfl]
    exact ⟨tset_wf _ _ _ w, rfl, rfl, rfl⟩

/-- Whether a reservation can be supplied is read of the stall's share and what it holds, of the collectives and stores, and of the partition. -/
theorem State.canReserve_congr {t : State} (stall : (t.stall k.stall).lbHeld = (s.stall k.stall).lbHeld)
    (share : (t.stall k.stall).lbShare = (s.stall k.stall).lbShare) (stores : t.stores = s.stores) (colls : t.colls = s.colls) (tun : t.tun = s.tun)
    (lb : Nat) : t.canReserve k lb = s.canReserve k lb := by
  have kept : t.keptBytes k.stall = s.keptBytes k.stall := by unfold State.keptBytes; rw [stores]
  have drawn : t.drawn = s.drawn := by unfold State.drawn; rw [stores, colls]
  unfold State.canReserve
  dsimp only
  rw [kept, drawn, tun, stall, share]

/-- A collective listed, with its reservation; the leases of its routes run to its deadline (R286, R288). -/
def State.listed (s : State) (q : Coll) : State :=
  let t := forEach q.routes s fun r s => s.modPort r.2.1 fun x =>
    { x with leases := x.leases.map fun l => if l.flow = r.2.2 ∧ s.routeHeld q r then { l with due := q.deadline } else l }
  ({ t with colls := t.colls ++ [{ q with lb := q.wantLb }] }).modStall q.stall fun x => { x with lbHeld := x.lbHeld + q.wantLb }

/-- The dispatch of a collective of several members that is not a step set. -/
theorem State.collAccept_several (op : k.op ≠ 6) (several : 1 < k.n) :
    s.collAccept k =
      if ¬ (s.stepOpened k).onString ∨ (s.stepOpened k).clock < (s.stepOpened k).str.acceptFrom then
        (s.stepOpened k).collEnd (s.timed k) stStringLost (quiet := true)
      else if (s.timed k).start < (s.stepOpened k).clock + subPerFret then (s.stepOpened k).collEnd (s.timed k) stLateStart
      else if ¬ (s.stepOpened k).canReserve (s.timed k) k.wantLb then (s.stepOpened k).collEnd (s.timed k) stStagingShort
      else (s.stepOpened k).listed (s.timed k) :=
  (if_neg op).trans (if_neg (show ¬ k.n ≤ 1 by omega))

theorem State.listed_spec (w : twf {} s.stalls = true) (q : Coll) :
    (s.listed q).colls = s.colls ++ [{ q with lb := q.wantLb }] ∧ (s.listed q).mem = s.mem ∧ (s.listed q).cores = s.cores ∧
      ((s.listed q).stall q.stall).lbHeld = (s.stall q.stall).lbHeld + q.wantLb := by
  unfold State.listed
  dsimp only
  generalize ht : forEach q.routes s _ = t
  have same : t = { s with ports := t.ports } := by
    rw [← ht]
    refine forEach_inv (P := fun u => u = { s with ports := u.ports }) (fun r u hu => ?_) q.routes rfl
    conv_lhs => rw [hu]
    rfl
  rw [State.modStall_eq, State.stall_setStall (by rw [same]; exact w), if_pos rfl]
  rw [same]
  exact ⟨rfl, rfl, rfl, rfl⟩

/-- A collective of several members that is not a step set, on String time, in time and with room for its reservation: it is listed and waits for its
start, and its stall holds the reservation. -/
theorem State.collAccept_lists (w : twf {} s.stalls = true) (op : k.op ≠ 6) (several : 1 < k.n) (on : s.onString = true)
    (stable : s.str.acceptFrom ≤ s.clock) (early : s.clock + 256 ≤ s.clockOf (k.w 6).toNat) (room : s.canReserve k k.wantLb = true) :
    (s.collAccept k).colls = s.colls ++ [{ s.timed k with lb := k.wantLb }] ∧ (s.collAccept k).mem = s.mem ∧ (s.collAccept k).cores = s.cores ∧
      ((s.collAccept k).stall k.stall).lbHeld = (s.stall k.stall).lbHeld + k.wantLb := by
  obtain ⟨w', same, held, share⟩ := State.stepOpened_spec w k
  obtain ⟨colls, mem, cores, lb⟩ := State.listed_spec w' (s.timed k)
  have room' : (s.stepOpened k).canReserve (s.timed k) k.wantLb = true := by
    rw [← room]
    exact State.canReserve_congr (k := k) held share (by rw [same]) (by rw [same]) (by rw [same]) _
  have clock : (s.stepOpened k).clock = s.clock := by rw [same]; rfl
  have str : (s.stepOpened k).str = s.str := by rw [same]
  have on' : (s.stepOpened k).onString = true := by rw [← on, same]; rfl
  have runs : s.collAccept k = (s.stepOpened k).listed (s.timed k) := by
    rw [State.collAccept_several op several, if_neg, if_neg, if_neg (not_not.mpr room')]
    · rw [clock]
      exact Nat.not_lt.mpr early
    · rw [on', str, clock]
      exact not_or.mpr ⟨not_not.mpr rfl, Nat.not_lt.mpr stable⟩
  rw [runs]
  refine ⟨colls.trans (by rw [same]; rfl), mem.trans (by rw [same]), cores.trans (by rw [same]), lb.trans ?_⟩
  exact congrArg (· + k.wantLb) held

/-! ### A refusal without String time -/

theorem State.dropColl_colls (s : State) (q : Coll) : (s.dropColl q).colls = s.colls.filter fun v => v.id != q.id := rfl
theorem State.dropColl_mem (s : State) (q : Coll) : (s.dropColl q).mem = s.mem := rfl
theorem State.dropColl_core (s : State) (q : Coll) (c : Nat) : (s.dropColl q).core c = s.core c := rfl
theorem State.dropColl_group? (s : State) (q : Coll) (c g : Nat) : (s.dropColl q).group? c g = s.group? c g := rfl

/-- A collective of an issue ends before it could send anything: nothing but the ledger, its stall, its result and its listing changes. -/
theorem State.collEnd_refused {i : Issue} (ring : k.ring = none) (issue : k.issue = some i) :
    ∃ v : State, v = { s with stalls := v.stalls, fns := v.fns, nv := v.nv, led := v.led, out := v.out, rnd := v.rnd } ∧
      s.collEnd k stStringLost (quiet := true) = v.collResult k i stStringLost v.str.time := by
  unfold State.collEnd
  dsimp only
  have failed : ¬ stStringLost = 0 := by decide
  rw [ring, issue, if_neg failed, if_neg (fun h : leaves stStringLost k.step ∧ 1 < k.n ∧ ¬ (true : Bool) => h.2.2 rfl), if_neg (fun h => failed h.1)]
  dsimp only
  rw [if_neg (show ¬ stStringLost = causePoison by decide)]
  generalize hl : s.ledger 0x0401 _ _ _ _ _ _ _ _ _ _ = l
  have only : LedgerOnly s l := hl ▸ ledger_only _ _ _ _ _ _ _ _ _ _ _
  obtain ⟨fns, nv, led, out, rnd, rfl⟩ : ∃ fns nv led out rnd, l = { s with fns := fns, nv := nv, led := led, out := out, rnd := rnd } :=
    ⟨_, _, _, _, _, only⟩
  exact ⟨_, rfl, rfl⟩

/-- The result of an issue whose context runs. -/
theorem State.collResult_runs {i : Issue} {x : Ctx} (ctx : s.ctx? i.ctx = some x) (running : x.st = .running) (free : s.delays k.stall = false)
    (status time : Nat) :
    s.collResult k i status time = ((s.wrLocal i.core i.res (issueRecord status time)).tokenDown i.core i.slot i.serial i.token).dropColl k := by
  unfold State.collResult
  rw [ctx]
  exact if_pos ⟨running, by simp [free]⟩

/-- Without String time the collective of an issue is refused: its context still runs and no write of its stall waits, so its result record says
STRING_LOST and its token counter falls (R278). -/
theorem State.collAccept_refused {i : Issue} {x : Ctx} {gr : Group} (w : twf {} s.cores = true) (ws : twf {} s.stalls = true) (op : k.op ≠ 6) (several : 1 < k.n) (off : s.onString = false)
    (ring : k.ring = none) (issue : k.issue = some i) (ctx : s.ctx? i.ctx = some x) (running : x.st = .running) (free : s.delays k.stall = false)
    (clean : (s.core i.core).poison = []) (slot : s.group? i.core i.slot = some gr) (serial : i.serial = gr.serial) (inUse : gr.serial ≠ 0) :
    (s.collAccept k).colls = s.colls.filter (fun v => v.id != k.id) ∧ (s.collAccept k).mem = s.mem ∧
      ((s.collAccept k).core i.core).mem = tsetMany 0 (s.core i.core).mem i.res (issueRecord stStringLost s.str.time) ∧
      (s.collAccept k).group? i.core i.slot = some (gr.tokenDown i.token) := by
  generalize record : issueRecord stStringLost s.str.time = bs
  obtain ⟨-, same, -, -⟩ := State.stepOpened_spec ws k
  obtain ⟨v, hv, ends⟩ := State.collEnd_refused (s := s.stepOpened k) (k := s.timed k) ring issue
  rw [same] at hv
  have off' : (s.stepOpened k).onString = false := by rw [← off, same]; rfl
  have core : v.core = s.core := by rw [hv]; rfl
  have cores : v.cores = s.cores := by rw [hv]
  have str : v.str = s.str := by rw [hv]
  have refused : s.collAccept k = ((v.wrLocal i.core i.res bs).tokenDown i.core i.slot i.serial i.token).dropColl (s.timed k) := by
    rw [State.collAccept_several op several, if_pos (.inl (by simp [off'])), ends, str, ← record]
    exact State.collResult_runs (k := s.timed k) (by rw [← ctx, hv]; rfl) running (by rw [← free, hv]; rfl) _ _
  obtain ⟨hits, wr⟩ := State.wrLocal_clean (s := v) (by rw [core]; exact clean) i.res bs
  rw [core] at wr
  have wc : twf {} v.cores = true := by rw [cores]; exact w
  generalize hu : v.wrLocal i.core i.res bs = u at *
  have wu : twf {} u.cores = true := by rw [wr]; exact State.setCore_cores_wf wc _
  have self : u.core i.core = (s.core i.core).written (tsetMany 0 (s.core i.core).mem i.res bs) hits := by
    rw [wr, State.core_setCore_self wc]
  have slot' : u.group? i.core i.slot = some gr := by
    rw [← slot]
    exact State.group?_congr (by rw [self]; rfl)
  obtain ⟨⟨l, down⟩, group, rest⟩ := State.tokenDown_spec (t := i.token) wu slot' inUse
  have colls : u.colls = s.colls := by rw [wr, hv]; rfl
  have mem : u.mem = s.mem := by rw [wr, hv]; rfl
  rw [refused, serial]
  refine ⟨?_, ?_, ?_, ?_⟩
  · rw [State.dropColl_colls, (congrArg State.colls rest :)]
    exact congrArg _ colls
  · rw [State.dropColl_mem, (congrArg State.mem rest :)]
    exact mem
  · rw [State.dropColl_core, down]
    exact (congrArg Core.mem self :)
  · rw [State.dropColl_group?, group]

end

end Sys2Proof.Machine
end

section
/-! PROOF. MXI, VXI and CXI (O19; R91, R157, R158, R174, R278): what each row does. -/

namespace Sys2Proof.Machine

/-- A group whose counter of an issue rose. -/
def Group.tokenUp (x : Group) (t : Nat) : Group := { x with tokens := tmod 0 x.tokens t (· + 1) }

theorem Group.tokenUp_token {x : Group} (h : x.Canonical) (t : Nat) : (x.tokenUp t).token t = x.token t + 1 := Group.token_tmod h.tokens t _

/-- What an issue leaves that entered a queue: the group of the core, retired. -/
theorem retire_entered {e : IEnv} {t : State} {c g : Nat} {x : Group} (wt : twf {} t.cores = true) (core : e.c = c) (slot : e.g = g) (h : x.serial ≠ 0) :
    (e.retire x t).core c = { t.core c with groups := tset {} (t.core c).groups g (e.retired x), lastRetire := t.clock } ∧
      (e.retire x t).group? c g = some (e.retired x) := by
  subst core slot
  exact ⟨e.retire_core x wt, IEnv.retire_group wt h⟩

section
variable {s : State} {c : CoreNo} {g : SlotNo} {w : W64} {e : IEnv} {l : Nat} {r : List Nat}

/-- How a word of the three group-wide issues uses its fields. -/
theorem issueUses (m : wMod w = 0) : ({ form := .fG, listed := true, a := .reg } : Uses) = { form := .fG, listed := wMod w == 0, a := .reg } := by
  rw [m]
  rfl

/-! ### MXI -/

section
variable (m : wMod w = 0) (h : Issues s c g w 0x70 { form := .fG, listed := true, a := .reg } e)
include m h

theorem exec_mxi_empty (idle : e.ex = []) : exec (.mxi c g w) s = .next (e.retire e.gr s) := by
  rw [issueUses m] at h
  refine congrArg Host.Outcome.next ((State.issue_of h _).trans ?_)
  rw [idle]

theorem exec_mxi_differ (hex : e.ex = l :: r) (differ : ∃ i ∈ r, e.vA i ≠ e.vA l) : exec (.mxi c g w) s = .next (e.fault 0x0B (e.rA l) s) := by
  rw [issueUses m] at h
  refine congrArg Host.Outcome.next ((State.issue_of h _).trans ?_)
  rw [IEnv.uniform_none hex differ, hex]

variable (hex : e.ex = l :: r) (same : ∀ i ∈ r, e.vA i = e.vA l)
include hex same

theorem exec_mxi_bad {b : Nat} (bad : (s.core c).mtxBad (e.rA l) = some b) : exec (.mxi c g w) s = .next (e.fault 0x0E b s) := by
  rw [issueUses m] at h
  refine congrArg Host.Outcome.next ((State.issue_of h _).trans ?_)
  rw [IEnv.uniform_some hex same, hex]
  dsimp only
  rw [h.core, bad]
  rfl

variable (good : (s.core c).mtxBad (e.rA l) = none) (clean : (s.core c).poison = []) (free : s.led.arrFenced = [])
include good clean free

theorem exec_mxi_full (full : (s.core c).mtxRoom e.gr ((s.core c).mtxDesc (e.rA l)) = false) :
    exec (.mxi c g w) s = .next (s.setGroup c g { e.gr with held := .mxi ((s.core c).mtxDesc (e.rA l)) }) := by
  have slot := h.slot
  have core := h.core
  have unfenced (d : Desc) : s.fencedArray c d = none := by
    unfold State.fencedArray
    rw [free]
    exact List.find?_eq_none.mpr fun a _ => by simp
  rw [issueUses m] at h
  refine congrArg Host.Outcome.next ((State.issue_of h _).trans ?_)
  rw [IEnv.uniform_some hex same, hex]
  dsimp only
  rw [core, slot, good]
  dsimp only
  rw [if_neg (by simp [Core.poisoned_clean clean]), unfenced]
  exact if_neg (by simp [full])

theorem exec_mxi_enters (wf : s.wf = true) (room : (s.core c).mtxRoom e.gr ((s.core c).mtxDesc (e.rA l)) = true) :
    exec (.mxi c g w) s = .next (e.retire (e.gr.tokenUp (mdOf ((s.core c).mtxDesc (e.rA l)).words).token)
      (s.mtxEnter c g e.x e.gr ((s.core c).mtxDesc (e.rA l)))) := by
  obtain ⟨-, group, -⟩ := State.mtxEnter_spec (c := c) (g := g) (State.wf_cores wf) e.x (h.canonical wf) ((s.core c).mtxDesc (e.rA l))
  have slot := h.slot
  have core := h.core
  have unfenced (d : Desc) : s.fencedArray c d = none := by
    unfold State.fencedArray
    rw [free]
    exact List.find?_eq_none.mpr fun a _ => by simp
  rw [issueUses m] at h
  refine congrArg Host.Outcome.next ((State.issue_of h _).trans ?_)
  rw [IEnv.uniform_some hex same, hex]
  dsimp only
  rw [core, slot, good]
  dsimp only
  rw [if_neg (by simp [Core.poisoned_clean clean]), unfenced]
  refine (if_pos room).trans ?_
  rw [group]
  rfl

end

/-! ### VXI -/

section
variable (m : wMod w = 0) (h : Issues s c g w 0x71 { form := .fG, listed := true, a := .reg } e)
include m h

theorem exec_vxi_empty (idle : e.ex = []) : exec (.vxi c g w) s = .next (e.retire e.gr s) := by
  rw [issueUses m] at h
  refine congrArg Host.Outcome.next ((State.issue_of h _).trans ?_)
  rw [idle]

theorem exec_vxi_differ (hex : e.ex = l :: r) (differ : ∃ i ∈ r, e.vA i ≠ e.vA l) : exec (.vxi c g w) s = .next (e.fault 0x0C (e.rA l) s) := by
  rw [issueUses m] at h
  refine congrArg Host.Outcome.next ((State.issue_of h _).trans ?_)
  rw [IEnv.uniform_none hex differ, hex]

variable (hex : e.ex = l :: r) (same : ∀ i ∈ r, e.vA i = e.vA l)
include hex same

theorem exec_vxi_bad (bad : (s.core c).vecBad (e.rA l) = true) : exec (.vxi c g w) s = .next (e.fault 0x0E (e.rA l) s) := by
  rw [issueUses m] at h
  refine congrArg Host.Outcome.next ((State.issue_of h _).trans ?_)
  rw [IEnv.uniform_some hex same, hex]
  dsimp only
  rw [h.core]
  exact if_pos bad

variable (good : (s.core c).vecBad (e.rA l) = false) (clean : (s.core c).poison = [])
include good clean

theorem exec_vxi_full (full : (s.core c).vecRoom e.gr ((s.core c).vecDesc (e.rA l)) = false) :
    exec (.vxi c g w) s = .next (s.setGroup c g { e.gr with held := .vxi ((s.core c).vecDesc (e.rA l)) }) := by
  have slot := h.slot
  have core := h.core
  rw [issueUses m] at h
  refine congrArg Host.Outcome.next ((State.issue_of h _).trans ?_)
  rw [IEnv.uniform_some hex same, hex]
  dsimp only
  rw [core, slot, if_neg (by simp [good]), if_neg (by simp [Core.poisoned_clean clean])]
  exact if_neg (by simp [full])

theorem exec_vxi_enters (wf : s.wf = true) (room : (s.core c).vecRoom e.gr ((s.core c).vecDesc (e.rA l)) = true) :
    exec (.vxi c g w) s = .next (e.retire (e.gr.tokenUp (vdOf ((s.core c).vecDesc (e.rA l)).words).token)
      (s.vecEnter c g e.x e.gr ((s.core c).vecDesc (e.rA l)))) := by
  obtain ⟨-, group, -⟩ := State.vecEnter_spec (c := c) (g := g) (State.wf_cores wf) e.x (h.canonical wf) ((s.core c).vecDesc (e.rA l))
  have slot := h.slot
  have core := h.core
  rw [issueUses m] at h
  refine congrArg Host.Outcome.next ((State.issue_of h _).trans ?_)
  rw [IEnv.uniform_some hex same, hex]
  dsimp only
  rw [core, slot, if_neg (by simp [good]), if_neg (by simp [Core.poisoned_clean clean])]
  refine (if_pos room).trans ?_
  rw [group]
  rfl

end

/-! ### CXI -/

/-- The descriptor of a collective that an issue names (R278). -/
def Core.collDesc (k : Core) (a : Nat) : Desc := { addr := a, words := k.words a 8 }

section
variable (m : wMod w = 0) (h : Issues s c g w 0x72 { form := .fG, listed := true, a := .reg } e)
include m h

theorem exec_cxi_empty (idle : e.ex = []) : exec (.cxi c g w) s = .next (e.retire e.gr s) := by
  rw [issueUses m] at h
  refine congrArg Host.Outcome.next ((State.issue_of h _).trans ?_)
  rw [idle]

theorem exec_cxi_differ (hex : e.ex = l :: r) (differ : ∃ i ∈ r, e.vA i ≠ e.vA l) : exec (.cxi c g w) s = .next (e.fault 0x0D (e.rA l) s) := by
  rw [issueUses m] at h
  refine congrArg Host.Outcome.next ((State.issue_of h _).trans ?_)
  rw [IEnv.uniform_none hex differ, hex]

variable (hex : e.ex = l :: r) (same : ∀ i ∈ r, e.vA i = e.vA l)
include hex same

theorem exec_cxi_bad (bad : e.rA l % 64 ≠ 0 ∨ 0x300000 < e.rA l + 64) : exec (.cxi c g w) s = .next (e.fault 0x0E (e.rA l) s) := by
  rw [issueUses m] at h
  refine congrArg Host.Outcome.next ((State.issue_of h _).trans ?_)
  rw [IEnv.uniform_some hex same, hex]
  exact if_pos bad

variable (aligned : e.rA l % 64 = 0) (inside : e.rA l + 64 ≤ 0x300000) (clean : (s.core c).poison = [])
include aligned inside clean

/-- The descriptor is read where it lies: the issue waits, or its tables are looked at. -/
theorem exec_cxi_read : exec (.cxi c g w) s = .next (
    if s.cxiRoom e.gr ((s.core c).collDesc (e.rA l)) = true then
      (s.cxiHeld e.x.stall ((s.core c).collDesc (e.rA l))).elim
        (((e.retire e.gr s).group? c g).elim (e.retire e.gr s) fun gr =>
          (e.retire e.gr s).cxiEnter c g e.n e.x gr ((s.core c).collDesc (e.rA l)) e.pc e.act)
        (fun u => u.setGroup c g { e.gr with held := .cxi ((s.core c).collDesc (e.rA l)) })
    else s.setGroup c g { e.gr with held := .cxi ((s.core c).collDesc (e.rA l)) }) := by
  have slot := h.slot
  have core := h.core
  rw [issueUses m] at h
  refine congrArg Host.Outcome.next ((State.issue_of h _).trans ?_)
  rw [IEnv.uniform_some hex same, hex]
  dsimp only
  rw [core, slot, if_neg (by unfold localEnd; omega), if_neg (by simp [Core.poisoned_clean clean])]
  refine ite_congr rfl (fun _ => ?_) fun _ => rfl
  unfold Core.collDesc Core.words
  cases s.cxiHeld e.x.stall _ with
  | some u => rfl
  | none => cases (e.retire e.gr s).group? c g <;> rfl

theorem exec_cxi_full (full : s.cxiRoom e.gr ((s.core c).collDesc (e.rA l)) = false) :
    exec (.cxi c g w) s = .next (s.setGroup c g { e.gr with held := .cxi ((s.core c).collDesc (e.rA l)) }) := by
  rw [exec_cxi_read m h hex same aligned inside clean, if_neg (by simp [full])]

variable (room : s.cxiRoom e.gr ((s.core c).collDesc (e.rA l)) = true)
include room

theorem exec_cxi_held {u : State} (held : s.cxiHeld e.x.stall ((s.core c).collDesc (e.rA l)) = some u) :
    exec (.cxi c g w) s = .next (u.setGroup c g { e.gr with held := .cxi ((s.core c).collDesc (e.rA l)) }) := by
  rw [exec_cxi_read m h hex same aligned inside clean, if_pos room, held]
  rfl

theorem exec_cxi_enters (wf : s.wf = true) (free : s.cxiHeld e.x.stall ((s.core c).collDesc (e.rA l)) = none) :
    exec (.cxi c g w) s = .next ((e.retire e.gr s).cxiEnter c g e.n e.x (e.retired e.gr) ((s.core c).collDesc (e.rA l)) e.pc e.act) := by
  obtain ⟨-, group⟩ := retire_entered (State.wf_cores wf) h.core h.slot (h.canonical wf).serial
  rw [exec_cxi_read m h hex same aligned inside clean, if_pos room, free, group]
  rfl

end

end

end Sys2Proof.Machine
end

section
/-! PROOF. The collective of an issue as it is looked at (R278), and HELD_ISSUE_RETRY (R158, R101). -/

namespace Sys2Proof.Machine

section
variable {s : State} {c g n pc mask : Nat} {x : Ctx} {gr : Group} {d : Desc}

/-! ### The collective of an issue -/

/-- The issue of a collective (R278). -/
def Desc.issue (d : Desc) (c g n serial : Nat) : Issue :=
  { core := c, slot := g, serial := serial, ctx := n, res := cxiRes d, token := cxiTok d }

/-- The state in which the collective of an issue is dispatched: its group's counter rose. -/
def State.cxiUp (s : State) (c g : Nat) (gr : Group) (d : Desc) : State :=
  ({ s with nextId := s.nextId + 1 }).setGroup c g (gr.tokenUp (cxiTok d))

theorem State.cxiEnter_bad (bad : cxiBad d = true) : s.cxiEnter c g n x gr d pc mask =
    s.ctxFault n { cause := causeDesc, pc := pc, mask := mask, slot := g, arg2 := d.addr + 0 * 2 ^ 32, core := c, opc := 0x72 } := if_pos bad

theorem State.cxiEnter_error {m : MemErr} {k : Coll} (good : cxiBad d = false)
    (failed : s.collCheck (mkColl (s.nextId + 1) x.stall d.words none (some (d.issue c g n gr.serial))) = .error (m, k)) (cause : m.cause = causeDesc) :
    s.cxiEnter c g n x gr d pc mask =
      s.ctxFault n { cause := causeDesc, pc := pc, mask := mask, slot := g, arg2 := d.addr + m.addr * 2 ^ 32, core := c, opc := 0x72 } := by
  unfold State.cxiEnter
  dsimp only
  unfold Desc.issue at failed
  rw [if_neg (by simp [good]), failed]
  exact if_pos cause

theorem State.cxiEnter_ok {k : Coll} (good : cxiBad d = false)
    (ok : s.collCheck (mkColl (s.nextId + 1) x.stall d.words none (some (d.issue c g n gr.serial))) = .ok k) :
    s.cxiEnter c g n x gr d pc mask = (s.cxiUp c g gr d).collAccept k := by
  unfold State.cxiEnter
  dsimp only
  unfold Desc.issue at ok
  rw [if_neg (by simp [good]), ok]
  rfl

/-- A collective of an issue that passed its check and can be dispatched is listed; its counter stays up. -/
theorem State.cxiEnter_lists {k : Coll} (w : twf {} s.cores = true) (ws : twf {} s.stalls = true) (hg : gr.Canonical) (good : cxiBad d = false)
    (ok : s.collCheck (mkColl (s.nextId + 1) x.stall d.words none (some (d.issue c g n gr.serial))) = .ok k) (op : k.op ≠ 6) (several : 1 < k.n)
    (on : s.onString = true) (stable : s.str.acceptFrom ≤ s.clock) (early : s.clock + 256 ≤ s.clockOf (k.w 6).toNat)
    (room : s.canReserve k k.wantLb = true) :
    let t := s.cxiEnter c g n x gr d pc mask
    ∃ v, t.colls = s.colls ++ [v] ∧ v.issue = some (d.issue c g n gr.serial) ∧ v.ph = .waiting ∧ v.members = k.members ∧ v.words = d.words ∧
      v.lb = k.wantLb ∧ v.start = s.clockOf (k.w 6).toNat ∧ v.deadline = v.start + 256 * fld (k.w 7) 47 28 ∧
      (t.stall x.stall).lbHeld = (s.stall x.stall).lbHeld + k.wantLb ∧ t.mem = s.mem ∧ t.group? c g = some (gr.tokenUp (cxiTok d)) := by
  have reads := collCheck_reads ok
  have issue : k.issue = some (d.issue c g n gr.serial) := congrArg Coll.issue reads
  have phase : k.ph = .waiting := congrArg Coll.ph reads
  have words : k.words = d.words := congrArg Coll.words reads
  have stall : k.stall = x.stall := congrArg Coll.stall reads
  have room' : (s.cxiUp c g gr d).canReserve k k.wantLb = true := room
  obtain ⟨colls, mem, cores, held⟩ := State.collAccept_lists (s := s.cxiUp c g gr d) (k := k) ws op several on stable early room'
  intro t
  have ht : t = (s.cxiUp c g gr d).collAccept k := State.cxiEnter_ok good ok
  refine ⟨{ (s.cxiUp c g gr d).timed k with lb := k.wantLb }, by rw [ht, colls]; rfl, issue, phase, rfl, words, rfl, rfl, rfl, ?_, by rw [ht, mem]; rfl, ?_⟩
  · rw [ht, ← stall]
    exact held
  · rw [ht]
    exact (State.group?_congr (congrArg (fun m => (tget ({} : Core) m c).groups) cores :)).trans
      (State.group?_setGroup (s := { s with nextId := s.nextId + 1 }) w hg.serial)

/-- Without String time the collective of an issue is refused: its result record says so, and its counter has fallen again. -/
theorem State.cxiEnter_refused {k : Coll} (w : twf {} s.cores = true) (ws : twf {} s.stalls = true) (hg : gr.Canonical) (good : cxiBad d = false)
    (ok : s.collCheck (mkColl (s.nextId + 1) x.stall d.words none (some (d.issue c g n gr.serial))) = .ok k) (op : k.op ≠ 6) (several : 1 < k.n)
    (off : s.onString = false) (ctx : s.ctx? n = some x) (running : x.st = .running) (free : s.delays x.stall = false)
    (clean : (s.core c).poison = []) :
    let t := s.cxiEnter c g n x gr d pc mask
    t.colls = s.colls.filter (fun v => v.id != s.nextId + 1) ∧ t.mem = s.mem ∧
      (t.core c).mem = tsetMany 0 (s.core c).mem (cxiRes d) (issueRecord stStringLost s.str.time) ∧
      t.group? c g = some ((gr.tokenUp (cxiTok d)).tokenDown (cxiTok d)) := by
  generalize record : issueRecord stStringLost s.str.time = bs
  have reads := collCheck_reads ok
  have issue : k.issue = some (d.issue c g n gr.serial) := congrArg Coll.issue reads
  have ring : k.ring = none := congrArg Coll.ring reads
  have stall : k.stall = x.stall := congrArg Coll.stall reads
  have id : k.id = s.nextId + 1 := congrArg Coll.id reads
  have core : (s.cxiUp c g gr d).core c = { s.core c with groups := tset {} (s.core c).groups g (gr.tokenUp (cxiTok d)) } :=
    State.core_setGroup (s := { s with nextId := s.nextId + 1 }) w _
  have slot : (s.cxiUp c g gr d).group? c g = some (gr.tokenUp (cxiTok d)) :=
    State.group?_setGroup (s := { s with nextId := s.nextId + 1 }) w hg.serial
  obtain ⟨colls, mem, lmem, group⟩ := State.collAccept_refused (s := s.cxiUp c g gr d) (k := k) (State.setGroup_cores_wf w _) ws op several off ring issue ctx
    running (by rw [stall]; exact free) (show ((s.cxiUp c g gr d).core c).poison = [] by rw [core]; exact clean) slot rfl hg.serial
  intro t
  have ht : t = (s.cxiUp c g gr d).collAccept k := State.cxiEnter_ok good ok
  rw [id] at colls
  refine ⟨by rw [ht, colls]; rfl, by rw [ht, mem]; rfl, ?_, by rw [ht]; exact group⟩
  rw [ht, ← record]
  exact lmem.trans (by rw [show (d.issue c g n gr.serial).core = c from rfl, core]; rfl)

/-- The record of a refusal without String time. -/
theorem refusal_record (m : List Host.Cell) (w : twf 0 m = true) (a time : Nat) :
    tgetMany 0 (tsetMany 0 m a (issueRecord stStringLost time)) a 16 = toBytes 2 0x24 ++ List.replicate 6 0 ++ toBytes 8 time := by
  have record : issueRecord stStringLost time = toBytes 2 0x24 ++ List.replicate 6 0 ++ toBytes 8 time := rfl
  have length : (issueRecord stStringLost time).length = 16 := by simp [record, toBytes_length]
  rw [← record, ← length]
  exact tgetMany_tsetMany 0 _ a w

end

/-! ### HELD_ISSUE_RETRY -/

/-- A held issue that entered: its group goes on at the next instruction. -/
def State.goOn (s : State) (c g : Nat) (x : Group) : State := (s.setGroup c g x.release).modCore c fun k => { k with lastRetire := s.clock }

theorem State.goOn_spec {s : State} {c g : Nat} {x : Group} (w : twf {} s.cores = true) (hx : x.serial ≠ 0) :
    (s.goOn c g x).core c = { s.core c with groups := tset {} (s.core c).groups g x.release, lastRetire := s.clock } ∧
      (s.goOn c g x).group? c g = some x.release := by
  have set := State.core_setGroup (g := g) (c := c) w x.release
  have now : (s.goOn c g x).core c = { (s.setGroup c g x.release).core c with lastRetire := s.clock } :=
    State.core_setCore_self (c := c) (State.setGroup_cores_wf (c := c) (g := g) w x.release) _
  refine ⟨now.trans (by rw [set]), ?_⟩
  rw [← State.group?_setGroup (c := c) (g := g) w (x := x.release) (by rwa [Group.release_serial])]
  exact State.group?_congr (congrArg Core.groups now :)

section
variable {s : State} {c : CoreNo} {g : SlotNo} {n : Nat} {x : Ctx} {gr : Group} {d : Desc}
  (ctx : s.ctxOf c = some (n, x)) (running : x.st = .running) (issues : s.issues x.stall = true) (slot : s.group? c g = some gr)
include ctx running issues slot

theorem retry_mxi (held : gr.held = .mxi d) : execHeldIssueRetry c g s =
    match s.fencedArray c d with
    | some ar => .next (s.ctxFault n { cause := 0x0F, pc := gr.topPath.1, mask := gr.topPath.2, slot := g, arg2 := d.addr, core := c, opc := 0x70, array := some ar })
    | none => if (s.core c).mtxRoom gr d then .next (((s.mtxEnter c g x gr d).group? c g).elim (s.mtxEnter c g x gr d) fun y => (s.mtxEnter c g x gr d).goOn c g y)
        else .next s := by
  unfold execHeldIssueRetry
  rw [ctx, slot]
  dsimp only
  rw [if_neg (by simp [running, issues]), held]
  dsimp only
  cases s.fencedArray c d with
  | some ar => rfl
  | none =>
    refine ite_congr rfl (fun _ => ?_) fun _ => rfl
    cases (s.mtxEnter c g x gr d).group? c g <;> rfl

theorem retry_vxi (held : gr.held = .vxi d) : execHeldIssueRetry c g s =
    if (s.core c).vecRoom gr d then .next (((s.vecEnter c g x gr d).group? c g).elim (s.vecEnter c g x gr d) fun y => (s.vecEnter c g x gr d).goOn c g y)
    else .next s := by
  unfold execHeldIssueRetry
  rw [ctx, slot]
  dsimp only
  rw [if_neg (by simp [running, issues]), held]
  refine ite_congr rfl (fun _ => ?_) fun _ => rfl
  cases (s.vecEnter c g x gr d).group? c g <;> rfl

theorem retry_cxi (held : gr.held = .cxi d) (free : s.cxiHeld x.stall d = none) : execHeldIssueRetry c g s =
    if s.cxiRoom gr d then ((s.goOn c g gr).group? c g).elim (.next (s.goOn c g gr)) fun y => .next ((s.goOn c g gr).cxiEnter c g n x y d gr.topPath.1 gr.topPath.2)
    else .next s := by
  unfold execHeldIssueRetry
  rw [ctx, slot]
  dsimp only
  rw [if_neg (by simp [running, issues]), held]
  refine ite_congr rfl (fun _ => ?_) fun _ => rfl
  rw [free]
  dsimp only
  rw [slot]
  dsimp only
  unfold State.goOn
  split <;> next e => rw [e]; rfl

theorem retry_cxi_full (held : gr.held = .cxi d) (full : s.cxiRoom gr d = false) : execHeldIssueRetry c g s = .next s := by
  unfold execHeldIssueRetry
  rw [ctx, slot]
  dsimp only
  rw [if_neg (by simp [running, issues]), held]
  exact if_neg (by simp [full])

end

end Sys2Proof.Machine
end

section
/-! PROOF. Group-wide issue and held issues (O19): the rows put together. -/

namespace Sys2Proof.Machine

section
variable {s : State} {c : CoreNo} {g : SlotNo} {w : W64} {e : IEnv} {l : Nat} {r : List Nat}

theorem Issues.retired_canonical {opc : Nat} {u : Uses} (wf : s.wf = true) (h : Issues s c g w opc u e) : (e.retired e.gr).Canonical := by
  obtain ⟨serial, tokens⟩ := h.canonical wf
  exact ⟨by rwa [IEnv.retired_serial], by rwa [IEnv.retired_tokens]⟩

/-- A pass that entered: the queue and the group, retired with its counter raised. -/
theorem exec_mxi_room (wf : s.wf = true) (m : wMod w = 0) (h : Issues s c g w 0x70 { form := .fG, listed := true, a := .reg } e)
    (hex : e.ex = l :: r) (same : ∀ i ∈ r, e.vA i = e.vA l) (good : (s.core c).mtxBad (e.rA l) = none) (clean : (s.core c).poison = [])
    (free : s.led.arrFenced = []) :
    let d := (s.core c).mtxDesc (e.rA l)
    let x := mdOf d.words
    (s.core c).mtxRoom e.gr d = true → ∃ t p gr, exec (.mxi c g w) s = .next t ∧ (t.core c).passes = (s.core c).passes ++ [p] ∧
      p.slot = g.val ∧ p.quad = x.array / 4 ∧ p.desc = d ∧ p.phase = .queued ∧ t.group? c g = some gr ∧
      gr.token x.token = e.gr.token x.token + 1 ∧ (gr.paths.head?.map PathEnt.pc) = some ((e.pc + 8) % 2 ^ 64) := by
  intro d x room
  have canon := h.canonical wf
  obtain ⟨wt, -, p, queue, slot, quad, desc, phase⟩ := State.mtxEnter_spec (c := c) (g := g) (State.wf_cores wf) e.x canon d
  obtain ⟨core, group⟩ := retire_entered (x := e.gr.tokenUp x.token) wt h.core h.slot canon.serial
  obtain ⟨top, more, paths, -⟩ := h.top
  refine ⟨_, p, _, exec_mxi_enters m h hex same good clean free wf room, by rw [core]; exact queue, slot, quad, desc, phase, group, ?_, ?_⟩
  · rw [IEnv.retired_token, Group.tokenUp_token canon]
  · rw [IEnv.retired_paths, Group.setTop_paths (x := e.gr.tokenUp x.token) paths]
    rfl

/-- A descriptor that entered: the vector queue and the group with its counter raised. -/
theorem exec_vxi_room (wf : s.wf = true) (m : wMod w = 0) (h : Issues s c g w 0x71 { form := .fG, listed := true, a := .reg } e)
    (hex : e.ex = l :: r) (same : ∀ i ∈ r, e.vA i = e.vA l) (good : (s.core c).vecBad (e.rA l) = false) (clean : (s.core c).poison = []) :
    let d := (s.core c).vecDesc (e.rA l)
    let tok := (vdOf d.words).token
    (s.core c).vecRoom e.gr d = true → ∃ t j gr, exec (.vxi c g w) s = .next t ∧ (t.core c).vq = (s.core c).vq ++ [j] ∧
      j.slot = g.val ∧ j.desc = d ∧ j.done = false ∧ t.group? c g = some gr ∧ gr.token tok = e.gr.token tok + 1 := by
  intro d tok room
  have canon := h.canonical wf
  obtain ⟨wt, -, j, queue, slot, desc, fresh⟩ := State.vecEnter_spec (c := c) (g := g) (State.wf_cores wf) e.x canon d
  obtain ⟨core, group⟩ := retire_entered (x := e.gr.tokenUp tok) wt h.core h.slot canon.serial
  refine ⟨_, j, _, exec_vxi_enters m h hex same good clean wf room, by rw [core]; exact queue, slot, desc, fresh, group, ?_⟩
  rw [IEnv.retired_token, Group.tokenUp_token canon]

section
variable (wf : s.wf = true) (m : wMod w = 0) (h : Issues s c g w 0x72 { form := .fG, listed := true, a := .reg } e)
  (hex : e.ex = l :: r) (same : ∀ i ∈ r, e.vA i = e.vA l) (aligned : e.rA l % 64 = 0) (inside : e.rA l + 64 ≤ 0x300000)
  (clean : (s.core c).poison = []) (room : s.cxiRoom e.gr ((s.core c).collDesc (e.rA l)) = true)
  (free : s.cxiHeld e.x.stall ((s.core c).collDesc (e.rA l)) = none)
include wf m h hex same aligned inside clean room free

theorem exec_cxi_faults (first : e.x.fault = none) : let d := (s.core c).collDesc (e.rA l)
    let u := e.retire e.gr s
    let q := mkColl (s.nextId + 1) e.x.stall d.words none (some (d.issue c g e.n e.gr.serial))
    (cxiBad d = true → ∃ t y f, exec (.cxi c g w) s = .next t ∧ t.ctx? e.n = some y ∧ y.st = .killing ∧ y.fault = some f ∧ f.cause = 0x0E ∧
      f.arg2 = e.rA l) ∧
    (∀ m k, cxiBad d = false → u.collCheck q = .error (m, k) → m.cause = 0x0E → ∃ t y f, exec (.cxi c g w) s = .next t ∧
      t.ctx? e.n = some y ∧ y.st = .killing ∧ y.fault = some f ∧ f.cause = 0x0E ∧ f.arg2 = e.rA l + m.addr * 2 ^ 32) := by
  intro d u q
  have ctx : u.ctx? e.n = some e.x := State.ctx?_of_ctxOf (s := s) h.ctx
  have run := exec_cxi_enters m h hex same aligned inside clean room wf free
  refine ⟨fun bad => ?_, fun me k good failed cause => ?_⟩
  · rw [run, State.cxiEnter_bad bad]
    obtain ⟨y, f, hy, killing, fault, hc, arg, -⟩ := State.ctxFault_kills (s := u) (State.wf_ctxs (s := s) wf) ctx first
      { cause := causeDesc, pc := e.pc, mask := e.act, slot := g, arg2 := d.addr + 0 * 2 ^ 32, core := c, opc := 0x72 }
    exact ⟨_, y, f, rfl, hy, killing, fault, hc, by rw [arg, Nat.zero_mul, Nat.add_zero]; rfl⟩
  · rw [run, State.cxiEnter_error good (by rw [IEnv.retired_serial]; exact failed) cause]
    obtain ⟨y, f, hy, killing, fault, hc, arg, -⟩ := State.ctxFault_kills (s := u) (State.wf_ctxs (s := s) wf) ctx first
      { cause := causeDesc, pc := e.pc, mask := e.act, slot := g, arg2 := d.addr + me.addr * 2 ^ 32, core := c, opc := 0x72 }
    exact ⟨_, y, f, rfl, hy, killing, fault, hc, arg⟩

theorem exec_cxi_dispatches : let d := (s.core c).collDesc (e.rA l)
    let u := e.retire e.gr s
    let i := d.issue c g e.n e.gr.serial
    let q := mkColl (s.nextId + 1) e.x.stall d.words none (some i)
    ∀ k, cxiBad d = false → u.collCheck q = .ok k → k.op ≠ 6 → 1 < k.n →
      (s.onString = true → s.str.acceptFrom ≤ s.clock → s.clock + 256 ≤ s.clockOf (k.w 6).toNat → s.canReserve k k.wantLb = true →
        ∃ t v gr, exec (.cxi c g w) s = .next t ∧ t.colls = s.colls ++ [v] ∧ v.issue = some i ∧ v.ph = .waiting ∧ v.members = k.members ∧
          v.words = d.words ∧ v.lb = k.wantLb ∧ v.start = s.clockOf (k.w 6).toNat ∧ v.deadline = v.start + 256 * fld (k.w 7) 47 28 ∧
          (t.stall e.x.stall).lbHeld = (s.stall e.x.stall).lbHeld + k.wantLb ∧ t.mem = s.mem ∧
          t.group? c g = some gr ∧ gr.token (cxiTok d) = e.gr.token (cxiTok d) + 1) ∧
      (s.onString = false → s.ctx? e.n = some e.x → s.delays e.x.stall = false → cxiRes d + 16 ≤ 0x300000 → cxiRes d % 16 = 0 →
        ∃ t gr, exec (.cxi c g w) s = .next t ∧ t.colls = s.colls.filter (fun v => v.id != s.nextId + 1) ∧ t.mem = s.mem ∧
          tgetMany 0 (t.core c).mem (cxiRes d) 16 = toBytes 2 0x24 ++ List.replicate 6 0 ++ toBytes 8 s.str.time ∧
          t.group? c g = some gr ∧ gr.token (cxiTok d) = e.gr.token (cxiTok d)) := by
  intro d u i q k good ok op several
  have wu : twf {} u.cores = true := e.retire_cores_wf _ (State.wf_cores wf)
  have ws : twf {} u.stalls = true := (State.wf_units wf).1
  have canon := h.retired_canonical wf
  have run := exec_cxi_enters m h hex same aligned inside clean room wf free
  rw [run]
  have ok : u.collCheck (mkColl (u.nextId + 1) e.x.stall d.words none (some (d.issue c g e.n (e.retired e.gr).serial))) = .ok k := by
    rw [IEnv.retired_serial]
    exact ok
  refine ⟨fun on stable early reserve => ?_, fun off ctx free _ _ => ?_⟩
  · obtain ⟨v, colls, issue, rest⟩ := State.cxiEnter_lists (s := u) (pc := e.pc) (mask := e.act) wu ws canon good ok op several on stable early reserve
    obtain ⟨phase, members, words, lb, start, deadline, held, mem, group⟩ := rest
    rw [IEnv.retired_serial] at issue
    refine ⟨_, v, _, rfl, colls, issue, phase, members, words, lb, start, deadline, held, mem, group, ?_⟩
    rw [Group.tokenUp_token canon, IEnv.retired_token]
  · obtain ⟨core, -⟩ := retire_entered (State.wf_cores wf) h.core h.slot (h.canonical wf).serial
    obtain ⟨colls, mem, lmem, group⟩ := State.cxiEnter_refused (s := u) (pc := e.pc) (mask := e.act) wu ws canon good ok op several off ctx h.running free
      (by rw [core]; exact clean)
    refine ⟨_, _, rfl, colls, mem, ?_, group, ?_⟩
    · rw [lmem]
      exact refusal_record _ (by rw [core]; exact (State.wf_core wf c).mem) _ _
    · rw [Group.tokenDown_token (show twf 0 ((e.retired e.gr).tokenUp _).tokens = true from tset_wf _ _ _ canon.tokens), Group.tokenUp_token canon,
        IEnv.retired_token]
      rfl

end

end

/-! ### Held issues -/

section
variable {s : State} {c : CoreNo} {g : SlotNo} {n : Nat} {x : Ctx} {gr : Group} {d : Desc} {top : PathEnt} {rest : List PathEnt}
  (wf : s.wf = true) (ctx : s.ctxOf c = some (n, x)) (running : x.st = .running) (issues : s.issues x.stall = true) (slot : s.group? c g = some gr)
include ctx running issues slot

theorem retry_mxi_full (held : gr.held = .mxi d) (unfenced : s.fencedArray c d = none) (full : (s.core c).mtxRoom gr d = false) :
    exec (.heldIssueRetry c g) s = .next s := by
  refine (retry_mxi ctx running issues slot held).trans ?_
  rw [unfenced]
  exact if_neg (by simp [full])

theorem retry_vxi_full (held : gr.held = .vxi d) (full : (s.core c).vecRoom gr d = false) : exec (.heldIssueRetry c g) s = .next s :=
  (retry_vxi ctx running issues slot held).trans (if_neg (by simp [full]))

include wf

theorem retry_mxi_fenced (held : gr.held = .mxi d) {ar : Nat} (fenced : s.fencedArray c d = some ar) (first : x.fault = none) :
    ∃ t y f, exec (.heldIssueRetry c g) s = .next t ∧ t.ctx? n = some y ∧ y.st = .killing ∧ y.fault = some f ∧ f.cause = 0x0F ∧ f.array = some ar := by
  obtain ⟨y, f, hy, killing, fault, hc, -, array⟩ := State.ctxFault_kills (State.wf_ctxs wf) (State.ctx?_of_ctxOf ctx) first
    { cause := 0x0F, pc := gr.topPath.1, mask := gr.topPath.2, slot := g, arg2 := d.addr, core := c, opc := 0x70, array := some ar }
  refine ⟨_, y, f, (retry_mxi ctx running issues slot held).trans ?_, hy, killing, fault, hc, array⟩
  rw [fenced]

variable (paths : gr.paths = top :: rest)
include paths

theorem retry_mxi_enters (held : gr.held = .mxi d) (unfenced : s.fencedArray c d = none) (room : (s.core c).mtxRoom gr d = true) :
    ∃ t p gr', exec (.heldIssueRetry c g) s = .next t ∧ (t.core c).passes = (s.core c).passes ++ [p] ∧ p.desc = d ∧ p.phase = .queued ∧
      t.group? c g = some gr' ∧ gr'.held = .no ∧ gr'.paths = { top with pc := (top.pc + 8) % 2 ^ 64 } :: rest ∧
      gr'.token (mdOf d.words).token = gr.token (mdOf d.words).token + 1 := by
  have canon := State.wf_group wf slot
  obtain ⟨wt, group, p, queue, -, -, desc, phase⟩ := State.mtxEnter_spec (c := c) (g := g) (State.wf_cores wf) x canon d
  obtain ⟨core, group'⟩ := State.goOn_spec (x := gr.tokenUp (mdOf d.words).token) (c := c) (g := g) wt canon.serial
  refine ⟨_, p, _, (retry_mxi ctx running issues slot held).trans ?_, (congrArg Core.passes core :).trans queue, desc, phase, group', Group.release_held _,
    Group.release_paths (x := gr.tokenUp _) paths, ?_⟩
  · rw [unfenced]
    refine (if_pos room).trans ?_
    rw [group]
    rfl
  · rw [Group.release_token, Group.tokenUp_token canon]

theorem retry_vxi_enters (held : gr.held = .vxi d) (room : (s.core c).vecRoom gr d = true) :
    ∃ t j gr', exec (.heldIssueRetry c g) s = .next t ∧ (t.core c).vq = (s.core c).vq ++ [j] ∧ j.desc = d ∧
      t.group? c g = some gr' ∧ gr'.held = .no ∧ gr'.paths = { top with pc := (top.pc + 8) % 2 ^ 64 } :: rest := by
  have canon := State.wf_group wf slot
  obtain ⟨wt, group, j, queue, -, desc, -⟩ := State.vecEnter_spec (c := c) (g := g) (State.wf_cores wf) x canon d
  obtain ⟨core, group'⟩ := State.goOn_spec (x := gr.tokenUp (vdOf d.words).token) (c := c) (g := g) wt canon.serial
  refine ⟨_, j, _, (retry_vxi ctx running issues slot held).trans ?_, (congrArg Core.vq core :).trans queue, desc, group', Group.release_held _,
    Group.release_paths (x := gr.tokenUp _) paths⟩
  refine (if_pos room).trans ?_
  rw [group]
  rfl

theorem retry_cxi_enters (held : gr.held = .cxi d) (room : s.cxiRoom gr d = true) (free : s.cxiHeld x.stall d = none) :
    ∃ (u : State) (gr' : Group), u.group? c g = some gr' ∧ gr'.held = .no ∧ gr'.paths = { top with pc := (top.pc + 8) % 2 ^ 64 } :: rest ∧
      exec (.heldIssueRetry c g) s = .next (u.cxiEnter c g n x gr' d gr.topPath.1 gr.topPath.2) := by
  obtain ⟨-, group⟩ := State.goOn_spec (c := c) (g := g) (State.wf_cores wf) (State.wf_group wf slot).serial
  refine ⟨_, _, group, Group.release_held _, Group.release_paths paths, (retry_cxi ctx running issues slot held free).trans ?_⟩
  rw [if_pos room, group]
  rfl

end

end Sys2Proof.Machine
end

section
open Sys2Proof Sys2Proof.Machine

/-- Settles O19: each of the three group-wide rows by the outcome of the check of its descriptor, HELD_ISSUE_RETRY by what the group holds. -/
theorem issuesToTheEngines : Obligations.IssuesToTheEngines := by
  unfold Obligations.IssuesToTheEngines
  refine ⟨fun s c g w e wf m => ⟨fun h => ⟨exec_mxi_empty m h, fun l r => exec_mxi_differ m h, fun l r hex same => ⟨?_, ?_⟩⟩,
    fun h => ⟨exec_vxi_empty m h, fun l r => exec_vxi_differ m h, fun l r hex same => ⟨exec_vxi_bad m h hex same, ?_⟩⟩,
    fun h => ⟨exec_cxi_empty m h, fun l r => exec_cxi_differ m h, fun l r hex same => ⟨exec_cxi_bad m h hex same, ?_⟩⟩⟩, ?_⟩
  · exact fun b => exec_mxi_bad m h hex same
  · exact fun good clean free => ⟨exec_mxi_full m h hex same good clean free, exec_mxi_room wf m h hex same good clean free⟩
  · exact fun good clean => ⟨exec_vxi_full m h hex same good clean, exec_vxi_room wf m h hex same good clean⟩
  · refine fun aligned inside clean => ⟨exec_cxi_full m h hex same aligned inside clean, fun u room => exec_cxi_held m h hex same aligned inside clean room,
      fun room free => ⟨_, ?_, IEnv.retired_paths e e.gr, exec_cxi_enters m h hex same aligned inside clean room wf free⟩, fun room free => ⟨?_, ?_⟩⟩
    · exact (retire_entered (State.wf_cores wf) h.core h.slot (h.canonical wf).serial).2
    · exact exec_cxi_faults wf m h hex same aligned inside clean room free
    · exact exec_cxi_dispatches wf m h hex same aligned inside clean room free
  · intro s c g n x gr d top rest wf ctx running issues slot paths
    refine ⟨fun held => ⟨fun ar => retry_mxi_fenced wf ctx running issues slot held, retry_mxi_full ctx running issues slot held,
        retry_mxi_enters wf ctx running issues slot paths held⟩,
      fun held => ⟨retry_vxi_full ctx running issues slot held, retry_vxi_enters wf ctx running issues slot paths held⟩,
      fun held => ⟨retry_cxi_full ctx running issues slot held, retry_cxi_enters wf ctx running issues slot paths held⟩⟩

end

section
/-! PROOF. The start of a pass (O20; R91, R117, R382, R383). -/

namespace Sys2Proof.Machine

section
variable {s : State} {c n : Nat}

/-! ### What leaves the cores -/

theorem State.modCore_cores_wf (w : twf {} s.cores = true) (f : Core → Core) : twf {} (s.modCore n f).cores = true := State.setCore_cores_wf w _

theorem State.core_modCore (w : twf {} s.cores = true) (f : Core → Core) : (s.modCore n f).core n = f (s.core n) := State.core_setCore_self w _

/-- A change of a core that keeps a part of it keeps that part of every core. -/
theorem State.modCore_keeps {β : Type} {f : Core → Core} {part : Core → β} (w : twf {} s.cores = true) (keeps : ∀ k, part (f k) = part k) (m : Nat) :
    part ((s.modCore n f).core m) = part (s.core m) := by
  rw [State.modCore_eq, State.core_setCore w]
  split
  · next e => rw [keeps, e]
  · rfl

theorem State.ledger_cores (event sev kind unit : Nat) (stall : Option Nat) (a0 a1 a2 a3 oper count : Nat) :
    (s.ledger event sev kind unit stall a0 a1 a2 a3 oper count).cores = s.cores := by
  have only : LedgerOnly s _ := ledger_only event sev kind unit stall a0 a1 a2 a3 oper count
  unfold LedgerOnly at only
  rw [only]

theorem State.boundExt_cores (a b q : Nat) : (s.boundExt c n a b q).cores = s.cores := by
  unfold State.boundExt
  split
  · split
    · dsimp only
      split
      · rfl
      · exact State.ledger_cores _ _ _ _ _ _ _ _ _ _ _
    · rfl
  · rfl

theorem State.notSampled_cores : (s.notSampled c).cores = s.cores := by
  unfold State.notSampled State.atMost
  dsimp only
  split
  · exact State.ledger_cores _ _ _ _ _ _ _ _ _ _ _
  · rfl

/-! ### Merges of what the wide buffer holds (R117) -/

/-- Setting pairs keeps every other part of a core. -/
theorem setPair_only {ι : Type} (f : Core → ι → Core) (hf : ∀ k i, f k i = { k with acc := (f k i).acc }) :
    ∀ (l : List ι) (k : Core), l.foldl f k = { k with acc := (l.foldl f k).acc }
  | [], _ => rfl
  | i :: l, k => by
    rw [List.foldl_cons, setPair_only f hf l, hf k i]

/-- A merge sets pairs, the memory of a slot that software wrote, and the state of its quadrant, whose slot is then empty. -/
theorem Core.merge_only (k : Core) (rnd wide a b q : Nat) :
    ∃ acc mem seg, k.merge rnd wide a b q = { k with acc := acc, mem := mem, quads := tset {} k.quads (quadKey a b q) seg } ∧ seg.live = false ∧ seg ≠ {} := by
  unfold Core.merge
  dsimp only
  rw [setPair_only (fun k (e : Nat × Nat) => k.setPair a b e.1 e.2 _) (fun _ _ => rfl)]
  refine ⟨_, _, _, rfl, rfl, fun e => ?_⟩
  have ns := congrArg Quad.ns e
  simp only [Nat.min_def] at ns
  split at ns <;> simp at ns

theorem Core.slotPoison_clean {k : Core} (h : k.poison = []) (wide a b q : Nat) : k.slotPoison wide a b q = none :=
  List.find?_eq_none.mpr fun p _ => by simp [Core.poisoned_clean h]

/-- Where no quadrant of a list is LIVE, there is nothing to merge. -/
theorem State.mergeLive_idle (wide : Nat) : ∀ (l : List (Nat × Nat × Nat)), (∀ e ∈ l, ((s.core c).quad e.1 e.2.1 e.2.2).live = false) →
    s.mergeLive c n wide l = (s, none)
  | [], _ => rfl
  | (a, b, q) :: l, h => by
    rw [State.mergeLive, if_neg (by simp [h _ (.head _)]), State.mergeLive_idle wide l fun e he => h e (.tail _ he)]

/-- Without poison the merges go through: no quadrant of the list is LIVE then, none became LIVE, and the passes stand. -/
theorem State.mergeLive_clean (wide : Nat) : ∀ (l : List (Nat × Nat × Nat)) {s : State}, twf {} s.cores = true → (s.core c).poison = [] →
    ∃ t, s.mergeLive c n wide l = (t, none) ∧ twf {} t.cores = true ∧ (t.core c).passes = (s.core c).passes ∧
      (∀ e ∈ l, ((t.core c).quad e.1 e.2.1 e.2.2).live = false) ∧
      ∀ e : Nat × Nat × Nat, ((s.core c).quad e.1 e.2.1 e.2.2).live = false → ((t.core c).quad e.1 e.2.1 e.2.2).live = false
  | [], s, w, _ => ⟨s, rfl, w, rfl, fun _ h => absurd h List.not_mem_nil, fun _ h => h⟩
  | (a, b, q) :: l, s, w, clean => by
    rw [State.mergeLive]
    split
    · rw [Core.slotPoison_clean clean]
      dsimp only
      obtain ⟨acc, mem, x, merged, empty, ne⟩ := ((s.boundExt c n a b q).core c).merge_only s.rnd wide a b q
      have cores : (s.boundExt c n a b q).cores = s.cores := State.boundExt_cores a b q
      have same : (s.boundExt c n a b q).core c = s.core c := by unfold State.core; rw [cores]
      have core : (((s.boundExt c n a b q).modCore c fun k => k.merge s.rnd wide a b q).fresh).core c =
          { s.core c with acc := acc, mem := mem, quads := tset {} (s.core c).quads (quadKey a b q) x } := by
        refine (State.core_setCore_self (by rw [cores]; exact w) _).trans ?_
        dsimp only
        rw [merged, same]
      generalize hu : ((s.boundExt c n a b q).modCore c fun k => k.merge s.rnd wide a b q).fresh = u at core
      have wu : twf {} u.cores = true := hu ▸ State.setCore_cores_wf (by rw [cores]; exact w) _
      have quad (e : Nat × Nat × Nat) : (u.core c).quad e.1 e.2.1 e.2.2 = if quadKey e.1 e.2.1 e.2.2 = quadKey a b q then x else
          (s.core c).quad e.1 e.2.1 e.2.2 := by
        unfold Core.quad
        rw [core]
        exact tget_tset_of_ne _ _ _ ne
      obtain ⟨t, run, wt, passes, off, stay⟩ := State.mergeLive_clean wide l wu (by rw [core]; exact clean)
      refine ⟨t, run, wt, passes.trans (by rw [core]), fun e he => ?_, fun e he => stay e ?_⟩
      · obtain rfl | he := List.mem_cons.mp he
        · exact stay _ (by rw [quad, if_pos rfl, empty])
        · exact off e he
      · rw [quad]
        split
        · exact empty
        · exact he
    · next idle =>
      obtain ⟨t, run, wt, passes, off, stay⟩ := State.mergeLive_clean wide l w clean
      refine ⟨t, run, wt, passes, fun e he => ?_, stay⟩
      obtain rfl | he := List.mem_cons.mp he
      · exact stay _ (Bool.eq_false_iff.mpr idle)
      · exact off e he

/-! ### Shadow arrays (R383) -/

/-- A choice that takes elements of a list answers one of them. -/
theorem foldl_option_mem {α : Type} {f : Option α → α → Option α} (hf : ∀ b a, f b a = some a ∨ f b a = b) :
    ∀ (l : List α) (b : Option α), l.foldl f b = b ∨ ∃ a ∈ l, l.foldl f b = some a
  | [], _ => .inl rfl
  | a :: l, b => by
    rw [List.foldl_cons]
    obtain h | ⟨x, hx, h⟩ := foldl_option_mem hf l (f b a)
    · obtain e | e := hf b a
      · exact .inr ⟨a, .head _, h.trans e⟩
      · exact .inl (h.trans e)
    · exact .inr ⟨x, .tail _ hx, h⟩

theorem foldl_some_mem {α : Type} {f : Option α → α → Option α} (hf : ∀ b a, f b a = some a ∨ f b a = b) {l : List α} {a : α}
    (h : l.foldl f none = some a) : a ∈ l := by
  obtain e | ⟨x, hx, e⟩ := foldl_option_mem hf l none
  · cases e.symm.trans h
  · cases e.symm.trans h
    exact hx

/-- A shadow array is an unfenced one of another core of the group of four. -/
theorem State.shadowArray_mem {l : List Nat} {b : Nat} (h : s.shadowArray c l = some b) :
    b ∉ s.led.arrFenced ∧ (b / 8 = c ^^^ 1 ∨ b / 8 = c ^^^ 2 ∨ b / 8 = c ^^^ 3) := by
  unfold State.shadowArray at h
  obtain ⟨n, hn, h⟩ := List.exists_of_findSome?_eq_some h
  obtain ⟨a, ha, rfl⟩ := Option.map_eq_some_iff.mp h
  have mem : a ∈ (List.range 8).filter fun a => !s.led.arrFenced.contains (8 * n + a) && !l.contains (8 * n + a) := by
    refine foldl_some_mem (fun b a => ?_) ha
    cases b with
    | none => exact .inl rfl
    | some q =>
      dsimp only
      split
      · exact .inl rfl
      · exact .inr rfl
  simp only [List.mem_filter, List.mem_range, Bool.and_eq_true, Bool.not_eq_true', List.contains_eq_mem, decide_eq_false_iff_not] at mem
  obtain ⟨lt, free, -⟩ := mem
  refine ⟨free, ?_⟩
  rw [show (8 * n + a) / 8 = n by omega]
  simp only [List.map_cons, List.map_nil, List.mem_cons, List.not_mem_nil, or_false] at hn
  exact hn

/-- Entry `e` gives a shadow array to one of the arrays `sel` of core `c`. -/
def State.ShadowOf (s : State) (c : Nat) (sel : List Nat) (e : Nat × Nat) : Prop :=
  (∃ a ∈ sel, e.1 = 8 * c + a) ∧ e.2 ∉ s.led.arrFenced ∧ (e.2 / 8 = c ^^^ 1 ∨ e.2 / 8 = c ^^^ 2 ∨ e.2 / 8 = c ^^^ 3)

/-- The shadow arrays of a pass, built from those given already. -/
theorem State.shadows_from (all : List Nat) : ∀ (sel : List Nat) (l : List (Nat × Nat)), (∀ a ∈ sel, a ∈ all) → (∀ e ∈ l, s.ShadowOf c all e) →
    let r := sel.foldl (fun l a => match s.shadowArray c (l.map (·.2)) with
      | some b => l ++ [(8 * c + a, b)]
      | none => l) l
    r.length ≤ l.length + sel.length ∧ ∀ e ∈ r, s.ShadowOf c all e
  | [], l, _, h => ⟨Nat.le_refl _, h⟩
  | a :: sel, l, sub, h => by
    rw [List.foldl_cons]
    cases found : s.shadowArray c (l.map (·.2)) with
    | none =>
      dsimp only
      obtain ⟨len, all⟩ := State.shadows_from all sel l (fun x hx => sub x (.tail _ hx)) h
      exact ⟨by rw [List.length_cons]; omega, all⟩
    | some b =>
      dsimp only
      have own : s.ShadowOf c all (8 * c + a, b) := ⟨⟨a, sub a (.head _), rfl⟩, State.shadowArray_mem found⟩
      obtain ⟨len, all⟩ := State.shadows_from all sel (l ++ [(8 * c + a, b)]) (fun x hx => sub x (.tail _ hx)) fun e he =>
        (List.mem_append.mp he).elim (h e) fun he => by rw [List.mem_singleton.mp he]; exact own
      rw [List.length_append, List.length_singleton] at len
      exact ⟨by rw [List.length_cons]; omega, all⟩

theorem State.shadows_spec (sel : List Nat) : (s.shadows c sel).length ≤ sel.length ∧ ∀ e ∈ s.shadows c sel, s.ShadowOf c sel e := by
  obtain ⟨len, all⟩ := State.shadows_from (s := s) (c := c) sel sel [] (fun _ h => h) fun _ h => absurd h List.not_mem_nil
  exact ⟨by rwa [List.length_nil, Nat.zero_add] at len, all⟩

/-- What shadow arrays begin with leaves the passes and the quadrants of every core. -/
theorem State.shadowLoad_keeps {β : Type} {part : Core → β} (cells : ∀ k x, part { k with cells := x } = part k) (w : twf {} s.cores = true) (m : MD)
    (sh : List (Nat × Nat)) (i : Nat) : part ((s.shadowLoad c m sh).core i) = part (s.core i) := by
  refine (forEach_inv (P := fun t => twf {} t.cores = true ∧ part (t.core i) = part (s.core i)) (fun e t h => ?_) sh ⟨w, rfl⟩).2
  exact ⟨State.setCore_cores_wf h.1 _, (State.modCore_keeps h.1 (fun k => cells k _) i).trans h.2⟩

/-! ### PASS_START -/

/-- The quadrants that a pass covers in part and clears (R117). -/
def MD.cleared (x : MD) : List (Nat × Nat × Nat) := if x.accAdd = 0 then (x.touched.filter fun t => t.2 < 256).map (·.1) else []

/-- The arrays of a pass are free (R91, R383). -/
def State.passFree (s : State) (c : Nat) (m : MD) : Prop :=
  (∀ o ∈ (s.core c).passes, o.phase = .streaming → apart m (mdOf o.desc.words) = true) ∧ ∀ a ∈ m.arrays, s.shadowBusy (8 * c + a) = false

/-- A shadow array of a pass streams, or another pass shadows on it. -/
def State.shadowHeld (s : State) (p : Pass) (sh : List (Nat × Nat)) : Bool :=
  sh.any fun a => (s.core (a.2 / 8)).arrayBusy (a.2 % 8) ||
    s.cores.any fun e => e.2.passes.any fun o => o.id != p.id && o.phase != .ended && o.shadow.any fun b => b.2 == a.2

/-- A pass that streams, its first tile in the cells. -/
def State.streams (s : State) (c : Nat) (p : Pass) (sh : List (Nat × Nat)) : State :=
  ((if sh.length < p.selected.length then s.notSampled c else s).modCore c fun k =>
    (k.loadTile (mdOf p.desc.words) 0).modPass p.id fun o => { o with phase := .streaming, shadow := sh }).shadowLoad c (mdOf p.desc.words) sh

/-- The pass as it stands in a queue that was searched. -/
theorem modPass_mem {k : Core} {p : Pass} (mem : p ∈ k.passes) (f : Pass → Pass) : f p ∈ (k.modPass p.id f).passes :=
  List.mem_map.mpr ⟨p, mem, if_pos rfl⟩

theorem State.streams_mem {p : Pass} (w : twf {} s.cores = true) (mem : p ∈ (s.core c).passes) (sh : List (Nat × Nat)) :
    ({ p with phase := .streaming, shadow := sh } : Pass) ∈ ((s.streams c p sh).core c).passes := by
  unfold State.streams
  generalize hu : (if sh.length < p.selected.length then s.notSampled c else s) = u
  have cores : u.cores = s.cores := by
    rw [← hu]
    split
    · exact State.notSampled_cores
    · rfl
  have wu : twf {} u.cores = true := by rw [cores]; exact w
  have core : u.core c = s.core c := by unfold State.core; rw [cores]
  rw [State.shadowLoad_keeps (part := Core.passes) (fun _ _ => rfl) (State.modCore_cores_wf wu _), State.core_modCore wu]
  exact modPass_mem (k := (u.core c).loadTile _ 0) (by rw [core]; exact mem) fun o => { o with phase := .streaming, shadow := sh }

theorem State.streams_quad {p : Pass} (w : twf {} s.cores = true) (sh : List (Nat × Nat)) (a b q : Nat) :
    ((s.streams c p sh).core c).quad a b q = (s.core c).quad a b q := by
  unfold State.streams
  generalize hu : (if sh.length < p.selected.length then s.notSampled c else s) = u
  have cores : u.cores = s.cores := by
    rw [← hu]
    split
    · exact State.notSampled_cores
    · rfl
  have wu : twf {} u.cores = true := by rw [cores]; exact w
  rw [State.shadowLoad_keeps (part := fun k => k.quad a b q) (fun _ _ => rfl) (State.modCore_cores_wf wu _),
    State.modCore_keeps (part := fun k => k.quad a b q) wu (fun k => show ((k.loadTile _ 0).modPass p.id _).quad a b q = k.quad a b q from rfl)]
  unfold State.core
  rw [cores]

end

section
variable {s : State} {c : CoreNo} {q : QuadNo} {n : Nat} {x : Ctx} {p : Pass}
  (ctx : s.ctxOf c = some (n, x)) (running : x.st = .running) (issues : s.issues x.stall = true)
  (head : (s.core c).passes.find? (fun p => p.quad == q.val && p.phase == .queued) = some p)
include ctx running issues head

theorem passStart_waits (busy : ¬ s.passFree c (mdOf p.desc.words)) (bad : Bool) : execPassStart c q bad s = .next s := by
  unfold execPassStart
  dsimp only
  rw [ctx, head]
  dsimp only
  rw [if_neg (by simp [running, issues])]
  refine if_pos ?_
  by_contra free
  simp only [Bool.or_eq_true, not_or, List.any_eq_true, not_exists, not_and, Bool.and_eq_true, beq_iff_eq, Bool.not_eq_true', Bool.not_eq_false,
    Bool.not_eq_true] at free
  exact busy free

/-- A pass whose arrays are free: it waits for its shadow arrays, its merges fail their check or meet poison, or it streams. -/
theorem passStart_runs (free : s.passFree c (mdOf p.desc.words)) (fresh : p.shadow = []) (bad : Bool) : execPassStart c q bad s =
    if s.shadowHeld p (s.shadows c p.selected) then .next (s.modCore c fun k => k.modPass p.id fun o => { o with shadow := s.shadows c p.selected })
    else if bad ∧ (mdOf p.desc.words).cleared.any fun t => ((s.core c).quad t.1 t.2.1 t.2.2).live then
      .next (s.ctxFault n { cause := 0x12, pc := p.pc, mask := p.mask, slot := p.slot, arg2 := p.desc.addr, core := c.val })
    else match s.mergeLive c n x.wide (mdOf p.desc.words).cleared with
      | (s, some a) => .next (s.feederFault c n p.slot p.pc p.mask a)
      | (t, none) => .next (t.streams c p (s.shadows c p.selected)) := by
  obtain ⟨apart, idle⟩ := free
  unfold execPassStart
  dsimp only
  rw [ctx, head]
  dsimp only
  rw [if_neg (by simp [running, issues]), if_neg, if_pos fresh]
  · rfl
  · simp only [Bool.or_eq_true, not_or, List.any_eq_true, not_exists, not_and, Bool.and_eq_true, beq_iff_eq, Bool.not_eq_true', Bool.not_eq_false,
      Bool.not_eq_true]
    exact ⟨apart, idle⟩

/-- The clauses of a pass that begins (R91, R117, R383, R386). -/
theorem passStart_free (wf : s.wf = true) (free : s.passFree c (mdOf p.desc.words)) (fresh : p.shadow = []) :
    (p.selected = [] → (∃ t ∈ (mdOf p.desc.words).cleared, ((s.core c).quad t.1 t.2.1 t.2.2).live = true) → execPassStart c q true s =
      .next (s.ctxFault n { cause := 0x12, pc := p.pc, mask := p.mask, slot := p.slot, arg2 := p.desc.addr, core := c.val })) ∧
    (∀ bad, p.selected = [] → (∀ t ∈ (mdOf p.desc.words).cleared, ((s.core c).quad t.1 t.2.1 t.2.2).live = false) → execPassStart c q bad s =
      .next (s.modCore c fun k => { k.loadTile (mdOf p.desc.words) 0 with
        passes := k.passes.map fun o => if o.id = p.id then { o with phase := .streaming, shadow := [] } else o })) ∧
    (p.selected = [] → (s.core c).poison = [] → ∃ t, execPassStart c q false s = .next t ∧
      (∃ o ∈ (t.core c).passes, o.id = p.id ∧ o.phase = .streaming) ∧ ∀ e ∈ (mdOf p.desc.words).cleared, ((t.core c).quad e.1 e.2.1 e.2.2).live = false) ∧
    ((∀ t ∈ (mdOf p.desc.words).cleared, ((s.core c).quad t.1 t.2.1 t.2.2).live = false) → ∃ t o, execPassStart c q false s = .next t ∧
      o ∈ (t.core c).passes ∧ o.id = p.id ∧ (o.phase = .streaming ∨ (o.phase = .queued ∧ o.shadow ≠ [])) ∧ o.shadow.length ≤ p.selected.length ∧
      ∀ e ∈ o.shadow, s.ShadowOf c p.selected e) := by
  have w := State.wf_cores wf
  have mem : p ∈ (s.core c).passes := List.mem_of_find?_eq_some head
  have run := passStart_runs ctx running issues head free fresh
  have none_of (unselected : p.selected = []) : s.shadows c p.selected = [] := by rw [unselected]; rfl
  refine ⟨fun unselected live => ?_, fun bad unselected off => ?_, fun unselected clean => ?_, fun off => ?_⟩
  · rw [run, none_of unselected, if_neg (by simp [State.shadowHeld])]
    exact if_pos ⟨rfl, List.any_eq_true.mpr live⟩
  · rw [run, none_of unselected, if_neg (by simp [State.shadowHeld]), if_neg, State.mergeLive_idle _ _ off]
    · unfold State.streams
      rw [unselected]
      rfl
    · simpa using fun _ => off
  · obtain ⟨t, merged, wt, passes, empty, -⟩ := State.mergeLive_clean (c := c) (n := n) x.wide (mdOf p.desc.words).cleared w clean
    rw [run, none_of unselected, if_neg (by simp [State.shadowHeld]), if_neg (by simp), merged]
    refine ⟨_, rfl, ⟨_, State.streams_mem wt (by rw [passes]; exact mem) [], rfl, rfl⟩, fun e he => ?_⟩
    rw [State.streams_quad wt]
    exact empty e he
  · obtain ⟨len, all⟩ := State.shadows_spec (s := s) (c := c) p.selected
    have queued : p.phase = .queued := by
      have found := List.find?_some head
      simp only [Bool.and_eq_true, beq_iff_eq] at found
      exact found.2
    rw [run]
    split
    · next held =>
      refine ⟨_, { p with shadow := s.shadows c p.selected }, rfl, ?_, rfl, .inr ⟨queued, fun e => ?_⟩, len, all⟩
      · rw [State.core_modCore w]
        exact modPass_mem mem fun o => { o with shadow := s.shadows c p.selected }
      · rw [show s.shadows c p.selected = [] from e] at held
        cases held
    · rw [if_neg (by simp), State.mergeLive_idle _ _ off]
      exact ⟨_, _, rfl, State.streams_mem w mem _, rfl, .inl rfl, len, all⟩

end

end Sys2Proof.Machine
end

section
/-! PROOF. The end and the completion of a pass (O20; R90, R108, R117, R143, R385, R386). -/

namespace Sys2Proof.Machine

section
variable {s : State} {c n : Nat}

/-! ### What the end of a pass changes -/

/-- The sums of a pass folded, its quadrants counted, its last tile and rows left in the cells. -/
def State.folded (s : State) (c : Nat) (m : MD) (errs : List SumErr) : State :=
  s.modCore c fun k => (((k.foldPass m errs).countPass m).loadTile m (m.nk - 1)).fillRows m

/-- Setting quadrants keeps every other part of a core. -/
theorem setQuad_only {ι : Type} (f : Core → ι → Core) (hf : ∀ k i, f k i = { k with quads := (f k i).quads }) :
    ∀ (l : List ι) (k : Core), l.foldl f k = { k with quads := (l.foldl f k).quads }
  | [], _ => rfl
  | i :: l, k => by
    rw [List.foldl_cons, setQuad_only f hf l, hf k i]

theorem Core.foldPass_only (k : Core) (x : MD) (errs : List SumErr) : k.foldPass x errs = { k with acc := (k.foldPass x errs).acc } := by
  unfold Core.foldPass
  exact setPair_only _ (fun _ _ => rfl) _ k

theorem Core.countPass_only (k : Core) (x : MD) : k.countPass x = { k with quads := (k.countPass x).quads } := by
  unfold Core.countPass
  exact setQuad_only _ (fun _ _ => rfl) _ k

theorem Core.fillRows_only (k : Core) (x : MD) : k.fillRows x = { k with cells := (k.fillRows x).cells } := by
  unfold Core.fillRows
  split <;> rfl

/-- Of a core, the end of a pass changes pairs, quadrants and cells before its read-out. -/
theorem Core.folded_only (k : Core) (x : MD) (errs : List SumErr) :
    (((k.foldPass x errs).countPass x).loadTile x (x.nk - 1)).fillRows x =
      { k with acc := (k.foldPass x errs).acc, quads := ((k.foldPass x errs).countPass x).quads,
               cells := ((((k.foldPass x errs).countPass x).loadTile x (x.nk - 1)).fillRows x).cells } := by
  rw [Core.fillRows_only]
  generalize ((((k.foldPass x errs).countPass x).loadTile x (x.nk - 1)).fillRows x).cells = cells
  unfold Core.loadTile
  rw [Core.countPass_only]
  generalize ((k.foldPass x errs).countPass x).quads = quads
  rw [Core.foldPass_only]

theorem State.core_folded (w : twf {} s.cores = true) (m : MD) (errs : List SumErr) : (s.folded c m errs).core c =
    (((((s.core c).foldPass m errs).countPass m).loadTile m (m.nk - 1)).fillRows m) := State.core_modCore w _

/-- Without a wide buffer nothing spills. -/
theorem State.spillDue_none : ∀ l : List (Nat × Nat × Nat), s.spillDue c n 0 l = (s, none)
  | [] => rfl
  | (a, b, q) :: l => by
    rw [State.spillDue, if_neg fun h => h.1 rfl, State.spillDue_none l]

/-- A pass without read-out, in a context without a wide buffer. -/
theorem State.passFinish_plain {p : Pass} (plain : p.desc.rdo = []) (errs : List SumErr) :
    ∃ cnt, s.passFinish c n 0 p errs = (s.folded c (mdOf p.desc.words) errs, cnt, none) := by
  unfold State.passFinish
  dsimp only
  rw [if_pos plain, State.spillDue_none]
  exact ⟨_, rfl⟩

/-- A shadow found different taints the stall and marks the context; the cores stand (R385). -/
theorem State.shadowMismatch_spec {x : Ctx} (wf : s.wf = true) (ctx : s.ctx? n = some x) (p : Pass) (d : Nat × Nat × W32) :
    (s.shadowMismatch c n x p d).cores = s.cores ∧ (s.shadowMismatch c n x p d).ctx? n = some { x with mismatch := true } ∧
      ((s.shadowMismatch c n x p d).stall x.stall).tainted = true ∧ twf {} (s.shadowMismatch c n x p d).stalls = true := by
  unfold State.shadowMismatch
  dsimp only
  generalize hl : s.ledger 0x0601 _ _ _ _ _ _ _ _ _ _ = l
  have only : LedgerOnly s l := hl ▸ ledger_only _ _ _ _ _ _ _ _ _ _ _
  have ctxs : l.ctxs = s.ctxs := by rw [only]
  have stalls : twf {} l.stalls = true := by
    rw [only]
    exact (State.wf_units wf).1
  refine ⟨by rw [only]; rfl, ?_, ?_, tset_wf _ _ _ stalls⟩
  · refine (State.ctx?_setCtx (s := (l.taint x.stall).interruption 1) (show twf none l.ctxs = true by rw [ctxs]; exact State.wf_ctxs wf) n _).trans ?_
    have held : ((l.taint x.stall).interruption 1).ctx? n = some x := by
      rw [← ctx]
      exact congrArg (fun t => tget none t n) ctxs
    rw [if_pos rfl, held]
    rfl
  · refine (congrArg Stall.tainted (State.stall_setStall stalls _ _ _) :).trans ?_
    rw [if_pos rfl]

/-! ### PASS_END -/

/-- The state after the comparison of a pass with its shadow. -/
def State.compared (s : State) (c n : Nat) (x : Ctx) (p : Pass) (errs : List SumErr) : State :=
  match (s.core c).shadowDiff (mdOf p.desc.words) (p.shadow.map fun a => a.1 - 8 * c) (s.stall x.stall).qCheck errs with
  | some d => s.shadowMismatch c n x p d
  | none => s

/-- A pass of a core with its phase and its counts. -/
def State.passEnded (s : State) (c : Nat) (x : Ctx) (p : Pass) (cnt : Counts) : State :=
  (s.tally x.stall 0x08 ((mdOf p.desc.words).m * (mdOf p.desc.words).n * (mdOf p.desc.words).contraction)).modCore c fun q =>
    q.modPass p.id fun o => { o with phase := .ended, counts := [cnt.clip, cnt.nan, cnt.flagged, cnt.written] }

theorem State.passEnded_core (w : twf {} s.cores = true) (x : Ctx) (p : Pass) (cnt : Counts) : (s.passEnded c x p cnt).core c =
    (s.core c).modPass p.id fun o => { o with phase := .ended, counts := [cnt.clip, cnt.nan, cnt.flagged, cnt.written] } :=
  State.core_modCore (s := s.tally _ _ _) w _

theorem State.passEnded_tainted (w : twf {} s.stalls = true) (x : Ctx) (p : Pass) (cnt : Counts) :
    ((s.passEnded c x p cnt).stall x.stall).tainted = (s.stall x.stall).tainted := by
  refine (congrArg Stall.tainted (State.stall_setStall w x.stall x.stall _) :).trans ?_
  rw [if_pos rfl]

end

section
variable {s : State} {c : CoreNo} {n : Nat} {x : Ctx} {k : Fin 64} {p : Pass}
  (ctx : s.ctxOf c = some (n, x)) (clocks : s.pwr.coreClocks = true) (pass : (s.core c).passes[k.val]? = some p) (streams : p.phase = .streaming)
  (first : ∀ o ∈ (s.core c).passes.take k.val, o.phase ≠ .streaming)
include ctx clocks pass streams first

theorem passEnd_bad (us : UnitErrs) (errs : List SumErr) : execPassEnd c k true us errs s =
    .next (s.ctxFault n { cause := 0x12, pc := p.pc, mask := p.mask, slot := p.slot, arg2 := p.desc.addr, core := c.val }) := by
  unfold execPassEnd
  dsimp only
  rw [ctx, pass]
  dsimp only
  rw [if_neg, if_pos rfl]
  rw [List.any_eq_false.mpr fun o ho => by simp [first o ho]]
  simp [streams, clocks]

/-- Without poison a pass goes through its last steps, which may meet poison no more. -/
theorem passEnd_runs (errs : List SumErr) (clean : (s.core c).poison = []) : execPassEnd c k false [] errs s =
    match (s.compared c n x p errs).passFinish c n x.wide p errs with
    | (s, _, some a) => .next (s.feederFault c n p.slot p.pc p.mask a)
    | (s, cnt, none) => .next (s.passEnded c x p cnt) := by
  have sound : (s.core c).passPoison (mdOf p.desc.words) p.desc.rdo = none := by
    unfold Core.passPoison
    rw [clean]
    rfl
  unfold execPassEnd
  dsimp only
  rw [ctx, pass]
  dsimp only
  rw [if_neg, if_neg (by simp)]
  · unfold State.readLocalUnits forEach
    rw [List.foldl_nil, sound]
    rfl
  · rw [List.any_eq_false.mpr fun o ho => by simp [first o ho]]
    simp [streams, clocks]

/-- The clause of a pass without read-out and without wide buffer (R108, R385). -/
theorem passEnd_plain (wf : s.wf = true) (errs : List SumErr) (clean : (s.core c).poison = []) (plain : p.desc.rdo = []) (narrow : x.wide = 0) :
    let d := (s.core c).shadowDiff (mdOf p.desc.words) (p.shadow.map fun a => a.1 - 8 * c.val) (s.stall x.stall).qCheck errs
    ∃ t y, execPassEnd c k false [] errs s = .next t ∧
      (t.core c).acc = (((s.core c).foldPass (mdOf p.desc.words) errs).countPass (mdOf p.desc.words)).acc ∧
      (t.core c).mem = (s.core c).mem ∧ (t.core c).passes.length = (s.core c).passes.length ∧
      (∀ o ∈ (t.core c).passes, o.id = p.id → o.phase = .ended) ∧
      t.ctx? n = some y ∧ (d = none → y = x) ∧ (d ≠ none → y.mismatch = true ∧ (t.stall x.stall).tainted = true) := by
  intro d
  have listed := State.ctx?_of_ctxOf ctx
  generalize hv : s.compared c n x p errs = v
  obtain ⟨y, cores, hy, same, mismatch⟩ : ∃ y, v.cores = s.cores ∧ v.ctx? n = some y ∧ (d = none → y = x) ∧
      (d ≠ none → y.mismatch = true ∧ (v.stall x.stall).tainted = true ∧ twf {} v.stalls = true) := by
    rw [← hv]
    unfold State.compared
    cases hd : d with
    | none =>
      rw [show (s.core c).shadowDiff _ _ _ errs = none from hd]
      exact ⟨x, rfl, listed, fun _ => rfl, fun h => absurd rfl h⟩
    | some e =>
      rw [show (s.core c).shadowDiff _ _ _ errs = some e from hd]
      obtain ⟨cores, hy, taint⟩ := State.shadowMismatch_spec (c := c) wf listed p e
      exact ⟨_, cores, hy, fun h => absurd h (Option.some_ne_none e), fun _ => ⟨rfl, taint⟩⟩
  obtain ⟨cnt, finish⟩ := State.passFinish_plain (s := v) (c := c) (n := n) plain errs
  have w : twf {} v.cores = true := by rw [cores]; exact State.wf_cores wf
  have core : v.core c = s.core c := by unfold State.core; rw [cores]
  have ended := State.passEnded_core (c := c) (s := v.folded c (mdOf p.desc.words) errs) (State.modCore_cores_wf w _) x p cnt
  rw [State.core_folded w, core, Core.folded_only] at ended
  refine ⟨(v.folded c (mdOf p.desc.words) errs).passEnded c x p cnt, y,
    (passEnd_runs ctx clocks pass streams first errs clean).trans (by rw [hv, narrow, finish]), ?_, ?_, ?_, ?_, hy, same, fun hd => ?_⟩
  · rw [ended, Core.countPass_only]
    rfl
  · rw [ended]
    rfl
  · rw [ended]
    exact List.length_map _
  · rw [ended]
    intro o ho id
    obtain ⟨o', -, rfl⟩ := List.mem_map.mp ho
    by_cases e : o'.id = p.id
    · rw [if_pos e]
    · rw [if_neg e] at id
      exact absurd id e
  · obtain ⟨marked, taint, ws⟩ := mismatch hd
    exact ⟨marked, (State.passEnded_tainted (s := v.folded c (mdOf p.desc.words) errs) ws x p cnt).trans taint⟩

end

/-! ### PASS_COMPLETE -/

section
variable {s : State}

/-- What is counted in a stall changes nothing but the stalls. -/
theorem State.tallyCounts_only (st : Nat) (cs : List Nat) : s.tallyCounts st cs = { s with stalls := (s.tallyCounts st cs).stalls } := by
  unfold State.tallyCounts
  generalize hu : forEach cs.zipIdx s _ = u
  rw [← hu]
  refine forEach_inv (P := fun t => t = { s with stalls := t.stalls }) (fun e t h => ?_) cs.zipIdx rfl
  conv_lhs => rw [h]
  rfl

theorem State.tallyCounts_cores (st : Nat) (cs : List Nat) : (s.tallyCounts st cs).cores = s.cores := by rw [State.tallyCounts_only]
theorem State.tallyCounts_ctxs (st : Nat) (cs : List Nat) : (s.tallyCounts st cs).ctxs = s.ctxs := by rw [State.tallyCounts_only]

theorem passComplete_leaves {c : CoreNo} {n : Nat} {x : Ctx} {k : Fin 64} {p : Pass} {gr : Group} (wf : s.wf = true) (ctx : s.ctxOf c = some (n, x))
    (pass : (s.core c).passes[k.val]? = some p) (ended : p.phase = .ended)
    (first : ∀ o ∈ (s.core c).passes.take k.val, sharesArray (mdOf p.desc.words) (mdOf o.desc.words) = false) (slot : s.group? c p.slot = some gr)
    (serial : gr.serial = p.serial) :
    ∃ t gr', execPassComplete c k s = .next t ∧ (t.core c).passes = (s.core c).passes.filter (fun o => o.id ≠ p.id) ∧
      t.group? c p.slot = some gr' ∧ gr'.token (mdOf p.desc.words).token = gr.token (mdOf p.desc.words).token - 1 ∧ t.ctxs = s.ctxs := by
  have w := State.wf_cores wf
  have canon := State.wf_group wf slot
  generalize hu : (s.modCore c fun q => { q with passes := q.passes.filter fun o => o.id ≠ p.id }).tallyCounts x.stall p.counts = u
  have cores : u.cores = (s.modCore c fun q => { q with passes := q.passes.filter fun o => o.id ≠ p.id }).cores := by
    rw [← hu, State.tallyCounts_cores]
  have core : u.core c = { s.core c with passes := (s.core c).passes.filter fun o => o.id ≠ p.id } := by
    unfold State.core
    rw [cores]
    exact State.core_modCore w _
  have wu : twf {} u.cores = true := by
    rw [cores]
    exact State.modCore_cores_wf w _
  have slot' : u.group? c p.slot = some gr := by
    rw [← slot]
    exact State.group?_congr (by rw [core])
  obtain ⟨⟨l, down⟩, group, rest⟩ := State.tokenDown_spec (t := (mdOf p.desc.words).token) wu slot' canon.serial
  have run : execPassComplete c k s = .next (u.tokenDown c p.slot gr.serial (mdOf p.desc.words).token) := by
    unfold execPassComplete
    dsimp only
    rw [ctx, pass]
    dsimp only
    rw [if_neg, serial, ← hu]
    rw [List.any_eq_false.mpr fun o ho => by simp [first o ho]]
    simp [ended]
  refine ⟨_, _, run, ?_, group, Group.tokenDown_token canon.tokens _, ?_⟩
  · rw [down, core]
  · rw [(congrArg State.ctxs rest :), ← hu]
    exact State.tallyCounts_ctxs _ _

end

end Sys2Proof.Machine
end

section
/-! PROOF. Exact rationals: powers of 2, logarithms, floors; and the window of a pass (O20; R106, R107). -/

namespace Sys2Proof

/-! ### Powers of 2, logarithms and floors -/

theorem pow2_eq (e : Int) : pow2 e = (2 : Rat) ^ e := by
  unfold pow2
  split
  · next h =>
    obtain ⟨n, rfl⟩ := Int.eq_ofNat_of_zero_le h
    simp
  · next h =>
    obtain ⟨n, hn⟩ := Int.eq_ofNat_of_zero_le (show 0 ≤ -e by omega)
    rw [hn, show e = -(n : Int) by omega, zpow_neg]
    simp

theorem pow2_pos (e : Int) : 0 < pow2 e := by rw [pow2_eq]; positivity
theorem pow2_add (a b : Int) : pow2 (a + b) = pow2 a * pow2 b := by simp only [pow2_eq]; exact zpow_add₀ (by norm_num) a b
theorem pow2_le_pow2 {a b : Int} : pow2 a ≤ pow2 b ↔ a ≤ b := by simp only [pow2_eq]; exact zpow_le_zpow_iff_right₀ (by norm_num)
theorem pow2_lt_pow2 {a b : Int} : pow2 a < pow2 b ↔ a < b := by simp only [pow2_eq]; exact zpow_lt_zpow_iff_right₀ (by norm_num)
theorem pow2_natCast (n : Nat) : pow2 n = ((2 ^ n : Nat) : Rat) := by rw [pow2_eq]; simp

theorem ratAbs_eq (q : Rat) : ratAbs q = |q| := by
  unfold ratAbs
  split
  · next h => exact (abs_of_neg h).symm
  · next h => exact (abs_of_nonneg (not_lt.mp h)).symm

theorem ratFloor_eq (q : Rat) : ratFloor q = ⌊q⌋ := (Rat.floor_def q).symm

/-- The logarithm of a positive number. -/
theorem flog2_spec {q : Rat} (h : 0 < q) : pow2 (flog2 q) ≤ q ∧ q < pow2 (flog2 q + 1) := by
  have num : 0 < q.num := Rat.num_pos.mpr h
  obtain ⟨n, hn⟩ := Int.eq_ofNat_of_zero_le num.le
  have n0 : n ≠ 0 := by rintro rfl; omega
  have d0 : q.den ≠ 0 := q.den_nz
  have value : q = (n : Rat) / (q.den : Rat) := by
    conv_lhs => rw [← Rat.num_div_den q, hn]
    rfl
  generalize hd : q.den = d at d0 value
  have lower : pow2 ((n.log2 : Int) - (d.log2 : Int) - 1) ≤ q := by
    have a : ((2 ^ n.log2 : Nat) : Rat) ≤ n := by exact_mod_cast Nat.log2_self_le n0
    have b : (d : Rat) ≤ ((2 ^ (d.log2 + 1) : Nat) : Rat) := by exact_mod_cast Nat.lt_log2_self.le
    rw [show (n.log2 : Int) - (d.log2 : Int) - 1 = n.log2 - ((d.log2 + 1 : Nat) : Int) by push_cast; omega, pow2_eq, zpow_sub₀ (by norm_num), value]
    refine div_le_div₀ (by positivity) (by simpa using a) (by positivity) (by exact_mod_cast b)
  have upper : q < pow2 ((n.log2 : Int) - (d.log2 : Int) + 1) := by
    have a : (n : Rat) < ((2 ^ (n.log2 + 1) : Nat) : Rat) := by exact_mod_cast Nat.lt_log2_self
    have b : ((2 ^ d.log2 : Nat) : Rat) ≤ d := by exact_mod_cast Nat.log2_self_le d0
    rw [show (n.log2 : Int) - (d.log2 : Int) + 1 = ((n.log2 + 1 : Nat) : Int) - d.log2 by push_cast; omega, pow2_eq, zpow_sub₀ (by norm_num), value]
    refine div_lt_div₀ (by exact_mod_cast a) (by simpa using b) (by positivity) (by positivity)
  unfold flog2
  rw [hn, hd]
  dsimp only
  rw [show (n : Int).toNat = n from rfl]
  split
  · next below => exact ⟨lower, by rw [Int.sub_add_cancel]; exact below⟩
  · next above =>
    split
    · next more => exact ⟨more, upper.trans (pow2_lt_pow2.mpr (by omega))⟩
    · next less => exact ⟨not_lt.mp above, not_le.mp less⟩

theorem flog2_lt {q : Rat} (h : 0 < q) {e : Int} : flog2 q < e ↔ q < pow2 e := by
  obtain ⟨lower, upper⟩ := flog2_spec h
  refine ⟨fun lt => upper.trans_le (pow2_le_pow2.mpr (by omega)), fun lt => ?_⟩
  exact pow2_lt_pow2.mp (lower.trans_lt lt)

theorem le_flog2 {q : Rat} (h : 0 < q) {e : Int} : e ≤ flog2 q ↔ pow2 e ≤ q := by
  rw [← not_lt, ← not_lt, not_iff_not]
  exact flog2_lt h

theorem flog2_eq {q : Rat} {e : Int} (lower : pow2 e ≤ q) (upper : q < pow2 (e + 1)) : flog2 q = e := by
  have h : 0 < q := (pow2_pos e).trans_le lower
  have a := (flog2_lt h).mpr upper
  have b := (le_flog2 h).mpr lower
  omega

end Sys2Proof

namespace Sys2Proof.Machine

/-! ### The window (R106, R107) -/

/-- The order of the cell sums of a k-group has no effect. -/
theorem windowStep_perm (v : Rat × Option Int) {g h : List Rat} (p : g.Perm h) : windowStep v g = windowStep v h := by
  have top : g.foldl (fun a c => max a (ratAbs c)) 0 = h.foldl (fun a c => max a (ratAbs c)) 0 :=
    List.Perm.foldl_eq (f := fun a c => max a (ratAbs c)) (rcomm := ⟨fun a b c => max_right_comm _ _ _⟩) p 0
  have sum (f : Rat → Rat) : (g.map f).sum = (h.map f).sum := (p.map f).sum_eq
  unfold windowStep
  simp only [top, sum]

/-- An integer is a multiple of a power of 2 with an exponent of at most 0: it is not truncated. -/
theorem truncTo_int (z : Int) {e : Int} (h : e ≤ 0) : truncTo (z : Rat) (pow2 e) = z := by
  obtain ⟨n, hn⟩ := Int.eq_ofNat_of_zero_le (show 0 ≤ -e by omega)
  have inv : pow2 e = (((2 ^ n : Nat) : Int) : Rat)⁻¹ := by
    rw [pow2_eq, show e = -(n : Int) by omega, zpow_neg]
    simp
  have pos : (((2 ^ n : Nat) : Int) : Rat) ≠ 0 := by positivity
  have floor (m : Int) : ((ratFloor ((m : Rat) / pow2 e) : Int) : Rat) * pow2 e = m := by
    rw [ratFloor_eq, inv, div_inv_eq_mul, ← Int.cast_mul, Int.floor_intCast, Int.cast_mul, mul_inv_cancel_right₀ pos]
  unfold truncTo
  split
  · rw [← Int.cast_neg, floor, Int.cast_neg, neg_neg]
  · exact floor z

/-- The largest magnitude of a list of integers. -/
theorem foldl_max_bound (g : List Int) (a b : Rat) (ha : a < b) (hg : ∀ c ∈ g, ((c.natAbs : Nat) : Rat) < b) :
    (g.map (Int.cast : Int → Rat)).foldl (fun a c => max a (ratAbs c)) a < b ∧
      a ≤ (g.map (Int.cast : Int → Rat)).foldl (fun a c => max a (ratAbs c)) a ∧
      ∀ c ∈ g, ((c.natAbs : Nat) : Rat) ≤ (g.map (Int.cast : Int → Rat)).foldl (fun a c => max a (ratAbs c)) a := by
  induction g generalizing a with
  | nil => exact ⟨ha, le_refl _, fun _ h => absurd h List.not_mem_nil⟩
  | cons c g ih =>
    have abs : ratAbs (c : Rat) = ((c.natAbs : Nat) : Rat) := by rw [ratAbs_eq, Nat.cast_natAbs, Int.cast_abs]
    rw [List.map_cons, List.foldl_cons]
    rw [show ratAbs (Int.cast c : Rat) = _ from abs]
    obtain ⟨lt, le, all⟩ := ih (max a ((c.natAbs : Nat) : Rat)) (max_lt ha (hg c (.head _))) fun c hc => hg c (.tail _ hc)
    refine ⟨lt, (le_max_left _ _).trans le, fun d hd => ?_⟩
    obtain rfl | hd := List.mem_cons.mp hd
    · exact (le_max_right _ _).trans le
    · exact all d hd

theorem map_truncTo_int (g : List Int) {e : Int} (h : e ≤ 0) : (g.map (Int.cast : Int → Rat)).map (fun c => truncTo c (pow2 e)) = g.map (Int.cast : Int → Rat) := by
  rw [List.map_map]
  exact List.map_congr_left fun c _ => truncTo_int c h

/-- What a k-group of integers adds to a window aligned to at most 50: the sum is exact, and the window is aligned anew to at most 50. -/
theorem windowAdd_int (w : Int) (g : List Int) (sum : (w + g.sum).natAbs < 2 ^ 56) {a : Int} (ha : a ≤ 50) :
    ∃ al, (let v := (w : Rat) + ((g.map (Int.cast : Int → Rat)).map fun c => truncTo c (pow2 (a - 50))).sum
      if pow2 (a + 6) ≤ ratAbs v then (truncTo v (pow2 (alignOf v - 50)), some (alignOf v)) else (v, some a)) = (((w + g.sum : Int) : Rat), al) ∧
        ∀ a ∈ al, a ≤ 50 := by
  have cast : (g.map (Int.cast : Int → Rat)).sum = ((g.sum : Int) : Rat) := by rw [← Int.cast_list_sum]
  rw [map_truncTo_int g (by omega), cast, ← Int.cast_add]
  dsimp only
  split
  · next wide =>
    have pos : 0 < ratAbs ((w + g.sum : Int) : Rat) := (pow2_pos _).trans_le wide
    have al : alignOf ((w + g.sum : Int) : Rat) ≤ 50 := by
      have lt : flog2 (ratAbs ((w + g.sum : Int) : Rat)) < 56 := (flog2_lt pos).mpr (by
        rw [ratAbs_eq, ← Int.cast_abs, ← Nat.cast_natAbs, show (56 : Int) = ((56 : Nat) : Int) from rfl, pow2_natCast]
        exact_mod_cast sum)
      unfold alignOf
      omega
    exact ⟨_, by rw [truncTo_int _ (by omega)], fun a ha => by cases ha; exact al⟩
  · exact ⟨_, rfl, fun b hb => by cases hb; exact ha⟩

/-- Integers below 2^50 enter a window of an integer below 2^56 exactly, and it stays aligned to at most 50. -/
theorem windowStep_int (w : Int) (al : Option Int) (g : List Int) (hal : ∀ a ∈ al, a ≤ 50) (hg : ∀ c ∈ g, c.natAbs < 2 ^ 50)
    (sum : (w + g.sum).natAbs < 2 ^ 56) :
    ∃ al', windowStep ((w : Rat), al) (g.map (Int.cast : Int → Rat)) = (((w + g.sum : Int) : Rat), al') ∧ ∀ a ∈ al', a ≤ 50 := by
  obtain ⟨lt, nonneg, all⟩ := foldl_max_bound g 0 ((2 ^ 50 : Nat) : Rat) (by norm_num) fun c hc => by exact_mod_cast hg c hc
  unfold windowStep
  dsimp only
  generalize (g.map (Int.cast : Int → Rat)).foldl (fun a c => max a (ratAbs c)) 0 = top at *
  split
  · next zero =>
    have none_left : g.sum = 0 := List.sum_eq_zero fun c hc => by
      have le := all c hc
      rw [zero] at le
      have : c.natAbs ≤ 0 := by exact_mod_cast le
      omega
    rw [none_left, Int.add_zero]
    exact ⟨al, rfl, hal⟩
  · next ne =>
    have pos : 0 < top := lt_of_le_of_ne nonneg (Ne.symm ne)
    have small : flog2 top < 50 := (flog2_lt pos).mpr (by rw [show (50 : Int) = ((50 : Nat) : Int) from rfl, pow2_natCast]; exact lt)
    cases al with
    | none =>
      dsimp only
      rw [truncTo_int w (by omega)]
      exact windowAdd_int w g sum (by omega)
    | some a =>
      have le : a ≤ 50 := hal a rfl
      dsimp only
      split
      · dsimp only
        rw [truncTo_int w (by omega)]
        exact windowAdd_int w g sum (by omega)
      · exact windowAdd_int w g sum le

/-- Sums of integers below 2^50 stay exact (R106). -/
theorem window_int : ∀ (gs : List (List Int)) (w : Int) (al : Option Int), (∀ a ∈ al, a ≤ 50) → (∀ g ∈ gs, ∀ c ∈ g, c.natAbs < 2 ^ 50) →
    w.natAbs + (gs.flatten.map Int.natAbs).sum < 2 ^ 56 →
    (gs.foldl (fun v g => windowStep v (g.map (Int.cast : Int → Rat))) ((w : Rat), al)).1 = ((w + gs.flatten.sum : Int) : Rat)
  | [], w, _, _, _, _ => by simp
  | g :: gs, w, al, hal, hg, sum => by
    rw [List.flatten_cons, List.map_append, List.sum_append] at sum
    have bound : ∀ l : List Int, l.sum.natAbs ≤ (l.map Int.natAbs).sum := fun l => by
      induction l with
      | nil => exact Nat.le_refl _
      | cons c l ih =>
        rw [List.sum_cons, List.map_cons, List.sum_cons]
        exact (Int.natAbs_add_le _ _).trans (Nat.add_le_add_left ih _)
    have head : (w + g.sum).natAbs ≤ w.natAbs + (g.map Int.natAbs).sum := (Int.natAbs_add_le _ _).trans (Nat.add_le_add_left (bound g) _)
    obtain ⟨al', step, hal'⟩ := windowStep_int w al g hal (hg g (.head _)) (by omega)
    rw [List.foldl_cons, step, window_int gs _ al' hal' (fun h hh => hg h (.tail _ hh)) (by omega), List.flatten_cons, List.sum_append, add_assoc]

/-! ### What NaN and infinities give (R107) -/

section
variable {gs : List (List (List FV))}

theorem passWin_nan (h : ∃ v ∈ gs.flatten.flatten, v = .nan) : (passWin gs).1 = .nan := by
  obtain ⟨v, hv, rfl⟩ := h
  unfold passWin
  dsimp only
  rw [if_pos]
  rw [Bool.or_eq_true]
  exact .inl (List.any_eq_true.mpr ⟨_, hv, rfl⟩)

theorem passWin_opposite (neg : FV.inf true ∈ gs.flatten.flatten) (pos : FV.inf false ∈ gs.flatten.flatten) : (passWin gs).1 = .nan := by
  unfold passWin
  dsimp only
  rw [if_pos]
  rw [Bool.or_eq_true, Bool.and_eq_true]
  exact .inr ⟨List.any_eq_true.mpr ⟨_, pos, beq_self_eq_true _⟩, List.any_eq_true.mpr ⟨_, neg, beq_self_eq_true _⟩⟩

/-- Whether a value is listed, as the model asks it. -/
theorem any_beq_iff {l : List FV} {v : FV} : (l.any fun w => w == v) = decide (v ∈ l) := by
  rw [Bool.eq_iff_iff, List.any_eq_true, decide_eq_true_iff]
  exact ⟨fun ⟨w, hw, e⟩ => beq_iff_eq.mp e ▸ hw, fun h => ⟨v, h, beq_self_eq_true v⟩⟩

theorem passWin_inf (b : Bool) (nan : ∀ v ∈ gs.flatten.flatten, v ≠ .nan) (own : FV.inf b ∈ gs.flatten.flatten) (other : FV.inf (!b) ∉ gs.flatten.flatten) :
    (passWin gs).1 = .inf b := by
  have finite : gs.flatten.flatten.any FV.isNan = false := List.any_eq_false.mpr fun v hv => by
    have := nan v hv
    cases v <;> simp_all [FV.isNan]
  unfold passWin
  dsimp only
  rw [finite]
  simp only [any_beq_iff]
  cases b
  · rw [decide_eq_true own, decide_eq_false (show FV.inf true ∉ _ from other)]
    rfl
  · rw [decide_eq_true own, decide_eq_false (show FV.inf false ∉ _ from other)]
    rfl

theorem passWin_fin (h : ∀ v ∈ gs.flatten.flatten, v.isFin = true) : (passWin gs).1.isFin = true := by
  have nan : gs.flatten.flatten.any FV.isNan = false := List.any_eq_false.mpr fun v hv => by
    have := h v hv
    cases v <;> simp_all [FV.isNan, FV.isFin]
  have inf (b : Bool) : FV.inf b ∉ gs.flatten.flatten := fun hb => Bool.noConfusion (h _ hb)
  unfold passWin
  dsimp only
  rw [nan]
  simp only [any_beq_iff]
  rw [decide_eq_false (inf false), decide_eq_false (inf true)]
  simp only [Bool.or_self, Bool.and_self, Bool.false_eq_true, if_false]
  unfold FV.ofRat
  split
  · rfl
  · split <;> rfl

end

end Sys2Proof.Machine
end

section
/-! PROOF. Codes of the number formats (O20; R48 to R51, R59 to R63, R70): codes keep within their width, and FP32 codes that a conversion gives stand
for numbers that it gives back. -/

namespace Sys2Proof

/-! ### Rounding -/

theorem roundUnits_nat (n : Nat) (r : RMode) : roundUnits (n : Rat) r = n := by
  have floor : ratFloor (n : Rat) = n := by rw [ratFloor_eq, Int.floor_natCast]
  have zero : ratFloor 0 = 0 := by rw [ratFloor_eq, Int.floor_zero]
  unfold roundUnits
  rw [floor]
  cases r with
  | rne => norm_num
  | stoch rho =>
    simp only [Int.toNat_natCast, sub_self, zero_mul, zero]
    exact if_neg (by omega)

theorem roundUnits_le_floor (u : Rat) (r : RMode) : roundUnits u r ≤ (ratFloor u).toNat + 1 := by
  unfold roundUnits
  cases r with
  | rne =>
    dsimp only
    split
    · omega
    · split
      · split <;> omega
      · omega
  | stoch rho =>
    dsimp only
    split <;> omega

/-- Rounding does not pass an integer. -/
theorem roundUnits_le {u : Rat} {n : Nat} (nonneg : 0 ≤ u) (h : u ≤ n) (r : RMode) : roundUnits u r ≤ n := by
  obtain rfl | lt := h.eq_or_lt
  · rw [roundUnits_nat]
  · have floor : ratFloor u < n := by
      rw [ratFloor_eq]
      exact Int.floor_lt.mpr (by exact_mod_cast lt)
    have some : 0 < n := by exact_mod_cast nonneg.trans_lt lt
    have := roundUnits_le_floor u r
    omega

/-- The largest magnitude of a format: `k` units of its exponent `x`. -/
structure FFmt.Top (f : FFmt) (k : Nat) (x : Int) : Prop where
  max : f.maxMag = (k : Rat) * pow2 (x - f.mb)
  wide : k < 2 ^ (f.mb + 1)
  low : 1 - (f.bias : Int) ≤ x
  field : x + f.bias < (2 ^ f.eb : Nat)
  code : f.maxCode < 2 ^ (f.eb + f.mb)
  nan : f.nanCode < 2 ^ f.bits
  mant : 0 < f.mb

section
variable {f : FFmt} {k : Nat} {x : Int}

theorem FFmt.Top.maxMag_lt (h : f.Top k x) : f.maxMag < pow2 (x + 1) := by
  rw [h.max, show x + 1 = ((f.mb + 1 : Nat) : Int) + (x - f.mb) by push_cast; ring, pow2_add, pow2_natCast]
  exact mul_lt_mul_of_pos_right (by exact_mod_cast h.wide) (pow2_pos _)

/-- Rounding a magnitude in range stays in range (R61, R70). -/
theorem FFmt.Top.roundMag_le (h : f.Top k x) {m : Rat} (nonneg : 0 ≤ m) (le : m ≤ f.maxMag) (r : RMode) :
    0 ≤ f.roundMag m r ∧ f.roundMag m r ≤ f.maxMag := by
  have top : 0 ≤ f.maxMag := nonneg.trans le
  unfold FFmt.roundMag
  split
  · exact ⟨le_refl _, top⟩
  next ne =>
  have pos : 0 < m := lt_of_le_of_ne nonneg (Ne.symm ne)
  dsimp only
  split
  · exact ⟨le_refl _, top⟩
  refine ⟨mul_nonneg (Nat.cast_nonneg _) (pow2_pos _).le, ?_⟩
  have grid : Max.max (flog2 m) (1 - (f.bias : Int)) ≤ x := max_le (Int.lt_add_one_iff.mp ((flog2_lt pos).mpr (le.trans_lt h.maxMag_lt))) h.low
  generalize Max.max (flog2 m) (1 - (f.bias : Int)) = e at grid
  obtain ⟨n, hn⟩ := Int.eq_ofNat_of_zero_le (show 0 ≤ x - e by omega)
  have units : f.maxMag = ((k * 2 ^ n : Nat) : Rat) * pow2 (e - f.mb) := by
    rw [h.max, show x - f.mb = (n : Int) + (e - f.mb) by omega, pow2_add, pow2_natCast]
    push_cast
    ring
  rw [units] at le ⊢
  refine mul_le_mul_of_nonneg_right ?_ (pow2_pos _).le
  exact_mod_cast roundUnits_le (div_nonneg nonneg (pow2_pos _).le) ((div_le_iff₀ (pow2_pos _)).mpr le) r

/-! ### Packing -/

theorem toNat_ratFloor_lt {q : Rat} (nonneg : 0 ≤ q) {n : Nat} (h : q < n) : (ratFloor q).toNat < n := by
  rw [ratFloor_eq]
  have a : (0 : Int) ≤ ⌊q⌋ := Int.floor_nonneg.mpr nonneg
  have b : ⌊q⌋ < (n : Int) := Int.floor_lt.mpr (by exact_mod_cast h)
  omega

theorem le_toNat_ratFloor {q : Rat} {n : Nat} (h : (n : Rat) ≤ q) : n ≤ (ratFloor q).toNat := by
  rw [ratFloor_eq]
  have a : (n : Int) ≤ ⌊q⌋ := Int.le_floor.mpr (by exact_mod_cast h)
  omega

/-- The code of a number that is not subnormal: its exponent field and a significand. -/
theorem FFmt.pack_normal {r : Rat} (pos : 0 < r) (normal : 1 - (f.bias : Int) ≤ flog2 r) (s : Bool) :
    ∃ m, m < 2 ^ f.mb ∧ f.pack s r = f.signBit s + (flog2 r + f.bias).toNat * 2 ^ f.mb + m := by
  obtain ⟨lower, upper⟩ := flog2_spec pos
  unfold FFmt.pack
  rw [if_neg pos.ne']
  dsimp only
  rw [if_neg (by omega)]
  refine ⟨_, ?_, rfl⟩
  have lt : (ratFloor (r / pow2 (flog2 r - f.mb))).toNat < 2 ^ (f.mb + 1) := by
    refine toNat_ratFloor_lt (div_nonneg pos.le (pow2_pos _).le) ((div_lt_iff₀ (pow2_pos _)).mpr ?_)
    rw [← pow2_natCast, ← pow2_add, show ((f.mb + 1 : Nat) : Int) + (flog2 r - f.mb) = flog2 r + 1 by push_cast; ring]
    exact upper
  rw [pow_succ] at lt
  omega

theorem FFmt.signBit_le (s : Bool) : f.signBit s ≤ 2 ^ (f.eb + f.mb) := by
  unfold FFmt.signBit
  split
  · exact le_refl _
  · exact Nat.zero_le _

theorem FFmt.bits_pow : 2 ^ f.bits = 2 ^ (f.eb + f.mb) + 2 ^ (f.eb + f.mb) := by
  unfold FFmt.bits
  rw [show 1 + f.eb + f.mb = (f.eb + f.mb) + 1 by omega, pow_succ]
  omega

theorem FFmt.pack_lt {r : Rat} (nonneg : 0 ≤ r) {x : Int} (field : x + f.bias < (2 ^ f.eb : Nat)) (lt : r < pow2 (x + 1)) (s : Bool) :
    f.pack s r < 2 ^ f.bits := by
  have sign := FFmt.signBit_le (f := f) s
  have fields : 0 < 2 ^ f.mb := Nat.two_pow_pos _
  have exps : 0 < 2 ^ f.eb := Nat.two_pow_pos _
  rw [FFmt.bits_pow]
  rcases nonneg.eq_or_lt with rfl | pos
  · rw [FFmt.pack, if_pos rfl]
    have := Nat.two_pow_pos (f.eb + f.mb)
    omega
  by_cases sub : flog2 r < 1 - (f.bias : Int)
  · have small : (ratFloor (r / pow2 (1 - (f.bias : Int) - f.mb))).toNat < 2 ^ f.mb := by
      refine toNat_ratFloor_lt (div_nonneg pos.le (pow2_pos _).le) ((div_lt_iff₀ (pow2_pos _)).mpr ?_)
      rw [← pow2_natCast, ← pow2_add, show (f.mb : Int) + (1 - f.bias - f.mb) = 1 - f.bias by ring]
      exact (flog2_lt pos).mp sub
    have le : 2 ^ f.mb ≤ 2 ^ (f.eb + f.mb) := Nat.pow_le_pow_right (by norm_num) (by omega)
    rw [FFmt.pack, if_neg pos.ne']
    dsimp only
    rw [if_pos sub]
    omega
  · obtain ⟨m, hm, e⟩ := FFmt.pack_normal (f := f) pos (by omega) s
    have exp : flog2 r < x + 1 := (flog2_lt pos).mpr lt
    have le : ((flog2 r + f.bias).toNat + 1) * 2 ^ f.mb ≤ 2 ^ f.eb * 2 ^ f.mb := Nat.mul_le_mul_right _ (by omega)
    rw [← pow_add, Nat.add_mul, Nat.one_mul] at le
    rw [e]
    omega

/-- A conversion gives a code of the format's width. -/
theorem FFmt.Top.encode_lt (h : f.Top k x) (ovf : Bool) (r : RMode) {v : FV} (nonneg : ∀ s m, v = .fin s m → 0 ≤ m) : (f.encode ovf r v).code < 2 ^ f.bits := by
  have sign := FFmt.signBit_le (f := f)
  have bits := FFmt.bits_pow (f := f)
  have code := h.code
  have inf : (2 ^ f.eb - 1) * 2 ^ f.mb < 2 ^ (f.eb + f.mb) := by
    rw [pow_add]
    exact Nat.mul_lt_mul_of_pos_right (by have := Nat.two_pow_pos f.eb; omega) (Nat.two_pow_pos _)
  unfold FFmt.encode
  split
  · exact h.nan
  · next s =>
    have := sign s
    split <;> dsimp only <;> omega
  · next s m =>
    have := sign s
    split
    · split <;> dsimp only <;> omega
    · next le =>
      obtain ⟨low, high⟩ := h.roundMag_le (nonneg s m rfl) (not_lt.mp le) (if f.flush then .rne else r)
      exact FFmt.pack_lt low h.field (high.trans_lt h.maxMag_lt) s

end

theorem fp32_top : fp32.Top (2 ^ 24 - 1) 127 where
  max := by norm_num [FFmt.maxMag, FFmt.mag, FFmt.maxCode, fp32]
  wide := by decide
  low := by decide
  field := by decide
  code := by decide
  nan := by decide
  mant := by decide

theorem bf16_top : bf16.Top (2 ^ 8 - 1) 127 where
  max := by norm_num [FFmt.maxMag, FFmt.mag, FFmt.maxCode, bf16]
  wide := by decide
  low := by decide
  field := by decide
  code := by decide
  nan := by decide
  mant := by decide

theorem fp16_top : fp16.Top (2 ^ 11 - 1) 15 where
  max := by norm_num [FFmt.maxMag, FFmt.mag, FFmt.maxCode, fp16]
  wide := by decide
  low := by decide
  field := by decide
  code := by decide
  nan := by decide
  mant := by decide

theorem e4m3_top : e4m3.Top 14 8 where
  max := by norm_num [FFmt.maxMag, FFmt.mag, FFmt.maxCode, e4m3]
  wide := by decide
  low := by decide
  field := by decide
  code := by decide
  nan := by decide
  mant := by decide

theorem e5m2_top : e5m2.Top 7 15 where
  max := by norm_num [FFmt.maxMag, FFmt.mag, FFmt.maxCode, e5m2]
  wide := by decide
  low := by decide
  field := by decide
  code := by decide
  nan := by decide
  mant := by decide

/-! ### FP32 codes -/

/-- FP32 always rounds to nearest even and overflows to infinity (R59, R70). -/
theorem fp32_encode (ovf : Bool) (r : RMode) (v : FV) : fp32.encode ovf r v = fp32.encode true .rne v := by
  cases v <;> rfl

theorem fp32_decode (c : Nat) : fp32.decode c =
    if c / 2 ^ 23 % 2 ^ 8 = 255 then (if c % 2 ^ 23 = 0 then .inf (c.testBit 31) else .nan)
    else if c / 2 ^ 23 % 2 ^ 8 = 0 then .fin (c.testBit 31) 0
    else .fin (c.testBit 31) (((2 ^ 23 + c % 2 ^ 23 : Nat) : Rat) * pow2 (((c / 2 ^ 23 % 2 ^ 8 : Nat) : Int) - 127 - 23)) := by
  show (if _ then _ else _) = _
  refine ite_congr rfl (fun _ => rfl) fun _ => ?_
  by_cases e : c / 2 ^ 23 % 2 ^ 8 = 0
  · rw [if_pos e]
    exact if_pos (show (true && decide (c / 2 ^ 23 % 2 ^ 8 = 0)) = true by rw [decide_eq_true e]; rfl)
  · rw [if_neg e]
    refine (if_neg (show ¬ (true && decide (c / 2 ^ 23 % 2 ^ 8 = 0)) = true by rw [decide_eq_false e]; simp)).trans ?_
    congr 1
    exact if_neg e

/-- A code by its sign, exponent field and significand. -/
theorem fp32_split {c : Nat} (h : c < 2 ^ 32) : c = fp32.signBit (c.testBit 31) + c / 2 ^ 23 % 2 ^ 8 * 2 ^ 23 + c % 2 ^ 23 := by
  rw [FFmt.signBit, Nat.testBit_eq_decide_div_mod_eq]
  simp only [decide_eq_true_eq, fp32]
  split <;> omega

/-- The magnitude of a code of FP32 that is not subnormal. -/
theorem fp32_normal_spec {e m : Nat} (pos : 1 ≤ e) (le : e ≤ 254) (hm : m < 2 ^ 23) :
    let r := ((2 ^ 23 + m : Nat) : Rat) * pow2 ((e : Int) - 127 - 23)
    flog2 r = (e : Int) - 127 ∧ 0 < r ∧ r ≤ fp32.maxMag ∧ r / pow2 ((e : Int) - 127 - 23) = ((2 ^ 23 + m : Nat) : Rat) := by
  intro r
  have unit := pow2_pos ((e : Int) - 127 - 23)
  have lower : pow2 ((e : Int) - 127) ≤ r := by
    rw [show (e : Int) - 127 = ((23 : Nat) : Int) + ((e : Int) - 127 - 23) by push_cast; ring, pow2_add, pow2_natCast]
    exact mul_le_mul_of_nonneg_right (by exact_mod_cast Nat.le_add_right _ _) unit.le
  have upper : r < pow2 ((e : Int) - 127 + 1) := by
    rw [show (e : Int) - 127 + 1 = ((24 : Nat) : Int) + ((e : Int) - 127 - 23) by push_cast; ring, pow2_add, pow2_natCast]
    exact mul_lt_mul_of_pos_right (by exact_mod_cast (by omega : 2 ^ 23 + m < 2 ^ 24)) unit
  refine ⟨flog2_eq lower upper, (pow2_pos _).trans_le lower, ?_, mul_div_cancel_right₀ _ unit.ne'⟩
  rw [fp32_top.max]
  exact mul_le_mul (by exact_mod_cast (by omega : 2 ^ 23 + m ≤ 2 ^ 24 - 1)) (pow2_le_pow2.mpr (by simp only [fp32]; omega)) unit.le (Nat.cast_nonneg _)

/-- A number of FP32 that is not zero, converted, is its own code. -/
theorem toF32_of_decode {c : Nat} (h : c < 2 ^ 32) {s : Bool} {r : Rat} (hr : fp32.decode c = .fin s r) (pos : 0 < r) : toF32 (.fin s r) = c := by
  have split := fp32_split h
  rw [fp32_decode] at hr
  generalize he : c / 2 ^ 23 % 2 ^ 8 = e at *
  have bound : e < 256 := he ▸ Nat.mod_lt _ (by norm_num)
  have hm : c % 2 ^ 23 < 2 ^ 23 := Nat.mod_lt _ (by norm_num)
  generalize c % 2 ^ 23 = m at *
  by_cases top : e = 255
  · rw [if_pos top] at hr
    split at hr <;> cases hr
  rw [if_neg top] at hr
  by_cases zero : e = 0
  · rw [if_pos zero] at hr
    cases hr
    exact absurd pos (lt_irrefl _)
  rw [if_neg zero] at hr
  obtain ⟨rfl, rfl⟩ := FV.fin.inj hr
  obtain ⟨log, -, le, units⟩ := fp32_normal_spec (e := e) (m := m) (by omega) (by omega) hm
  generalize hv : ((2 ^ 23 + m : Nat) : Rat) * pow2 ((e : Int) - 127 - 23) = v at *
  have kept : fp32.roundMag v .rne = v := by
    have small : ¬ v < pow2 (-126) := not_lt.mpr ((le_flog2 pos).mp (by omega))
    unfold FFmt.roundMag
    rw [if_neg pos.ne', log, show max ((e : Int) - 127) (1 - (fp32.bias : Int)) - (fp32.mb : Int) = (e : Int) - 127 - 23 by simp only [fp32]; omega]
    dsimp only
    rw [units, roundUnits_nat, hv]
    exact if_neg (by simp [small])
  have encoded : toF32 (.fin (c.testBit 31) v) = fp32.pack (c.testBit 31) (fp32.roundMag v .rne) := by
    unfold toF32 FFmt.encode
    dsimp only
    rw [if_neg (not_lt.mpr le)]
    rfl
  rw [encoded, kept, FFmt.pack, if_neg pos.ne', log]
  dsimp only
  rw [if_neg (by simp only [fp32]; omega), show (e : Int) - 127 - (fp32.mb : Int) = (e : Int) - 127 - 23 from rfl, units, ratFloor_eq, Int.floor_natCast]
  simp only [fp32, Int.toNat_natCast] at *
  omega

/-- A code of FP32 as conversions write them: it stands for what gives it. -/
def Canon32 (c : Nat) : Prop := c < 2 ^ 32 ∧ toF32 (fp32.decode c) = c

theorem canon32_zero (s : Bool) : Canon32 (fp32.signBit s) := by
  refine ⟨by cases s <;> decide, ?_⟩
  have value : fp32.decode (fp32.signBit s) = .fin s 0 := by
    rw [fp32_decode]
    cases s <;> rfl
  rw [value]
  have top : ¬ fp32.maxMag < 0 := by
    rw [fp32_top.max]
    exact not_lt.mpr (mul_nonneg (Nat.cast_nonneg _) (pow2_pos _).le)
  unfold toF32 FFmt.encode
  dsimp only
  rw [if_neg top]
  rfl

theorem canon32_inf (s : Bool) : Canon32 (fp32.signBit s + (2 ^ fp32.eb - 1) * 2 ^ fp32.mb) := by
  refine ⟨by cases s <;> decide, ?_⟩
  rw [fp32_decode]
  cases s <;> rfl

theorem canon32_nan : Canon32 fp32.nanCode := ⟨by decide, by rw [fp32_decode]; rfl⟩

theorem canon32_normal {s : Bool} {e m : Nat} (pos : 1 ≤ e) (le : e ≤ 254) (hm : m < 2 ^ 23) : Canon32 (fp32.signBit s + e * 2 ^ 23 + m) := by
  have sign : fp32.signBit s = if s then 2 ^ 31 else 0 := rfl
  have lt : fp32.signBit s + e * 2 ^ 23 + m < 2 ^ 32 := by
    rw [sign]
    split <;> omega
  have field : (fp32.signBit s + e * 2 ^ 23 + m) / 2 ^ 23 % 2 ^ 8 = e := by
    rw [sign]
    split <;> omega
  have significand : (fp32.signBit s + e * 2 ^ 23 + m) % 2 ^ 23 = m := by
    rw [sign]
    split <;> omega
  refine ⟨lt, ?_⟩
  have value := fp32_decode (fp32.signBit s + e * 2 ^ 23 + m)
  rw [field, significand, if_neg (by omega), if_neg (by omega)] at value
  rw [value]
  exact toF32_of_decode lt value (fp32_normal_spec pos le hm).2.1

/-- What a conversion to FP32 writes. -/
theorem canon32_encode (ovf : Bool) (r : RMode) {v : FV} (nonneg : ∀ s m, v = .fin s m → 0 ≤ m) : Canon32 (fp32.encode ovf r v).code := by
  rw [fp32_encode]
  unfold FFmt.encode
  split
  · exact canon32_nan
  · next s => exact canon32_inf s
  · next s m =>
    split
    · split
      · exact canon32_inf s
      · dsimp only
        rw [show fp32.maxCode = 254 * 2 ^ 23 + (2 ^ 23 - 1) by decide, ← Nat.add_assoc]
        exact canon32_normal (by norm_num) (by norm_num) (by norm_num)
    · next le =>
      obtain ⟨low, high⟩ := fp32_top.roundMag_le (nonneg s m rfl) (not_lt.mp le) .rne
      show Canon32 (fp32.pack s (fp32.roundMag m .rne))
      have flushed : fp32.roundMag m .rne = 0 ∨ pow2 (-126) ≤ fp32.roundMag m .rne := by
        unfold FFmt.roundMag
        split
        · exact .inl rfl
        · dsimp only
          split
          · exact .inl rfl
          · next big => exact .inr (not_lt.mp fun lt => big (by rw [decide_eq_true lt]; rfl))
      generalize fp32.roundMag m .rne = q at *
      obtain rfl | big := flushed
      · exact canon32_zero s
      · have pos : 0 < q := (pow2_pos _).trans_le big
        have bottom : -126 ≤ flog2 q := (le_flog2 pos).mpr big
        have roof : flog2 q < 128 := (flog2_lt pos).mpr (high.trans_lt fp32_top.maxMag_lt)
        obtain ⟨m, hm, e⟩ := FFmt.pack_normal (f := fp32) pos (by simp only [fp32]; omega) s
        rw [e]
        exact canon32_normal (by simp only [fp32]; omega) (by simp only [fp32]; omega) hm

/-- What a code stands for is of no negative magnitude. -/
theorem fp32_decode_nonneg {c : Nat} {s : Bool} {m : Rat} (h : fp32.decode c = .fin s m) : 0 ≤ m := by
  rw [fp32_decode] at h
  split at h
  · split at h <;> cases h
  · split at h
    · cases h
      exact le_refl _
    · cases h
      exact mul_nonneg (Nat.cast_nonneg _) (pow2_pos _).le

/-- Rounding a number of FP32 to FP32 keeps it. -/
theorem fp32_round_decode {c : Nat} (h : c < 2 ^ 32) : fp32.decode (toF32 (fp32.decode c)) = fp32.decode c := by
  cases value : fp32.decode c with
  | nan =>
    rw [show toF32 .nan = fp32.nanCode from rfl, fp32_decode]
    rfl
  | inf s =>
    rw [show toF32 (.inf s) = fp32.signBit s + (2 ^ fp32.eb - 1) * 2 ^ fp32.mb from rfl, fp32_decode]
    cases s <;> rfl
  | fin s m =>
    rcases (fp32_decode_nonneg value).eq_or_lt with rfl | pos
    · have zero : fp32.decode (fp32.signBit s) = .fin s 0 := by
        rw [fp32_decode]
        cases s <;> rfl
      have canon := (canon32_zero s).2
      rw [zero] at canon
      rw [canon, zero]
    · rw [toF32_of_decode h value pos, value]

end Sys2Proof
end

section
/-! PROOF. Folds into the accumulators (O20; R80, R104, R108). -/

namespace Sys2Proof

/-! ### Tables set key by key -/

/-- A table whose keys are set one after the other, each once, from what they hold. -/
theorem foldl_tset {α ι : Type} [DecidableEq α] (d : α) (key : ι → Nat) (f : α → ι → α) : ∀ (l : List ι) {m : List (Nat × α)}, twf d m = true →
    (l.map key).Nodup → let r := l.foldl (fun t i => tset d t (key i) (f (tget d t (key i)) i)) m
    (∀ i ∈ l, tget d r (key i) = f (tget d m (key i)) i) ∧ ∀ a, a ∉ l.map key → tget d r a = tget d m a
  | [], m, _, _ => ⟨fun _ h => absurd h List.not_mem_nil, fun _ _ => rfl⟩
  | i :: l, m, w, nodup => by
    rw [List.map_cons, List.nodup_cons] at nodup
    obtain ⟨own, rest⟩ := nodup
    obtain ⟨set, keep⟩ := foldl_tset d key f l (tset_wf d (key i) (f (tget d m (key i)) i) w) rest
    have get (a : Nat) := tget_tset d (key i) (f (tget d m (key i)) i) a w
    refine ⟨fun j hj => ?_, fun a ha => ?_⟩
    · obtain rfl | hj := List.mem_cons.mp hj
      · exact (keep _ own).trans ((get _).trans (if_pos rfl))
      · have ne : key j ≠ key i := fun e => own (e ▸ List.mem_map_of_mem hj)
        exact (set j hj).trans (by rw [get, if_neg ne])
    · rw [List.map_cons, List.mem_cons, not_or] at ha
      exact (keep a ha.2).trans ((get a).trans (if_neg ha.1))

end Sys2Proof

namespace Sys2Proof.Machine

/-! ### Pairs -/

theorem toNat_ofF {z : W32} {v : FV} (h : ofF z = v) : fp32.decode z.toNat = v := by
  rw [← h, ofF, f32, Nat.mod_eq_of_lt z.isLt]

/-- A fold whose sum is a number of FP32 gives it with lo zero (R108). -/
theorem Pair.fold_exact {p : Pair} {v : FV} {z : W32} {sg : Bool} {r : Rat} (sum : fvAdd p.val v = .fin sg r) (code : ofF z = .fin sg r) (pos : 0 < r) :
    p.fold v = { hi := z, lo := 0 } := by
  have kept : FV.ofRat (FV.fin sg r).toRat = .fin sg r := by
    cases sg
    · simp [FV.toRat, FV.ofRat, pos.ne', not_lt.mpr pos.le]
    · simp [FV.toRat, FV.ofRat, pos.ne', pos]
  have hi : toF32 (.fin sg r) = z.toNat := toF32_of_decode z.isLt (toNat_ofF code) pos
  have back : f32 z.toNat = .fin sg r := code
  have lo : toF32 (FV.ofRat ((FV.fin sg r).toRat - (FV.fin sg r).toRat)) = 0 := by
    rw [sub_self, show FV.ofRat 0 = .fin false 0 from rfl]
    exact show toF32 (.fin false 0) = fp32.signBit false from by
      have zero := (canon32_zero false).2
      rwa [show fp32.decode (fp32.signBit false) = .fin false 0 by rw [fp32_decode]; rfl] at zero
  unfold Pair.fold
  rw [sum]
  dsimp only
  rw [kept, hi, back]
  dsimp only
  rw [if_neg pos.ne', lo, BitVec.ofNat_toNat, BitVec.setWidth_eq]
  rfl

/-! ### The folds of a pass -/

/-- Where the pair of an output lies in the table of pairs. -/
def MD.key (x : MD) (o : Nat × Nat) : Nat := accKey (x.place o.1 o.2).1 (x.place o.1 o.2).2.1 (x.place o.1 o.2).2.2.1 (x.place o.1 o.2).2.2.2

/-- A pair after the fold of an output. -/
def Core.foldedPair (k : Core) (x : MD) (errs : List SumErr) (p : Pair) (o : Nat × Nat) : Pair :=
  (if x.accAdd = 0 then {} else p : Pair).fold (k.winOf x errs false o).1

theorem Core.foldPass_acc (k : Core) (x : MD) (errs : List SumErr) : (k.foldPass x errs).acc =
    x.outputs.foldl (fun t o => tset {} t (x.key o) (k.foldedPair x errs (tget {} t (x.key o)) o)) k.acc := by
  unfold Core.foldPass
  exact (List.foldl_hom Core.acc fun k' o => rfl).symm

/-- Places in the accumulators, by their keys. -/
theorem accKey_inj {p q : Nat × Nat × Nat × Nat} (hp : p.2.1 < 4 ∧ p.2.2.1 < 32 ∧ p.2.2.2 < 32) (hq : q.2.1 < 4 ∧ q.2.2.1 < 32 ∧ q.2.2.2 < 32)
    (h : accKey p.1 p.2.1 p.2.2.1 p.2.2.2 = accKey q.1 q.2.1 q.2.2.1 q.2.2.2) : p = q := by
  obtain ⟨a, b, r, c⟩ := p
  obtain ⟨a', b', r', c'⟩ := q
  simp only [accKey] at *
  obtain ⟨rfl, rfl, rfl, rfl⟩ : a = a' ∧ b = b' ∧ r = r' ∧ c = c' := by omega
  rfl

/-- A pass folds the window of each output into the pair of its place, and changes no other pair. -/
theorem Core.foldPass_pairs {k : Core} {x : MD} (errs : List SumErr) (w : twf {} k.acc = true) (apart : (x.outputs.map fun o => x.place o.1 o.2).Nodup)
    (bound : ∀ o ∈ x.outputs, (x.place o.1 o.2).2.1 < 4 ∧ (x.place o.1 o.2).2.2.1 < 32 ∧ (x.place o.1 o.2).2.2.2 < 32) :
    (∀ o ∈ x.outputs, tget {} (k.foldPass x errs).acc (x.key o) = k.foldedPair x errs (tget {} k.acc (x.key o)) o) ∧
      ∀ a b row col, b < 4 → row < 32 → col < 32 → (a, b, row, col) ∉ x.outputs.map (fun o => x.place o.1 o.2) →
        (k.foldPass x errs).pair a b row col = k.pair a b row col := by
  have keys : (x.outputs.map x.key).Nodup := by
    refine List.Nodup.map_on (fun o ho q hq e => ?_) (List.Nodup.of_map _ apart)
    exact (List.inj_on_of_nodup_map apart) ho hq (accKey_inj (bound o ho) (bound q hq) e)
  obtain ⟨set, keep⟩ := foldl_tset ({} : Pair) x.key (k.foldedPair x errs) x.outputs w keys
  rw [Core.foldPass_acc]
  refine ⟨set, fun a b row col hb hrow hcol other => ?_⟩
  unfold Core.pair
  rw [Core.foldPass_acc]
  refine keep _ fun mem => other ?_
  obtain ⟨o, ho, e⟩ := List.mem_map.mp mem
  exact List.mem_map.mpr ⟨o, ho, accKey_inj (q := (a, b, row, col)) (bound o ho) ⟨hb, hrow, hcol⟩ e⟩

end Sys2Proof.Machine
end

section
/-! PROOF. The bytes of a read-out (O20; R54, R126 to R131): lists of writes, packed codes, and the lines of an unscaled target. -/

namespace Sys2Proof

/-! ### Lists of writes -/

/-- Byte `a` lies in a write. -/
def Covers (w : Nat × List Byte) (a : Nat) : Prop := w.1 ≤ a ∧ a < w.1 + w.2.length

/-- A memory after a list of writes. -/
def setBytes (m : List Host.Cell) (ws : List (Nat × List Byte)) : List Host.Cell := ws.foldl (fun m w => tsetMany 0 m w.1 w.2) m

theorem setBytes_wf {m : List Host.Cell} (ws : List (Nat × List Byte)) (h : twf 0 m = true) : twf 0 (setBytes m ws) = true := by
  induction ws generalizing m with
  | nil => exact h
  | cons w ws ih => exact ih (tsetMany_wf _ _ _ h)

theorem setBytes_append (m : List Host.Cell) (x y : List (Nat × List Byte)) : setBytes m (x ++ y) = setBytes (setBytes m x) y := List.foldl_append ..

/-- A write leaves what it does not cover. -/
theorem tget_write_off {m : List Host.Cell} (h : twf 0 m = true) {w : Nat × List Byte} {a : Nat} (off : ¬ Covers w a) :
    tget 0 (tsetMany 0 m w.1 w.2) a = tget 0 m a := by
  rw [tget_tsetMany 0 w.2 _ _ h]
  split
  · next le =>
    have past : w.2.length ≤ a - w.1 := Nat.le_of_not_lt fun lt => off ⟨le, by omega⟩
    rw [List.getElem?_eq_none past]
    rfl
  · rfl

theorem setBytes_off : ∀ (ws : List (Nat × List Byte)) {m : List Host.Cell} {a : Nat}, twf 0 m = true → (∀ w ∈ ws, ¬ Covers w a) →
    tget 0 (setBytes m ws) a = tget 0 m a
  | [], _, _, _, _ => rfl
  | w :: ws, _, _, h, off =>
    (setBytes_off ws (tsetMany_wf _ _ _ h) fun v hv => off v (.tail _ hv)).trans (tget_write_off h (off w (.head _)))

/-- A byte of which every write that covers it says the same, and that one covers or that said so before. -/
theorem setBytes_agree : ∀ (ws : List (Nat × List Byte)) {m : List Host.Cell} {a : Nat} {v : Byte}, twf 0 m = true →
    (∀ w ∈ ws, Covers w a → w.2[a - w.1]? = some v) → (∃ w ∈ ws, Covers w a) ∨ tget 0 m a = v → tget 0 (setBytes m ws) a = v
  | [], m, a, v, _, _, known => known.elim (fun ⟨_, h, _⟩ => absurd h List.not_mem_nil) id
  | w :: ws, m, a, v, h, agree, known => by
    have wm := tsetMany_wf 0 w.2 w.1 h
    refine setBytes_agree ws (tsetMany_wf _ _ _ h) (fun u hu => agree u (.tail _ hu)) ?_
    by_cases on : Covers w a
    · refine .inr ?_
      rw [tget_tsetMany 0 w.2 _ _ h, if_pos on.1, agree w (.head _) on]
      rfl
    · rw [tget_write_off h on]
      refine known.imp (fun ⟨u, hu, cov⟩ => ⟨u, ?_, cov⟩) id
      obtain rfl | hu := List.mem_cons.mp hu
      · exact absurd cov on
      · exact hu

/-- A run of bytes of which every write that covers one says the same, and each is covered. -/
theorem tgetMany_setBytes {ws : List (Nat × List Byte)} {m : List Host.Cell} (h : twf 0 m = true) {a n : Nat} {bs : List Byte}
    (length : bs.length = n) (agree : ∀ i, i < n → (∀ w ∈ ws, Covers w (a + i) → w.2[a + i - w.1]? = bs[i]?) ∧ ∃ w ∈ ws, Covers w (a + i)) :
    tgetMany 0 (setBytes m ws) a n = bs := by
  subst length
  rw [tgetMany_eq]
  refine List.ext_getElem (by simp) fun i hi hb => ?_
  obtain ⟨same, some⟩ := agree i hb
  simp only [List.getElem_map, List.getElem_range]
  exact setBytes_agree ws h (fun w hw cov => (same w hw cov).trans (List.getElem?_eq_getElem hb)) (.inl some)

/-! ### Packed codes (R54) -/

theorem toBytes_append (a b : Nat) : ∀ v, toBytes (a + b) v = toBytes a v ++ toBytes b (v / 256 ^ a) := by
  induction a with
  | zero => intro v; rw [Nat.zero_add, pow_zero, Nat.div_one]; rfl
  | succ a ih =>
    intro v
    rw [Nat.add_right_comm, toBytes, toBytes, ih, Nat.div_div_eq_div_mul, List.cons_append, pow_succ']

theorem toBytes_mod (a : Nat) : ∀ v, toBytes a (v % 256 ^ a) = toBytes a v := by
  induction a with
  | zero => intro v; rfl
  | succ a ih =>
    intro v
    have low : v % 256 ^ (a + 1) % 256 = v % 256 := Nat.mod_mod_of_dvd v ⟨256 ^ a, pow_succ' 256 a⟩
    have high : v % 256 ^ (a + 1) / 256 = v / 256 % 256 ^ a := by rw [pow_succ', Nat.mod_mul_right_div_self]
    rw [toBytes, toBytes, high, ih]
    congr 1
    refine BitVec.eq_of_toNat_eq ?_
    simp only [BitVec.toNat_ofNat]
    exact low

end Sys2Proof

namespace Sys2Proof.Machine

/-- Codes of whole bytes, packed, are their bytes one after the other. -/
theorem packBits_bytes (sz : Nat) : ∀ codes : List Nat, (∀ c ∈ codes, c < 2 ^ (8 * sz)) → packBits (8 * sz) codes = codes.flatMap (toBytes sz)
  | [], _ => by simp [packBits, cdiv, toBytes]
  | c :: codes, h => by
    have tail := packBits_bytes sz codes fun d hd => h d (.tail _ hd)
    have bytes (n : Nat) : cdiv (n * (8 * sz)) 8 = n * sz := by
      unfold cdiv
      rw [show n * (8 * sz) = 8 * (n * sz) by ring]
      omega
    have base : 2 ^ (8 * sz) = 256 ^ sz := by rw [pow_mul]; rfl
    unfold packBits at tail ⊢
    rw [bytes] at tail ⊢
    rw [List.length_cons, Nat.add_mul, Nat.one_mul, Nat.add_comm, toBytes_append, List.foldr_cons, base, List.flatMap_cons]
    have head : c < 256 ^ sz := base ▸ h c (.head _)
    rw [base] at tail
    congr 1
    · rw [← toBytes_mod, Nat.add_mul_mod_self_left, toBytes_mod]
    · rw [Nat.add_mul_div_left _ _ (Nat.two_pow_pos _ |>.trans_eq base), Nat.div_eq_of_lt head, Nat.zero_add, tail]

/-- Byte `i` of element `k`. -/
theorem flatMap_toBytes_get (sz : Nat) : ∀ (codes : List Nat) (k i : Nat), i < sz →
    (codes.flatMap (toBytes sz))[sz * k + i]? = codes[k]?.bind fun c => (toBytes sz c)[i]?
  | [], k, i, _ => by simp
  | c :: codes, 0, i, h => by
    rw [List.flatMap_cons, Nat.mul_zero, Nat.zero_add, List.getElem?_append_left (by rw [toBytes_length]; exact h)]
    rfl
  | c :: codes, k + 1, i, h => by
    rw [List.flatMap_cons, List.getElem?_append_right (by rw [toBytes_length]; nlinarith), toBytes_length,
      show sz * (k + 1) + i - sz = sz * k + i by rw [Nat.mul_succ]; omega, flatMap_toBytes_get sz codes k i h]
    rfl

theorem flatMap_toBytes_length (sz : Nat) (codes : List Nat) : (codes.flatMap (toBytes sz)).length = sz * codes.length := by
  induction codes with
  | nil => rfl
  | cons c codes ih => rw [List.flatMap_cons, List.length_append, ih, toBytes_length, List.length_cons, Nat.mul_succ, Nat.add_comm]

/-! ### A matrix of codes written line by line -/

/-- The lines of a matrix of codes of `sz` bytes, line `l` at `addr + l * stride`. -/
def lineWrites (sz addr stride rows cols : Nat) (code : Nat → Nat → Nat) : List (Nat × List Byte) :=
  (List.range rows).map fun l => (addr + l * stride, ((List.range cols).map (code l)).flatMap (toBytes sz))

/-- Each element reads back where lines do not overlap. -/
theorem lineWrites_read {sz addr stride rows cols : Nat} {code : Nat → Nat → Nat} {m : List Host.Cell} (w : twf 0 m = true) (apart : sz * cols ≤ stride)
    {l k : Nat} (hl : l < rows) (hk : k < cols) :
    tgetMany 0 (setBytes m (lineWrites sz addr stride rows cols code)) (addr + l * stride + sz * k) sz = toBytes sz (code l k) := by
  have length (j : Nat) : (((List.range cols).map (code j)).flatMap (toBytes sz)).length = sz * cols := by
    rw [flatMap_toBytes_length, List.length_map, List.length_range]
  refine tgetMany_setBytes w (toBytes_length _ _) fun i hi => ?_
  have inside : sz * k + i < sz * cols := by nlinarith
  refine ⟨fun v hv cov => ?_, _, List.mem_map.mpr ⟨l, List.mem_range.mpr hl, rfl⟩, ?_⟩
  · obtain ⟨j, -, rfl⟩ := List.mem_map.mp hv
    obtain ⟨low, high⟩ := cov
    dsimp only at low high ⊢
    rw [length] at high
    obtain rfl : j = l := by
      have a : j < l + 1 := Nat.lt_of_mul_lt_mul_right (a := stride) (by rw [Nat.add_mul]; omega)
      have b : l < j + 1 := Nat.lt_of_mul_lt_mul_right (a := stride) (by rw [Nat.add_mul]; omega)
      omega
    rw [show addr + j * stride + sz * k + i - (addr + j * stride) = sz * k + i by omega, flatMap_toBytes_get sz _ k i hi, List.getElem?_map,
      List.getElem?_range hk]
    rfl
  · refine ⟨by dsimp only; omega, ?_⟩
    dsimp only
    rw [length]
    omega

/-! ### Values -/

/-- A value of no negative magnitude. -/
def FV.Proper (v : FV) : Prop := ∀ s m, v = .fin s m → 0 ≤ m

theorem FV.proper_ofRat (q : Rat) (z : Bool) : FV.Proper (FV.ofRat q z) := by
  intro s m h
  unfold FV.ofRat at h
  split at h
  · cases h
    exact le_refl _
  · split at h
    · next neg =>
      cases h
      linarith
    · next ne nonneg =>
      cases h
      exact not_lt.mp nonneg

theorem FV.proper_f32 (c : Nat) : FV.Proper (f32 c) := fun _ _ h => fp32_decode_nonneg h

theorem FV.proper_mul {a b : FV} (ha : FV.Proper a) (hb : FV.Proper b) : FV.Proper (fvMul a b) := by
  intro s m h
  cases a with
  | nan => cases h
  | inf t =>
    cases b with
    | nan => cases h
    | inf u => cases h
    | fin u n =>
      change (if n = 0 then FV.nan else .inf (t != u)) = _ at h
      split at h <;> cases h
  | fin t m =>
    cases b with
    | nan => cases h
    | inf u =>
      change (if m = 0 then FV.nan else .inf (t != u)) = _ at h
      split at h <;> cases h
    | fin u n =>
      cases h
      exact mul_nonneg (ha _ _ rfl) (hb _ _ rfl)

theorem FV.proper_add (a b : FV) : FV.Proper (fvAdd a b) := by
  intro s m h
  cases a with
  | nan => cases h
  | inf t =>
    cases b with
    | nan => cases h
    | inf u =>
      change (if t = u then FV.inf t else .nan) = _ at h
      split at h <;> cases h
    | fin u n => cases h
  | fin t m =>
    cases b with
    | nan => cases h
    | inf u => cases h
    | fin u n =>
      change (if m = 0 ∧ n = 0 then FV.fin (t && u) 0 else FV.ofRat ((FV.fin t m).toRat + (FV.fin u n).toRat)) = _ at h
      split at h
      · cases h
        exact le_refl _
      · exact FV.proper_ofRat _ _ s _ h

theorem Pair.val_proper (p : Pair) : FV.Proper p.val := by
  unfold Pair.val
  split
  · exact FV.proper_add _ _
  · exact FV.proper_f32 _

theorem ofF_word32 (k : Core) (a : Nat) : ofF (k.word32 a) = f32 (k.w32 a) := by
  unfold ofF Core.word32 Core.w32 f32
  rw [BitVec.toNat_ofNat, Nat.mod_mod]

theorem Core.roVal_proper (k : Core) (x : MD) (r : RD) (m n : Nat) : FV.Proper (k.roVal x r m n) := by
  have one : FV.Proper (.fin false 1) := fun s m h => by
    cases h
    exact zero_le_one
  unfold Core.roVal
  refine FV.proper_mul (FV.proper_mul (FV.proper_mul (FV.proper_f32 _) ?_) ?_) (Pair.val_proper _)
  · split
    · exact one
    · exact FV.proper_f32 _
  · split
    · exact one
    · exact FV.proper_f32 _

/-- The unscaled formats: the bytes of an element, and its code in them. -/
theorem encPlain_unscaled {fmt : Nat} (h : fmt ≤ 4) (ovf : Bool) (r : RMode) {v : FV} (hv : FV.Proper v) :
    fmtBits fmt = 8 * (fmtBits fmt / 8) ∧ (encPlain fmt ovf r v).code = ((fmtFloat fmt).encode ovf r v).code ∧
      ((fmtFloat fmt).encode ovf r v).code < 2 ^ (8 * (fmtBits fmt / 8)) := by
  interval_cases fmt
  · exact ⟨rfl, by simp [encPlain], fp32_top.encode_lt ovf r hv⟩
  · exact ⟨rfl, by simp [encPlain], bf16_top.encode_lt ovf r hv⟩
  · exact ⟨rfl, by simp [encPlain], fp16_top.encode_lt ovf r hv⟩
  · refine ⟨rfl, ?_, e4m3_top.encode_lt ovf r hv⟩
    show (e4m3.encode (ovf && false) r v).code = (e4m3.encode ovf r v).code
    cases v <;> simp [FFmt.encode, e4m3]
  · exact ⟨rfl, by simp [encPlain], e5m2_top.encode_lt ovf r hv⟩

end Sys2Proof.Machine
end

section
/-! PROOF. The read-out of a pass (O20; R117, R126 to R131). -/

namespace Sys2Proof.Machine

section
variable {s : State} {c n : Nat}

/-! ### Writes to the local memory of a core -/

/-- A list of writes to a local memory without poison: bytes are set, and of the rest of the device nothing changes. -/
theorem State.wrLocals_clean : ∀ (ws : List (Nat × List Byte)) {s : State}, twf {} s.cores = true → (s.core c).poison = [] →
    ∃ hits, (forEach ws s fun w s => s.wrLocal c w.1 w.2).core c = (s.core c).written (setBytes (s.core c).mem ws) hits ∧
      twf {} (forEach ws s fun w s => s.wrLocal c w.1 w.2).cores = true ∧
      (forEach ws s fun w s => s.wrLocal c w.1 w.2) = { s with cores := (forEach ws s fun w s => s.wrLocal c w.1 w.2).cores }
  | [], s, w, _ => ⟨(s.core c).hits, rfl, w, rfl⟩
  | x :: ws, s, w, clean => by
    obtain ⟨hits, wr⟩ := State.wrLocal_clean clean x.1 x.2
    have core := State.core_setCore_self (c := c) w ((s.core c).written (tsetMany 0 (s.core c).mem x.1 x.2) hits)
    rw [← wr] at core
    obtain ⟨hits', end_, wf, only⟩ := State.wrLocals_clean ws (s := s.wrLocal c x.1 x.2) (by rw [wr]; exact State.setCore_cores_wf w _)
      (by rw [core]; exact clean)
    refine ⟨hits', end_.trans (by rw [core]; rfl), wf, only.trans ?_⟩
    show _ = { s with cores := (forEach ws (s.wrLocal c x.1 x.2) fun w s => s.wrLocal c w.1 w.2).cores }
    generalize (forEach ws (s.wrLocal c x.1 x.2) fun w s => s.wrLocal c w.1 w.2).cores = cores
    rw [wr]
    rfl

/-! ### Quadrants stay empty -/

theorem MD.kappa_pos (x : MD) : 4 ≤ x.kappa := by
  unfold MD.kappa
  dsimp only
  exact (Nat.le_add_left 4 _).trans (le_max_right _ _)

/-- Counting a pass makes no quadrant LIVE. -/
theorem Core.countPass_live {k : Core} (x : MD) {a b q : Nat} (h : (k.quad a b q).live = false) : ((k.countPass x).quad a b q).live = false := by
  have pos := x.kappa_pos
  unfold Core.countPass
  dsimp only
  generalize x.touched = l
  induction l generalizing k with
  | nil => exact h
  | cons t l ih =>
    rw [List.foldl_cons]
    refine ih ?_
    obtain ⟨⟨a', b', q'⟩, cnt⟩ := t
    dsimp only
    have seg (y : Nat) : min 0x1FFFF (y + x.kappa) ≠ 0 := by omega
    have own (y : Quad) (ne : y.seg ≠ 0) (live : quadKey a b q = quadKey a' b' q' → y.live = false) :
        ((k.setQuad a' b' q' y).quad a b q).live = false := by
      have get : (k.setQuad a' b' q' y).quad a b q = if quadKey a b q = quadKey a' b' q' then y else k.quad a b q :=
        tget_tset_of_ne _ _ _ fun e => ne (by rw [e])
      rw [get]
      split
      · next e => exact live e
      · exact h
    split
    · exact own _ (by dsimp only; omega) fun _ => rfl
    · refine own _ (seg _) fun e => ?_
      rw [← h]
      exact congrArg (fun i => (tget ({} : Quad) k.quads i).live) e.symm

/-! ### The writes of a read-out into one unscaled target -/

/-- The lines of an unscaled target along the rows, in nearest-even rounding. -/
theorem Core.readOut_unscaled {k : Core} {x : MD} {r : RD} (axis : r.t1.axis = 0) (own : r.t1.p.fmt = r.t1.fmt) (fmt : r.t1.fmt ≤ 4)
    (single : r.t2.isNone = true) (rnd : r.rnd = false) (cnt : r.cnt = 0) (amax : r.amax = 0) (key : Nat) (extra : Counts) :
    (k.readOut x r key extra).1 = lineWrites (fmtBits r.t1.fmt / 8) r.t1.p.addr r.t1.p.stride x.m x.n fun m n =>
      ((fmtFloat r.t1.fmt).encode r.ovf .rne (k.roVal x r m n)).code := by
  have block : fmtBlock r.t1.fmt = false := by interval_cases r.t1.fmt <;> rfl
  have int : fmtInt r.t1.fmt = false := by interval_cases r.t1.fmt <;> rfl
  have four : ¬ r.t1.fmt = 8 := by omega
  have line (q : QMode) (σ : FV) (l : Nat) (rm : q.rm 0 = fun _ => .rne) (ovf : q.ovf = r.ovf) :
      (r.t1.p.line q σ l ((List.range x.n).map fun n => k.roVal x r l n)).writes = [(r.t1.p.addr + l * r.t1.p.stride,
        ((List.range x.n).map fun n => ((fmtFloat r.t1.fmt).encode r.ovf .rne (k.roVal x r l n)).code).flatMap (toBytes (fmtBits r.t1.fmt / 8)))] := by
    have codes : (((List.range x.n).map fun n => k.roVal x r l n).mapIdx fun j v => encPlain r.t1.fmt q.ovf (q.rm 0 j) v).map Enc.code =
        (List.range x.n).map fun n => ((fmtFloat r.t1.fmt).encode r.ovf .rne (k.roVal x r l n)).code := by
      refine List.ext_getElem (by simp) fun i hi hj => ?_
      simp only [List.getElem_map, List.getElem_mapIdx, List.getElem_range]
      rw [rm, ovf]
      exact (encPlain_unscaled fmt r.ovf .rne (k.roVal_proper x r l i)).2.1
    unfold Plane.line
    dsimp only
    rw [own, if_neg (by simp [block]), int]
    dsimp only
    rw [← packBits_bytes _ _ fun c hc => ?_, ← codes, ← (encPlain_unscaled fmt r.ovf .rne (k.roVal_proper x r 0 0)).1]
    · rfl
    · obtain ⟨i, -, rfl⟩ := List.mem_map.mp hc
      exact (encPlain_unscaled fmt r.ovf .rne (k.roVal_proper x r l i)).2.2
  have target : (k.roTarget x r r.t1 true key).1 = lineWrites (fmtBits r.t1.fmt / 8) r.t1.p.addr r.t1.p.stride x.m x.n fun m n =>
      ((fmtFloat r.t1.fmt).encode r.ovf .rne (k.roVal x r m n)).code := by
    unfold Core.roTarget Core.convert
    dsimp only
    rw [own, if_neg four]
    simp only [if_pos axis]
    rw [List.flatMap_map, lineWrites, List.map_eq_flatMap]
    refine congrArg (List.flatMap · (List.range x.m)) (funext fun l => line _ _ l ?_ rfl)
    funext j
    show rmodeOf r.rnd key r.seed 0 _ = .rne
    rw [rnd]
    rfl
  unfold Core.readOut
  dsimp only
  rw [Option.isNone_iff_eq_none.mp single, if_pos cnt, if_pos amax, target]
  simp only [List.append_nil]

end

/-! ### PASS_END with a read-out -/

section
variable {s : State} {c : CoreNo} {n : Nat} {y : Ctx} {i : Fin 64} {p : Pass}

/-- A pass with a read-out and neither wide buffer nor shadow: its writes are those of the read-out after the folds. -/
theorem passEnd_readOut (wf : s.wf = true) (ctx : s.ctxOf c = some (n, y)) (clocks : s.pwr.coreClocks = true)
    (pass : (s.core c).passes[i.val]? = some p) (streams : p.phase = .streaming) (first : ∀ o ∈ (s.core c).passes.take i.val, o.phase ≠ .streaming)
    (clean : (s.core c).poison = []) (narrow : y.wide = 0) (alone : p.shadow = []) (reads : p.desc.rdo ≠ [])
    (off : ∀ q ∈ (mdOf p.desc.words).readQuads, ((s.core c).quad q.1 q.2.1 q.2.2).live = false) :
    ∃ t key extra, execPassEnd c i false [] [] s = .next t ∧ (t.core c).acc = ((s.folded c (mdOf p.desc.words) []).core c).acc ∧
      (t.core c).mem = setBytes (s.core c).mem
        ((((s.folded c (mdOf p.desc.words) []).core c).readOut (mdOf p.desc.words) (rdOf p.desc.rdo) key extra).1) := by
  have w := State.wf_cores wf
  generalize hm : mdOf p.desc.words = m at *
  have same : s.compared c n y p [] = s := by
    unfold State.compared
    rw [alone]
    rfl
  generalize hu : s.folded c m [] = u
  have wu : twf {} u.cores = true := hu ▸ State.modCore_cores_wf w _
  have core := State.core_folded (c := c) w m []
  rw [hu, Core.folded_only] at core
  have empty : ∀ q ∈ m.readQuads, ((u.core c).quad q.1 q.2.1 q.2.2).live = false := fun q hq => by
    rw [core]
    refine Core.countPass_live (k := (s.core c).foldPass m []) m ?_
    rw [Core.foldPass_only]
    exact off q hq
  let v := forEach m.readQuads u fun t s => s.boundExt c n t.1 t.2.1 t.2.2
  have bound : v.cores = u.cores := forEach_inv (P := fun t => t.cores = u.cores) (fun e t h => (State.boundExt_cores _ _ _).trans h) _ rfl
  obtain ⟨z, cores, finish⟩ : ∃ z : State, z.cores = u.cores ∧ s.passFinish c n 0 p [] =
      (forEach (((u.core c).readOut m (rdOf p.desc.rdo) p.rkey ((u.core c).expCounts m)).1) z fun w s => s.wrLocal c w.1 w.2,
        ((u.core c).readOut m (rdOf p.desc.rdo) p.rkey ((u.core c).expCounts m)).2, none) := by
    unfold State.passFinish
    dsimp only
    rw [if_neg reads, hm, show (s.modCore c fun k => (((k.foldPass m []).countPass m).loadTile m (m.nk - 1)).fillRows m) = u from hu,
      State.mergeLive_idle _ _ empty]
    dsimp only
    unfold State.passReadOut
    dsimp only
    refine ⟨_, ?_, by rw [State.spillDue_none]⟩
    split
    · split
      · exact bound
      · exact bound
    · exact bound
  have poison : (z.core c).poison = [] := by
    unfold State.core
    rw [cores]
    exact (congrArg Core.poison core).trans clean
  have zcore : z.core c = u.core c := by
    unfold State.core
    rw [cores]
  obtain ⟨hits, written, wt, -⟩ := State.wrLocals_clean (c := c) (((u.core c).readOut m (rdOf p.desc.rdo) p.rkey ((u.core c).expCounts m)).1)
    (by rw [cores]; exact wu) poison
  have run := passEnd_runs ctx clocks pass streams first [] clean
  rw [same, narrow, finish] at run
  have ended := State.passEnded_core (c := c) wt y p ((u.core c).readOut m (rdOf p.desc.rdo) p.rkey ((u.core c).expCounts m)).2
  rw [written, zcore] at ended
  refine ⟨_, p.rkey, (u.core c).expCounts m, run, ?_, ?_⟩
  · rw [ended]
    rfl
  · rw [ended]
    show setBytes (u.core c).mem _ = _
    rw [core]

/-- What a read-out writes of an output (R126, R128). -/
theorem passEnd_writes (wf : s.wf = true) (ctx : s.ctxOf c = some (n, y)) (clocks : s.pwr.coreClocks = true)
    (pass : (s.core c).passes[i.val]? = some p) (streams : p.phase = .streaming) (first : ∀ o ∈ (s.core c).passes.take i.val, o.phase ≠ .streaming)
    (clean : (s.core c).poison = []) (narrow : y.wide = 0) (alone : p.shadow = []) (reads : p.desc.rdo ≠ []) :
    let x := mdOf p.desc.words
    let r := rdOf p.desc.rdo
    let sz := fmtBits r.t1.fmt / 8
    (∀ q ∈ x.readQuads, ((s.core c).quad q.1 q.2.1 q.2.2).live = false) → r.t1.axis = 0 → r.t1.fmt ≤ 4 → r.t2.isNone = true → r.rnd = false → r.cnt = 0 →
    r.amax = 0 → sz * x.n ≤ r.t1.p.stride →
    ∃ t, execPassEnd c i false [] [] s = .next t ∧ ∀ m k, m < x.m → k < x.n →
      let rf := if r.row = 0 then FV.fin false 1 else ofF ((s.core c).word32 (r.row + 4 * m))
      let cf := if r.col = 0 then FV.fin false 1 else ofF ((s.core c).word32 (r.col + 4 * k))
      let v := fvMul (fvMul (fvMul (f32 r.alpha) rf) cf)
        ((t.core c).pair (x.place m k).1 (x.place m k).2.1 (x.place m k).2.2.1 (x.place m k).2.2.2).val
      tgetMany 0 (t.core c).mem (r.t1.p.addr + m * r.t1.p.stride + sz * k) sz = toBytes sz ((fmtFloat r.t1.fmt).encode r.ovf .rne v).code := by
  intro x r sz off axis fmt single rnd cnt amax apart
  obtain ⟨t, key, extra, run, acc, mem⟩ := passEnd_readOut wf ctx clocks pass streams first clean narrow alone reads off
  have core := State.core_folded (c := c) (State.wf_cores wf) x []
  rw [Core.folded_only] at core
  refine ⟨t, run, fun m k hm hk => ?_⟩
  intro rf cf v
  rw [mem, Core.readOut_unscaled axis rfl fmt single rnd cnt amax, lineWrites_read (State.wf_core wf c).mem apart hm hk]
  have value : ((s.folded c x []).core c).roVal x r m k = v := by
    show fvMul (fvMul (fvMul (f32 r.alpha) (if r.row = 0 then FV.fin false 1 else f32 (((s.folded c x []).core c).w32 (r.row + 4 * m))))
      (if r.col = 0 then FV.fin false 1 else f32 (((s.folded c x []).core c).w32 (r.col + 4 * k))))
      (tget {} ((s.folded c x []).core c).acc _ : Pair).val = v
    rw [← acc]
    unfold v rf cf
    rw [ofF_word32, ofF_word32, core]
    rfl
  rw [value]

end

end Sys2Proof.Machine
end

section
/-! PROOF. The rows of the vector engine (O20; R174, R179, R187): the bytes of a descriptor as they are gathered and written, its end and its completion. -/

namespace Sys2Proof

/-! ### The entries of a table -/

theorem tget_of_memFrom {α : Type} [DecidableEq α] (d : α) : ∀ {m : List (Nat × α)} {lo k : Nat} {v : α}, twfFrom d lo m = true → (k, v) ∈ m →
    tget d m k = v ∧ lo ≤ k
  | [], _, _, _, _, h => absurd h List.not_mem_nil
  | (k', v') :: t, lo, k, v, w, h => by
    simp only [twfFrom, Bool.and_eq_true, decide_eq_true_eq] at w
    obtain ⟨⟨le, -⟩, rest⟩ := w
    obtain e | h := List.mem_cons.mp h
    · cases e
      exact ⟨if_pos rfl, le⟩
    · obtain ⟨get, lt⟩ := tget_of_memFrom d rest h
      refine ⟨?_, by omega⟩
      rw [tget, if_neg (by omega), if_neg (by omega), get]

theorem tget_of_mem {α : Type} [DecidableEq α] (d : α) {m : List (Nat × α)} {k : Nat} {v : α} (w : twf d m = true) (h : (k, v) ∈ m) : tget d m k = v :=
  (tget_of_memFrom d w h).1

end Sys2Proof

namespace Sys2Proof.Machine

/-! ### Bytes gathered into runs -/

/-- What a run says of a byte stands in the table. -/
theorem runsOf_entry : ∀ (m : List (Nat × Option Byte)) {w : Nat × List Byte} {a : Nat}, w ∈ runsOf m → Covers w a →
    ∃ b, (a, b) ∈ m ∧ w.2[a - w.1]? = some (b.getD 0)
  | [], _, _, h, _ => absurd h List.not_mem_nil
  | (a₀, b₀) :: t, w, a, h, cov => by
    have alone (r : List (Nat × List Byte)) (h : w ∈ (a₀, [b₀.getD 0]) :: r) (rest : ∀ u ∈ r, u ∈ runsOf t) :
        ∃ b, (a, b) ∈ (a₀, b₀) :: t ∧ w.2[a - w.1]? = some (b.getD 0) := by
      obtain rfl | h := List.mem_cons.mp h
      · obtain ⟨low, high⟩ := cov
        simp only [List.length_singleton] at low high
        obtain rfl : a = a₀ := by omega
        exact ⟨b₀, .head _, by simp⟩
      · obtain ⟨b, mem, get⟩ := runsOf_entry t (rest w h) cov
        exact ⟨b, .tail _ mem, get⟩
    unfold runsOf at h
    dsimp only at h
    split at h
    · next c l r e =>
      split at h
      · next next_ =>
        obtain rfl | h := List.mem_cons.mp h
        · obtain ⟨low, high⟩ := cov
          dsimp only at low high ⊢
          rw [List.length_cons] at high
          obtain rfl | lt := low.eq_or_lt
          · exact ⟨b₀, .head _, by simp⟩
          · obtain ⟨b, mem, get⟩ := runsOf_entry t (w := (c, l)) (a := a) (by rw [e]; exact .head _) ⟨by dsimp only; omega, by dsimp only; omega⟩
            refine ⟨b, .tail _ mem, ?_⟩
            rw [show a - a₀ = (a - c) + 1 by omega, List.getElem?_cons_succ]
            exact get
        · obtain ⟨b, mem, get⟩ := runsOf_entry t (by rw [e]; exact .tail _ h) cov
          exact ⟨b, .tail _ mem, get⟩
      · exact alone _ h fun u hu => by rw [e]; exact hu
    · next e => exact alone [] h fun _ hu => absurd hu List.not_mem_nil

/-- Every byte of the table lies in a run. -/
theorem runsOf_covers : ∀ (m : List (Nat × Option Byte)) {a : Nat} {b : Option Byte}, (a, b) ∈ m → ∃ w ∈ runsOf m, Covers w a
  | [], _, _, h => absurd h List.not_mem_nil
  | (a₀, b₀) :: t, a, b, h => by
    unfold runsOf
    dsimp only
    split
    · next c l r e =>
      split
      · next next_ =>
        obtain same | h := List.mem_cons.mp h
        · cases same
          exact ⟨_, .head _, Nat.le_refl _, by simp⟩
        · obtain ⟨w, hw, cov⟩ := runsOf_covers t h
          rw [e] at hw
          obtain rfl | hw := List.mem_cons.mp hw
          · obtain ⟨low, high⟩ := cov
            dsimp only at low high
            exact ⟨_, .head _, by dsimp only; omega, by rw [List.length_cons]; dsimp only; omega⟩
          · exact ⟨w, .tail _ hw, cov⟩
      · obtain same | h := List.mem_cons.mp h
        · cases same
          exact ⟨_, .head _, Nat.le_refl _, by simp⟩
        · obtain ⟨w, hw, cov⟩ := runsOf_covers t h
          exact ⟨w, .tail _ (by rw [← e]; exact hw), cov⟩
    · next e =>
      obtain same | h := List.mem_cons.mp h
      · cases same
        exact ⟨_, .head _, Nat.le_refl _, by simp⟩
      · obtain ⟨w, hw, -⟩ := runsOf_covers t h
        rw [e] at hw
        exact absurd hw List.not_mem_nil

/-- The table of the last values that a list gives. -/
def lastValues {α : Type} [DecidableEq α] (l : List (Nat × α)) (m : Tbl (Option α)) : Tbl (Option α) := l.foldl (fun m e => tset none m e.1 (some e.2)) m

/-- A key that a list, where it gives it, gives one value. -/
theorem lastValues_agree {α : Type} [DecidableEq α] {v : α} {a : Nat} : ∀ (l : List (Nat × α)) {m : Tbl (Option α)}, twf none m = true →
    (∀ e ∈ l, e.1 = a → e.2 = v) → (∃ e ∈ l, e.1 = a) ∨ tget none m a = some v → twf none (lastValues l m) = true ∧ tget none (lastValues l m) a = some v
  | [], _, w, _, known => ⟨w, known.elim (fun ⟨_, h, _⟩ => absurd h List.not_mem_nil) id⟩
  | e :: l, m, w, agree, known => by
    refine lastValues_agree l (tset_wf none e.1 (some e.2) w) (fun f hf => agree f (.tail _ hf)) ?_
    by_cases own : e.1 = a
    · exact .inr (by rw [tget_tset none _ _ _ w, if_pos own.symm, agree e (.head _) own])
    · refine known.imp (fun ⟨f, hf, e'⟩ => ⟨f, ?_, e'⟩) fun old => by rw [tget_tset none _ _ _ w, if_neg (Ne.symm own), old]
      obtain rfl | hf := List.mem_cons.mp hf
      · exact absurd e' own
      · exact hf

/-- A byte that a list of bytes gives one value reads back once they are gathered and written. -/
theorem gatherBytes_read {bs : List (Nat × Byte)} {m : List Host.Cell} (w : twf 0 m = true) {a : Nat} {v : Byte} (given : ∃ e ∈ bs, e.1 = a)
    (agree : ∀ e ∈ bs, e.1 = a → e.2 = v) : tget 0 (setBytes m (gatherBytes bs)) a = v := by
  obtain ⟨wt, get⟩ := lastValues_agree bs (m := []) rfl agree (.inl given)
  have entry : ∀ b, (a, b) ∈ lastValues bs [] → b = some v := fun b hb => (tget_of_mem none wt hb).symm.trans get
  have listed : ∃ b, (a, b) ∈ lastValues bs [] := by
    obtain e | mem := tget_mem none (lastValues bs []) a
    · cases (e.symm.trans get : none = some v)
    · exact ⟨_, mem⟩
  obtain ⟨b, hb⟩ := listed
  refine setBytes_agree _ w (fun u hu cov => ?_) (.inl (runsOf_covers _ hb))
  obtain ⟨b, mem, at_⟩ := runsOf_entry _ hu cov
  rw [at_, entry b mem]
  rfl

/-! ### The head of the vector queue -/

section
variable {s : State} {c : CoreNo} {n : Nat} {x : Ctx} {j : VJob} {q : List VJob}

/-- A descriptor that ran: its results as it leaves them for its completion. -/
def VJob.ran (j : VJob) (r : VRes) : VJob :=
  { j with done := true, next := (vdOf j.desc.words).chunks, run := [],
           counts := List.zipWith (· + ·) j.counts [r.counts.clip, r.counts.nan, r.counts.flagged, r.counts.written],
           amax := max j.amax (amaxCode r.amax), elems := j.elems + r.elems }

theorem runVector_idle (ctx : s.ctxOf c = some (n, x)) (head : (s.core c).vq = j :: q) {op : Nat} (other : (vdOf j.desc.words).op ≠ op ∨ j.done = true) :
    s.runVector c op [] = s := by
  unfold State.runVector
  rw [ctx, head]
  dsimp only
  refine if_pos ?_
  obtain h | h := other
  · exact .inr (.inr (.inr h))
  · exact .inr (.inr (.inl h))

section
variable (ctx : s.ctxOf c = some (n, x)) (running : x.st = .running) (clocks : s.pwr.coreClocks = true) (head : (s.core c).vq = j :: q)
  {op : Nat} (own : (vdOf j.desc.words).op = op) (fresh : j.done = false)
include ctx running clocks head own fresh

theorem runVector_runs : s.runVector c op [] = s.runJob c n j q (vdOf j.desc.words).chunks [] := by
  unfold State.runVector
  rw [ctx, head]
  dsimp only
  exact if_neg (by simp [running, clocks, fresh, own])

theorem runVector_poison {a : Nat} (poison : (s.core c).vecPoison (vdOf j.desc.words) j.next (vdOf j.desc.words).chunks = some a) :
    s.runVector c op [] = s.ctxFault n { cause := 0x11, pc := j.pc, mask := j.mask, slot := j.slot, arg2 := a, core := c.val } := by
  rw [runVector_runs ctx running clocks head own fresh]
  unfold State.runJob
  dsimp only
  rw [if_pos rfl, poison]
  rfl

/-- Without poison a descriptor runs to its end: its bytes are written, and it is marked done. -/
theorem runVector_clean (wf : s.wf = true) (clean : (s.core c).poison = []) :
    let r := (s.core c).vecPart (vdOf j.desc.words) j.rkey j.next (vdOf j.desc.words).chunks j.run
    ((s.runVector c op []).core c).vq = j.ran r :: q ∧ ((s.runVector c op []).core c).mem = setBytes (s.core c).mem (gatherBytes r.bytes) := by
  intro r
  have sound : (s.core c).vecPoison (vdOf j.desc.words) j.next (vdOf j.desc.words).chunks = none := by
    unfold Core.vecPoison
    rw [clean]
    rfl
  obtain ⟨hits, written, wt, -⟩ := State.wrLocals_clean (c := c) (gatherBytes r.bytes) (State.wf_cores wf) clean
  have run : s.runVector c op [] = (forEach (gatherBytes r.bytes) s fun w s => s.wrLocal c w.1 w.2).modCore c fun k => { k with vq := j.ran r :: q } := by
    rw [runVector_runs ctx running clocks head own fresh]
    unfold State.runJob
    dsimp only
    rw [if_pos rfl, sound, beq_self_eq_true, if_pos rfl]
    rfl
  rw [run, State.core_modCore wt, written]
  exact ⟨rfl, rfl⟩

end

/-! ### VECTOR_DESC_COMPLETE -/

theorem vectorDescComplete_leaves {gr : Group} (wf : s.wf = true) (ctx : s.ctxOf c = some (n, x)) (head : (s.core c).vq = j :: q) (done : j.done = true)
    (uncounted : (vdOf j.desc.words).cnt = 0) (unmeasured : (vdOf j.desc.words).amax = 0) (slot : s.group? c j.slot = some gr) (serial : gr.serial = j.serial) :
    ∃ t gr', execVectorDescComplete c s = .next t ∧ (t.core c).vq = q ∧ (t.core c).mem = (s.core c).mem ∧ t.group? c j.slot = some gr' ∧
      gr'.token (vdOf j.desc.words).token = gr.token (vdOf j.desc.words).token - 1 := by
  have w := State.wf_cores wf
  have canon := State.wf_group wf slot
  generalize hu : ((s.modCore c fun k => { k with vq := q }).tally x.stall 0x10 j.elems).tallyCounts x.stall j.counts = u
  have cores : u.cores = (s.modCore c fun k => { k with vq := q }).cores := by
    rw [← hu, State.tallyCounts_cores]
    rfl
  have core : u.core c = { s.core c with vq := q } := by
    unfold State.core
    rw [cores]
    exact State.core_modCore w _
  have wu : twf {} u.cores = true := by
    rw [cores]
    exact State.modCore_cores_wf w _
  have slot' : u.group? c j.slot = some gr := by
    rw [← slot]
    exact State.group?_congr (by rw [core])
  obtain ⟨⟨l, down⟩, group, -⟩ := State.tokenDown_spec (t := (vdOf j.desc.words).token) wu slot' canon.serial
  have run : execVectorDescComplete c s = .next (u.tokenDown c j.slot gr.serial (vdOf j.desc.words).token) := by
    unfold execVectorDescComplete
    rw [ctx, head]
    dsimp only
    rw [if_neg (by simp [done]), serial, ← hu]
    unfold State.vecCounts
    dsimp only
    rw [if_pos uncounted, if_pos unmeasured]
  refine ⟨_, _, run, ?_, ?_, group, Group.tokenDown_token canon.tokens _⟩
  · rw [down, core]
  · rw [down, core]

end

end Sys2Proof.Machine
end

section
/-! PROOF. What the vector operations give for one line of active FP32 elements (O20; Table 8.3, R177, R180, R183): the element-wise operations and CMP. -/

namespace Sys2Proof.Machine

/-! ### One line -/

/-- A descriptor of one line whose elements are all active, in FP32. -/
structure VD.OneLine (x : VD) : Prop where
  ct : x.ct = 0
  mpol : x.mpol = 0
  e1 : x.e1 = 1
  e2 : x.e2 = 1
  e3 : x.e3 = 1

/-- An FP32 operand that is read element by element. -/
def VOpd.Plain (o : VOpd) : Prop := o.fmt = 0 ∧ o.bc0 = false

/-- The value of element `i` of a plain operand. -/
def Core.src (k : Core) (o : VOpd) (i : Nat) : FV := ofF (k.word32 (o.addr + 4 * i))

/-- The chunk of a line that step `t` takes. -/
def VD.linePiece (x : VD) (t : Nat) : VPiece := ⟨0, 0, 0, 0, t * 256, min 256 (x.e0 - t * 256)⟩

theorem ofBytes_lt : ∀ l : List Byte, ofBytes l < 256 ^ l.length
  | [] => by simp [ofBytes]
  | b :: l => by
    have head := b.isLt
    have tail := ofBytes_lt l
    rw [ofBytes, List.length_cons, pow_succ]
    omega

theorem tgetMany_length {α : Type} (d : α) (m : List (Nat × α)) (k n : Nat) : (tgetMany d m k n).length = n := by
  rw [tgetMany_eq, List.length_map, List.length_range]

theorem Core.w32_lt (k : Core) (a : Nat) : k.w32 a < 2 ^ 32 := by
  have lt := ofBytes_lt (k.rd a 4)
  rwa [Core.rd, tgetMany_length] at lt

theorem Core.src_eq (k : Core) (o : VOpd) (i : Nat) : k.src o i = fp32.decode (k.w32 (o.addr + 4 * i)) := by
  rw [Core.src, ofF_word32, f32, Nat.mod_eq_of_lt (k.w32_lt _)]

theorem Core.src_proper (k : Core) (o : VOpd) (i : Nat) : FV.Proper (k.src o i) := by
  rw [Core.src_eq]
  exact fun _ _ h => fp32_decode_nonneg h

/-- Converting what was rounded to FP32 gives the code of the rounding. -/
theorem toF32_round {v : FV} (h : FV.Proper v) : toF32 (fp32.round v) = toF32 v := by
  unfold FFmt.round
  rw [fp32_encode]
  exact (canon32_encode true .rne h).2

section
variable {x : VD} {k : Core}

theorem VOpd.off_zero (o : VOpd) : o.off 0 0 0 = 0 := by simp [VOpd.off]

theorem VOpd.base_zero (o : VOpd) : o.base 0 = o.addr := by simp [VOpd.base]

/-- An element of a plain operand on the line. -/
theorem Core.vElem_plain {o : VOpd} (plain : o.Plain) (imm : Nat) (r : RMode) (l i : Nat) : k.vElem o imm r 0 l i = (k.src o i, 0) := by
  obtain ⟨fmt, each⟩ := plain
  have value : elemVal 0 (k.codeAt o.addr 32 i) = k.src o i := by
    rw [Core.src_eq, Nat.mul_comm 4 i]
    rfl
  unfold Core.vElem
  rw [fmt, each, VOpd.base_zero, ← value]
  rfl

namespace VD.OneLine
variable (line : x.OneLine)
include line

theorem cpl_eq : x.cpl = cdiv x.e0 256 := by rw [VD.cpl, VD.chunk, if_pos line.ct]

theorem chunks_eq : x.chunks = x.cpl := by rw [VD.chunks, line.e1, line.e2, line.e3]; simp

theorem stepAt_eq (axis : x.op ≠ 8 ∨ x.raxis = 0) {t : Nat} (h : t < x.cpl) : x.stepAt t = x.linePiece t := by
  have zero : (if x.op = 8 then x.raxis else 0) = 0 := by
    split
    · next eight => exact axis.resolve_left (not_not.mpr eight)
    · rfl
  unfold VD.stepAt VD.pieceOf VD.linePiece VD.chunk
  rw [zero]
  dsimp only
  rw [line.ct, line.e1, line.e2, Nat.div_eq_of_lt h, Nat.mod_eq_of_lt h, if_pos rfl]
  simp

theorem take_src (o : VOpd) (i : Nat) : x.take (k.src o i) = k.src o i := by
  unfold VD.take
  rw [if_pos line.ct, Core.src_eq, FFmt.round, fp32_encode]
  exact fp32_round_decode (k.w32_lt _)

theorem toF32_take {v : FV} (h : FV.Proper v) : toF32 (x.take v) = toF32 v := by
  unfold VD.take
  rw [if_pos line.ct]
  exact toF32_round h

theorem active_eq (n : Nat) : k.active x n = true := by
  unfold Core.active
  rw [line.mpol]
  rfl

end VD.OneLine

/-! ### The values of the elements -/

/-- The result of element `i` of the line. -/
def Core.lineVal (k : Core) (x : VD) (key i : Nat) : FV := (k.vResult x key (x.linePiece 0) i).1

/-- A result does not depend on the chunk that takes its element. -/
theorem Core.vResult_chunk (key t i : Nat) : k.vResult x key (x.linePiece t) i = k.vResult x key (x.linePiece 0) i := by
  unfold Core.vResult VD.linePiece
  dsimp only

theorem VD.OneLine.vals_eq (line : x.OneLine) (key t : Nat) (op : x.op ≠ 8) :
    (k.vPieceVals x key [] (x.linePiece t)).1 = (List.range (min 256 (x.e0 - t * 256))).map fun j => .val (k.lineVal x key (t * 256 + j)) := by
  unfold Core.vPieceVals
  rw [if_neg op]
  dsimp only
  rw [List.map_map]
  refine List.map_congr_left fun j _ => ?_
  dsimp only [Function.comp]
  rw [if_pos (line.active_eq _), Core.vResult_chunk]
  rfl

/-- A fold that emits one item for each element of a list. -/
theorem foldl_fst_append {α β σ : Type} (f : α → β) {step : List β × σ → α → List β × σ} : ∀ {l : List α} {acc : List β × σ},
    (∀ i ∈ l, ∀ acc, (step acc i).1 = acc.1 ++ [f i]) → (l.foldl step acc).1 = acc.1 ++ l.map f
  | [], _, _ => (List.append_nil _).symm
  | i :: l, acc, h => by
    rw [List.foldl_cons, foldl_fst_append f fun j hj => h j (.tail _ hj), h i (.head _), List.map_cons, List.append_assoc]
    rfl

/-- The chunks of the line, each with its values. -/
theorem VD.OneLine.pieces_eq (line : x.OneLine) (key : Nat) (op : x.op ≠ 8) :
    (k.vPieces x key 0 x.chunks []).1 = (List.range x.cpl).map fun t => (x.linePiece t, k.vPieceVals x key [] (x.linePiece t)) := by
  unfold Core.vPieces
  rw [line.chunks_eq, Nat.sub_zero]
  rw [foldl_fst_append fun t => (x.linePiece t, k.vPieceVals x key [] (x.linePiece t))]
  · rfl
  intro t ht acc
  dsimp only
  rw [if_neg op, if_pos (.inl op), Nat.zero_add, VD.outPiece, if_pos op, line.stepAt_eq (.inl op) (List.mem_range.mp ht)]

/-! ### The bytes of an FP32 target -/

/-- Words of 4 bytes that a list of bytes gives, element `i` at `addr + 4 * i`, read back once they are gathered and written. -/
theorem gathered_word {bs : List (Nat × Byte)} {m : List Host.Cell} (w : twf 0 m = true) {addr n : Nat} {code : Nat → Nat}
    (sound : ∀ e ∈ bs, ∃ i b, i < n ∧ (toBytes 4 (code i))[b]? = some e.2 ∧ e.1 = addr + 4 * i + b)
    (complete : ∀ i b, i < n → b < 4 → ∃ e ∈ bs, e.1 = addr + 4 * i + b) {i : Nat} (hi : i < n) {k : Core} (hk : k.mem = setBytes m (gatherBytes bs)) :
    k.word32 (addr + 4 * i) = BitVec.ofNat 32 (code i) := by
  have bytes : k.rd (addr + 4 * i) 4 = toBytes 4 (code i) := by
    unfold Core.rd
    rw [tgetMany_eq, hk]
    refine List.ext_getElem (by simp [toBytes_length]) fun b hb hb' => ?_
    simp only [List.getElem_map, List.getElem_range]
    rw [toBytes_length] at hb'
    refine gatherBytes_read w (complete i b hi hb') fun e he at_ => ?_
    obtain ⟨i', b', -, get, place⟩ := sound e he
    have lt : b' < 4 := by
      have := (List.getElem?_eq_some_iff.mp get).1
      rwa [toBytes_length] at this
    obtain ⟨rfl, rfl⟩ : i' = i ∧ b' = b := by omega
    exact Option.some.inj (get.symm.trans (List.getElem?_eq_getElem _))
  unfold Core.word32
  rw [bytes, ofBytes_toBytes]
  refine BitVec.eq_of_toNat_eq ?_
  simp only [BitVec.toNat_ofNat]
  norm_num

/-- The bytes of a run. -/
theorem byteRun_mem {a : Nat} {bs : List Byte} {e : Nat × Byte} : e ∈ byteRun a bs ↔ ∃ b, bs[b]? = some e.2 ∧ e.1 = a + b := by
  unfold byteRun
  rw [List.mem_map]
  constructor
  · rintro ⟨⟨v, b⟩, hv, rfl⟩
    exact ⟨b, List.mem_zipIdx_iff_getElem?.mp hv, rfl⟩
  · rintro ⟨b, get, at_⟩
    exact ⟨(e.2, b), List.mem_zipIdx_iff_getElem?.mpr get, Prod.ext at_.symm rfl⟩

/-- The bytes of a piece of an FP32 target: element `j` at 4 times its place. -/
theorem Core.vPlain_mem {p : VPiece} (fmt : x.d.fmt = 0) (first : p.i1 = 0 ∧ p.i2 = 0 ∧ p.i3 = 0) (codes : List Nat) {e : Nat × Byte} :
    e ∈ k.vPlain x p (codes.map some) ↔ ∃ j b c, codes[j]? = some c ∧ (toBytes 4 c)[b]? = some e.2 ∧ e.1 = x.d.addr + 4 * (p.j0 + j) + b := by
  obtain ⟨h1, h2, h3⟩ := first
  have place (j : Nat) : x.d.addr + p.j0 * 32 / 8 + j * (32 / 8) = x.d.addr + 4 * (p.j0 + j) := by omega
  have bits : fmtBits 0 = 32 := rfl
  unfold Core.vPlain
  rw [fmt, h1, h2, h3, VOpd.off_zero, VOpd.base_zero]
  dsimp only
  rw [bits, if_neg (by norm_num), List.mem_flatMap]
  constructor
  · rintro ⟨⟨c?, j⟩, hc, he⟩
    have get := List.mem_zipIdx_iff_getElem?.mp hc
    rw [List.getElem?_map] at get
    obtain ⟨c, hc, rfl⟩ := Option.map_eq_some_iff.mp get
    obtain ⟨b, hb, at_⟩ := byteRun_mem.mp he
    exact ⟨j, b, c, hc, hb, at_.trans (by rw [place])⟩
  · rintro ⟨j, b, c, hc, hb, at_⟩
    refine ⟨(some c, j), List.mem_zipIdx_iff_getElem?.mpr (by rw [List.getElem?_map, hc]; rfl), byteRun_mem.mpr ⟨b, hb, at_.trans (by rw [place])⟩⟩

/-- A piece of an FP32 target is converted element by element. -/
theorem Core.vPieceOut_fp32 (fmt : x.d.fmt = 0) (key : Nat) (p : VPiece) (vs : List FV) (clips : Nat) :
    (k.vPieceOut x key p (vs.map .val, clips)).bytes = k.vPlain x p ((vs.map toF32).map some) := by
  have carry : x.carry = false := by
    unfold VD.carry
    rw [fmt]
    simp [fmtBlock]
  have enc (l n : Nat) (v : FV) : (k.vEnc x key l n v).code = toF32 v := by
    unfold Core.vEnc
    rw [fmt, if_neg (by decide)]
    unfold encPlain
    rw [show fmtFloat 0 = fp32 from rfl, fp32_encode]
    rfl
  unfold Core.vPieceOut
  rw [fmt, if_neg (by decide), carry, if_neg (by decide)]
  unfold Core.vConvPiece
  dsimp only
  rw [fmt, if_neg (by decide)]
  dsimp only
  congr 1
  refine List.ext_getElem (by simp) fun i hi hj => ?_
  simp only [List.getElem_map, List.getElem_mapIdx, Option.map_some, enc]

/-- The bytes that an element-wise operation writes into an FP32 target for a chunk. -/
theorem VD.OneLine.chunkBytes_mem (line : x.OneLine) (key : Nat) (op : x.op ≠ 8) (fmt : x.d.fmt = 0) (t : Nat) {e : Nat × Byte} :
    e ∈ (k.vPieceOut x key (x.linePiece t) (k.vPieceVals x key [] (x.linePiece t))).bytes ↔ ∃ j b, j < min 256 (x.e0 - t * 256) ∧
      (toBytes 4 (toF32 (k.lineVal x key (t * 256 + j))))[b]? = some e.2 ∧ e.1 = x.d.addr + 4 * (t * 256 + j) + b := by
  have vals := line.vals_eq (k := k) key t op
  generalize k.vPieceVals x key [] (x.linePiece t) = v at vals
  obtain ⟨vs, clips⟩ := v
  have shape : vs = ((List.range (min 256 (x.e0 - t * 256))).map fun j => k.lineVal x key (t * 256 + j)).map .val := by
    rw [List.map_map]
    exact vals
  rw [shape, Core.vPieceOut_fp32 fmt, Core.vPlain_mem fmt ⟨rfl, rfl, rfl⟩]
  constructor
  · rintro ⟨j, b, c, hc, hb, at_⟩
    rw [List.getElem?_map, List.getElem?_map, Option.map_map] at hc
    obtain ⟨j', hj, rfl⟩ := Option.map_eq_some_iff.mp hc
    obtain ⟨lt, rfl⟩ := List.getElem?_eq_some_iff.mp hj
    rw [List.length_range] at lt
    rw [List.getElem_range] at hb
    exact ⟨j, b, lt, hb, at_⟩
  · rintro ⟨j, b, hj, get, at_⟩
    exact ⟨j, b, _, by rw [List.getElem?_map, List.getElem?_map, List.getElem?_range hj]; rfl, get, at_⟩

/-- The chunks of the line take each element once. -/
theorem VD.OneLine.chunk_of (line : x.OneLine) {i : Nat} (h : i < x.e0) : i / 256 < x.cpl ∧ i % 256 < min 256 (x.e0 - i / 256 * 256) := by
  rw [line.cpl_eq, cdiv]
  omega

/-- The bytes that an element-wise operation writes into an FP32 target. -/
theorem VD.OneLine.bytes_eq (line : x.OneLine) (key : Nat) (op8 : x.op ≠ 8) (op6 : x.op ≠ 6) (fmt : x.d.fmt = 0) :
    (k.vecPart x key 0 x.chunks []).bytes =
      (List.range x.cpl).flatMap fun t => (k.vPieceOut x key (x.linePiece t) (k.vPieceVals x key [] (x.linePiece t))).bytes := by
  have pieces := line.pieces_eq (k := k) key op8
  unfold Core.vecPart
  dsimp only
  rw [if_neg op6, if_neg (by rw [fmt]; decide), pieces, List.map_map, List.flatMap_map]
  rfl

/-- What an element-wise operation leaves in an FP32 target: the codes of its results. -/
theorem VD.OneLine.word_eq (line : x.OneLine) (key : Nat) (op8 : x.op ≠ 8) (op6 : x.op ≠ 6) (fmt : x.d.fmt = 0) {m : List Host.Cell} (w : twf 0 m = true)
    {k' : Core} (hk : k'.mem = setBytes m (gatherBytes (k.vecPart x key 0 x.chunks []).bytes)) {i : Nat} (hi : i < x.e0) :
    k'.word32 (x.d.addr + 4 * i) = toF (k.lineVal x key i) := by
  refine gathered_word (n := x.e0) (code := fun i => toF32 (k.lineVal x key i)) w (fun e he => ?_) (fun i b hi hb => ?_) hi hk
  · rw [line.bytes_eq key op8 op6 fmt, List.mem_flatMap] at he
    obtain ⟨t, ht, he⟩ := he
    obtain ⟨j, b, hj, get, at_⟩ := (line.chunkBytes_mem key op8 fmt t).mp he
    exact ⟨t * 256 + j, b, by omega, get, at_⟩
  · obtain ⟨ht, hj⟩ := line.chunk_of hi
    have lt : b < (toBytes 4 (toF32 (k.lineVal x key i))).length := by rwa [toBytes_length]
    refine ⟨(x.d.addr + 4 * i + b, (toBytes 4 (toF32 (k.lineVal x key i)))[b]), ?_, rfl⟩
    rw [line.bytes_eq key op8 op6 fmt, List.mem_flatMap]
    refine ⟨i / 256, List.mem_range.mpr ht, (line.chunkBytes_mem key op8 fmt _).mpr ⟨i % 256, b, hj, ?_, ?_⟩⟩
    · rw [show i / 256 * 256 + i % 256 = i by omega]
      exact List.getElem?_eq_getElem lt
    · dsimp only
      omega

end

end Sys2Proof.Machine
end

section
/-! PROOF. The element-wise rows and CMP on one line (O20; R177, R180, R183). -/

namespace Sys2Proof.Machine

/-! ### The result of an element -/

theorem FV.proper_min {a b : FV} (ha : FV.Proper a) (hb : FV.Proper b) : FV.Proper (fvMin a b) := by
  unfold fvMin
  split
  · exact hb
  · exact ha
  · split
    · split <;> assumption
    · split <;> assumption

theorem FV.proper_max {a b : FV} (ha : FV.Proper a) (hb : FV.Proper b) : FV.Proper (fvMax a b) := by
  unfold fvMax
  split
  · exact hb
  · exact ha
  · split
    · split <;> assumption
    · split <;> assumption

section
variable {x : VD} {k : Core}

/-- The sources of element `i` of the line: what an operation does not read is +0. -/
theorem VD.OneLine.lineVal_eq (key i : Nat) (p0 : x.o0.Plain) (p1 : 1 < x.srcs → x.o1.Plain) (p2 : 2 < x.srcs → x.o2.Plain) :
    k.lineVal x key i = x.result (x.op == 7 && k.maskBit x i) (k.src x.o0 i) (if 1 < x.srcs then k.src x.o1 i else .fin false 0)
      (if 2 < x.srcs then k.src x.o2 i else .fin false 0) := by
  unfold Core.lineVal Core.vResult VD.linePiece VD.lin
  dsimp only
  rw [VOpd.off_zero, VOpd.off_zero, VOpd.off_zero, Core.vElem_plain p0, Nat.mul_zero, Nat.add_zero]
  by_cases one : 1 < x.srcs
  · rw [if_pos one, if_pos (decide_eq_true one), Core.vElem_plain (p1 one)]
    by_cases two : 2 < x.srcs
    · rw [if_pos two, if_pos (decide_eq_true two), Core.vElem_plain (p2 two)]
    · rw [if_neg two, if_neg (by simp [two])]
  · rw [if_neg one, if_neg (by simp [one]), if_neg (show ¬ 2 < x.srcs by omega), if_neg (by simp; omega)]

/-- The bit of the element mask. -/
theorem Core.maskBit_eq (i : Nat) : k.maskBit x i = (tget 0 k.mem (x.emask + i / 8)).toNat.testBit (i % 8) := by
  unfold Core.maskBit Core.rd
  rw [tgetMany, tgetMany, ofBytes, ofBytes, Nat.mul_zero, Nat.add_zero]

variable (line : x.OneLine) (key i : Nat) (p0 : x.o0.Plain)
include line p0

omit line in
theorem VD.OneLine.cvt_val (op : x.op = 0) : k.lineVal x key i = k.src x.o0 i := by
  have srcs : x.srcs = 1 := by rw [VD.srcs, op]; rfl
  rw [VD.OneLine.lineVal_eq key i p0 (by rw [srcs]; omega) (by rw [srcs]; omega), VD.result, op]
  rfl

theorem VD.OneLine.cmp_val (op : x.op = 6) (p1 : x.o1.Plain) :
    k.lineVal x key i = .fin false (if vCond x.sub (k.src x.o0 i) (k.src x.o1 i) then 1 else 0) := by
  have srcs : x.srcs = 2 := by rw [VD.srcs, op]; rfl
  rw [VD.OneLine.lineVal_eq key i p0 (fun _ => p1) (by rw [srcs]; omega), VD.result, op, srcs, if_pos (by omega)]
  dsimp only
  rw [line.take_src, line.take_src]
  rfl

/-- The code of a result that was rounded to FP32: the one of the exact result. -/
theorem VD.OneLine.binary_val {f : FV → FV → FV} (two : x.srcs = 2) (p1 : x.o1.Plain)
    (result : ∀ a b c m, x.result m a b c = x.take (f (x.take a) (x.take b))) (proper : ∀ {a b}, FV.Proper a → FV.Proper b → FV.Proper (f a b)) :
    toF32 (k.lineVal x key i) = toF32 (f (k.src x.o0 i) (k.src x.o1 i)) := by
  rw [VD.OneLine.lineVal_eq key i p0 (fun _ => p1) (by rw [two]; omega), result, two, if_pos (by omega), line.take_src, line.take_src]
  exact line.toF32_take (proper (k.src_proper _ _) (k.src_proper _ _))

theorem VD.OneLine.add_val (op : x.op = 1) (p1 : x.o1.Plain) : toF32 (k.lineVal x key i) = toF32 (fvAdd (k.src x.o0 i) (k.src x.o1 i)) :=
  line.binary_val key i p0 (by rw [VD.srcs, op]; rfl) p1 (fun a b c m => by rw [VD.result, op]; rfl) (fun _ _ => FV.proper_add _ _)

theorem VD.OneLine.mul_val (op : x.op = 2) (p1 : x.o1.Plain) : toF32 (k.lineVal x key i) = toF32 (fvMul (k.src x.o0 i) (k.src x.o1 i)) :=
  line.binary_val key i p0 (by rw [VD.srcs, op]; rfl) p1 (fun a b c m => by rw [VD.result, op]; rfl) FV.proper_mul

theorem VD.OneLine.min_val (op : x.op = 4) (p1 : x.o1.Plain) : toF32 (k.lineVal x key i) = toF32 (fvMin (k.src x.o0 i) (k.src x.o1 i)) :=
  line.binary_val key i p0 (by rw [VD.srcs, op]; rfl) p1 (fun a b c m => by rw [VD.result, op]; rfl) FV.proper_min

theorem VD.OneLine.max_val (op : x.op = 5) (p1 : x.o1.Plain) : toF32 (k.lineVal x key i) = toF32 (fvMax (k.src x.o0 i) (k.src x.o1 i)) :=
  line.binary_val key i p0 (by rw [VD.srcs, op]; rfl) p1 (fun a b c m => by rw [VD.result, op]; rfl) FV.proper_max

theorem VD.OneLine.fma_val (op : x.op = 3) (p1 : x.o1.Plain) (p2 : x.o2.Plain) :
    toF32 (k.lineVal x key i) = toF32 (fvAdd (fvMul (k.src x.o0 i) (k.src x.o1 i)) (k.src x.o2 i)) := by
  have srcs : x.srcs = 3 := by rw [VD.srcs, op]; rfl
  rw [VD.OneLine.lineVal_eq key i p0 (fun _ => p1) (fun _ => p2), VD.result, op, srcs, if_pos (by omega), if_pos (by omega)]
  dsimp only
  rw [line.take_src, line.take_src, line.take_src]
  exact line.toF32_take (FV.proper_add _ _)

theorem VD.OneLine.sel_val (op : x.op = 7) (p1 : x.o1.Plain) :
    k.lineVal x key i = if (tget 0 k.mem (x.emask + i / 8)).toNat.testBit (i % 8) then k.src x.o0 i else k.src x.o1 i := by
  have srcs : x.srcs = 2 := by rw [VD.srcs, op]; rfl
  rw [VD.OneLine.lineVal_eq key i p0 (fun _ => p1) (by rw [srcs]; omega), VD.result, op, srcs, if_pos (by omega), Core.maskBit_eq]
  dsimp only
  rw [line.take_src, line.take_src]
  rfl

end

/-! ### CMP (R183) -/

theorem testBit_maskOf (l : List Nat) (i : Nat) : (maskOf l).testBit i = decide (i ∈ l) := by
  have from_ (l : List Nat) : ∀ a : Nat, (l.foldl (fun a i => a ||| 2 ^ i) a).testBit i = (a.testBit i || decide (i ∈ l)) := by
    induction l with
    | nil => intro a; simp
    | cons j l ih =>
      intro a
      rw [List.foldl_cons, ih, Nat.testBit_or, Nat.testBit_two_pow, Bool.or_assoc]
      congr 1
      rw [← Bool.decide_or]
      exact decide_eq_decide.mpr (by rw [List.mem_cons, eq_comm])
  rw [maskOf, from_, Nat.zero_testBit, Bool.false_or]

section
variable {x : VD} {k : Core}

/-- The values of CMP by element. -/
theorem VD.OneLine.cmp_table (line : x.OneLine) (key : Nat) (op : x.op = 6) {i : Nat} (hi : i < x.e0) :
    tget none ((k.vPieces x key 0 x.chunks []).1.foldl (fun (m : Tbl (Option VVal)) e =>
      e.2.1.zipIdx.foldl (fun m v => tset none m (x.lin e.1.l (e.1.j0 + v.2)) (some v.1)) m) []) i = some (.val (k.lineVal x key i)) := by
  have op8 : x.op ≠ 8 := by omega
  have flat : (k.vPieces x key 0 x.chunks []).1.foldl (fun (m : Tbl (Option VVal)) e =>
      e.2.1.zipIdx.foldl (fun m v => tset none m (x.lin e.1.l (e.1.j0 + v.2)) (some v.1)) m) [] =
      lastValues ((k.vPieces x key 0 x.chunks []).1.flatMap fun e => e.2.1.zipIdx.map fun v => (x.lin e.1.l (e.1.j0 + v.2), v.1)) [] := by
    unfold lastValues
    rw [List.foldl_flatMap]
    simp only [List.foldl_map]
  have entry {t : Nat} {v : VVal × Nat} : v ∈ (k.vPieceVals x key [] (x.linePiece t)).1.zipIdx ↔
      v.2 < min 256 (x.e0 - t * 256) ∧ v.1 = .val (k.lineVal x key (t * 256 + v.2)) := by
    rw [List.mem_zipIdx_iff_getElem?, line.vals_eq key t op8, List.getElem?_map]
    constructor
    · intro h
      obtain ⟨j, hj, e⟩ := Option.map_eq_some_iff.mp h
      obtain ⟨lt, rfl⟩ := List.getElem?_eq_some_iff.mp hj
      rw [List.length_range] at lt
      rw [List.getElem_range] at e
      exact ⟨lt, e.symm⟩
    · rintro ⟨lt, e⟩
      rw [List.getElem?_range lt, e]
      rfl
  rw [flat, line.pieces_eq key op8]
  refine (lastValues_agree _ (m := []) rfl (fun e he at_ => ?_) (.inl ?_)).2
  · simp only [List.mem_flatMap, List.mem_map] at he
    obtain ⟨_, ⟨t, ht, rfl⟩, v, hv, rfl⟩ := he
    obtain ⟨-, value⟩ := entry.mp hv
    have place : t * 256 + v.2 = i := by
      simp only [VD.lin, VD.linePiece, Nat.mul_zero, Nat.add_zero] at at_
      exact at_
    exact value.trans (by rw [place])
  · obtain ⟨ht, hj⟩ := line.chunk_of hi
    refine ⟨(i, .val (k.lineVal x key i)), ?_, rfl⟩
    simp only [List.mem_flatMap, List.mem_map]
    refine ⟨_, ⟨i / 256, List.mem_range.mpr ht, rfl⟩, (.val (k.lineVal x key i), i % 256), entry.mpr ⟨hj, ?_⟩, ?_⟩
    · dsimp only
      rw [show i / 256 * 256 + i % 256 = i by omega]
    · simp only [VD.lin, VD.linePiece, Nat.mul_zero, Nat.add_zero]
      rw [show i / 256 * 256 + i % 256 = i by omega]

/-- Bit `i` of byte `b` of CMP's output. -/
def Core.vBit (k : Core) (x : VD) (vs : List VVal) (b i : Nat) : Bool :=
  match vs[8 * b + i]? with
  | some (.val v) => !v.isZero
  | some .zero => false
  | _ => (ofBytes (k.rd (x.d.addr + b) 1)).testBit i

/-- The bytes of CMP's output: those with an element that is written. -/
theorem Core.vBits_mem {vs : List VVal} {e : Nat × Byte} : e ∈ k.vBits x vs ↔ ∃ b, b < cdiv vs.length 8 ∧
    ¬ (((vs.drop (8 * b)).take 8).all fun v => v == VVal.keep) = true ∧ e = (x.d.addr + b, BitVec.ofNat 8 (maskOf ((List.range 8).filter (k.vBit x vs b)))) := by
  unfold Core.vBits
  rw [List.mem_flatMap]
  constructor
  · rintro ⟨b, hb, he⟩
    dsimp only at he
    split at he
    · cases he
    · next some_ => exact ⟨b, List.mem_range.mp hb, some_, List.mem_singleton.mp he⟩
  · rintro ⟨b, hb, some_, rfl⟩
    refine ⟨b, List.mem_range.mpr hb, ?_⟩
    dsimp only
    rw [if_neg some_]
    exact List.mem_singleton.mpr rfl

/-- The bits of a list of values, 8 to a byte. -/
theorem vBits_read {n : Nat} {v : Nat → FV} {m : List Host.Cell} (w : twf 0 m = true) {i : Nat} (hi : i < n) :
    (tget 0 (setBytes m (gatherBytes (k.vBits x ((List.range n).map fun i => .val (v i))))) (x.d.addr + i / 8)).toNat.testBit (i % 8) = !(v i).isZero := by
  have get {j : Nat} (hj : j < n) : ((List.range n).map fun i => VVal.val (v i))[j]? = some (.val (v j)) := by
    rw [List.getElem?_map, List.getElem?_range hj]
    rfl
  have some_ : ¬ ((((List.range n).map fun i => VVal.val (v i)).drop (8 * (i / 8))).take 8 |>.all fun v => v == VVal.keep) = true := by
    intro all
    have first := List.all_eq_true.mp all (.val (v (8 * (i / 8)))) (List.mem_iff_getElem?.mpr ⟨0, by
      rw [List.getElem?_take_of_lt (by norm_num), List.getElem?_drop, Nat.add_zero, get (by omega)]⟩)
    cases beq_iff_eq.mp first
  have byte : tget 0 (setBytes m (gatherBytes (k.vBits x ((List.range n).map fun i => .val (v i))))) (x.d.addr + i / 8) =
      BitVec.ofNat 8 (maskOf ((List.range 8).filter (k.vBit x ((List.range n).map fun i => .val (v i)) (i / 8)))) := by
    refine gatherBytes_read w ⟨_, Core.vBits_mem.mpr ⟨i / 8, ?_, some_, rfl⟩, rfl⟩ fun e he at_ => ?_
    · rw [List.length_map, List.length_range, cdiv]
      omega
    · obtain ⟨b, -, -, rfl⟩ := Core.vBits_mem.mp he
      obtain rfl : b = i / 8 := Nat.add_left_cancel at_
      rfl
  have bit : k.vBit x ((List.range n).map fun i => .val (v i)) (i / 8) (i % 8) = !(v i).isZero := by
    unfold Core.vBit
    rw [show 8 * (i / 8) + i % 8 = i by omega, get hi]
  rw [byte, BitVec.toNat_ofNat, Nat.testBit_mod_two_pow, testBit_maskOf, ← bit, decide_eq_true (show i % 8 < 8 by omega), Bool.true_and, Bool.eq_iff_iff,
    decide_eq_true_iff, List.mem_filter, List.mem_range]
  exact ⟨fun h => h.2, fun h => ⟨by omega, h⟩⟩

/-- CMP writes the bit of each element (R183). -/
theorem VD.OneLine.cmp_bit (line : x.OneLine) (key : Nat) (op : x.op = 6) (sub : x.sub ≤ 5) (p0 : x.o0.Plain) (p1 : x.o1.Plain) {m : List Host.Cell}
    (w : twf 0 m = true) {i : Nat} (hi : i < x.e0) :
    (tget 0 (setBytes m (gatherBytes (k.vecPart x key 0 x.chunks []).bytes)) (x.d.addr + i / 8)).toNat.testBit (i % 8) =
      (!(k.src x.o0 i).isNan && !(k.src x.o1 i).isNan && holdsCond x.sub (fvEq (k.src x.o0 i) (k.src x.o1 i)) (fvLt (k.src x.o0 i) (k.src x.o1 i))) := by
  have bytes : (k.vecPart x key 0 x.chunks []).bytes = k.vBits x ((List.range x.e0).map fun i => .val (k.lineVal x key i)) := by
    have table {i : Nat} (hi : i < x.e0) := line.cmp_table (k := k) key op hi
    unfold Core.vecPart
    dsimp only
    rw [if_pos op, line.e1, line.e2, line.e3, Nat.mul_one, Nat.mul_one, Nat.mul_one]
    dsimp only
    refine congrArg (k.vBits x) (List.map_congr_left fun i hi => ?_)
    rw [table (List.mem_range.mp hi)]
    rfl
  have cond : ∀ eq lt : Bool, condOf x.sub eq lt = holdsCond x.sub eq lt := by
    interval_cases x.sub <;> decide
  rw [bytes, vBits_read w hi, line.cmp_val key i p0 op p1, vCond, cond]
  generalize (k.src x.o0 i).isNan = na
  generalize (k.src x.o1 i).isNan = nb
  generalize holdsCond x.sub _ _ = h
  cases na <;> cases nb <;> cases h <;> simp [FV.isZero]

end

end Sys2Proof.Machine
end

section
/-! PROOF. RED along one line (O20; R180, R181): the values combine in the order of a tree, and chunk by chunk. -/

namespace Sys2Proof

/-! ### The order of the values (R152) -/

/-- The place of a value in the order of R152: −∞ below the numbers below +∞, −0 below +0, and NaN at place `nan`. -/
def FV.place (nan : Int) : FV → Lex (Int × Lex (Rat × Bool))
  | .nan => toLex (nan, toLex (0, false))
  | .inf neg => toLex (if neg then 0 else 2, toLex (0, false))
  | .fin neg m => toLex (1, toLex ((FV.fin neg m).toRat, !neg))

/-- The comparison that FMINMAX makes of two numbers. -/
def FV.under (a b : FV) : Bool := if fvEq a b then a.neg else fvLt a b

theorem FV.place_injective {nan : Int} (out : nan < 0 ∨ 2 < nan) : Function.Injective (FV.place nan) := by
  have apart : nan ≠ 0 ∧ nan ≠ 1 ∧ nan ≠ 2 := by omega
  obtain ⟨zero, one, two⟩ := apart
  intro a b h
  have rank := congrArg (fun p => (ofLex p).1) h
  have inner := congrArg (fun p => (ofLex p).2) h
  cases a with
  | nan =>
    cases b with
    | nan => rfl
    | inf t => cases t <;> simp [FV.place, zero, two] at rank
    | fin t n => exact absurd rank one
  | inf s =>
    cases b with
    | nan => cases s <;> simp [FV.place, zero.symm, two.symm] at rank
    | inf t => cases s <;> cases t <;> simp [FV.place] at rank ⊢
    | fin t n => cases s <;> simp [FV.place] at rank
  | fin s m =>
    cases b with
    | nan => exact absurd rank.symm one
    | inf t => cases t <;> simp [FV.place] at rank
    | fin t n =>
      have value := congrArg (fun p => (ofLex p).1) inner
      have sign := congrArg (fun p => !(ofLex p).2) inner
      simp only [FV.place, ofLex_toLex, Bool.not_not] at value sign
      subst sign
      cases s <;> simpa [FV.toRat] using value

/-- The comparison of two numbers agrees with their places. -/
theorem FV.under_place (nan : Int) {a b : FV} (ha : a ≠ .nan) (hb : b ≠ .nan) :
    if a.under b then a.place nan ≤ b.place nan else b.place nan ≤ a.place nan := by
  cases a with
  | nan => exact absurd rfl ha
  | inf s =>
    cases b with
    | nan => exact absurd rfl hb
    | inf t => cases s <;> cases t <;> simp [FV.under, fvEq, fvLt, FV.neg, FV.place, Prod.Lex.toLex_le_toLex]
    | fin t n => cases s <;> simp [FV.under, fvEq, fvLt, FV.place, Prod.Lex.toLex_le_toLex]
  | fin s m =>
    cases b with
    | nan => exact absurd rfl hb
    | inf t => cases t <;> simp [FV.under, fvEq, fvLt, FV.place, Prod.Lex.toLex_le_toLex]
    | fin t n =>
      simp only [FV.under, fvEq, fvLt, FV.neg, FV.place, decide_eq_true_eq, Prod.Lex.toLex_le_toLex]
      generalize (FV.fin s m).toRat = p
      generalize (FV.fin t n).toRat = q
      by_cases eq : p = q
      · subst eq
        cases s <;> cases t <;> simp
      · by_cases lt : p < q
        · simp [eq, lt]
        · have gt : q < p := lt_of_le_of_ne (not_lt.mp lt) (Ne.symm eq)
          simp [eq, lt, gt]

theorem fvMax_nan (a : FV) : fvMax a .nan = a := by cases a <;> rfl
theorem fvMin_nan (a : FV) : fvMin a .nan = a := by cases a <;> rfl
theorem nan_fvMax (a : FV) : fvMax .nan a = a := by cases a <;> rfl
theorem nan_fvMin (a : FV) : fvMin .nan a = a := by cases a <;> rfl

theorem fvMax_under {a b : FV} (ha : a ≠ .nan) (hb : b ≠ .nan) : fvMax a b = if a.under b then b else a := by
  unfold fvMax FV.under
  split
  · exact absurd rfl ha
  · exact absurd rfl hb
  · split <;> rfl

theorem fvMin_under {a b : FV} (ha : a ≠ .nan) (hb : b ≠ .nan) : fvMin a b = if a.under b then a else b := by
  unfold fvMin FV.under
  split
  · exact absurd rfl ha
  · exact absurd rfl hb
  · split <;> rfl

theorem FV.nan_place_le (v : FV) : FV.nan.place (-1) ≤ v.place (-1) := by
  cases v with
  | nan => exact le_rfl
  | inf s => cases s <;> simp [FV.place, Prod.Lex.toLex_le_toLex]
  | fin s m => simp [FV.place, Prod.Lex.toLex_le_toLex]

theorem FV.place_le_nan (v : FV) : v.place 3 ≤ FV.nan.place 3 := by
  cases v with
  | nan => exact le_rfl
  | inf s => cases s <;> simp [FV.place, Prod.Lex.toLex_le_toLex]
  | fin s m => simp [FV.place, Prod.Lex.toLex_le_toLex]

/-- The greater of two values is the one of the greater place, NaN lowest. -/
theorem FV.place_max (a b : FV) : (fvMax a b).place (-1) = max (a.place (-1)) (b.place (-1)) := by
  by_cases ha : a = .nan
  · rw [ha, nan_fvMax, max_eq_right b.nan_place_le]
  by_cases hb : b = .nan
  · rw [hb, fvMax_nan, max_eq_left a.nan_place_le]
  have order := FV.under_place (-1) ha hb
  rw [fvMax_under ha hb]
  split at order
  · next under => rw [if_pos under, max_eq_right order]
  · next under => rw [if_neg under, max_eq_left order]

/-- The smaller of two values is the one of the smaller place, NaN highest. -/
theorem FV.place_min (a b : FV) : (fvMin a b).place 3 = min (a.place 3) (b.place 3) := by
  by_cases ha : a = .nan
  · rw [ha, nan_fvMin, min_eq_right b.place_le_nan]
  by_cases hb : b = .nan
  · rw [hb, fvMin_nan, min_eq_left a.place_le_nan]
  have order := FV.under_place 3 ha hb
  rw [fvMin_under ha hb]
  split at order
  · next under => rw [if_pos under, min_eq_left order]
  · next under => rw [if_neg under, min_eq_right order]

theorem fvMax_assoc (a b c : FV) : fvMax (fvMax a b) c = fvMax a (fvMax b c) :=
  FV.place_injective (nan := -1) (by norm_num) (by simp only [FV.place_max, max_assoc])

theorem fvMin_assoc (a b c : FV) : fvMin (fvMin a b) c = fvMin a (fvMin b c) :=
  FV.place_injective (nan := 3) (by norm_num) (by simp only [FV.place_min, min_assoc])

end Sys2Proof

namespace Sys2Proof.Machine

/-- +0 is below every magnitude. -/
theorem fvMax_zero_abs {v : FV} (number : v.isNan = false) (proper : FV.Proper v) : fvMax (.fin false 0) v.abs = v.abs := by
  cases v with
  | nan => cases number
  | inf s => rfl
  | fin s m =>
    have nonneg : 0 ≤ m := proper s m rfl
    have abs : (FV.fin s m).abs = .fin false m := rfl
    rw [abs, fvMax_under (by simp) (by simp)]
    split
    · rfl
    · next not_under =>
      obtain eq | lt := nonneg.eq_or_lt
      · rw [← eq]
      · exact absurd (by simp [FV.under, fvEq, fvLt, FV.toRat, lt.ne, lt]) not_under

/-! ### The tree (R180) -/

variable {sub : Nat}

/-- The combinations under SUB may be taken in any order. -/
def RedAssoc (sub : Nat) : Prop := ∀ a b c, redOp sub (redOp sub a b) c = redOp sub a (redOp sub b c)

theorem redPair_none (a : Option FV) : redPair sub a none = a := by cases a <;> rfl
theorem none_redPair (a : Option FV) : redPair sub none a = a := by cases a <;> rfl

theorem redPair_assoc (assoc : RedAssoc sub) (a b c : Option FV) :
    redPair sub (redPair sub a b) c = redPair sub a (redPair sub b c) := by
  cases a with
  | none => rw [none_redPair, none_redPair]
  | some a =>
    cases b with
    | none => rw [redPair_none, none_redPair]
    | some b =>
      cases c with
      | none => rw [redPair_none, redPair_none]
      | some c => exact congrArg some (assoc a b c)

/-- The values combined from left to right. -/
def redAll (sub : Nat) (l : List (Option FV)) : Option FV := l.foldl (redPair sub) none

theorem redAll_append (assoc : RedAssoc sub) (l r : List (Option FV)) :
    redAll sub (l ++ r) = redPair sub (redAll sub l) (redAll sub r) := by
  unfold redAll
  rw [List.foldl_append]
  generalize List.foldl (redPair sub) none l = o
  induction r using List.reverseRecOn with
  | nil => rw [List.foldl_nil, List.foldl_nil, redPair_none]
  | append_singleton r v ih => simp only [List.foldl_append, List.foldl_cons, List.foldl_nil, ih, redPair_assoc assoc]

theorem redAll_cons (assoc : RedAssoc sub) (v : Option FV) (l : List (Option FV)) :
    redAll sub (v :: l) = redPair sub v (redAll sub l) := by
  rw [← List.singleton_append, redAll_append assoc]
  rfl

theorem redAll_replicate (n : Nat) : redAll sub (List.replicate n none) = none := by
  induction n with
  | zero => rfl
  | succ n ih => exact ih

theorem redLevel_length : ∀ l : List (Option FV), (redLevel sub l).length = (l.length + 1) / 2
  | [] => rfl
  | [_] => by simp [redLevel]
  | a :: b :: t => by
    rw [redLevel, List.length_cons, redLevel_length t, List.length_cons, List.length_cons]
    omega

/-- A level of the tree keeps the combination. -/
theorem redAll_level (assoc : RedAssoc sub) : ∀ l : List (Option FV),
    redAll sub (redLevel sub l) = redAll sub l
  | [] => rfl
  | [_] => rfl
  | a :: b :: t => by
    rw [redLevel, redAll_cons assoc, redAll_level assoc t, redAll_cons assoc, redAll_cons assoc, redPair_assoc assoc]

/-- Where the order has no effect, the tree combines from left to right. -/
theorem redTree_eq (assoc : RedAssoc sub) (d : Nat) {l : List (Option FV)} (h : l.length = 2 ^ d) :
    redTree sub d l = redAll sub l := by
  induction d generalizing l with
  | zero =>
    obtain ⟨v, rfl⟩ := List.length_eq_one_iff.mp h
    exact (none_redPair (sub := sub) v).symm
  | succ d ih =>
    have level : redTree sub (d + 1) l = redTree sub d (redLevel sub l) := by
      unfold redTree
      rw [List.range_succ_eq_map, List.foldl_cons, List.foldl_map]
    rw [level, ih (by rw [redLevel_length, h, pow_succ]; omega), redAll_level assoc]

/-! ### The steps of RED along the line -/

section
variable {x : VD} {k : Core}

/-- The terms of a chunk of the line. -/
def Core.chunkTerms (k : Core) (x : VD) (t : Nat) : List (Option FV) :=
  (List.range (min 256 (x.e0 - t * 256))).map fun j => redTerm x.sub (k.src x.o0 (t * 256 + j))

/-- The running value after the first chunks of the line. -/
def Core.lineRun (k : Core) (x : VD) : Nat → Option FV
  | 0 => none
  | t + 1 => redPair x.sub (k.lineRun x t)
      (redTree x.sub 8 (k.chunkTerms x t ++ List.replicate (256 - min 256 (x.e0 - t * 256)) none))

/-- The running values that RED keeps after the first chunks of the line. -/
def Core.kept (k : Core) (x : VD) (t : Nat) : List (Option FV) := if t = 0 then [] else [k.lineRun x t]

theorem Core.kept_head (t : Nat) : ((k.kept x t)[0]?).getD none = k.lineRun x t := by
  unfold Core.kept
  split
  · next zero => rw [zero]; rfl
  · rfl

/-- One more step of RED. -/
theorem Core.vPieces_succ (op : x.op = 8) (key t : Nat) (run : List (Option FV)) :
    let r := k.redStep x key t (k.vPieces x key 0 t run).2
    k.vPieces x key 0 (t + 1) run =
      ((k.vPieces x key 0 t run).1 ++ if (t + 1) % x.redSteps = 0 then [(x.outPiece t, k.vPieceVals x key r (x.outPiece t))] else [], r) := by
  unfold Core.vPieces
  dsimp only
  rw [Nat.sub_zero, List.range_succ, List.foldl_append, List.foldl_cons, List.foldl_nil, if_pos op, Nat.zero_add, Nat.sub_zero]
  by_cases last : (t + 1) % x.redSteps = 0
  · rw [if_pos last, if_pos (.inr last)]
  · rw [if_neg last, if_neg (not_or.mpr ⟨not_not.mpr op, last⟩), List.append_nil]

theorem VD.redSteps_eq (axis : x.raxis = 0) : x.redSteps = x.cpl := by
  unfold VD.redSteps
  rw [axis]
  rfl

variable (line : x.OneLine) (axis : x.raxis = 0) (plain : x.o0.Plain)
include line axis plain

/-- A step of RED takes a chunk into the running value. -/
theorem VD.OneLine.redStep_eq (key : Nat) {t : Nat} (h : t < x.cpl) : k.redStep x key t (k.kept x t) = [k.lineRun x (t + 1)] := by
  have term (i : Nat) : k.redAt x key (x.linePiece t) i = redTerm x.sub (k.src x.o0 i) := by
    unfold Core.redAt VD.linePiece
    dsimp only
    rw [if_pos (line.active_eq _), VOpd.off_zero, Core.vElem_plain plain]
  have restart : (if t % x.redSteps = 0 then [] else k.kept x t) = k.kept x t := by
    rw [VD.redSteps_eq axis, Nat.mod_eq_of_lt h]
    split
    · next zero => rw [zero]; rfl
    · rfl
  have chunk : x.chunk = 256 := if_pos line.ct
  unfold Core.redStep
  rw [line.stepAt_eq (.inr axis) h]
  dsimp only
  rw [restart, if_pos axis, if_pos line.ct, Core.kept_head, chunk]
  simp only [term]
  rfl

/-- Before its last chunk RED gives no value. -/
theorem VD.OneLine.redRun_eq (op : x.op = 8) (key : Nat) {t : Nat} (h : t < x.cpl) : k.vPieces x key 0 t [] = ([], k.kept x t) := by
  induction t with
  | zero => rfl
  | succ t ih =>
    rw [Core.vPieces_succ op, ih (by omega), line.redStep_eq axis plain key (by omega), VD.redSteps_eq axis, Nat.mod_eq_of_lt h, if_neg (by omega)]
    rfl

/-- RED along the line gives one value, after the last chunk. -/
theorem VD.OneLine.redPieces_eq (op : x.op = 8) (key : Nat) (some_ : 0 < x.e0) :
    (k.vPieces x key 0 x.chunks []).1 = [(⟨0, 0, 0, 0, 0, 1⟩, [.val ((k.lineRun x x.cpl).getD (redEmpty x.sub))], 0)] := by
  obtain ⟨t, last⟩ : ∃ t, x.cpl = t + 1 := Nat.exists_eq_add_one.mpr (by rw [line.cpl_eq, cdiv]; omega)
  have out : x.outPiece t = ⟨0, 0, 0, 0, 0, 1⟩ := by
    unfold VD.outPiece
    rw [line.stepAt_eq (.inr axis) (by omega), if_neg (not_not.mpr op), VD.linePiece]
    dsimp only
    rw [if_pos axis]
    simp
  rw [line.chunks_eq, last, Core.vPieces_succ op, line.redRun_eq axis plain op key (by omega), line.redStep_eq axis plain key (by omega), VD.redSteps_eq axis,
    last, Nat.mod_self, if_pos rfl, out]
  unfold Core.vPieceVals
  rw [if_pos op]
  rfl

/-- What RED along the line leaves in an FP32 target: the code of its value. -/
theorem VD.OneLine.red_word (op : x.op = 8) (key : Nat) (some_ : 0 < x.e0) (fmt : x.d.fmt = 0) {m : List Host.Cell} (w : twf 0 m = true) {k' : Core}
    (hk : k'.mem = setBytes m (gatherBytes (k.vecPart x key 0 x.chunks []).bytes)) :
    k'.word32 x.d.addr = toF ((k.lineRun x x.cpl).getD (redEmpty x.sub)) := by
  have pieces := line.redPieces_eq axis plain (k := k) op key some_
  generalize (k.lineRun x x.cpl).getD (redEmpty x.sub) = v at pieces
  have bytes : (k.vecPart x key 0 x.chunks []).bytes = (k.vPieceOut x key ⟨0, 0, 0, 0, 0, 1⟩ ([v].map .val, 0)).bytes := by
    unfold Core.vecPart
    dsimp only
    rw [if_neg (by omega), if_neg (by rw [fmt]; decide), pieces]
    exact List.append_nil _
  rw [bytes, Core.vPieceOut_fp32 fmt] at hk
  refine gathered_word (n := 1) (code := fun _ => toF32 v) (i := 0) w (fun e he => ?_) (fun i b hi hb => ?_) one_pos hk
  · obtain ⟨j, b, c, hc, hb, at_⟩ := (Core.vPlain_mem fmt ⟨rfl, rfl, rfl⟩ [toF32 v]).mp he
    obtain ⟨lt, rfl⟩ := List.getElem?_eq_some_iff.mp hc
    obtain rfl : j = 0 := Nat.lt_one_iff.mp lt
    exact ⟨0, b, one_pos, hb, at_⟩
  · obtain rfl : i = 0 := Nat.lt_one_iff.mp hi
    have lt : b < (toBytes 4 (toF32 v)).length := by rwa [toBytes_length]
    exact ⟨(x.d.addr + 4 * 0 + b, (toBytes 4 (toF32 v))[b]), (Core.vPlain_mem fmt ⟨rfl, rfl, rfl⟩ [toF32 v]).mpr
      ⟨0, b, _, rfl, List.getElem?_eq_getElem lt, rfl⟩, rfl⟩

end

/-! ### What the reductions give -/

/-- The values that take part, combined from left to right. -/
theorem foldl_redPair_some (sub : Nat) (l : List FV) (m : FV) : (l.map some).foldl (redPair sub) (some m) = some (l.foldl (redOp sub) m) := by
  induction l generalizing m with
  | nil => rfl
  | cons v l ih => exact ih (redOp sub m v)

/-- Values that all take part, NaN giving way to the first. -/
theorem redAll_some {sub : Nat} {g : FV → FV → FV} (own : redOp sub = g) (nan : ∀ v, g .nan v = v) {l : List FV} (some_ : l ≠ []) (z : FV) :
    (redAll sub (l.map some)).getD z = l.foldl g .nan := by
  subst own
  cases l with
  | nil => exact absurd rfl some_
  | cons v l =>
    rw [List.foldl_cons, nan, redAll, List.map_cons, List.foldl_cons, none_redPair, foldl_redPair_some]
    rfl

/-- The largest magnitude, NaN ignored (R181). -/
theorem redAll_amax {l : List FV} (proper : ∀ v ∈ l, FV.Proper v) :
    (redAll 4 (l.map (redTerm 4))).getD (.fin false 0) = l.foldl (fun m v => fvMax m v.abs) (.fin false 0) := by
  have from_ (l : List FV) : ∀ o : Option FV, (∀ v ∈ l, FV.Proper v) →
      ((l.map (redTerm 4)).foldl (redPair 4) o).getD (.fin false 0) = l.foldl (fun m v => fvMax m v.abs) (o.getD (.fin false 0)) := by
    induction l with
    | nil => exact fun _ _ => rfl
    | cons v l ih =>
      intro o proper
      have step : (redPair 4 o (redTerm 4 v)).getD (.fin false 0) = fvMax (o.getD (.fin false 0)) v.abs := by
        by_cases isNan : v.isNan = true
        · obtain rfl : v = .nan := by cases v with
            | nan => rfl
            | inf s => cases isNan
            | fin s m => cases isNan
          rw [show redTerm 4 .nan = none from rfl, redPair_none]
          exact (fvMax_nan _).symm
        · rw [show redTerm 4 v = some v.abs from if_neg isNan]
          cases o with
          | none => exact (fvMax_zero_abs (Bool.eq_false_iff.mpr isNan) (proper v (.head _))).symm
          | some m => rfl
      rw [List.map_cons, List.foldl_cons, List.foldl_cons, ih _ fun w hw => proper w (.tail _ hw), step]
  exact from_ l none proper

section
variable {x : VD} {k : Core}

/-- Where the order has no effect, RED combines the terms from left to right. -/
theorem Core.lineRun_eq (assoc : RedAssoc x.sub) (t : Nat) :
    k.lineRun x t = redAll x.sub ((List.range (min x.e0 (256 * t))).map fun i => redTerm x.sub (k.src x.o0 i)) := by
  induction t with
  | zero => rw [Nat.mul_zero, Nat.min_zero]; rfl
  | succ t ih =>
    have size : (k.chunkTerms x t ++ List.replicate (256 - min 256 (x.e0 - t * 256)) none).length = 2 ^ 8 := by
      rw [List.length_append, Core.chunkTerms, List.length_map, List.length_range, List.length_replicate]
      omega
    have terms : (List.range (min x.e0 (256 * (t + 1)))).map (fun i => redTerm x.sub (k.src x.o0 i)) =
        (List.range (min x.e0 (256 * t))).map (fun i => redTerm x.sub (k.src x.o0 i)) ++ k.chunkTerms x t := by
      rw [show min x.e0 (256 * (t + 1)) = min x.e0 (256 * t) + min 256 (x.e0 - t * 256) by omega, List.range_add, List.map_append, List.map_map]
      refine congrArg _ (List.map_congr_left fun j hj => ?_)
      rw [List.mem_range] at hj
      rw [Function.comp, show min x.e0 (256 * t) + j = t * 256 + j by omega]
    rw [Core.lineRun, redTree_eq assoc 8 size, redAll_append assoc, redAll_replicate, redPair_none, ih, terms, redAll_append assoc]

/-- RED of the whole line. -/
theorem VD.OneLine.lineRun_all (line : x.OneLine) (assoc : RedAssoc x.sub) :
    k.lineRun x x.cpl = redAll x.sub ((List.range x.e0).map fun i => redTerm x.sub (k.src x.o0 i)) := by
  rw [Core.lineRun_eq assoc, show min x.e0 (256 * x.cpl) = x.e0 by rw [line.cpl_eq, cdiv]; omega]

variable (line : x.OneLine)
include line

/-- The largest of the elements. -/
theorem VD.OneLine.red_max (sub : x.sub = 2) (some_ : 0 < x.e0) :
    (k.lineRun x x.cpl).getD (redEmpty x.sub) = (List.range x.e0).foldl (fun m i => fvMax m (k.src x.o0 i)) .nan := by
  rw [line.lineRun_all (by rw [sub]; exact fvMax_assoc), sub, ← List.foldl_map (f := k.src x.o0) (g := fvMax),
    ← redAll_some (sub := 2) (g := fvMax) rfl nan_fvMax (by simpa using some_.ne') (redEmpty 2), List.map_map]
  rfl

/-- The smallest of the elements. -/
theorem VD.OneLine.red_min (sub : x.sub = 3) (some_ : 0 < x.e0) :
    (k.lineRun x x.cpl).getD (redEmpty x.sub) = (List.range x.e0).foldl (fun m i => fvMin m (k.src x.o0 i)) .nan := by
  rw [line.lineRun_all (by rw [sub]; exact fvMin_assoc), sub, ← List.foldl_map (f := k.src x.o0) (g := fvMin),
    ← redAll_some (sub := 3) (g := fvMin) rfl nan_fvMin (by simpa using some_.ne') (redEmpty 3), List.map_map]
  rfl

/-- The largest magnitude of the elements. -/
theorem VD.OneLine.red_amax (sub : x.sub = 4) :
    (k.lineRun x x.cpl).getD (redEmpty x.sub) = (List.range x.e0).foldl (fun m i => fvMax m (k.src x.o0 i).abs) (.fin false 0) := by
  have proper : ∀ v ∈ (List.range x.e0).map (k.src x.o0), FV.Proper v := fun v hv => by
    obtain ⟨i, -, rfl⟩ := List.mem_map.mp hv
    exact k.src_proper _ _
  rw [line.lineRun_all (by rw [sub]; exact fvMax_assoc), sub, ← List.foldl_map (f := k.src x.o0) (g := fun m v => fvMax m v.abs), ← redAll_amax proper,
    List.map_map]
  rfl

/-- The sum of two elements is rounded once. -/
theorem VD.OneLine.red_sum (sub : x.sub = 0) (two : x.e0 = 2) :
    (k.lineRun x x.cpl).getD (redEmpty x.sub) = fp32.round (fvAdd (k.src x.o0 0) (k.src x.o0 1)) := by
  have one : x.cpl = 1 := by rw [line.cpl_eq, two]; rfl
  rw [one, Core.lineRun, Core.chunkTerms, two, sub]
  rfl

end

end Sys2Proof.Machine
end

section
/-! PROOF. Matrix passes and vector descriptors (O20): the rows put together. -/

namespace Sys2Proof.Machine

/-! ### The rows of the vector engine -/

section
variable {s : State} {c : CoreNo} {n : Nat} {x : Ctx} {j : VJob} {q : List VJob}

/-- The rows of the vector engine and the operation that each runs. -/
def vectorRows (c : CoreNo) : List (Instr × Nat) :=
  [(.vecCvt c [], 0), (.vecAdd c [], 1), (.vecMul c [], 2), (.vecFma c [], 3), (.vecMin c [], 4), (.vecMax c [], 5), (.vecCmp c [], 6), (.vecSel c [], 7),
    (.vecRed c [], 8)]

/-- Each row runs the head of the queue, where it names the operation of the row. -/
theorem exec_vectorRow : ∀ f ∈ vectorRows c, exec f.1 s = .next (s.runVector c f.2 []) := by
  unfold vectorRows
  simp only [List.forall_mem_cons]
  exact ⟨rfl, rfl, rfl, rfl, rfl, rfl, rfl, rfl, rfl, fun _ mem => absurd mem List.not_mem_nil⟩

/-- What a row of the vector engine does with the head of the queue. -/
theorem vectorRow {i : Instr} {op : Nat} (row : exec i s = .next (s.runVector c op [])) (wf : s.wf = true) (ctx : s.ctxOf c = some (n, x))
    (running : x.st = .running) (clocks : s.pwr.coreClocks = true) (head : (s.core c).vq = j :: q) :
    let d := vdOf j.desc.words
    (d.op ≠ op ∨ j.done = true → exec i s = .next s) ∧
    (∀ a, d.op = op → j.done = false → (s.core c).vecPoison d j.next d.chunks = some a →
      exec i s = .next (s.ctxFault n { cause := 0x11, pc := j.pc, mask := j.mask, slot := j.slot, arg2 := a, core := c.val })) ∧
    (d.op = op → j.done = false → (s.core c).poison = [] →
      let r := (s.core c).vecPart d j.rkey j.next d.chunks j.run
      ∃ t, exec i s = .next t ∧ (t.core c).vq = j.ran r :: q ∧
        (∀ a, (∀ b ∈ gatherBytes r.bytes, ¬ (b.1 ≤ a ∧ a < b.1 + b.2.length)) → tget 0 (t.core c).mem a = tget 0 (s.core c).mem a) ∧
        (∀ a l, gatherBytes r.bytes = [(a, l)] → tgetMany 0 (t.core c).mem a l.length = l)) := by
  intro d
  rw [row]
  refine ⟨fun other => by rw [runVector_idle ctx head other], fun a own fresh poison => by rw [runVector_poison ctx running clocks head own fresh poison],
    fun own fresh clean => ?_⟩
  intro r
  obtain ⟨queue, mem⟩ := runVector_clean ctx running clocks head own fresh wf clean
  have w := (State.wf_core wf c).mem
  refine ⟨_, rfl, queue, fun a off => ?_, fun a l one => ?_⟩
  · rw [mem]
    exact setBytes_off _ w off
  · rw [mem, one]
    refine tgetMany_setBytes w rfl fun i hi => ⟨fun u hu _ => ?_, (a, l), .head _, ?_⟩
    · obtain rfl := List.mem_singleton.mp hu
      rw [Nat.add_sub_cancel_left]
    · exact ⟨Nat.le_add_right _ _, Nat.add_lt_add_left hi _⟩

/-! ### One line of FP32 elements -/

section
variable (wf : s.wf = true) (ctx : s.ctxOf c = some (n, x)) (running : x.st = .running) (clocks : s.pwr.coreClocks = true)
  (head : (s.core c).vq = j :: q) (fresh : j.done = false) (start : j.next = 0) (empty : j.run = []) (clean : (s.core c).poison = [])
  {i : Instr} {op : Nat} (row : exec i s = .next (s.runVector c op [])) (own : (vdOf j.desc.words).op = op)
include wf ctx running clocks head fresh start empty clean row own

/-- A descriptor that has not begun runs as a whole. -/
theorem vectorRow_mem : ∃ t, exec i s = .next t ∧
    (t.core c).mem = setBytes (s.core c).mem (gatherBytes ((s.core c).vecPart (vdOf j.desc.words) j.rkey 0 (vdOf j.desc.words).chunks []).bytes) := by
  obtain ⟨-, mem⟩ := runVector_clean ctx running clocks head own fresh wf clean
  rw [start, empty] at mem
  exact ⟨_, row, mem⟩

/-- A row of the engine that works element by element leaves the codes of its results. -/
theorem elementRow (line : (vdOf j.desc.words).OneLine) (op8 : op ≠ 8) (op6 : op ≠ 6) (fmt : (vdOf j.desc.words).d.fmt = 0) {v : Nat → FV}
    (vals : ∀ key i, toF32 ((s.core c).lineVal (vdOf j.desc.words) key i) = toF32 (v i)) :
    ∃ t, exec i s = .next t ∧ ∀ i, i < (vdOf j.desc.words).e0 → (t.core c).word32 ((vdOf j.desc.words).d.addr + 4 * i) = toF (v i) := by
  obtain ⟨t, run, mem⟩ := vectorRow_mem wf ctx running clocks head fresh start empty clean row own
  refine ⟨t, run, fun i hi => ?_⟩
  rw [line.word_eq j.rkey (by rwa [own]) (by rwa [own]) fmt (State.wf_core wf c).mem mem hi]
  exact congrArg (BitVec.ofNat 32) (vals _ i)

end

end

end Sys2Proof.Machine
end

section
open Sys2Proof Sys2Proof.Machine

/-- Settles O20: the rows of the matrix passes, what the passes compute, the rows of the vector engine, and their results on one line. -/
theorem passesAndVectorWork : Obligations.PassesAndVectorWork := by
  unfold Obligations.PassesAndVectorWork
  refine ⟨fun s c n x wf ctx running issues => ⟨fun q p head => ⟨fun busy bad => passStart_waits ctx running issues head busy bad,
      fun free fresh => passStart_free ctx running issues head wf free fresh⟩,
      fun k p pass streams first => ?_, fun k p gr pass ended first slot serial => passComplete_leaves wf ctx pass ended first slot serial⟩,
    ⟨fun v g h => windowStep_perm v, ?_, fun gs => ⟨passWin_nan, passWin_opposite, passWin_inf, passWin_fin⟩, fun p v z sg r => Pair.fold_exact,
      fun k x errs w apart bound => Core.foldPass_pairs errs w apart bound,
      fun s c n y i p wf ctx clocks pass streams first clean narrow alone reads => passEnd_writes wf ctx clocks pass streams first clean narrow alone reads⟩,
    ?_, ?_⟩
  · have clocks : s.pwr.coreClocks = true := by
      unfold State.issues at issues
      exact (Bool.and_eq_true_iff.mp issues).1
    exact ⟨passEnd_bad ctx clocks pass streams first, passEnd_plain ctx clocks pass streams first wf⟩
  · intro gs small sum
    have window := window_int gs 0 none nofun small (by simpa using sum)
    have cast (g : List Int) : g.flatMap (fun c : Int => [(c : Rat)]) = g.map Int.cast := List.map_eq_flatMap.symm
    simpa [cast, Function.comp_def] using window
  · intro s c n x j q wf ctx running clocks head
    refine ⟨fun f mem => vectorRow (exec_vectorRow f mem) wf ctx running clocks head, fun gr done uncounted unmeasured slot serial =>
      vectorDescComplete_leaves wf ctx head done uncounted unmeasured slot serial⟩
  · intro s c n x j q wf ctx running clocks head fresh start empty clean d src plain a b ct mpol e1 e2 e3 p0
    have line : d.OneLine := ⟨ct, mpol, e1, e2, e3⟩
    refine ⟨?_, fun own sub p1 => ?_, fun own axis fmt => ?_⟩
    · have element {i : Instr} {op : Nat} (row : exec i s = .next (s.runVector c op [])) (own : d.op = op) :=
        elementRow wf ctx running clocks head fresh start empty clean row own line
      simp only [List.forall_mem_cons]
      refine ⟨fun own fmt _ _ => element rfl own (by decide) (by decide) fmt fun key i => congrArg toF32 (VD.OneLine.cvt_val key i p0 own),
        fun own fmt p1 _ => element rfl own (by decide) (by decide) fmt fun key i => line.add_val key i p0 own (p1 (by decide)),
        fun own fmt p1 _ => element rfl own (by decide) (by decide) fmt fun key i => line.mul_val key i p0 own (p1 (by decide)),
        fun own fmt p1 p2 => element rfl own (by decide) (by decide) fmt fun key i => line.fma_val key i p0 own (p1 (by decide)) (p2 trivial),
        fun own fmt p1 _ => element rfl own (by decide) (by decide) fmt fun key i => line.min_val key i p0 own (p1 (by decide)),
        fun own fmt p1 _ => element rfl own (by decide) (by decide) fmt fun key i => line.max_val key i p0 own (p1 (by decide)),
        fun own fmt p1 _ => element rfl own (by decide) (by decide) fmt fun key i => congrArg toF32 (line.sel_val key i p0 own (p1 (by decide))),
        fun _ mem => absurd mem List.not_mem_nil⟩
    · obtain ⟨t, run, mem⟩ := vectorRow_mem wf ctx running clocks head fresh start empty clean (i := .vecCmp c []) rfl own
      refine ⟨t, run, fun i hi => ?_⟩
      rw [mem]
      exact line.cmp_bit j.rkey own sub p0 p1 (State.wf_core wf c).mem hi
    · obtain ⟨t, run, mem⟩ := vectorRow_mem wf ctx running clocks head fresh start empty clean (i := .vecRed c []) rfl own
      have word := line.red_word axis p0 own j.rkey (Nat.succ_pos _) fmt (State.wf_core wf c).mem mem
      refine ⟨t, run, fun sub => ?_, fun sub => ?_, fun sub => ?_, fun sub two => ?_⟩
      · rw [word, line.red_max sub (Nat.succ_pos _)]
        rfl
      · rw [word, line.red_min sub (Nat.succ_pos _)]
        rfl
      · rw [word, line.red_amax sub]
        rfl
      · rw [word, line.red_sum sub two]
        exact congrArg (BitVec.ofNat 32) (toF32_round (FV.proper_add _ _))

end

section
/-! PROOF. The decode checks of R150 (O11). -/

namespace Sys2Proof.Machine

variable {s : State} {c : CoreNo} {g : SlotNo} {w : W64} {e : IEnv} {u : Uses}

/-- A word that fails a decode check faults before its body runs (R150, R168). -/
theorem Fetches.issue_fault {opc cause : Nat} (h : Fetches s c g w opc e) (bad : decodeCheck u e.x.nreg w = some cause) (body : IEnv → State → State) :
    s.issue c g w opc u body = e.fault cause 0 s := by
  obtain ⟨ctx, running, issues, ⟨gr, top, rest, slot, ready, pop, paths, pc, act⟩, lanes, core, place, word, opcode, fetch⟩ := h
  obtain ⟨ec, eg, en, ex, egr, epc, ew, eact, eex⟩ := e
  simp only at *
  subst core place word paths pc act lanes
  unfold State.issue
  rw [ctx, slot]
  simp [running, ready, issues, opcode, pop, fetch, bad]

/-- Every instruction of a group issues its word under the opcode and the fields of its row (Table 7.3). -/
theorem exec_threadForm : ∀ f ∈ threadForms c g w, ∃ body, exec f.1 s = .next (s.issue c g w f.2.1 f.2.2 body) := by
  have sreg : sregUse w = if (wImm w % 256 == 0x10 || wImm w % 256 == 0x11) = true then .pair else .reg := by simp [sregUse]
  unfold threadForms
  simp only [List.forall_mem_append, List.forall_mem_cons, List.not_mem_nil, false_implies, implies_true, and_true, sreg]
  repeat' apply And.intro
  all_goals exact ⟨_, rfl⟩

theorem threadForm_opcode : ∀ f ∈ threadForms c g w, listedOpc f.2.1 = true :=
  List.all_eq_true.mp (show ((threadForms c g w).all fun f => listedOpc f.2.1) = true from rfl)

/-! ### The checks in their order -/

theorem decodeCheck_unlisted (n : Nat) (unlisted : u.listed = false) : decodeCheck u n w = some 0x01 :=
  if_pos (.inr (by simp [unlisted]))

section
variable (opcode : listedOpc (wOpc w) = true) (listed : u.listed = true) (n : Nat)
include opcode listed

theorem decodeCheck_reserved (bad : formReserved u.form w = true ∨ (u.fields w).any fieldReserved = true ∨ wGm w = 3 ∨ (wGm w = 0 ∧ wPg w ≠ 0) ∨
    (u.bare = true ∧ wGm w ≠ 0)) : decodeCheck u n w = some 0x02 := by
  unfold decodeCheck
  rw [if_neg (by simp [opcode, listed])]
  split
  · rfl
  · next sound =>
    rw [Bool.or_eq_true, not_or] at sound
    rw [if_pos ((bad.resolve_left sound.1).resolve_left sound.2)]
    rfl

theorem decodeCheck_range (form : formReserved u.form w = false) (fields : (u.fields w).any fieldReserved = false) (gm : wGm w ≠ 3)
    (pg : wGm w = 0 → wPg w = 0) (free : u.bare = false) (range : (u.fields w).any (fieldRange n) = true) : decodeCheck u n w = some 0x03 := by
  unfold decodeCheck
  rw [if_neg (by simp [opcode, listed]), if_neg (by simp [form, fields]), if_neg (by simp [gm, free]; exact pg), if_pos range]
  rfl

end

end Sys2Proof.Machine

open Sys2Proof Sys2Proof.Machine

/-- Settles O11: each instruction issues under its row's fields, and the checks of R150 come before its body. -/
theorem decodeChecksFault : Obligations.DecodeChecksFault := by
  unfold Obligations.DecodeChecksFault
  intro s c g w e f mem h
  have opcode : listedOpc (wOpc w) = true := by
    rw [h.opcode]
    exact threadForm_opcode f mem
  obtain ⟨body, run⟩ := exec_threadForm (s := s) f mem
  have fault {cause : Nat} (bad : decodeCheck f.2.2 e.x.nreg w = some cause) : exec f.1 s = .next (e.fault cause 0 s) := by
    rw [run, h.issue_fault bad]
  have reserved (listed : f.2.2.listed = true) := fun bad => fault (decodeCheck_reserved opcode listed e.x.nreg bad)
  refine ⟨fun unlisted => fault (decodeCheck_unlisted _ unlisted), fun listed gm => reserved listed (.inr (.inr (.inl gm))),
    fun listed bare gm => reserved listed (.inr (.inr (.inr (.inr ⟨bare, gm⟩)))), fun listed form => reserved listed (.inl form),
    fun listed field => reserved listed (.inr (.inl (List.any_eq_true.mpr field))),
    fun listed gm pg => reserved listed (.inr (.inr (.inr (.inl ⟨gm, pg⟩)))),
    fun listed form fields gm pg free range => fault (decodeCheck_range opcode listed _ form fields gm pg free range)⟩

end

section
/-! PROOF. What the integer instructions compute, on words (O8; R152): the model's functions on numbers against the operations on words. -/

namespace Sys2Proof.Machine

/-! ### Words and numbers -/

theorem sext_toNat {n : Nat} (a : BitVec (n + 1)) : sext (n + 1) a.toNat = a.toInt := by
  have lt := a.isLt
  unfold sext
  rw [Nat.mod_eq_of_lt lt, BitVec.toInt_eq_toNat_cond, Nat.add_sub_cancel, Nat.pow_succ]
  dsimp only
  split <;> split
  · rfl
  · omega
  · omega
  · rfl

theorem sext32_toNat (a : W32) : sext 32 a.toNat = a.toInt := sext_toNat a

theorem ofNat_toNat_emod (x : Int) : BitVec.ofNat 32 (x % (2 ^ 32 : Int)).toNat = BitVec.ofInt 32 x :=
  BitVec.eq_of_toNat_eq (by
    rw [BitVec.toNat_ofNat, BitVec.toNat_ofInt]
    exact Nat.mod_eq_of_lt ((Int.toNat_lt (Int.emod_nonneg _ (by decide))).mpr (Int.emod_lt_of_pos _ (by decide))))

theorem ofNat_toInt (a : W32) : BitVec.ofInt 32 a.toInt = a := BitVec.ofInt_toInt

theorem vImm_eq (w : W64) : BitVec.ofNat 32 (wImm w) = vImm w :=
  BitVec.eq_of_toNat_eq (by simp [wImm, vImm, fld])

theorem vImm_toNat (w : W64) : (vImm w).toNat = wImm w := by simp [wImm, vImm, fld]

/-! ### Arithmetic -/

theorem ofNat_sub32 (a b : W32) : BitVec.ofNat 32 (a.toNat + (2 ^ 32 - b.toNat)) = a - b := by
  have := b.isLt
  exact BitVec.eq_of_toNat_eq (by simp only [BitVec.toNat_ofNat, BitVec.toNat_sub]; omega)

theorem ofNat_sub64 (a b : W64) : BitVec.ofNat 64 (a.toNat + (2 ^ 64 - b.toNat)) = a - b := by
  have := b.isLt
  exact BitVec.eq_of_toNat_eq (by simp only [BitVec.toNat_ofNat, BitVec.toNat_sub]; omega)

theorem imulOf_low (a b : W32) : BitVec.ofNat 32 (imulOf 0 a.toNat b.toNat) = a * b := by simp [imulOf, BitVec.ofNat_mul]

theorem high_of_emod (x : Int) : x / (2 ^ 32 : Int) % (2 ^ 32 : Int) = x % (2 ^ 64 : Int) / (2 ^ 32 : Int) := by
  have pos : (0 : Int) ≤ 2 ^ 32 := by decide
  have wide : (2 ^ 64 : Int) = 2 ^ 32 * 2 ^ 32 := rfl
  rw [wide, Int.emod_def x, ← Int.ediv_ediv_of_nonneg pos, Int.mul_assoc, sub_eq_add_neg, ← Int.mul_neg,
    Int.add_mul_ediv_left _ _ (show (2 ^ 32 : Int) ≠ 0 by decide), Int.emod_def, sub_eq_add_neg]

/-- The high half of a word's product modulo 2^64. -/
theorem ofNat_high (p : W64) (x : Int) (h : p = BitVec.ofInt 64 x) : BitVec.ofNat 32 (x / (2 ^ 32 : Int) % (2 ^ 32 : Int)).toNat = p.extractLsb' 32 32 := by
  subst h
  obtain ⟨n, whole⟩ := Int.eq_ofNat_of_zero_le (Int.emod_nonneg x (show (2 ^ 64 : Int) ≠ 0 by decide))
  refine BitVec.eq_of_toNat_eq ?_
  rw [high_of_emod, BitVec.toNat_ofNat, BitVec.extractLsb'_toNat, BitVec.toNat_ofInt, Nat.shiftRight_eq_div_pow]
  show (x % (2 ^ 64 : Int) / (2 ^ 32 : Int)).toNat % _ = (x % (2 ^ 64 : Int)).toNat / _ % _
  rw [whole]
  rfl

theorem imulOf_signed (a b : W32) : BitVec.ofNat 32 (imulOf 1 a.toNat b.toNat) = ((a.signExtend 64) * (b.signExtend 64)).extractLsb' 32 32 := by
  show BitVec.ofNat 32 (sext 32 a.toNat * sext 32 b.toNat / (2 ^ 32 : Int) % (2 ^ 32 : Int)).toNat = _
  rw [sext32_toNat, sext32_toNat]
  refine ofNat_high _ _ ?_
  rw [BitVec.ofInt_mul]
  rfl

theorem imulOf_unsigned (a b : W32) : BitVec.ofNat 32 (imulOf 2 a.toNat b.toNat) = ((a.zeroExtend 64) * (b.zeroExtend 64)).extractLsb' 32 32 := by
  have lt : a.toNat * b.toNat < 2 ^ 64 := by have := Nat.mul_lt_mul'' a.isLt b.isLt; omega
  refine BitVec.eq_of_toNat_eq ?_
  have ha := a.isLt
  have hb := b.isLt
  simp only [imulOf, BitVec.toNat_ofNat, BitVec.extractLsb'_toNat, BitVec.toNat_mul, BitVec.toNat_setWidth, Nat.shiftRight_eq_div_pow,
    Nat.mod_eq_of_lt (show a.toNat < 2 ^ 64 by omega), Nat.mod_eq_of_lt (show b.toNat < 2 ^ 64 by omega), Nat.mod_eq_of_lt lt]

theorem toNat_eq_zero (a : W32) : a.toNat = 0 ↔ a = 0 := by
  rw [← BitVec.toNat_inj]
  rfl

theorem idivOf_signed (a b : W32) : BitVec.ofNat 32 (idivOf 0 a.toNat b.toNat) = if b = 0 then 0xFFFFFFFF else a.sdiv b := by
  unfold idivOf
  simp only [toNat_eq_zero]
  split
  · rfl
  · rw [sext32_toNat, sext32_toNat, ofNat_toNat_emod]
    exact BitVec.eq_of_toInt_eq ((BitVec.toInt_ofInt ..).trans (BitVec.toInt_sdiv a b).symm)

theorem idivOf_unsigned (a b : W32) : BitVec.ofNat 32 (idivOf 1 a.toNat b.toNat) = if b = 0 then 0xFFFFFFFF else a / b := by
  unfold idivOf
  simp only [toNat_eq_zero]
  split
  · rfl
  · refine BitVec.eq_of_toNat_eq ?_
    rw [BitVec.toNat_ofNat, Nat.mod_eq_of_lt (Nat.lt_of_le_of_lt (Nat.div_le_self _ _) a.isLt)]
    rfl

theorem idivOf_srem (a b : W32) : BitVec.ofNat 32 (idivOf 2 a.toNat b.toNat) = a.srem b := by
  unfold idivOf
  simp only [toNat_eq_zero]
  split
  · next zero => simp [zero]
  · rw [sext32_toNat, sext32_toNat, ofNat_toNat_emod, ← BitVec.toInt_srem, ofNat_toInt]

theorem idivOf_rem (a b : W32) : BitVec.ofNat 32 (idivOf 3 a.toNat b.toNat) = a % b := by
  unfold idivOf
  simp only [toNat_eq_zero]
  split
  · next zero => simp [zero]
  · refine BitVec.eq_of_toNat_eq ?_
    rw [BitVec.toNat_ofNat, Nat.mod_eq_of_lt (Nat.lt_of_le_of_lt (Nat.mod_le _ _) a.isLt)]
    rfl

/-! ### Orders, bits and shifts, for each MOD -/

/-- A statement about MOD, one row of the table at a time. -/
theorem forall_le_three {p : Nat → Prop} (h0 : p 0) (h1 : p 1) (h2 : p 2) (h3 : p 3) : ∀ m ≤ 3, p m
  | 0, _ => h0
  | 1, _ => h1
  | 2, _ => h2
  | 3, _ => h3

theorem iminmaxOf_eq (a b : W32) : ∀ m ≤ 3, BitVec.ofNat 32 (iminmaxOf m a.toNat b.toNat) =
    if m = 0 then (if a.sle b then a else b) else if m = 1 then (if a.sle b then b else a)
    else if m = 2 then (if a.ule b then a else b) else (if a.ule b then b else a) := by
  have signed : (sext 32 a.toNat ≤ sext 32 b.toNat) = (a.sle b = true) := by
    rw [sext32_toNat, sext32_toNat, BitVec.sle_iff_toInt_le]
  have unsigned : a.ule b = decide (a.toNat ≤ b.toNat) := rfl
  refine forall_le_three ?_ ?_ ?_ ?_
  · simp only [iminmaxOf, signed]
    split <;> simp [*]
  · simp only [iminmaxOf, signed]
    split <;> simp [*]
  · simp only [iminmaxOf, unsigned, Nat.min_def, decide_eq_true_eq]
    split <;> simp [*]
  · simp only [iminmaxOf, unsigned, Nat.max_def, decide_eq_true_eq]
    split <;> simp [*]

theorem lopOf_eq (a b : W32) : ∀ m ≤ 3, BitVec.ofNat 32 (lopOf m a.toNat b.toNat) =
    if m = 0 then a &&& b else if m = 1 then a ||| b else if m = 2 then a ^^^ b else a &&& ~~~b := by
  refine forall_le_three ?_ ?_ ?_ ?_
  · simp [lopOf, BitVec.ofNat_and]
  · simp [lopOf, BitVec.ofNat_or]
  · simp [lopOf, BitVec.ofNat_xor]
  · have flip : ~~~b = b ^^^ BitVec.ofNat 32 allOnes32 := BitVec.xor_allOnes.symm
    simp [lopOf, BitVec.ofNat_and, BitVec.ofNat_xor, flip]

theorem shfOf_eq (a b : W32) : ∀ m ≤ 2, BitVec.ofNat 32 (shfOf m a.toNat b.toNat) =
    if m = 0 then a <<< (b.toNat % 32) else if m = 1 then a >>> (b.toNat % 32) else a.sshiftRight (b.toNat % 32)
  | 0, _ => BitVec.eq_of_toNat_eq (by simp [shfOf])
  | 1, _ => BitVec.eq_of_toNat_eq (by
      have := Nat.div_le_self a.toNat (2 ^ (b.toNat % 32))
      simp [shfOf, Nat.shiftRight_eq_div_pow]
      omega)
  | 2, _ => by
    simp only [shfOf, sext32_toNat, ofNat_toNat_emod]
    exact congrArg (BitVec.ofInt 32) (Int.shiftRight_eq_div_pow _ _).symm

theorem popCount_eq (a : W32) : BitVec.ofNat 32 (bitsOf 0 a.toNat) = BitVec.ofNat 32 ((List.range 32).filter fun i => a.getLsbD i).length := rfl

/-- The sum that BITS reverses with, over the low bits first: its bits so far. -/
theorem reverse_upTo (a : Nat) : ∀ n ≤ 32, ∃ k, (maskList n a).foldl (fun r i => r + 2 ^ (31 - i)) 0 = 2 ^ (32 - n) * k ∧
    ∀ j, (2 ^ (32 - n) * k).testBit j = (decide (32 - n ≤ j ∧ j < 32) && a.testBit (31 - j))
  | 0, _ => ⟨0, rfl, fun j => by simp⟩
  | n + 1, le => by
    obtain ⟨k, sum, bits⟩ := reverse_upTo a n (by omega)
    have place : 32 - n = (31 - n) + 1 := by omega
    have half : 2 ^ (32 - n) * k = 2 ^ (31 - n) * (2 * k) := by rw [place, Nat.pow_succ, Nat.mul_assoc]
    rw [show 32 - (n + 1) = 31 - n by omega, maskList, List.range_succ, List.filter_append, List.foldl_append]
    change (maskList n a).foldl _ _ = _ at sum
    rw [maskList] at sum
    rw [sum]
    cases on : a.testBit n with
    | false =>
      refine ⟨2 * k, by simp [on, half], fun j => ?_⟩
      rw [← half, bits]
      by_cases h : j = 31 - n
      · subst h
        simp [show 31 - (31 - n) = n by omega, on]
      · congr 2
        exact propext (by omega)
    | true =>
      refine ⟨2 * k + 1, by simp [on, half, Nat.mul_add], fun j => ?_⟩
      rw [Nat.mul_add, ← half, Nat.mul_one, Nat.two_pow_add_eq_or_of_lt (Nat.pow_lt_pow_right (by omega) (by omega)), Nat.testBit_or, bits, Nat.testBit_two_pow]
      by_cases h : j = 31 - n
      · subst h
        simp [show 31 - (31 - n) = n by omega, on]
        omega
      · rw [decide_eq_false (Ne.symm h), Bool.or_false]
        congr 2
        exact propext (by omega)

theorem reverse_eq (a : W32) : BitVec.ofNat 32 (bitsOf 2 a.toNat) = a.reverse := by
  obtain ⟨k, sum, bits⟩ := reverse_upTo a.toNat 32 (Nat.le_refl _)
  refine BitVec.eq_of_getLsbD_eq fun j hj => ?_
  show (BitVec.ofNat 32 ((maskList 32 a.toNat).foldl _ 0)).getLsbD j = _
  rw [sum, BitVec.getLsbD_ofNat, bits, BitVec.getLsbD_reverse, BitVec.getMsbD]
  simp [hj, BitVec.getLsbD]

theorem leading_eq (a : W32) : bitsOf 1 a.toNat = if a = 0 then 32 else 31 - Nat.log2 a.toNat := by
  simp only [bitsOf, toNat_eq_zero]

end Sys2Proof.Machine
end

section
/-! PROOF. The integer instructions (O8): each row's result and the pair it may fill. -/

namespace Sys2Proof.Machine

variable {s : State} {c : CoreNo} {g : SlotNo} {w : W64} {e : IEnv} {opc : Nat} {u : Uses}

/-! ### Registers that a word names (R147, R150) -/

/-- Every field of a word that passes the decode checks is in range. -/
theorem Issues.field (h : Issues s c g w opc u e) {q : FieldUse × Nat} (mem : q ∈ u.fields w) : fieldRange e.x.nreg q = false ∧ fieldReserved q = false := by
  have ok := h.decode
  unfold decodeCheck at ok
  split at ok
  · cases ok
  · split at ok
    · cases ok
    · next sound =>
      split at ok
      · cases ok
      · split at ok
        · cases ok
        · next range =>
          rw [Bool.or_eq_true, not_or] at sound
          exact ⟨Bool.eq_false_iff.mpr fun bad => range (List.any_eq_true.mpr ⟨q, mem, bad⟩),
            Bool.eq_false_iff.mpr fun bad => sound.2 (List.any_eq_true.mpr ⟨q, mem, bad⟩)⟩

/-- A pair starts at an even register, so it fits in the register file of its lane. -/
theorem Issues.pair_fits (h : Issues s c g w opc u e) (mem : (.pair, wD w) ∈ u.fields w) : wD e.w + 1 < 256 := by
  rw [h.word]
  have even := (h.field mem).1
  have lt := wD_lt w
  simp only [fieldRange, Bool.or_eq_false_iff, bne_eq_false_iff_eq] at even
  omega

/-- A predicate is one of eight. -/
theorem Issues.pred_fits (h : Issues s c g w opc u e) (mem : (.pred, wD w) ∈ u.fields w) : wD e.w < 8 := by
  rw [h.word]
  have low := (h.field mem).2
  simp only [fieldReserved, decide_eq_false_iff_not] at low
  omega

theorem Group.pair_toNat (x : Group) (l r : Nat) : (x.reg l (r + 1) ++ x.reg l r).toNat = x.pair l r := by
  have lt := (x.reg l r).isLt
  rw [BitVec.toNat_append, Nat.shiftLeft_eq, Nat.mul_comm, ← Nat.two_pow_add_eq_or_of_lt lt, Group.pair, Nat.add_comm]

theorem IEnv.vPA_toNat (e : IEnv) (l : Nat) : (e.vPA l).toNat = e.pA l := e.gr.pair_toNat l _
theorem IEnv.vPB_toNat (e : IEnv) (l : Nat) : (e.vPB l).toNat = e.pB l := e.gr.pair_toNat l _

/-! ### Rows -/

/-- A row with a 32-bit result per lane. -/
theorem Writes32.row {i : Instr} {u' : Uses} {f : IEnv → Nat → Nat} {v : Nat → W32} (h : Issues s c g w opc u e)
    (run : exec i s = s.alu32 c g w opc u' f) (fields : u' = u) (value : ∀ l ∈ e.ex, BitVec.ofNat 32 (f e l) = v l) : Writes32 i s e v :=
  .of h (by rw [run, fields]; rfl) value

theorem State.alu64_narrow (m : wMod w = 0) (nb : Bool) (f : Nat → Nat → Nat) : s.alu64 c g w opc nb f =
    s.alu32 c g w opc (u3 true .reg (if nb then .reg else .no) .no) fun e l => f (e.rA l) (e.rB l) := by
  unfold State.alu64 State.alu32
  simp [m]

theorem State.alu64_wide (m : wMod w = 1) (nb : Bool) (f : Nat → Nat → Nat) : s.alu64 c g w opc nb f =
    .next (s.issue c g w opc (u3 true .pair (if nb then .pair else .no) .no .pair) fun e s => e.lanes64 (fun l => f (e.pA l) (e.pB l)) s) := by
  unfold State.alu64
  simp [m]

/-- A row of registers under MOD 0. -/
theorem Writes32.row64 {i : Instr} {nb : Bool} {f : Nat → Nat → Nat} {v : Nat → W32} (m : wMod w = 0)
    (h : Issues s c g w opc (u3 true .reg (if nb then .reg else .no) .no) e) (run : exec i s = s.alu64 c g w opc nb f)
    (value : ∀ l, BitVec.ofNat 32 (f (e.rA l) (e.rB l)) = v l) : Writes32 i s e v :=
  .row h (run.trans (State.alu64_narrow m nb f)) rfl fun l _ => value l

/-- The same row of pairs under MOD 1. -/
theorem Writes64.row {i : Instr} {nb : Bool} {f : Nat → Nat → Nat} {v : Nat → W64} (m : wMod w = 1)
    (h : Issues s c g w opc (u3 true .pair (if nb then .pair else .no) .no .pair) e) (run : exec i s = s.alu64 c g w opc nb f)
    (value : ∀ l, BitVec.ofNat 64 (f (e.pA l) (e.pB l)) = v l) : Writes64 i s e v :=
  .of h (h.pair_fits (.head _)) (run.trans (State.alu64_wide m nb f)) fun l _ => value l

theorem Issues.residue (h : Issues s c g w opc u e) : s.residueFail c g w opc u = .next (if e.ex = [] then e.retire e.gr s else e.fault 0x12 0 s) := by
  unfold State.residueFail
  rw [State.issue_of h]
  simp only [List.isEmpty_iff]

/-- Stated apart, since the fields of these rows hang on whether B is one. -/
theorem exec_isub : exec (.isub c g w false) s = s.alu64 c g w 0x03 true fun a b => if wMod w = 1 then a + (2 ^ 64 - b) else a + (2 ^ 32 - b) := rfl

theorem exec_mov : exec (.mov c g w) s = s.alu64 c g w 0x0D false fun a _ => a := rfl

end Sys2Proof.Machine

open Sys2Proof Sys2Proof.Machine

/-- Settles O8: each row runs `alu32` or `alu64`, and what it computes on numbers is the operation on words. -/
theorem integerInstructions : Obligations.IntegerInstructions := by
  unfold Obligations.IntegerInstructions
  refine ⟨fun s c g w e => ⟨?_, ?_, ?_, ?_, ?_, ?_, ?_, ?_, ?_, ?_, ?_, ?_, ?_, ?_⟩, fun s c g w e => ⟨?_, ?_, ?_, ?_, ?_, ?_, ?_, ?_, ?_, ?_, ?_⟩⟩
  · exact fun m h => .row64 m h rfl fun l => by rw [BitVec.ofNat_add]; simp [IEnv.rA, IEnv.rB, IEnv.vA, IEnv.vB]
  · exact fun m h => .row m h rfl fun l => by rw [BitVec.ofNat_add, ← e.vPA_toNat, ← e.vPB_toNat]; simp
  · exact fun m h => .row h rfl (by rw [m]; rfl) fun l _ => by rw [BitVec.ofNat_add, vImm_eq]; simp [IEnv.rA, IEnv.vA]
  · exact fun m h => .row64 m h exec_isub fun l => by rw [if_neg (by rw [m]; exact Nat.zero_ne_one)]; exact ofNat_sub32 (e.vA l) (e.vB l)
  · exact fun m h => .row m h exec_isub fun l => by rw [if_pos m, ← e.vPA_toNat, ← e.vPB_toNat]; exact ofNat_sub64 _ _
  · exact fun m h => .row h rfl (by rw [m]; rfl) fun l _ => by rw [m]; exact imulOf_low _ _
  · exact fun m h => .row h rfl (by rw [m]; rfl) fun l _ => by rw [m]; exact imulOf_signed _ _
  · exact fun m h => .row h rfl (by rw [m]; rfl) fun l _ => by rw [m]; exact imulOf_unsigned _ _
  · exact fun m h => .row h rfl (by rw [m]; rfl) fun l _ => by rw [BitVec.ofNat_add, BitVec.ofNat_mul]; simp [IEnv.rA, IEnv.rB, IEnv.rC, IEnv.vA, IEnv.vB, IEnv.vC]
  · exact fun m h => .row h rfl (by rw [m]; rfl) fun l _ => by rw [m]; exact idivOf_signed _ _
  · exact fun m h => .row h rfl (by rw [m]; rfl) fun l _ => by rw [m]; exact idivOf_unsigned _ _
  · exact fun m h => .row h rfl (by rw [m]; rfl) fun l _ => by rw [m]; exact idivOf_srem _ _
  · exact fun m h => .row h rfl (by rw [m]; rfl) fun l _ => by rw [m]; exact idivOf_rem _ _
  · intro i opc u
    simp only [List.mem_cons, List.not_mem_nil, or_false, Prod.mk.injEq]
    rintro (⟨rfl, rfl, rfl⟩ | ⟨rfl, rfl, rfl⟩ | ⟨rfl, rfl, rfl⟩ | ⟨rfl, rfl, rfl⟩ | ⟨rfl, rfl, rfl⟩) h <;> exact h.residue
  · exact fun m h => .row h rfl (by rw [decide_eq_true m]) fun l _ => iminmaxOf_eq _ _ _ m
  · exact fun m h => .row h rfl (by rw [decide_eq_true m]) fun l _ => lopOf_eq _ _ _ m
  · exact fun m h => .row h rfl (by rw [decide_eq_true m]) fun l _ => by rw [← vImm_toNat]; exact lopOf_eq _ _ _ m
  · exact fun m h => .row h rfl (by rw [decide_eq_true m]) fun l _ => shfOf_eq _ _ _ m
  · exact fun m h => .row h rfl (by rw [m]; rfl) fun l _ => by rw [m]; exact popCount_eq _
  · exact fun m h => .row h rfl (by rw [m]; rfl) fun l _ => by rw [m]; exact congrArg _ (leading_eq _)
  · exact fun m h => .row h rfl (by rw [m]; rfl) fun l _ => by rw [m]; exact reverse_eq _
  · exact fun m h => .row h rfl (by rw [m]; rfl) fun l _ => vImm_eq w
  · exact fun m h => .row64 m h exec_mov fun l => BitVec.ofNat_toNat ..
  · exact fun m h => .row m h exec_mov fun l => by rw [← e.vPA_toNat]; exact BitVec.ofNat_toNat ..
  · exact fun m h => .row h rfl (by rw [m]; rfl) fun l _ => by split <;> exact BitVec.ofNat_toNat ..

end

section
/-! PROOF. FP32, paired and converting instructions (O9; R152, R153). -/

namespace Sys2Proof

theorem FFmt.mag_nonneg (f : FFmt) (c : Nat) : 0 ≤ f.mag c := by
  unfold FFmt.mag
  dsimp only
  split <;> exact mul_nonneg (Nat.cast_nonneg _) (pow2_pos _).le

end Sys2Proof

namespace Sys2Proof.Machine

/-! ### Halves -/

theorem decode_proper (f : FFmt) (c : Nat) : FV.Proper (f.decode c) := by
  intro s m h
  have mag := f.mag_nonneg c
  unfold FFmt.decode at h
  dsimp only at h
  repeat' split at h
  all_goals cases h
  · exact le_refl _
  all_goals exact mag

theorem halfRound_lt {f : FFmt} {k : Nat} {x : Int} (top : f.Top k x) (bits : f.bits = 16) {v : FV} (h : FV.Proper v) : halfRound f v < 2 ^ 16 :=
  bits ▸ top.encode_lt false .rne h

theorem hopHalf_lt {f : FFmt} {k : Nat} {x : Int} (top : f.Top k x) (bits : f.bits = 16) (op a b d : Nat) : hopHalf f op a b d < 2 ^ 16 := by
  refine halfRound_lt top bits ?_
  have own := decode_proper f
  split
  · exact FV.proper_add _ _
  · exact FV.proper_mul (own a) (own b)
  · exact FV.proper_add _ _

theorem ofNat_halves {lo : Nat} (h : lo < 2 ^ 16) (hi : Nat) : BitVec.ofNat 32 (lo + 65536 * hi) = BitVec.ofNat 16 hi ++ BitVec.ofNat 16 lo := by
  refine BitVec.eq_of_toNat_eq ?_
  simp only [BitVec.toNat_append, BitVec.toNat_ofNat, Nat.shiftLeft_eq, Nat.mod_eq_of_lt h]
  rw [Nat.mul_comm (hi % 2 ^ 16), ← Nat.two_pow_add_eq_or_of_lt h]
  have split := Nat.mod_mul (x := lo + 2 ^ 16 * hi) (a := 2 ^ 16) (b := 2 ^ 16)
  rw [Nat.add_mul_mod_self_left, Nat.add_mul_div_left _ _ (by decide), Nat.mod_eq_of_lt h, Nat.div_eq_of_lt h, Nat.zero_add] at split
  exact split.trans (Nat.add_comm _ _)

theorem toNat_low (a : W32) : (a.extractLsb' 0 16).toNat = a.toNat % 65536 := by simp

theorem toNat_high (a : W32) : (a.extractLsb' 16 16).toNat = a.toNat / 65536 := by
  rw [BitVec.extractLsb'_toNat, Nat.shiftRight_eq_div_pow]
  exact Nat.mod_eq_of_lt (Nat.div_lt_of_lt_mul a.isLt)

/-- HOP2 is its two halves, each by itself (R152). -/
theorem hop2Of_eq (m : Nat) (a b d : W32) :
    let f := if m % 2 = 0 then bf16 else fp16
    let half := fun x y z : W16 => BitVec.ofNat 16 (hopHalf f (m / 2) x.toNat y.toNat z.toNat)
    BitVec.ofNat 32 (hop2Of m a.toNat b.toNat d.toNat) =
      half (a.extractLsb' 16 16) (b.extractLsb' 16 16) (d.extractLsb' 16 16) ++ half (a.extractLsb' 0 16) (b.extractLsb' 0 16) (d.extractLsb' 0 16) := by
  intro f half
  have lt (op x y z : Nat) : hopHalf f op x y z < 2 ^ 16 := by
    unfold f
    split
    · exact hopHalf_lt bf16_top rfl op x y z
    · exact hopHalf_lt fp16_top rfl op x y z
  unfold half hop2Of
  rw [toNat_high, toNat_high, toNat_high, toNat_low, toNat_low, toNat_low]
  exact ofNat_halves (lt _ _ _ _) _

/-! ### Immediates and XFN -/

theorem ofF_vImm (w : W64) : ofF (vImm w) = f32 (wImm w) := by rw [ofF, vImm_toNat]

theorem xfnOf_nan {m a : Nat} (h : f32 a = .nan) (other : m ≠ 4) : xfnOf m a = 0x7FC00000 := by
  unfold xfnOf
  rw [if_neg other, h]
  rfl

/-! ### CVT -/

/-- CVT writes its codes and adds its counts to those that wait in the context (R153). -/
theorem exec_cvt_writes {s : State} {c : CoreNo} {g : SlotNo} {w : W64} {e : IEnv} (m : wMod w ≤ 3) (src : wC w / 16 ≤ 6) (dst : wC w % 16 ≤ 6)
    (h : Issues s c g w 0x20 (u3 true .reg (if wMod w % 2 = 1 then .reg else .no) .raw) e) :
    ∃ rs x, exec (.cvt c g w) s = .next ((e.retire { e.gr with regs := rs } s).setCtx e.n (some x)) ∧
      (∀ l ∈ e.ex, ({ e.gr with regs := rs } : Group).reg l (wD w) =
        BitVec.ofNat 32 (cvtOf (wMod w) (wC w) (e.vA l).toNat (e.vB l).toNat).code) ∧
      x.clips = e.x.clips + (e.ex.map fun l => (cvtOf (wMod w) (wC w) (e.vA l).toNat (e.vB l).toNat).clip).sum ∧
      x.nans = e.x.nans + (e.ex.map fun l => (cvtOf (wMod w) (wC w) (e.vA l).toNat (e.vB l).toNat).nan).sum := by
  obtain ⟨rs, fold, regs⟩ := Group.foldl_setReg (wD e.w) (fun l => (cvtOf (wMod w) (wC w) (e.rA l) (e.rB l)).code) (wD_lt _) e.ex e.gr
  have ok : (decide (wMod w ≤ 3) && decide (wC w / 16 ≤ 6) && decide (wC w % 16 ≤ 6)) = true := by simp [m, src, dst]
  have row : (e.retire { e.gr with regs := rs } s).ctx? e.n = s.ctx? e.n := rfl
  refine ⟨rs, { e.x with clips := e.x.clips + ((e.ex.map fun l => cvtOf (wMod w) (wC w) (e.rA l) (e.rB l)).map Enc.clip).sum,
                         nans := e.x.nans + ((e.ex.map fun l => cvtOf (wMod w) (wC w) (e.rA l) (e.rB l)).map Enc.nan).sum }, ?_, fun l mem => ?_, ?_, ?_⟩
  · show execCvt c g w s = _
    unfold execCvt
    rw [ok]
    dsimp only
    rw [State.issue_of h, IEnv.lanes32, fold, State.modCtx, row, State.ctx?_of_ctxOf h.ctx]
    rfl
  · rw [← h.word, regs l _ (wD_lt _), if_pos ⟨mem, rfl⟩, h.word]
    rfl
  · dsimp only
    rw [List.map_map]
    rfl
  · dsimp only
    rw [List.map_map]
    rfl

end Sys2Proof.Machine

open Sys2Proof Sys2Proof.Machine

/-- Settles O9: the FP32 rows are one conversion of the exact value of their operands, the others by their halves, codes and words. -/
theorem floatInstructions : Obligations.FloatInstructions := by
  unfold Obligations.FloatInstructions
  refine ⟨fun s c g w e => ⟨?_, ?_, ?_, ?_, ?_, ?_, ?_, ?_⟩, fun s c g w e => ⟨?_, ?_, ?_⟩⟩
  · exact fun m h => .row h rfl (by rw [m]; rfl) fun l _ => rfl
  · exact fun m h => .row h rfl (by rw [m]; rfl) fun l _ => rfl
  · exact fun m h => .row h rfl (by rw [m]; rfl) fun l _ => rfl
  · exact fun m h => .row h rfl (by rw [m]; rfl) fun l _ => by rw [ofF_vImm]; rfl
  · exact fun m h => .row h rfl (by rw [m]; rfl) fun l _ => by rw [ofF_vImm]; rfl
  · exact fun m h => .row h rfl (by rw [decide_eq_true m]) fun l _ => by split <;> rfl
  · exact fun m h => .row h rfl (by rw [m]; rfl) fun l _ => rfl
  · intro m h
    refine ⟨fun l => BitVec.ofNat 32 (xfnOf (wMod w) (e.rA l)), .row h rfl (by rw [decide_eq_true m]) fun l _ => rfl, fun root l => ?_, fun l nan other => ?_⟩
    · dsimp only
      rw [root]
      rfl
    · exact congrArg (BitVec.ofNat 32) (xfnOf_nan nan other)
  · exact fun m h => .row h rfl (by rw [decide_eq_true m]) fun l _ => hop2Of_eq (wMod w) (e.vA l) (e.vB l) (e.vC l)
  · exact fun m src dst h => exec_cvt_writes m src dst h
  · exact fun m h => .of h (by rw [← decide_eq_true m]; rfl) fun l _ => by rw [e.vPA_toNat]; rfl

end

section
/-! PROOF. SHFL, VOTE and the instructions that write a predicate (O10; R151, R152). -/

namespace Sys2Proof.Machine

/-! ### Lanes -/

theorem mem_maskList {n m l : Nat} : l ∈ maskList n m ↔ l < n ∧ m.testBit l = true := by simp [maskList]

section
variable {s : State} {c g : Nat} {w : W64} {e : IEnv} {opc : Nat} {u : Uses}

theorem Issues.mem_ex (h : Issues s c g w opc u e) {l : Nat} : l ∈ e.ex ↔ (l < 32 ∧ e.act.testBit l = true) ∧ guardOf e.gr w l = true := by
  rw [h.lanes, List.mem_filter, mem_maskList]

theorem Issues.lane_lt (h : Issues s c g w opc u e) {l : Nat} (mem : l ∈ e.ex) : l < 32 := (h.mem_ex.mp mem).1.1

end

theorem shflLane_lt (m l b : Nat) : shflLane m l b < 32 := by
  unfold shflLane
  split <;> exact Nat.mod_lt _ (by decide)

theorem shflLane_eq {l : Nat} (b : Nat) (lane : l < 32) : ∀ m ≤ 3, (shflLane m l b : Int) = if m = 0 then (b : Int) % 32
    else if m = 1 then ((l : Int) - b) % 32 else if m = 2 then ((l : Int) + b) % 32 else ((l ^^^ (b % 32) : Nat) : Int) := by
  refine forall_le_three ?_ ?_ ?_ ?_
  · simp [shflLane]
  · change (((l + 32 - b % 32) % 32 : Nat) : Int) = ((l : Int) - b) % 32
    omega
  · simp [shflLane]
  · have lt : l ^^^ (b % 32) < 32 := Nat.xor_lt_two_pow (n := 5) lane (Nat.mod_lt _ (by decide))
    simp [shflLane, Nat.mod_eq_of_lt lt]

/-! ### Conditions -/

theorem condOf_eq (m : Nat) (eq lt : Bool) (listed : m % 8 ≤ 5) : condOf m eq lt = holdsCond (m % 8) eq lt := by
  unfold condOf
  generalize m % 8 = n at listed
  match n with
  | 0 | 1 | 2 | 3 => rfl
  | 4 => cases lt <;> cases eq <;> rfl
  | 5 => rfl

theorem icmpFlag_eq (m : Nat) (a b : W32) (listed : m % 8 ≤ 5) :
    icmpFlag m a.toNat b.toNat = holdsCond (m % 8) (a == b) (if m / 8 = 1 then a.ult b else a.slt b) := by
  have same : (a.toNat == b.toNat) = (a == b) := by rw [Bool.eq_iff_iff, beq_iff_eq, beq_iff_eq, BitVec.toNat_inj]
  unfold icmpFlag
  rw [sext32_toNat, sext32_toNat, same]
  split
  · exact condOf_eq _ _ _ listed
  · exact condOf_eq _ _ _ listed

theorem fcmpFlag_eq (m : Nat) (a b : W32) (listed : m % 8 ≤ 5) : fcmpFlag m a.toNat b.toNat =
    if (ofF a).isNan || (ofF b).isNan then decide (m / 8 = 1) else holdsCond (m % 8) (fvEq (ofF a) (ofF b)) (fvLt (ofF a) (ofF b)) :=
  ite_congr rfl (fun _ => rfl) fun _ => condOf_eq _ _ _ listed

theorem pcombFlag_eq (a b : Bool) : ∀ m ≤ 3, pcombFlag m a b = if m = 0 then a && b else if m = 1 then a || b else if m = 2 then a ^^ b else a && !b :=
  forall_le_three rfl rfl rfl rfl

/-! ### Rows -/

section
variable {s : State} {c : CoreNo} {g : SlotNo} {w : W64} {e : IEnv} {opc : Nat} {u : Uses}

/-- A row with a predicate result per lane. -/
theorem WritesPred.row {i : Instr} {u' : Uses} {f : IEnv → Nat → Bool} {v : Nat → Bool} (h : Issues s c g w opc u e) (mem : (.pred, wD w) ∈ u.fields w)
    (run : exec i s = s.aluP c g w opc u' f) (fields : u' = u) (value : ∀ l ∈ e.ex, f e l = v l) : WritesPred i s e v :=
  .of h (h.pred_fits mem) (by rw [run, fields]; rfl) value

theorem exec_shfl_reads (m : wMod w ≤ 3) (h : Issues s c g w 0x22 (u3 true .reg .reg .no) e) :
    ∃ rs, exec (.shfl c g w) s = .next (e.retire { e.gr with regs := rs } s).fresh ∧
      ∀ l ∈ e.ex, ∃ j, j < 32 ∧ (e.gr.exited.testBit j = false → ({ e.gr with regs := rs } : Group).reg l (wD w) = e.vA j) ∧
        (j : Int) = (if wMod w = 0 then ((e.vB l).toNat : Int) % 32 else if wMod w = 1 then ((l : Int) - (e.vB l).toNat) % 32
          else if wMod w = 2 then ((l : Int) + (e.vB l).toNat) % 32 else ((l ^^^ ((e.vB l).toNat % 32) : Nat) : Int)) := by
  obtain ⟨rs, fold, regs⟩ := Group.foldl_setReg (wD e.w) (fun l => let j := shflLane (wMod w) l (e.rB l)
    if e.gr.exited.testBit j then (Config.shflUndef s.rnd j).toNat else e.rA j) (wD_lt _) e.ex e.gr
  refine ⟨rs, ?_, fun l mem => ⟨shflLane (wMod w) l (e.rB l), shflLane_lt _ _ _, fun stays => ?_, shflLane_eq _ (h.lane_lt mem) _ m⟩⟩
  · show execShfl c g w s = _
    unfold execShfl
    rw [decide_eq_true m, State.issue_of h, IEnv.lanes32, fold]
  · rw [← h.word, regs l _ (wD_lt _), if_pos ⟨mem, rfl⟩, h.word]
    dsimp only
    rw [if_neg (by simp [stays])]
    exact BitVec.ofNat_toNat ..

theorem exec_vote_flag (m : wMod w ≤ 1) (h : Issues s c g w 0x23 (u3 true .pred .no .no .pred) e) :
    WritesPred (.vote c g w) s e fun _ => voteFlag (wMod w) (e.ex.map fun l => e.gr.pred l (wA w)) := by
  have other : wMod w ≠ 2 := by omega
  have listed : wMod w ≤ 2 := by omega
  refine .of (f := fun e _ => voteFlag (wMod w) (e.ex.map fun l => e.gr.pred l (wA w))) h (h.pred_fits (.head _)) ?_ fun _ _ => rfl
  show execVote c g w s = _
  unfold execVote
  simp [listed, other]

theorem exec_vote_mask (m : wMod w = 2) (h : Issues s c g w 0x23 (u3 true .pred .no .no .reg) e) :
    Writes32 (.vote c g w) s e fun _ => BitVec.ofNat 32 (maskOf (e.ex.filter fun l => e.gr.pred l (wA w))) := by
  refine .of (f := fun e _ => maskOf (e.ex.filter fun l => e.gr.pred l (wA w))) h ?_ fun _ _ => rfl
  show execVote c g w s = _
  unfold execVote
  simp [m]

end

end Sys2Proof.Machine

open Sys2Proof Sys2Proof.Machine

/-- Settles O10: SHFL's source lane, the votes over the executing lanes, and the conditions of the compares. -/
theorem laneAndPredicateInstructions : Obligations.LaneAndPredicateInstructions := by
  unfold Obligations.LaneAndPredicateInstructions
  refine fun s c g w e => ⟨exec_shfl_reads, fun m h => ?_, fun m h => ?_, fun m h => ⟨_, exec_vote_mask m h, fun i lt => ?_⟩, fun m h => ?_,
    fun m h => ?_, fun m h => ?_⟩
  · have all := exec_vote_flag (by omega) h
    simpa [m, voteFlag, Function.comp_def] using all
  · have any := exec_vote_flag (by omega) h
    simpa [m, voteFlag, Function.comp_def] using any
  · rw [BitVec.getLsbD_ofNat, testBit_maskOf]
    simp [lt, List.mem_filter]
  · exact .row h (.head _) rfl (by rw [decide_eq_true m]) fun l _ => icmpFlag_eq _ _ _ m
  · exact .row h (.head _) rfl (by rw [decide_eq_true m]) fun l _ => fcmpFlag_eq _ _ _ m
  · exact .row h (.head _) rfl (by rw [decide_eq_true m]) fun l _ => pcombFlag_eq _ _ _ m

end

section
/-! PROOF. BRA, BRX and CALL (O13; R154, R155). -/

namespace Sys2Proof.Machine

/-- A mask is empty where no lane is in it. -/
theorem maskOf_eq_zero {l : List Nat} : maskOf l = 0 ↔ l = [] := by
  refine ⟨fun zero => List.eq_nil_iff_forall_not_mem.mpr fun i mem => ?_, fun none => by rw [none]; rfl⟩
  have bit := testBit_maskOf l i
  rw [zero, Nat.zero_testBit, decide_eq_true mem] at bit
  cases bit

theorem foldl_push {α β : Type} (f : α → β) : ∀ (ts : List α) (ps : List β), ts.foldl (fun ps t => f t :: ps) ps = ts.reverse.map f ++ ps
  | [], _ => rfl
  | t :: ts, ps => by rw [List.foldl_cons, foldl_push f ts, List.reverse_cons, List.map_append, List.append_assoc]; rfl

/-- A pair written in every lane of a list reads back there. -/
theorem Group.setPairs_read (d : Nat) (f : Nat → Nat) (fits : d + 1 < 256) (ls : List Nat) (x : Group) :
    ∃ rs, ls.foldl (fun gr l => gr.setPair l d (f l)) x = { x with regs := rs } ∧
      ∀ l ∈ ls, ({ x with regs := rs } : Group).reg l (d + 1) ++ ({ x with regs := rs } : Group).reg l d = BitVec.ofNat 64 (f l) := by
  obtain ⟨rs, fold, regs⟩ := Group.foldl_setPair d f fits ls x
  refine ⟨rs, fold, fun l mem => ?_⟩
  have low := regs l d (by omega)
  have high := regs l (d + 1) fits
  rw [if_pos ⟨mem, rfl⟩] at low
  rw [if_neg (by omega), if_pos ⟨mem, rfl⟩] at high
  apply BitVec.eq_of_toNat_eq
  rw [Group.pair_toNat, Group.pair, low, high]
  simp only [BitVec.toNat_ofNat]
  omega

/-- The targets of BRX come in descending order, each once. -/
theorem IEnv.brxTargets_descend (e : IEnv) : e.brxTargets.Pairwise fun p q => q.1 < p.1 := by
  unfold IEnv.brxTargets
  dsimp only
  rw [List.pairwise_map]
  generalize hl : List.dedup (α := Nat) _ = l
  have nodup : (l.insertionSort fun a b => b ≤ a).Nodup := (List.perm_insertionSort _ l).nodup_iff.mpr (hl ▸ List.nodup_dedup _)
  have sorted : (l.insertionSort fun a b => b ≤ a).Pairwise fun a b => b ≤ a := List.pairwise_insertionSort _ l
  exact (nodup.and sorted).imp fun ⟨ne, le⟩ => Nat.lt_of_le_of_ne le (Ne.symm ne)

/-- Of several targets the last is the lowest. -/
theorem IEnv.brxTargets_lowest (e : IEnv) (several : 2 ≤ e.brxTargets.length) :
    ∃ a m more, e.brxTargets = more ++ [(a, m)] ∧ ∀ q ∈ more, a < q.1 := by
  have descend := e.brxTargets_descend
  obtain none | ⟨more, ⟨a, m⟩, split⟩ := List.eq_nil_or_concat e.brxTargets
  · rw [none] at several
    cases several
  · rw [split, List.concat_eq_append] at descend
    exact ⟨a, m, more, split.trans List.concat_eq_append, fun q mem => (List.pairwise_append.mp descend).2.2 q mem _ (List.mem_singleton.mpr rfl)⟩

section
variable {s : State} {c : CoreNo} {g : SlotNo} {w : W64} {e : IEnv}

/-- What a BRA that issues does. -/
theorem exec_bra (m : wMod w = 0) (h : Issues s c g w 0x60 { form := .fB, listed := true } e) :
    let t := maskOf e.ex
    let f := maskOf ((maskList 32 e.act).filter fun l => !e.ex.contains l)
    exec (.bra c g w) s = .next (
      if t = 0 then e.retire e.gr s
      else if f = 0 then e.retireAt e.gr (pcAdd e.pc (wTgt w)) s
      else if 32 < e.gr.paths.length + 2 then e.fault causeDiverge 0 s
      else match e.gr.paths with
        | top :: rest => e.retireAt { e.gr with paths := { pc := (e.pc + 8) % 2 ^ 64, mask := f, rpc := some (pcAdd e.pc (wRpcB w)) } ::
            { pc := pcAdd e.pc (wTgt w), mask := t, rpc := some (pcAdd e.pc (wRpcB w)) } :: { top with pc := pcAdd e.pc (wRpcB w) } :: rest } ((e.pc + 8) % 2 ^ 64) s
        | [] => s) := by
  show execBra c g w s = _
  unfold execBra
  rw [m]
  exact congrArg Host.Outcome.next (State.issue_of h _)

/-- What a BRX that issues does. -/
theorem exec_brx (m : wMod w = 0) (h : Issues s c g w 0x61 { form := .fX, listed := true, a := .pair } e) :
    exec (.brx c g w) s = .next (match e.ex.find? fun l => e.pA l % 8 ≠ 0 with
      | some l => e.fault causeAlign (e.pA l) s
      | none => match e.brxTargets with
        | [] => s
        | [t] => e.retireAt e.gr t.1 s
        | ts => if 32 < e.gr.paths.length + ts.length then e.fault causeDiverge 0 s
          else match e.gr.paths with
            | top :: rest =>
              let pushed := ts.foldl (fun ps t => { pc := t.1, mask := t.2, rpc := some (pcAdd e.pc (wRpcX w)) } :: ps) ({ top with pc := pcAdd e.pc (wRpcX w) } :: rest)
              e.retireAt { e.gr with paths := pushed } ((pushed.head?.map PathEnt.pc).getD e.pc) s
            | [] => s) := by
  show execBrx c g w s = _
  unfold execBrx
  rw [m]
  exact congrArg Host.Outcome.next (State.issue_of h _)

end

end Sys2Proof.Machine

open Sys2Proof Sys2Proof.Machine

/-- Settles O13: a mask is empty where its list of lanes is, BRX's targets descend, and CALL's pair reads back. -/
theorem branchInstructions : Obligations.BranchInstructions := by
  unfold Obligations.BranchInstructions
  refine fun s c g w e => ⟨fun m h => ?bra, fun m h => ?brx, fun m h => ?call⟩
  case bra =>
    dsimp only
    rw [exec_bra m h]
    simp only [maskOf_eq_zero]
    refine ⟨fun none => by rw [if_pos none], fun some all => by rw [if_neg some, if_pos all],
      fun some left deep => by rw [if_neg some, if_neg left, if_pos deep]; rfl, fun top rest some left fits paths => ?_⟩
    rw [if_neg some, if_neg left, if_neg (Nat.not_lt.mpr fits), paths]
  case brx =>
    rw [exec_brx m h]
    refine ⟨fun l off => by rw [off]; rfl, fun aligned => ?_⟩
    have sound : (e.ex.find? fun l => e.pA l % 8 ≠ 0) = none := List.find?_eq_none.mpr fun l mem => by rw [aligned l mem]; decide
    rw [sound]
    dsimp only
    refine ⟨fun a k one => by rw [one], fun top rest several fits paths => ?_, fun several deep => ?_⟩
    · obtain ⟨a, k, more, last, lowest⟩ := e.brxTargets_lowest several
      refine ⟨a, k, more, last, lowest, congrArg Host.Outcome.next ?_⟩
      generalize e.brxTargets = ts at several fits last
      match ts, several with
      | p :: q :: ts, _ =>
        dsimp only
        rw [if_neg (Nat.not_lt.mpr fits), paths]
        dsimp only
        rw [foldl_push fun t : Nat × Nat => ({ pc := t.1, mask := t.2, rpc := some (pcAdd e.pc (wRpcX w)) } : PathEnt), last, List.reverse_append]
        rfl
    · generalize e.brxTargets = ts at several deep
      match ts, several with
      | p :: q :: ts, _ => exact congrArg Host.Outcome.next (if_pos deep)
  case call =>
    obtain ⟨rs, fold, reads⟩ := Group.setPairs_read (wD w) (fun _ => (e.pc + 8) % 2 ^ 64) (h.word ▸ h.pair_fits (.head _)) e.ex e.gr
    refine ⟨rs, ?_, fun l mem => ?_⟩
    · show execCall c g w s = _
      unfold execCall
      rw [m]
      exact congrArg Host.Outcome.next ((State.issue_of h _).trans (congrArg (e.retireAt · _ s) fold))
    · rw [reads l mem]
      exact BitVec.eq_of_toNat_eq (by simp)

end

section
/-! PROOF. The groups of a core and of a block as one of them is written or a barrier releases them (R145, R156, R160). -/

namespace Sys2Proof.Machine

variable {s t u : State} {c g b n : Nat}

/-! ### Groups of a core -/

theorem State.group?_setGroup_at (w : twf {} s.cores = true) {x : Group} (hx : x.serial ≠ 0) (i : Nat) :
    (s.setGroup c g x).group? c i = if i = g then some x else s.group? c i := by
  unfold State.group?
  rw [State.core_setGroup w]
  exact afind?_tset _ _ _ (Group.ne_default hx)

/-- Core `c` has its blocks as before, and every core stands in canonical form. -/
structure State.SameBlocks (s t : State) (c : Nat) : Prop where
  cores : twf {} t.cores = true
  blocks : (t.core c).blocks = (s.core c).blocks

theorem State.SameBlocks.trans (h : s.SameBlocks t c) (k : t.SameBlocks u c) : s.SameBlocks u c := ⟨k.cores, k.blocks.trans h.blocks⟩

theorem State.sameBlocks_setGroup (w : twf {} s.cores = true) (x : Group) : s.SameBlocks (s.setGroup c g x) c :=
  ⟨State.setGroup_cores_wf w x, by rw [State.core_setGroup w]⟩

theorem State.sameBlocks_lastRetire (w : twf {} s.cores = true) (clock : Nat) : s.SameBlocks (s.modCore c fun k => { k with lastRetire := clock }) c :=
  ⟨State.modCore_cores_wf w _, by rw [State.core_modCore w]⟩

theorem State.group?_lastRetire (w : twf {} s.cores = true) (clock i : Nat) :
    (s.modCore c fun k => { k with lastRetire := clock }).group? c i = s.group? c i :=
  State.group?_congr (by rw [State.core_modCore w])

/-! ### Groups of a block -/

/-- The groups of a block are those that stand in its slots. -/
theorem Core.mem_blockGroups {k : Core} {bl : Block} (h : afind? k.blocks b = some bl) {p : Nat × Group} :
    p ∈ k.blockGroups b ↔ p.1 ∈ bl.slots ∧ afind? k.groups p.1 = some p.2 := by
  unfold Core.blockGroups
  rw [h]
  simp only [List.mem_filterMap, Option.map_eq_some_iff]
  constructor
  · rintro ⟨i, slot, x, found, rfl⟩
    exact ⟨slot, found⟩
  · rintro ⟨slot, found⟩
    exact ⟨p.1, slot, p.2, found, rfl⟩

/-- Each of them stands in its slot. -/
theorem State.blockGroups_stands {p : Nat × Group} (mem : p ∈ (s.core c).blockGroups b) : s.group? c p.1 = some p.2 := by
  cases found : afind? (s.core c).blocks b with
  | some bl => exact ((Core.mem_blockGroups found).mp mem).2
  | none =>
    unfold Core.blockGroups at mem
    rw [found] at mem
    cases mem

/-! ### Barriers -/

/-- Whether barrier `n` of the groups releases: one has arrived, and every one that has lanes. -/
def barrierOpen (gs : List (Nat × Group)) (n : Nat) : Bool :=
  (gs.any fun p => p.2.held == .barrier n) && gs.all fun p => p.2.live == 0 || p.2.held == .barrier n

theorem barrierOpen_iff {gs : List (Nat × Group)} :
    barrierOpen gs n = true ↔ (∃ p ∈ gs, p.2.held = .barrier n) ∧ ∀ p ∈ gs, p.2.live = 0 ∨ p.2.held = .barrier n := by
  simp only [barrierOpen, Bool.and_eq_true, List.any_eq_true, List.all_eq_true, Bool.or_eq_true, beq_iff_eq]

/-- The groups of a list that are held at barrier `n` go on. -/
def State.passBarrier (s : State) (c n : Nat) (gs : List (Nat × Group)) : State :=
  forEach gs s fun p s => if p.2.held = .barrier n then s.setGroup c p.1 p.2.release else s

theorem State.barrierCheck_eq (s : State) (c b n : Nat) : s.barrierCheck c b n =
    if barrierOpen ((s.core c).blockGroups b) n = true then
      (s.passBarrier c n ((s.core c).blockGroups b)).modCore c fun k => { k with lastRetire := s.clock }
    else s := rfl

theorem State.passBarrier_spec {s₀ : State} : ∀ (gs : List (Nat × Group)) {s : State}, twf {} s.cores = true →
    (∀ p ∈ gs, s₀.group? c p.1 = some p.2 ∧ p.2.serial ≠ 0) →
    s.SameBlocks (s.passBarrier c n gs) c ∧ ∀ i, (s.passBarrier c n gs).group? c i =
      if ∃ p ∈ gs, p.1 = i ∧ p.2.held = .barrier n then (s₀.group? c i).map Group.release else s.group? c i
  | [], s, w, _ => ⟨⟨w, rfl⟩, fun i => by simp [State.passBarrier, forEach]⟩
  | p :: gs, s, w, stands => by
    obtain ⟨found, serial⟩ := stands p (.head _)
    have cons : s.passBarrier c n (p :: gs) = (if p.2.held = .barrier n then s.setGroup c p.1 p.2.release else s).passBarrier c n gs := rfl
    rw [cons]
    by_cases held : p.2.held = .barrier n
    · rw [if_pos held]
      obtain ⟨same, groups⟩ := passBarrier_spec gs (State.setGroup_cores_wf w p.2.release) fun q mem => stands q (.tail _ mem)
      refine ⟨(State.sameBlocks_setGroup w _).trans same, fun i => ?_⟩
      rw [groups, State.group?_setGroup_at w (by simpa using serial)]
      by_cases at_ : i = p.1
      · subst at_
        have here : ∃ q ∈ p :: gs, q.1 = p.1 ∧ q.2.held = .barrier n := ⟨p, .head _, rfl, held⟩
        rw [if_pos rfl, if_pos here, found]
        exact ite_self _
      · rw [if_neg at_]
        refine if_congr ⟨fun ⟨q, mem, rest⟩ => ⟨q, .tail _ mem, rest⟩, ?_⟩ rfl rfl
        rintro ⟨q, mem, slot, rest⟩
        obtain rfl | mem := List.mem_cons.mp mem
        · exact absurd slot.symm at_
        · exact ⟨q, mem, slot, rest⟩
    · rw [if_neg held]
      obtain ⟨same, groups⟩ := passBarrier_spec gs w fun q mem => stands q (.tail _ mem)
      refine ⟨same, fun i => ?_⟩
      rw [groups]
      refine if_congr ⟨fun ⟨q, mem, rest⟩ => ⟨q, .tail _ mem, rest⟩, ?_⟩ rfl rfl
      rintro ⟨q, mem, slot, rest⟩
      obtain rfl | mem := List.mem_cons.mp mem
      · exact absurd rest held
      · exact ⟨q, mem, slot, rest⟩

/-- Every group of core `c` has a serial number. -/
def State.Serials (s : State) (c : Nat) : Prop := ∀ i x, s.group? c i = some x → x.serial ≠ 0

theorem State.serials_setGroup (w : twf {} s.cores = true) (all : s.Serials c) {x : Group} (hx : x.serial ≠ 0) : (s.setGroup c g x).Serials c := by
  intro i y found
  rw [State.group?_setGroup_at w hx] at found
  split at found
  · cases found
    exact hx
  · exact all i y found

/-- A barrier that does not release changes nothing; one that releases lets each group of the block that is held at it go on. -/
theorem State.barrierCheck_spec (w : twf {} s.cores = true) (all : s.Serials c) :
    s.SameBlocks (s.barrierCheck c b n) c ∧ ∀ i, (s.barrierCheck c b n).group? c i =
      if barrierOpen ((s.core c).blockGroups b) n = true ∧ ∃ p ∈ (s.core c).blockGroups b, p.1 = i ∧ p.2.held = .barrier n
      then (s.group? c i).map Group.release else s.group? c i := by
  rw [State.barrierCheck_eq]
  by_cases opens : barrierOpen ((s.core c).blockGroups b) n = true
  · rw [if_pos opens]
    obtain ⟨same, groups⟩ := State.passBarrier_spec (n := n) ((s.core c).blockGroups b) w fun p mem =>
      ⟨State.blockGroups_stands mem, all _ _ (State.blockGroups_stands mem)⟩
    refine ⟨same.trans (State.sameBlocks_lastRetire same.cores _), fun i => ?_⟩
    rw [State.group?_lastRetire same.cores, groups]
    exact if_congr (and_iff_right opens).symm rfl rfl
  · rw [if_neg opens]
    exact ⟨⟨w, rfl⟩, fun i => (if_neg fun h => opens h.1).symm⟩

end Sys2Proof.Machine

end

section
/-! PROOF. BAR, TWAIT, TRAP, YIELD, NOP, TREAD and SREG (O15; R148, R151, R159, R160). -/

namespace Sys2Proof.Machine

variable {s : State} {c : CoreNo} {g : SlotNo} {w : W64} {e : IEnv} {opc : Nat} {u : Uses}

/-! ### The group of an instruction that issues -/

theorem Issues.free (h : Issues s c g w opc u e) : e.gr.held = .no := by
  obtain ⟨gr, top, rest, -, held, -, paths, -, -⟩ := h.group
  rw [paths]
  exact held

theorem Issues.serials (_ : Issues s c g w opc u e) (wf : s.wf = true) : s.Serials c := fun _ _ found => (State.wf_group wf found).serial

/-- Its program counter is that of the top of its path stack. -/
theorem Issues.top_pc (h : Issues s c g w opc u e) : ∃ top rest, e.gr.paths = top :: rest ∧ e.pc = top.pc ∧ e.act = top.mask := by
  obtain ⟨gr, top, rest, -, -, -, paths, pc, act⟩ := h.group
  exact ⟨top, rest, by rw [paths], pc, act⟩

/-- The address of the next instruction of a group, as it goes on behind what held it. -/
theorem Group.release_pc (x : Group) : (x.release.paths.head?.map PathEnt.pc) = x.paths.head?.map fun q => (q.pc + 8) % 2 ^ 64 := by
  unfold Group.release
  cases x.paths <;> rfl

theorem Issues.release_pc (h : Issues s c g w opc u e) (held : Held) :
    (({ e.gr with held := held } : Group).release.paths.head?.map PathEnt.pc) = some ((e.pc + 8) % 2 ^ 64) := by
  obtain ⟨top, rest, paths, pc, -⟩ := h.top_pc
  rw [Group.release_pc, pc]
  exact congrArg (fun l : List PathEnt => l.head?.map fun q => (q.pc + 8) % 2 ^ 64) paths

/-! ### BAR -/

/-- The group of a BAR as it arrives at barrier `n`. -/
def IEnv.arrived (e : IEnv) (n : Nat) : Group := { e.gr with held := .barrier n }

theorem exec_bar (m : wMod w = 0) (h : Issues s c g w 0x64 { form := .fI, listed := true, bare := true } e) :
    exec (.bar c g w) s = .next (if e.gr.live ≠ e.act then e.fault causeBarrier 0 s
      else (s.setGroup c g (e.arrived (wImm w % 16))).barrierCheck c e.gr.block (wImm w % 16)) := by
  show execBar c g w s = _
  unfold execBar
  rw [m]
  refine (congrArg Host.Outcome.next (State.issue_of h _)).trans ?_
  rw [h.core, h.slot]
  rfl

section
variable {b : Block} {n : Nat} (wf : s.wf = true) (h : Issues s c g w opc u e) (found : afind? (s.core c).blocks e.gr.block = some b) (slot : g.val ∈ b.slots)
include wf h found slot

/-- The groups of its block as a group arrives: the others are as they were. -/
theorem Issues.mem_arrived {p : Nat × Group} : p ∈ ((s.setGroup c g (e.arrived n)).core c).blockGroups e.gr.block ↔
    p = (g.val, e.arrived n) ∨ p.1 ≠ g.val ∧ p ∈ (s.core c).blockGroups e.gr.block := by
  have w := State.wf_cores wf
  have serial : (e.arrived n).serial ≠ 0 := (h.canonical wf).serial
  have stands := State.group?_setGroup_at (g := g) (c := c) w serial p.1
  unfold State.group? at stands
  rw [Core.mem_blockGroups ((congrArg (afind? · _) (State.sameBlocks_setGroup w _).blocks).trans found), Core.mem_blockGroups found, stands]
  by_cases own : p.1 = g.val
  · rw [if_pos own, own]
    refine ⟨fun ⟨_, same⟩ => .inl (Prod.ext own (Option.some.inj same).symm), ?_⟩
    rintro (rfl | ⟨other, -⟩)
    · exact ⟨slot, rfl⟩
    · exact absurd rfl other
  · rw [if_neg own]
    exact ⟨fun both => .inr ⟨own, both⟩, fun | .inl same => absurd (congrArg Prod.fst same) own | .inr ⟨_, both⟩ => both⟩

theorem Issues.barrier_waits (late : ∃ p ∈ (s.core c).blockGroups e.gr.block, p.1 ≠ g.val ∧ p.2.live ≠ 0 ∧ p.2.held ≠ .barrier n) :
    (s.setGroup c g (e.arrived n)).barrierCheck c e.gr.block n = s.setGroup c g (e.arrived n) := by
  obtain ⟨p, mem, other, live, held⟩ := late
  rw [State.barrierCheck_eq]
  refine if_neg fun opens => ?_
  obtain dead | arrived := (barrierOpen_iff.mp opens).2 p ((h.mem_arrived wf found slot).mpr (.inr ⟨other, mem⟩))
  · exact live dead
  · exact held arrived

/-- Where every other group with lanes has arrived, each of them goes on. -/
theorem Issues.barrier_opens (all : ∀ p ∈ (s.core c).blockGroups e.gr.block, p.1 ≠ g.val → p.2.live = 0 ∨ p.2.held = .barrier n) :
    let t := (s.setGroup c g (e.arrived n)).barrierCheck c e.gr.block n
    t.group? c g = some (e.arrived n).release ∧
      ∀ p ∈ (s.core c).blockGroups e.gr.block, p.1 ≠ g.val → p.2.live ≠ 0 → t.group? c p.1 = some p.2.release := by
  have w := State.wf_cores wf
  have serial : (e.arrived n).serial ≠ 0 := (h.canonical wf).serial
  obtain ⟨-, groups⟩ := State.barrierCheck_spec (b := e.gr.block) (n := n) (State.setGroup_cores_wf (c := c) (g := g) w (e.arrived n))
    (State.serials_setGroup w (h.serials wf) serial)
  have own := (h.mem_arrived wf found slot (n := n)).mpr (.inl rfl)
  have opens : barrierOpen (((s.setGroup c g (e.arrived n)).core c).blockGroups e.gr.block) n = true := by
    refine barrierOpen_iff.mpr ⟨⟨_, own, rfl⟩, fun p mem => ?_⟩
    obtain rfl | ⟨other, mem⟩ := (h.mem_arrived wf found slot).mp mem
    · exact .inr rfl
    · exact all p mem other
  refine ⟨?_, fun p mem other live => ?_⟩
  · rw [groups, if_pos ⟨opens, _, own, rfl, rfl⟩, State.group?_setGroup_at w serial, if_pos rfl]
    rfl
  · rw [groups, if_pos ⟨opens, p, (h.mem_arrived wf found slot).mpr (.inr ⟨other, mem⟩), rfl, (all p mem other).resolve_left live⟩,
      State.group?_setGroup_at w serial, if_neg other, State.blockGroups_stands mem]
    rfl

end

/-! ### TWAIT, TRAP, YIELD and NOP -/

theorem exec_twait (m : wMod w = 0) (h : Issues s c g w 0x73 { form := .fI, listed := true } e) :
    exec (.twait c g w) s = .next (if e.ex = [] ∨ e.gr.token (wImm w % 16) ≤ wImm w / 256 % 256 then e.retire e.gr s
      else s.setGroup c g { e.gr with held := .token (wImm w % 16) (wImm w / 256 % 256) }) := by
  show execTwait c g w s = _
  unfold execTwait
  rw [m]
  refine (congrArg Host.Outcome.next (State.issue_of h _)).trans ?_
  simp only [h.core, h.slot, List.isEmpty_iff]

theorem exec_trap (m : wMod w = 0) (h : Issues s c g w 0x65 { form := .fI, listed := true } e) :
    exec (.trap c g w) s = .next (if e.ex = [] then e.retire e.gr s else e.fault causeTrap (wImm w % 65536) s) := by
  show execTrap c g w s = _
  unfold execTrap
  rw [m]
  refine (congrArg Host.Outcome.next (State.issue_of h _)).trans ?_
  simp only [List.isEmpty_iff]

theorem Issues.retired_pc (h : Issues s c g w opc u e) : ((e.retired e.gr).paths.head?.map PathEnt.pc) = some ((e.pc + 8) % 2 ^ 64) := by
  obtain ⟨top, rest, paths, -, -⟩ := h.top_pc
  rw [IEnv.retired_paths, Group.setTop_paths paths]
  rfl

/-- A YIELD that a lane executes marks its group. -/
theorem exec_yield (wf : s.wf = true) (m : wMod w = 0) (h : Issues s c g w 0x66 { form := .fR, listed := true } e) (some_ : e.ex ≠ []) :
    exec (.yield c g w) s = .next ((e.retire e.gr s).setGroup c g { e.retired e.gr with yielded := true }) := by
  show execYield c g w s = _
  unfold execYield
  rw [m]
  refine (congrArg Host.Outcome.next (State.issue_of h _)).trans ?_
  dsimp only
  rw [if_neg (by simpa using some_), IEnv.retire_group (State.wf_cores wf) (h.canonical wf).serial, h.core, h.slot]

theorem exec_nop (m : wMod w = 0) (h : Issues s c g w 0x00 { form := .fR, listed := true } e) : exec (.nop c g w) s = .next (e.retire e.gr s) := by
  show execNop c g w s = _
  unfold execNop
  rw [m]
  exact congrArg Host.Outcome.next (State.issue_of h _)

/-! ### Special registers -/

/-- The special registers of one word (Table 7.2). -/
theorem IEnv.sreg32_eq {bl : Block} (found : afind? (s.core e.c).blocks e.gr.block = some bl) (l : Nat) {k : Nat} (listed : sregListed k = true) (h10 : k ≠ 0x10)
    (h11 : k ≠ 0x11) : e.sreg32 k l s =
      if k = 0 then l else if k = 1 then e.gr.idx else if k = 2 then e.x.ngrp else if k = 3 then bl.index % e.x.gx
      else if k = 4 then bl.index / e.x.gx % e.x.gy else if k = 5 then bl.index / (e.x.gx * e.x.gy) else if k = 6 then e.x.gx
      else if k = 7 then e.x.gy else if k = 8 then e.x.gz else if k = 9 then e.c else if k = 10 then e.g
      else if k = 11 then e.x.argAddr else if k = 12 then e.x.stall else e.act := by
  unfold IEnv.sreg32
  rw [found]
  simp only [sregListed, Bool.or_eq_true, Bool.and_eq_true, decide_eq_true_eq] at listed
  obtain low | rfl : k ≤ 12 ∨ k = 18 := by omega
  · interval_cases k <;> rfl
  · rfl

theorem exec_sreg_word (m : wMod w = 0) (h10 : wImm w % 256 ≠ 0x10) (h11 : wImm w % 256 ≠ 0x11) (listed : sregListed (wImm w % 256) = true) :
    exec (.sreg c g w) s = .next (s.issue c g w 0x75 { form := .fI, listed := true, d := .reg } fun e s => e.lanes32 (fun l => e.sreg32 (wImm w % 256) l s) s) := by
  show execSreg c g w s = _
  unfold execSreg
  simp only [m, listed, h10, h11, if_false, beq_self_eq_true, Bool.and_self, beq_iff_eq, Bool.or_eq_true, or_self]

theorem exec_sreg_time (m : wMod w = 0) (h10 : wImm w % 256 = 0x10) :
    exec (.sreg c g w) s = .next (s.issue c g w 0x75 { form := .fI, listed := true, d := .pair } fun e s => e.lanes64 (fun _ => s.str.time) s) := by
  show execSreg c g w s = _
  unfold execSreg
  rw [m, h10]
  rfl

/-- Core `c` as CYCLES is read. -/
def State.counted (s : State) (c : Nat) : State := (s.modCore c fun q => { q with cycles := q.cycles + Config.cyclesPassed s.rnd }).fresh

theorem State.counted_eq (s : State) (c : Nat) :
    s.counted c = (s.modCore c fun k => { k with cycles := (s.core c).cycles + Config.cyclesPassed s.rnd }).fresh := rfl

theorem State.counted_cycles (w : twf {} s.cores = true) (c : Nat) : ((s.counted c).core c).cycles = (s.core c).cycles + Config.cyclesPassed s.rnd := by
  unfold State.counted State.core
  rw [State.fresh_cores]
  exact congrArg Core.cycles (State.core_modCore w _)

theorem exec_sreg_cycles (m : wMod w = 0) (h11 : wImm w % 256 = 0x11) :
    exec (.sreg c g w) s = .next (s.issue c g w 0x75 { form := .fI, listed := true, d := .pair }
      fun e s => e.lanes64 (fun _ => ((s.counted e.c).core e.c).cycles) (s.counted e.c)) := by
  show execSreg c g w s = _
  unfold execSreg
  rw [m, h11]
  rfl

end Sys2Proof.Machine

open Sys2Proof Sys2Proof.Machine

/-- Settles O15: the barrier opens as its last group arrives, and the other instructions answer what their bodies say. -/
theorem holdingAndSpecialRegisters : Obligations.HoldingAndSpecialRegisters := by
  unfold Obligations.HoldingAndSpecialRegisters
  refine ⟨fun s c g w e wf => ⟨?bar, ?twait, ?trap, ?yield, exec_nop⟩, fun s c g w e => ⟨?tread, ?sreg, ?time, ?cycles⟩⟩
  case bar =>
    intro m h
    rw [exec_bar m h]
    refine ⟨fun inactive => by rw [if_pos inactive]; rfl, fun active ⟨b, found, slot⟩ => ?_⟩
    rw [if_neg (not_not.mpr active)]
    refine ⟨fun late => congrArg Host.Outcome.next (h.barrier_waits wf found slot late), fun all => ?_⟩
    obtain ⟨own, others⟩ := h.barrier_opens wf found slot all
    refine ⟨_, _, rfl, own, Group.release_held _, h.release_pc _, fun p mem live => ?_⟩
    by_cases same : p.1 = g.val
    · exact ⟨_, (congrArg _ same).trans own, Group.release_held _, fun other => absurd same other⟩
    · exact ⟨_, others p mem same live, Group.release_held _, fun _ => Group.release_pc _⟩
  case twait =>
    intro m h
    rw [exec_twait m h]
    exact ⟨fun done => by rw [if_pos done], fun some above => by rw [if_neg (not_or.mpr ⟨some, Nat.not_le.mpr above⟩)]⟩
  case trap =>
    intro m h
    rw [exec_trap m h]
    exact ⟨fun some => by rw [if_neg some]; rfl, fun none => by rw [if_pos none]⟩
  case yield =>
    intro m h some
    refine ⟨_, _, exec_yield wf m h some, State.group?_setGroup ?_ ?_, rfl, h.retired_pc⟩
    · exact e.retire_cores_wf _ (State.wf_cores wf)
    · exact (IEnv.retired_serial e e.gr).trans_ne (h.canonical wf).serial
  case tread => exact fun m h => .of h (by show execTread c g w s = _; unfold execTread; rw [m]; rfl) fun _ _ => rfl
  case sreg =>
    intro bl m h10 h11 found h listed
    refine .of h (f := fun e l => e.sreg32 (wImm w % 256) l s) ?_ fun l _ => ?_
    · rw [exec_sreg_word m h10 h11 listed, State.issue_of h, State.issue_of h]
    · rw [IEnv.sreg32_eq (by rw [h.core]; exact found) l listed h10 h11, h.core, h.slot]
  case time =>
    intro m h10 h
    refine .of h (h.pair_fits (.head _)) (f := fun _ _ => s.str.time) ?_ fun _ _ => rfl
    rw [exec_sreg_time m h10, State.issue_of h, State.issue_of h]
  case cycles =>
    intro m h11 h
    obtain ⟨rs, fold, reads⟩ := Group.setPairs_read (wD e.w) (fun _ => ((s.counted c).core c).cycles) (h.pair_fits (.head _)) e.ex e.gr
    refine ⟨(s.core c).cycles + Config.cyclesPassed s.rnd, rs, Nat.le_add_right _ _, ?_, fun wf l mem => ?_⟩
    · rw [exec_sreg_cycles m h11, State.issue_of h, h.core, ← State.counted_eq]
      exact congrArg (fun gr => Host.Outcome.next (e.retire gr (s.counted c))) fold
    · have w : twf {} s.cores = true := by
        simp only [State.tablesWf, Bool.and_eq_true] at wf
        tauto
      rw [← h.word, reads l mem, State.counted_cycles w]

end

section
/-! PROOF. EXIT and the end of a block (O14; R145, R156). -/

namespace Sys2Proof.Machine

variable {s t u : State} {c g b : Nat}

/-! ### Lanes of a group -/

theorem Group.testBit_live (x : Group) (i : Nat) : x.live.testBit i = x.paths.any fun p => p.mask.testBit i := by
  have from_ : ∀ (ps : List PathEnt) (a : Nat), (ps.foldl (fun a e => a ||| e.mask) a).testBit i = (a.testBit i || ps.any fun p => p.mask.testBit i) := by
    intro ps
    induction ps with
    | nil => intro a; simp
    | cons p ps ih => intro a; rw [List.foldl_cons, ih, Nat.testBit_or, List.any_cons, Bool.or_assoc]
  exact (from_ x.paths 0).trans (by rw [Nat.zero_testBit, Bool.false_or])

theorem Group.live_congr {x y : Group} (h : x.paths.map PathEnt.mask = y.paths.map PathEnt.mask) : x.live = y.live := by
  refine Nat.eq_of_testBit_eq fun i => ?_
  have any (z : Group) : z.live.testBit i = (z.paths.map PathEnt.mask).any fun k => k.testBit i := by rw [z.testBit_live, List.any_map]; rfl
  rw [any, any, h]

@[simp] theorem Group.release_live (x : Group) : x.release.live = x.live := by
  refine Group.live_congr ?_
  unfold Group.release
  split
  · next paths => rw [paths]; rfl
  · next paths => rfl

theorem mem_popPaths {p : PathEnt} : ∀ {ps : List PathEnt}, p ∈ popPaths ps → p ∈ ps
  | q :: ps, mem => by
    unfold popPaths at mem
    split at mem
    · exact .tail _ (mem_popPaths mem)
    · exact mem

/-! ### Entries by key -/

theorem afind?_filter_key {α : Type} (keep : Nat → Bool) (k : Nat) : ∀ m : List (Nat × α), afind? (m.filter fun e => keep e.1) k = if keep k then afind? m k else none
  | [] => by simp [afind?]
  | (i, v) :: m => by
    have ih := afind?_filter_key keep k m
    rw [List.filter_cons]
    simp only [afind?]
    by_cases here : k = i
    · subst here
      split
      · rw [afind?, if_pos rfl, if_pos rfl]
      · next drop => rw [ih, if_neg drop]
    · rw [if_neg here, ← ih]
      split
      · exact if_neg here
      · rfl

/-! ### Barriers as groups end -/

/-- Core `c` has the same blocks, and each of its groups the same lanes. -/
structure State.SameLanes (s t : State) (c : Nat) : Prop where
  blocks : s.SameBlocks t c
  serials : t.Serials c
  live : ∀ i, (t.group? c i).map Group.live = (s.group? c i).map Group.live

theorem State.SameLanes.trans (h : s.SameLanes t c) (k : t.SameLanes u c) : s.SameLanes u c :=
  ⟨h.blocks.trans k.blocks, k.serials, fun i => (k.live i).trans (h.live i)⟩

/-- A barrier check moves groups on: it takes no lane from them, and a group that is held at no barrier stays as it is. -/
theorem State.barrierCheck_lanes (w : twf {} s.cores = true) (all : s.Serials c) (b n : Nat) :
    s.SameLanes (s.barrierCheck c b n) c ∧ ∀ {i x}, s.group? c i = some x → x.held = .no → (s.barrierCheck c b n).group? c i = some x := by
  obtain ⟨blocks, groups⟩ := State.barrierCheck_spec (b := b) (n := n) w all
  refine ⟨⟨blocks, fun i x found => ?_, fun i => ?_⟩, fun {i x} found free => ?_⟩
  · rw [groups] at found
    split at found
    · obtain ⟨y, old, rfl⟩ := Option.map_eq_some_iff.mp found
      rw [Group.release_serial]
      exact all i y old
    · exact all i x found
  · rw [groups]
    split
    · rw [Option.map_map, show Group.live ∘ Group.release = Group.live from funext Group.release_live]
    · rfl
  · rw [groups, if_neg, found]
    rintro ⟨-, p, mem, slot, held⟩
    have same := State.blockGroups_stands mem
    rw [slot, found] at same
    cases same
    rw [free] at held
    cases held

/-- The same of the checks of every barrier. -/
theorem State.barrierChecks_lanes {i : Nat} {x : Group} (b : Nat) (free : x.held = .no) : ∀ (ns : List Nat) {s : State}, twf {} s.cores = true → s.Serials c →
    s.group? c i = some x →
    s.SameLanes (forEach ns s fun n s => s.barrierCheck c b n) c ∧ (forEach ns s fun n s => s.barrierCheck c b n).group? c i = some x
  | [], _, w, all, found => ⟨⟨⟨w, rfl⟩, all, fun _ => rfl⟩, found⟩
  | n :: ns, s, w, all, found => by
    obtain ⟨same, stays⟩ := State.barrierCheck_lanes w all b n
    obtain ⟨rest, kept⟩ := barrierChecks_lanes b free ns same.blocks.cores same.serials (stays found free)
    exact ⟨same.trans rest, kept⟩

/-! ### The end of a block -/

/-- A check for the end of a block leaves a group as it is, or takes it away. -/
theorem State.blockCheck_group (w : twf {} s.cores = true) {i : Nat} {x : Group} (found : (s.blockCheck c b).group? c i = some x) : s.group? c i = some x := by
  unfold State.blockCheck at found
  dsimp only at found
  split at found
  · unfold State.group? at found
    rw [State.core_modCore w] at found
    dsimp only at found
    rw [afind?_filter_key fun k => !(((s.core c).blockGroups b).any fun g => g.1 == k)] at found
    split at found
    · exact found
    · cases found
  · exact found

/-- Where no group of a block has a lane left, the block and its groups are gone. -/
theorem State.blockCheck_ends (w : twf {} s.cores = true) (ended : ∀ p ∈ (s.core c).blockGroups b, p.2.live = 0) :
    afind? ((s.blockCheck c b).core c).blocks b = none ∧ ∀ p ∈ (s.core c).blockGroups b, (s.blockCheck c b).group? c p.1 = none := by
  have all : ((s.core c).blockGroups b).all (fun g => g.2.live == 0) = true := List.all_eq_true.mpr fun p mem => beq_iff_eq.mpr (ended p mem)
  unfold State.blockCheck
  dsimp only
  rw [if_pos all]
  unfold State.group?
  rw [State.core_modCore w]
  dsimp only
  refine ⟨?_, fun p mem => ?_⟩
  · rw [afind?_filter_key fun k => decide (k ≠ b), if_neg (by simp)]
  · rw [afind?_filter_key fun k => !(((s.core c).blockGroups b).any fun g => g.1 == k), if_neg]
    have own : (((s.core c).blockGroups b).any fun g => g.1 == p.1) = true := List.any_eq_true.mpr ⟨p, mem, beq_self_eq_true _⟩
    rw [own]
    decide

/-! ### EXIT -/

/-- A mask without the lanes of `m`. -/
def maskDrop (k m : Nat) : Nat := k &&& (k ^^^ (k &&& m))

theorem testBit_maskDrop (k m i : Nat) : (maskDrop k m).testBit i = (k.testBit i && !m.testBit i) := by
  unfold maskDrop
  rw [Nat.testBit_and, Nat.testBit_xor, Nat.testBit_and]
  cases k.testBit i <;> cases m.testBit i <;> rfl

/-- The group of an EXIT without the lanes that executed it. -/
def IEnv.left (e : IEnv) : Group :=
  { e.gr.setTop ((e.pc + 8) % 2 ^ 64) with
    paths := popPaths ((e.gr.setTop ((e.pc + 8) % 2 ^ 64)).paths.map fun p => { p with mask := maskDrop p.mask (maskOf e.ex) })
    exited := (e.gr.setTop ((e.pc + 8) % 2 ^ 64)).exited ||| maskOf e.ex, yielded := false }

@[simp] theorem IEnv.left_serial (e : IEnv) : e.left.serial = e.gr.serial := Group.setTop_serial _ _

theorem Group.setTop_eq (x : Group) (pc : Nat) : x.setTop pc = { x with paths := (x.setTop pc).paths } := by
  unfold Group.setTop
  split <;> rfl

@[simp] theorem IEnv.left_block (e : IEnv) : e.left.block = e.gr.block := by unfold IEnv.left; rw [Group.setTop_eq]
@[simp] theorem IEnv.left_held (e : IEnv) : e.left.held = e.gr.held := by unfold IEnv.left; rw [Group.setTop_eq]
@[simp] theorem IEnv.left_exited (e : IEnv) : e.left.exited = e.gr.exited ||| maskOf e.ex := by unfold IEnv.left; rw [Group.setTop_eq]

/-- Every entry of its path stack is an entry without the lanes that left. -/
theorem IEnv.left_masks (e : IEnv) {p : PathEnt} (mem : p ∈ e.left.paths) :
    ∃ q ∈ (e.gr.setTop ((e.pc + 8) % 2 ^ 64)).paths, p.mask = maskDrop q.mask (maskOf e.ex) := by
  obtain ⟨q, old, rfl⟩ := List.mem_map.mp (mem_popPaths mem)
  exact ⟨q, old, rfl⟩

theorem Group.setTop_live (x : Group) (pc : Nat) : (x.setTop pc).live = x.live := by
  refine Group.live_congr ?_
  unfold Group.setTop
  split
  · next paths => rw [paths]; rfl
  · next paths => rfl

theorem IEnv.left_without (e : IEnv) {p : PathEnt} (mem : p ∈ e.left.paths) {l : Nat} (hl : l ∈ e.ex) : p.mask.testBit l = false := by
  obtain ⟨q, -, mask⟩ := e.left_masks mem
  rw [mask, testBit_maskDrop, testBit_maskOf, decide_eq_true hl, Bool.not_true, Bool.and_false]

/-- Where every lane executed the EXIT, none is left. -/
theorem IEnv.left_ended (e : IEnv) (all : ∀ l, e.gr.live.testBit l = true → l ∈ e.ex) : e.left.live = 0 := by
  refine Nat.eq_of_testBit_eq fun i => ?_
  rw [Nat.zero_testBit, Group.testBit_live, List.any_eq_false]
  intro p mem bit
  obtain ⟨q, old, mask⟩ := e.left_masks mem
  rw [mask, testBit_maskDrop, Bool.and_eq_true] at bit
  have live : e.gr.live.testBit i = true := by
    rw [← Group.setTop_live _ ((e.pc + 8) % 2 ^ 64), Group.testBit_live]
    exact List.any_eq_true.mpr ⟨q, old, bit.1⟩
  rw [testBit_maskOf, decide_eq_true (all i live)] at bit
  exact absurd bit.2 (by decide)

/-- The state behind an EXIT, before the check for the end of its block. -/
def IEnv.leave (e : IEnv) (s : State) : State :=
  let t := (s.setGroup e.c e.g e.left).modCore e.c fun k => { k with lastRetire := (s.setGroup e.c e.g e.left).clock }
  if e.left.live = 0 then forEach (List.range 16) t fun n s => s.barrierCheck e.c e.left.block n else t

section
variable {c : CoreNo} {g : SlotNo} {w : W64} {e : IEnv}

theorem exec_exit (m : wMod w = 0) (h : Issues s c g w 0x63 { form := .fR, listed := true } e) :
    exec (.exit c g w) s = .next ((e.leave s).blockCheck c e.gr.block) := by
  show execExit c g w s = _
  unfold execExit
  rw [m]
  refine (congrArg Host.Outcome.next (State.issue_of h _)).trans ?_
  rw [← e.left_block, ← h.core]
  rfl

/-- The group is without its lanes, and every other group has the lanes it had. -/
theorem Issues.leave_spec {opc : Nat} {u : Uses} (h : Issues s c g w opc u e) (wf : s.wf = true) :
    (s.setGroup c g e.left).SameLanes (e.leave s) c ∧ (e.leave s).group? c g = some e.left := by
  have cores := State.wf_cores wf
  have serial : e.left.serial ≠ 0 := by
    rw [e.left_serial]
    exact (h.canonical wf).serial
  have set := State.setGroup_cores_wf (c := c) (g := g) cores e.left
  have serials := State.serials_setGroup (g := g) cores (h.serials wf) serial
  have own : (s.setGroup c g e.left).group? c g = some e.left := State.group?_setGroup cores serial
  unfold IEnv.leave
  dsimp only
  rw [h.core, h.slot]
  have kept := State.group?_lastRetire (c := c) set (s.setGroup c g e.left).clock
  have same : (s.setGroup c g e.left).SameLanes ((s.setGroup c g e.left).modCore c fun k => { k with lastRetire := (s.setGroup c g e.left).clock }) c :=
    ⟨State.sameBlocks_lastRetire set _, fun i x found => serials i x ((kept i).symm.trans found), fun i => by rw [kept]⟩
  split
  · obtain ⟨checks, stays⟩ := State.barrierChecks_lanes e.left.block (e.left_held.trans h.free) (List.range 16) same.blocks.cores same.serials
      ((kept g).trans own)
    exact ⟨same.trans checks, stays⟩
  · exact ⟨same, (kept g).trans own⟩

end

end Sys2Proof.Machine

open Sys2Proof Sys2Proof.Machine

/-- Settles O14: barrier checks leave the exiting group as it is, and take no lane from the others of its block. -/
theorem exitRemovesLanes : Obligations.ExitRemovesLanes := by
  unfold Obligations.ExitRemovesLanes
  intro s c g w e wf m h
  obtain ⟨same, own⟩ := h.leave_spec wf
  refine ⟨_, exec_exit m h, fun gr found => ?stands, fun all others ⟨b, found, slot⟩ => ?ends⟩
  case stands =>
    have left := (State.blockCheck_group same.blocks.cores found).symm.trans own
    cases left
    exact ⟨e.left_exited, fun p mem l hl => e.left_without mem hl⟩
  case ends =>
    have cores := State.wf_cores wf
    have serial : e.left.serial ≠ 0 := by
      rw [e.left_serial]
      exact (h.canonical wf).serial
    have block : afind? ((e.leave s).core c).blocks e.gr.block = some b := by
      rw [same.blocks.blocks, (State.sameBlocks_setGroup cores _).blocks, found]
    have old (i : Nat) : ((e.leave s).group? c i).map Group.live = if i = g.val then some 0 else (s.group? c i).map Group.live := by
      rw [same.live, State.group?_setGroup_at cores serial]
      split
      · rw [Option.map_some, e.left_ended all]
      · rfl
    obtain ⟨gone, groups⟩ := State.blockCheck_ends (b := e.gr.block) same.blocks.cores fun p mem => by
      have live := old p.1
      rw [State.blockGroups_stands mem, Option.map_some] at live
      split at live
      · exact Option.some.inj live
      · next other =>
        obtain ⟨x, stands, lanes⟩ := Option.map_eq_some_iff.mp live.symm
        rw [← lanes]
        exact others (p.1, x) ((Core.mem_blockGroups found).mpr ⟨((Core.mem_blockGroups block).mp mem).1, stands⟩) other
    refine ⟨gone, groups (g.val, e.left) ((Core.mem_blockGroups block).mpr ⟨slot, own⟩), fun p mem => ?_⟩
    obtain ⟨inSlot, stands⟩ := (Core.mem_blockGroups found).mp mem
    have live := old p.1
    obtain ⟨x, now⟩ : ∃ x, (e.leave s).group? c p.1 = some x := by
      cases now : (e.leave s).group? c p.1 with
      | some x => exact ⟨x, rfl⟩
      | none =>
        rw [now, State.blockGroups_stands mem] at live
        split at live <;> cases live
    exact groups (p.1, x) ((Core.mem_blockGroups block).mpr ⟨inSlot, now⟩)

end

section
/-! PROOF. The frame of the instructions that compute in registers (O12; R147, R151). -/

namespace Sys2Proof.Machine

/-- A body that retires its instruction with its group changed, and changes nothing else but contexts and the choice of free values. -/
def RetiresOnly (body : IEnv → State → State) : Prop :=
  ∀ e s, ∃ gr ctxs rnd, gr.serial = e.gr.serial ∧ body e s = { e.retire gr s with ctxs := ctxs, rnd := rnd }

theorem retiresOnly_retire : RetiresOnly fun e s => e.retire e.gr s := fun e s => ⟨e.gr, s.ctxs, s.rnd, rfl, rfl⟩

/-- Writes to a group's registers and predicates keep its serial number. -/
theorem Group.foldl_serial {f : Group → Nat → Group} (keeps : ∀ x l, (f x l).serial = x.serial) : ∀ (ls : List Nat) (x : Group), (ls.foldl f x).serial = x.serial
  | [], _ => rfl
  | l :: ls, x => (foldl_serial keeps ls (f x l)).trans (keeps x l)

theorem retiresOnly_lanes32 (f : IEnv → State → Nat → Nat) : RetiresOnly fun e s => e.lanes32 (f e s) s :=
  fun e s => ⟨e.ex.foldl (fun gr l => gr.setReg l (wD e.w) (f e s l)) e.gr, s.ctxs, s.rnd, Group.foldl_serial (by intros; rfl) e.ex e.gr, rfl⟩

theorem retiresOnly_lanes64 (f : IEnv → State → Nat → Nat) : RetiresOnly fun e s => e.lanes64 (f e s) s :=
  fun e s => ⟨e.ex.foldl (fun gr l => gr.setPair l (wD e.w) (f e s l)) e.gr, s.ctxs, s.rnd, Group.foldl_serial (by intros; rfl) e.ex e.gr, rfl⟩

theorem retiresOnly_lanesP (f : IEnv → State → Nat → Bool) : RetiresOnly fun e s => e.lanesP (f e s) s :=
  fun e s => ⟨e.ex.foldl (fun gr l => gr.setPred l (wD e.w) (f e s l)) e.gr, s.ctxs, s.rnd, Group.foldl_serial (by intros; rfl) e.ex e.gr, rfl⟩

theorem RetiresOnly.ite {p : Prop} [Decidable p] {a b : IEnv → State → State} (ha : RetiresOnly a) (hb : RetiresOnly b) :
    RetiresOnly fun e s => if p then a e s else b e s := by
  by_cases h : p
  · simp only [if_pos h]
    exact ha
  · simp only [if_neg h]
    exact hb

/-- What a body that only retires does, with the contexts or the choice of free values changed after it. -/
theorem RetiresOnly.thread {body : IEnv → State → State} (h : RetiresOnly body) (ctxs : IEnv → State → List (Nat × Option Ctx)) (rnd : IEnv → State → Nat) :
    RetiresOnly fun e s => { body e s with ctxs := ctxs e s, rnd := rnd e s } := fun e s => by
  obtain ⟨gr, _, _, serial, run⟩ := h e s
  exact ⟨gr, ctxs e s, rnd e s, serial, by dsimp only; rw [run]⟩

/-! ### The register rows of Table 7.3 -/

section
variable {s : State} {c : CoreNo} {g : SlotNo} {w : W64}

/-- A row whose instruction only retires its group. -/
def Computes (s : State) (c g : Nat) (w : W64) (f : Instr × Nat × Uses) : Prop :=
  ∃ body, exec f.1 s = .next (s.issue c g w f.2.1 f.2.2 body) ∧ RetiresOnly body

theorem Computes.word {i : Instr} {opc : Nat} {u : Uses} {f : IEnv → Nat → Nat} (run : exec i s = s.alu32 c g w opc u f) : Computes s c g w (i, opc, u) :=
  ⟨_, run, retiresOnly_lanes32 fun e _ => f e⟩

theorem Computes.flag {i : Instr} {opc : Nat} {u : Uses} {f : IEnv → Nat → Bool} (run : exec i s = s.aluP c g w opc u f) : Computes s c g w (i, opc, u) :=
  ⟨_, run, retiresOnly_lanesP fun e _ => f e⟩

/-- A row that MOD gives a 64-bit form. -/
theorem Computes.sized {i : Instr} {opc : Nat} {u : Uses} {nb : Bool} {f : Nat → Nat → Nat} (run : exec i s = s.alu64 c g w opc nb f)
    (fields : u = u3 (decide (wMod w ≤ 1)) (if wMod w = 1 then .pair else .reg) (if nb then if wMod w = 1 then .pair else .reg else .no) .no
      (if wMod w = 1 then .pair else .reg)) : Computes s c g w (i, opc, u) :=
  ⟨_, by rw [run, fields]; rfl, (retiresOnly_lanes64 fun e _ l => f (e.pA l) (e.pB l)).ite (retiresOnly_lanes32 fun e _ l => f (e.rA l) (e.rB l))⟩

/-- Every row of the instructions that compute in registers. -/
theorem computes_rows : ∀ f ∈ (threadForms c g w).take 31, Computes s c g w f := by
  unfold threadForms
  simp only [List.cons_append, List.nil_append, List.take_succ_cons, List.take_zero, List.forall_mem_cons]
  refine ⟨⟨_, rfl, retiresOnly_retire⟩, .sized rfl rfl, .word rfl, .sized exec_isub rfl, .word rfl, .word rfl, .word rfl, .word rfl, .word rfl, .word rfl, .word rfl,
    .word rfl, .word rfl, .sized exec_mov rfl, .word rfl, .word rfl, .word rfl, .word rfl, .word rfl, .word rfl, .word rfl, .word rfl, .word rfl, .word rfl,
    ?cvt, ⟨_, rfl, retiresOnly_lanes32 fun e _ l => _⟩, ?shfl, ?vote, .flag rfl, .flag rfl, .flag rfl, fun _ mem => absurd mem List.not_mem_nil⟩
  case cvt => exact ⟨_, rfl, (retiresOnly_lanes32 _).thread _ _⟩
  case shfl => exact ⟨_, rfl, (retiresOnly_lanes32 _).thread _ _⟩
  case vote => exact ⟨_, rfl, (retiresOnly_lanes32 _).ite (retiresOnly_lanesP _)⟩

end

/-! ### The frame of a retirement -/

section
variable {s : State} {c : Nat}

theorem State.modCore_other (w : twf {} s.cores = true) {i : Nat} (other : i ≠ c) (f : Core → Core) : (s.modCore c f).core i = s.core i := by
  rw [State.modCore, State.core_setCore w, if_neg other]

theorem IEnv.retire_core_other (e : IEnv) (x : Group) (w : twf {} s.cores = true) {i : Nat} (other : i ≠ e.c) : (e.retire x s).core i = s.core i :=
  (State.modCore_other (State.setGroup_cores_wf w _) other _).trans (State.modCore_other w other _)

theorem IEnv.retire_group_other {e : IEnv} {x : Group} (w : twf {} s.cores = true) (h : x.serial ≠ 0) {i : Nat} (other : i ≠ e.g) :
    (e.retire x s).group? e.c i = s.group? e.c i := by
  unfold State.group?
  rw [e.retire_core x w]
  dsimp only
  rw [afind?_tset _ _ _ (Group.ne_default (by rwa [IEnv.retired_serial])), if_neg other]

end

end Sys2Proof.Machine

open Sys2Proof Sys2Proof.Machine

/-- Settles O12: each of these instructions only retires its group, and a retirement writes its group's slot alone. -/
theorem computeFrame : Obligations.ComputeFrame := by
  unfold Obligations.ComputeFrame
  intro s c g w e f wf mem h
  obtain ⟨body, run, only⟩ := computes_rows (s := s) f mem
  obtain ⟨gr, ctxs, rnd, serial, after⟩ := only e s
  have cores := State.wf_cores wf
  have standing : gr.serial ≠ 0 := by
    rw [serial]
    exact (h.canonical wf).serial
  obtain ⟨core, slot⟩ : e.c = c ∧ e.g = g := ⟨h.core, h.slot⟩
  have own : ({ e.retire gr s with ctxs := ctxs, rnd := rnd } : State).core c =
      { s.core c with groups := tset {} (s.core c).groups e.g (e.retired gr), lastRetire := s.clock } := by
    rw [← core]
    exact e.retire_core gr cores
  refine ⟨_, run.trans (congrArg Host.Outcome.next ((State.issue_of h body).trans after)), rfl, byteAt_congr rfl rfl rfl rfl rfl,
    fun i other => e.retire_core_other gr cores (core ▸ other), ?_⟩
  rw [own]
  exact ⟨rfl, rfl, rfl, rfl, rfl, rfl, rfl, rfl, rfl, rfl, fun i other => core ▸ IEnv.retire_group_other cores standing (slot ▸ other)⟩

end

section
/-! PROOF. How many numbers an entry of the ledger takes (R374, R375): its own, and one for each entry about a write that failed. -/

namespace Sys2Proof.Machine

variable {s : State}

/-! ### What takes no number -/

theorem msix_seq (f v : Nat) : (s.msix f v).led.seq = s.led.seq := by
  unfold State.msix
  dsimp only
  split <;> rfl

theorem ledgerTo_seq (op : Bool) (f : Nat) (e : Entry) : (s.ledgerTo op f e).1.led.seq = s.led.seq := by
  unfold State.ledgerTo
  generalize (if op then s.led.op else (s.fn f).led) = r
  dsimp only
  obtain ⟨r', k⟩ := ledgerPut (s.ledgerCause f) r
  have put : (if op then { s with rnd := s.rnd + 1, led := { s.led with op := r' } }
      else { s.modFn f (fun x => { x with led := r' }) with rnd := s.rnd + 1 }).led.seq = s.led.seq := by
    cases op <;> rfl
  cases k with
  | off => exact put
  | dropped => exact put
  | failed c => exact put
  | written =>
    dsimp only
    split
    · exact (msix_seq _ _).trans put
    · exact put

/-- Sending an entry takes no number, and at most every ledger refuses it. -/
theorem sendAll_seq (ps : List (Bool × Nat)) (e : Entry) : (s.sendAll ps e).1.led.seq = s.led.seq ∧ (s.sendAll ps e).2.length ≤ ps.length := by
  have from_ : ∀ (ps : List (Bool × Nat)) (acc : State × List ((Bool × Nat) × Nat × Nat)), ∀ t, t = ps.foldl (fun acc p =>
      match acc.1.ledgerTo p.1 p.2 e with
      | (s, some c) => (s, acc.2 ++ [(p, c)])
      | (s, none) => (s, acc.2)) acc → t.1.led.seq = acc.1.led.seq ∧ t.2.length ≤ acc.2.length + ps.length := by
    intro ps
    induction ps with
    | nil =>
      rintro acc _ rfl
      exact ⟨rfl, Nat.le_refl _⟩
    | cons p ps ih =>
      intro acc t ht
      have seq := ledgerTo_seq (s := acc.1) p.1 p.2 e
      rw [List.foldl_cons] at ht
      obtain ⟨same, few⟩ := ih _ t ht
      rw [List.length_cons]
      revert same few seq
      rcases acc.1.ledgerTo p.1 p.2 e with ⟨u, _ | c⟩
      · intro seq same few
        dsimp only at same few
        exact ⟨same.trans seq, by omega⟩
      · intro seq same few
        dsimp only at same few
        rw [List.length_append, List.length_singleton] at few
        exact ⟨same.trans seq, by omega⟩
  have all := from_ ps (s, []) _ rfl
  rwa [List.length_nil, Nat.zero_add] at all

/-! ### Deliveries -/

/-- At most this many numbers are taken by the delivery of an entry to `n` ledgers. -/
def deliveries : Nat → Nat → Nat
  | 0, _ => 0
  | fuel + 1, n => n * (1 + deliveries fuel (n + 1))

/-- From `s` to `t` the ledger took at most `k` numbers. -/
def TakesNumbers (k : Nat) (s t : State) : Prop := ∃ m ≤ k, t.led.seq = s.led.seq + BitVec.ofNat 32 m

theorem TakesNumbers.trans {k m : Nat} {s t u : State} (h : TakesNumbers k s t) (g : TakesNumbers m t u) : TakesNumbers (k + m) s u := by
  obtain ⟨a, la, ha⟩ := h
  obtain ⟨b, lb, hb⟩ := g
  exact ⟨a + b, Nat.add_le_add la lb, by rw [hb, ha, BitVec.ofNat_add, BitVec.add_assoc]⟩

theorem TakesNumbers.mono {k m : Nat} {s t : State} (h : TakesNumbers k s t) (le : k ≤ m) : TakesNumbers m s t := by
  obtain ⟨a, la, ha⟩ := h
  exact ⟨a, la.trans le, ha⟩

theorem takesNumbers_same {s t : State} (h : t.led.seq = s.led.seq) : TakesNumbers 0 s t := ⟨0, Nat.le_refl _, h.trans (BitVec.add_zero _).symm⟩

theorem takesNumbers_foldl {α : Type} {f : State → α → State} {k : Nat} (step : ∀ s x, TakesNumbers k s (f s x)) :
    ∀ (l : List α) (s : State), TakesNumbers (l.length * k) s (l.foldl f s)
  | [], s => (takesNumbers_same rfl).mono (Nat.zero_le _)
  | x :: l, s => ((step s x).trans (takesNumbers_foldl step l (f s x))).mono (by rw [List.length_cons, Nat.succ_mul]; omega)

theorem failEntry_seq (f : Nat) (n : W32) (c : Nat × Nat) : TakesNumbers 1 s (s.failEntry f n c).2 := ⟨1, Nat.le_refl _, rfl⟩

theorem deliverEntry_seq : ∀ (fuel : Nat) (ps : List (Bool × Nat)) (e : Entry) (s : State) {n : Nat}, ps.length ≤ n →
    TakesNumbers (deliveries fuel n) s (s.deliverEntry fuel ps e)
  | 0, ps, e, s, n, _ => takesNumbers_same (sendAll_seq ps e).1
  | fuel + 1, ps, e, s, n, few => by
    obtain ⟨seq, bad⟩ := sendAll_seq (s := s) ps e
    unfold State.deliverEntry
    refine ((takesNumbers_same seq).trans (takesNumbers_foldl (k := 1 + deliveries fuel (n + 1)) (fun u b => ?_) _ _)).mono ?_
    · refine (failEntry_seq b.1.2 e.seq b.2).trans (deliverEntry_seq fuel _ _ _ ?_)
      calc _ ≤ (ps ++ [(false, b.1.2)]).dedup.length := List.length_filter_le ..
        _ ≤ (ps ++ [(false, b.1.2)]).length := (List.dedup_sublist _).length_le
        _ ≤ n + 1 := by rw [List.length_append]; exact Nat.succ_le_succ few
    · rw [Nat.zero_add, deliveries]
      exact Nat.mul_le_mul_right _ (bad.trans few)

theorem platformEvent_seq (e : Entry) : (s.platformEvent e).led.seq = s.led.seq := by
  unfold State.platformEvent
  split
  · split <;> rfl
  · rfl

theorem entered_seq (e : Entry) : (s.entered e).led.seq = s.led.seq + 1 := by
  unfold State.entered State.buffered
  dsimp only
  split <;> split <;> rfl

/-- A ledger entry that concerns at most one function leaves another number for the next. -/
theorem ledgerEntry_seq (e : Entry) (few : ∀ t : State, (t.concerns (s.stamped e)).length ≤ 1) : (s.ledgerEntry e).led.seq ≠ s.led.seq := by
  have count : ((true, (s.entered (s.stamped e)).operFn) :: ((s.entered (s.stamped e)).concerns (s.stamped e)).map fun f => (false, f)).length ≤ 2 := by
    rw [List.length_cons, List.length_map]
    exact Nat.succ_le_succ (few _)
  rw [ledgerEntry_eq]
  dsimp only
  generalize ((true, (s.entered (s.stamped e)).operFn) :: ((s.entered (s.stamped e)).concerns (s.stamped e)).map fun f => (false, f)) = ps at count
  obtain ⟨m, le, seq⟩ := deliverEntry_seq (ps.length + 1) ps (s.stamped e) (s.entered (s.stamped e)) count
  have small : deliveries (ps.length + 1) 2 ≤ 32 := by
    obtain h | h | h : ps.length = 0 ∨ ps.length = 1 ∨ ps.length = 2 := by omega
    all_goals rw [h]; decide
  rw [platformEvent_seq, seq, entered_seq, BitVec.add_assoc]
  intro same
  have zero : (1 : BitVec 32) + BitVec.ofNat 32 m = 0 := by simpa using same
  have value := congrArg BitVec.toNat zero
  simp at value
  omega

end Sys2Proof.Machine

end

section
/-! PROOF. Blocks and contexts from start to end (O21; R144, R145, R156, R169, R171, R323). -/

namespace Sys2Proof.Machine

variable {s t u : State} {n : Nat} {x : Ctx}

/-! ### The start of a block -/

/-- A group as its block starts. -/
def startedGroup (x : Ctx) (b serial idx : Nat) : Group := { serial := serial, block := b, idx := idx, paths := [{ pc := x.entry, mask := allOnes32 }] }

/-- A group placed in the slot `p.1`, with its number `p.2` of the block. -/
def State.placeGroup (c b : Nat) (x : Ctx) (p : Nat × Nat) (s : State) : State :=
  { s.setGroup c p.1 (startedGroup x b (s.nextId + 1) p.2) with nextId := s.nextId + 1 }

/-- Slots of a list in which no slot stands twice each hold their group. -/
theorem State.placeGroups_stand {c b : Nat} : ∀ (ps : List (Nat × Nat)) {s : State}, twf {} s.cores = true → (ps.map Prod.fst).Nodup →
    let t := forEach ps s (State.placeGroup c b x)
    twf {} t.cores = true ∧ t.ctxs = s.ctxs ∧ (∀ p ∈ ps, ∃ m, t.group? c p.1 = some (startedGroup x b m p.2)) ∧
      ∀ i, i ∉ ps.map Prod.fst → t.group? c i = s.group? c i
  | [], _, w, _ => ⟨w, rfl, fun _ mem => absurd mem List.not_mem_nil, fun _ _ => rfl⟩
  | p :: ps, s, w, nodup => by
    obtain ⟨fresh, nodup⟩ := List.nodup_cons.mp nodup
    have stands (i : Nat) : (State.placeGroup c b x p s).group? c i = if i = p.1 then some (startedGroup x b (s.nextId + 1) p.2) else s.group? c i :=
      State.group?_setGroup_at (x := startedGroup x b (s.nextId + 1) p.2) w (Nat.succ_ne_zero _) i
    obtain ⟨w', ctxs, groups, others⟩ := placeGroups_stand ps (s := State.placeGroup c b x p s) (State.setGroup_cores_wf w _) nodup
    refine ⟨w', ctxs, fun q mem => ?_, fun i other => ?_⟩
    · obtain rfl | mem := List.mem_cons.mp mem
      · exact ⟨s.nextId + 1, (others _ fresh).trans ((stands _).trans (if_pos rfl))⟩
      · exact groups q mem
    · rw [List.map_cons, List.mem_cons, not_or] at other
      exact (others i other.2).trans ((stands i).trans (if_neg other.1))

theorem Core.freeSlots_nodup (k : Core) (n : Nat) : (k.freeSlots n).Nodup :=
  (List.nodup_range.filter _).sublist (List.take_sublist _ _)

theorem State.placeBlock_spec {c b : Nat} (w : twf {} s.cores = true) {slots : List Nat} (nodup : slots.Nodup) :
    (s.placeBlock c b x slots).ctxs = s.ctxs ∧
      ∀ i k, slots[k]? = some i → ∃ m, (s.placeBlock c b x slots).group? c i = some (startedGroup x b m k) := by
  obtain ⟨w', ctxs, groups, -⟩ := State.placeGroups_stand (c := c) (b := b) (x := x) slots.zipIdx w (by rwa [List.zipIdx_map_fst])
  refine ⟨ctxs, fun i k slot => ?_⟩
  obtain ⟨m, stands⟩ := groups (i, k) (List.mem_zipIdx_iff_getElem?.mpr slot)
  refine ⟨m, Eq.trans (State.group?_congr ?_) stands⟩
  exact (congrArg Core.groups (State.core_modCore w' _) :)

theorem exec_blockStart {c : CoreNo} {b : Nat} (ctx : s.ctxOf c = some (n, x)) (kernel : x.kind = .kernel) (running : x.st = .running)
    (free : x.copyHeld = []) (inside : b < x.gx * x.gy * x.gz) (new : b ∉ x.placed) (fits : ((s.core c).freeSlots x.ngrp).length = x.ngrp)
    (room : (s.core c).groups.length + x.ngrp ≤ groupCap x.nreg) :
    exec (.blockStart c b) s = .next ((s.placeBlock c b x ((s.core c).freeSlots x.ngrp)).setCtx n (some { x with placed := x.placed ++ [b] })) := by
  show execBlockStart c b s = _
  unfold execBlockStart
  rw [ctx]
  exact if_pos ⟨kernel, running, free, inside, new, fits, room⟩

/-! ### The end of a context -/

theorem State.core_congr (h : t.cores = s.cores) (i : Nat) : t.core i = s.core i := congrArg (fun m => tget ({} : Core) m i) h

/-- Nothing of the cores, the contexts and the ledger's numbers changed. -/
structure SameThreads (s t : State) : Prop where
  cores : t.cores = s.cores
  ctxs : t.ctxs = s.ctxs
  led : t.led = s.led

theorem SameThreads.trans (h : SameThreads s t) (g : SameThreads t u) : SameThreads s u := ⟨g.cores.trans h.cores, g.ctxs.trans h.ctxs, g.led.trans h.led⟩

theorem SameThreads.ite {p : Prop} [Decidable p] (h : SameThreads s t) : SameThreads s (if p then t else s) := by
  split
  · exact h
  · exact ⟨rfl, rfl, rfl⟩

theorem tally_sameThreads (s : State) (st off k : Nat) : SameThreads s (s.tally st off k) := ⟨rfl, rfl, rfl⟩

theorem invalEnd_sameThreads (s : State) : SameThreads s s.invalEnd := by
  unfold State.invalEnd
  split
  · split <;> exact ⟨rfl, rfl, rfl⟩
  · exact ⟨rfl, rfl, rfl⟩

theorem descDone_sameThreads (s : State) (r : Nat) (m : W32) (st fl : Nat) : SameThreads s (s.descDone r m st fl) := by
  obtain ⟨v, y, hv, e, -⟩ := s.descDone_spec r m st fl
  have taken : SameThreads s v := by
    obtain rfl | rfl := hv
    · exact ⟨rfl, rfl, rfl⟩
    · obtain e | e := s.taken_cases r m <;> rw [e] <;> exact ⟨rfl, rfl, rfl⟩
  rw [e]
  obtain idle | ⟨k, p, idle⟩ := (v.setRing r y).pipeIdle_cases r <;> rw [idle] <;> exact ⟨taken.cores, taken.ctxs, taken.led⟩

/-- A core that its context has left. -/
structure Core.Left (k : Core) : Prop where
  ctx : k.ctx = none
  mem : k.mem = []
  groups : k.groups = []
  near : k.near = []

/-- The context leaves one of its cores. -/
def State.leaveCore (n : Nat) (x : Ctx) (c : Nat) (s : State) : State :=
  if (s.core c).ctx = some n then
    let s := { s with mem := { s.mem with held := s.mem.held.filter fun h => !h.who.onCore c } }
    ((s.countCore x.stall c).modCore c fun k => { k.scrub with ctx := none, cycles := 0, counted := 0 }).invalEnd
  else s

theorem State.leaveCores_eq (s : State) (n : Nat) (x : Ctx) : s.leaveCores n x = forEach x.cores s (State.leaveCore n x) := rfl

/-- Counting a core changes of the cores that one alone. -/
theorem State.countCore_spec (w : twf {} s.cores = true) (st c : Nat) :
    twf {} (s.countCore st c).cores = true ∧ (s.countCore st c).ctxs = s.ctxs ∧ (s.countCore st c).led = s.led ∧ ∀ i, i ≠ c → (s.countCore st c).core i = s.core i := by
  have counted : (s.countCore st c).cores = (s.modCore c fun k => { k with
      cycles := (s.core c).cycles + Config.cyclesPassed s.rnd, counted := (s.core c).cycles + Config.cyclesPassed s.rnd }).cores := rfl
  refine ⟨counted ▸ State.modCore_cores_wf w _, rfl, rfl, fun i other => ?_⟩
  exact (State.core_congr counted i).trans (State.modCore_other w other _)

/-- What leaving a core changes: that core, and neither contexts nor the ledger. -/
theorem State.leaveCore_spec (w : twf {} s.cores = true) (n : Nat) (x : Ctx) (c : Nat) :
    twf {} (State.leaveCore n x c s).cores = true ∧ (State.leaveCore n x c s).ctxs = s.ctxs ∧ (State.leaveCore n x c s).led = s.led ∧
      (∀ i, i ≠ c → (State.leaveCore n x c s).core i = s.core i) ∧
      ((s.core c).ctx = some n → ((State.leaveCore n x c s).core c).Left) ∧ ((s.core c).ctx ≠ some n → State.leaveCore n x c s = s) := by
  by_cases held : (s.core c).ctx = some n
  · unfold State.leaveCore
    rw [if_pos held]
    dsimp only
    obtain ⟨cores, ctxs, led, others⟩ := State.countCore_spec (s := { s with mem := { s.mem with held := s.mem.held.filter fun h => !h.who.onCore c } }) w x.stall c
    generalize State.countCore _ x.stall c = v at cores ctxs led others
    have ends := invalEnd_sameThreads (v.modCore c fun k => { k.scrub with ctx := none, cycles := 0, counted := 0 })
    have same := State.core_congr ends.cores
    refine ⟨ends.cores ▸ State.modCore_cores_wf cores _, ends.ctxs.trans ctxs, ends.led.trans led,
      fun i other => (same i).trans ((State.modCore_other cores other _).trans (others i other)), fun _ => ?_, fun other => absurd held other⟩
    have own : State.core _ c = _ := (same c).trans (State.core_modCore cores _)
    rw [own]
    exact ⟨rfl, rfl, rfl, rfl⟩
  · have skip : State.leaveCore n x c s = s := if_neg held
    rw [skip]
    exact ⟨w, rfl, rfl, fun _ _ => rfl, fun yes => absurd yes held, fun _ => rfl⟩

/-- Every core of a context that it held is left. -/
theorem State.leaveCores_spec (n : Nat) (x : Ctx) : ∀ (cs : List Nat) {s : State}, twf {} s.cores = true →
    let t := forEach cs s (State.leaveCore n x)
    twf {} t.cores = true ∧ t.ctxs = s.ctxs ∧ t.led = s.led ∧
      ∀ i, ((s.core i).Left → (t.core i).Left) ∧ ((s.core i).ctx = some n → (t.core i).Left ∨ (t.core i = s.core i ∧ i ∉ cs))
  | [], _, w => ⟨w, rfl, rfl, fun _ => ⟨id, fun _ => .inr ⟨rfl, List.not_mem_nil⟩⟩⟩
  | c :: cs, s, w => by
    obtain ⟨w', ctxs, led, others, leaves, stays⟩ := State.leaveCore_spec w n x c
    obtain ⟨cores, ctxs', led', all⟩ := leaveCores_spec n x cs w'
    refine ⟨cores, ctxs'.trans ctxs, led'.trans led, fun i => ?_⟩
    obtain ⟨left, held⟩ := all i
    by_cases own : i = c
    · subst own
      refine ⟨fun gone => left ?_, fun here => .inl (left (leaves here))⟩
      rw [stays (by rw [gone.ctx]; exact Option.some_ne_none n ∘ Eq.symm)]
      exact gone
    · rw [others i own] at left held
      refine ⟨left, fun here => (held here).imp_right fun ⟨same, out⟩ => ⟨same, fun mem => ?_⟩⟩
      exact (List.mem_cons.mp mem).elim own out

/-- A table whose values are mapped reads the mapped values. -/
theorem tget_tmapv {α : Type} [DecidableEq α] (d : α) (f : Nat → α → α) (stays : ∀ k, f k d = d) (k : Nat) : ∀ {m : List (Nat × α)} {lo : Nat},
    twfFrom d lo m = true → tget d (tmapv d f m) k = f k (tget d m k)
  | [], _, _ => (stays k).symm
  | (i, v) :: m, lo, w => by
    simp only [twfFrom, Bool.and_eq_true, decide_eq_true_eq] at w
    obtain ⟨-, rest⟩ := w
    have ih := tget_tmapv d f stays k rest
    have below (low : k < i + 1) : tget d (tmapv d f m) k = d := by rw [ih, tget_of_lt d rest low, stays]
    unfold tmapv
    split
    · next gone =>
      rw [tget]
      split
      · next own => rw [below (by omega), own, gone]
      · split
        · rw [below (by omega), stays]
        · exact ih
    · rw [tget, tget]
      split
      · next own => rw [own]
      · split
        · exact (stays k).symm
        · exact ih

/-- A context that is gone, and the cores that were reserved for it. -/
theorem State.ctxGone_spec (cores : twf {} s.cores = true) (ctxs : twf none s.ctxs = true) :
    (s.ctxGone n).ctx? n = none ∧ (s.ctxGone n).led = s.led ∧ ∀ i, (s.core i).Left → ((s.ctxGone n).core i).Left := by
  refine ⟨(State.ctx?_setCtx ctxs n none).trans (if_pos rfl), rfl, fun i left => ?_⟩
  have read : (s.ctxGone n).core i = if (s.core i).reserved = some n then { s.core i with reserved := none } else s.core i :=
    tget_tmapv ({} : Core) (fun _ (k : Core) => if k.reserved = some n then { k with reserved := none } else k) (fun _ => by simp) i cores
  rw [read]
  split
  · exact ⟨left.ctx, left.mem, left.groups, left.near⟩
  · exact left

/-- A context that ends is gone, and has left its cores. -/
theorem State.ctxFinish_spec (cores : twf {} s.cores = true) (ctxs : twf none s.ctxs = true) (n : Nat) (x : Ctx) (status : Nat) :
    (s.ctxFinish n x status).ctx? n = none ∧ (s.ctxFinish n x status).led = s.led ∧
      ∀ i ∈ x.cores, (s.core i).ctx = some n → ((s.ctxFinish n x status).core i).Left := by
  obtain ⟨cores', ctxs', led, all⟩ := State.leaveCores_spec n x x.cores cores
  rw [← State.leaveCores_eq] at cores' ctxs' led all
  obtain ⟨gone, led', left⟩ := State.ctxGone_spec (n := n) cores' (ctxs' ▸ ctxs)
  have same : SameThreads ((s.leaveCores n x).ctxGone n) (s.ctxFinish n x status) := by
    unfold State.ctxFinish
    dsimp only
    exact (SameThreads.trans (SameThreads.ite (descDone_sameThreads ..)) (tally_sameThreads ..)).trans (tally_sameThreads ..)
  refine ⟨(congrArg (fun m => tget (none : Option Ctx) m n) same.ctxs).trans gone, same.led.trans (led'.trans led), fun i mem here => ?_⟩
  rw [State.core_congr same.cores]
  exact left i (((all i).2 here).resolve_right fun ⟨_, out⟩ => out mem)

/-! ### The instructions -/

section
variable {c : CoreNo}

theorem exec_contextEnd (ctx : s.ctxOf c = some (n, x)) (kernel : x.kind = .kernel) (running : x.st = .running) (all : x.placed.length = x.gx * x.gy * x.gz)
    (colls : s.ctxColls n = []) (idle : ∀ i ∈ x.cores, (s.core i).blocks = [] ∧ (s.core i).passes = [] ∧ (s.core i).vq = [] ∧ (s.core i).loads = []) :
    exec (.contextEnd c) s = .next (s.ctxFinish n x (if x.mismatch then 0x23 else 0)) := by
  have done : (x.cores.all fun i => (s.core i).blocks.isEmpty && (s.core i).idle) = true := List.all_eq_true.mpr fun i mem => by
    obtain ⟨blocks, passes, vq, loads⟩ := idle i mem
    unfold Core.idle
    rw [blocks, passes, vq, loads]
    rfl
  show execContextEnd c s = _
  unfold execContextEnd
  rw [ctx]
  exact if_pos ⟨kernel, running, all, done, colls⟩

/-- The state in which a killed context has its entry in the ledger. -/
def State.killEntered (s : State) (x : Ctx) : State :=
  match x.fault with
  | some f => s.faultEntry x f
  | none => s

theorem exec_contextKillDone (ctx : s.ctxOf c = some (n, x)) (killing : x.st = .killing) :
    exec (.contextKillDone c) s = .next ((s.killEntered x).ctxFinish n x (x.status.getD 0x20)) := by
  show execContextKillDone c s = _
  unfold execContextKillDone
  rw [ctx]
  exact if_neg (not_not.mpr killing)

/-- An entry about a unit that is neither a ring nor a function concerns at most the function of its stall. -/
theorem State.concerns_few {e : Entry} (ring : e.kind ≠ 0x0E) (fn : e.kind ≠ 0x0F) : (s.concerns e).length ≤ 1 := by
  unfold State.concerns
  dsimp only
  rw [if_neg fn, if_neg fun both => ring both.1, List.append_nil]
  refine (List.dedup_sublist _).length_le.trans ?_
  split
  · split <;> simp
  · simp

/-- The fault of a context takes a number. -/
theorem State.faultEntry_seq (s : State) (x : Ctx) (f : CtxFault) : (s.faultEntry x f).led.seq ≠ s.led.seq := by
  unfold State.faultEntry
  cases f.array with
  | some a => exact ledgerEntry_seq _ fun t => State.concerns_few (show 4 ≠ 0x0E by decide) (show 4 ≠ 0x0F by decide)
  | none => exact ledgerEntry_seq _ fun t => State.concerns_few (show 3 ≠ 0x0E by decide) (show 3 ≠ 0x0F by decide)

theorem State.faultEntry_only (s : State) (x : Ctx) (f : CtxFault) : LedgerOnly s (s.faultEntry x f) := by
  unfold State.faultEntry
  exact ledger_only ..

/-- What the kill of a context writes to the ledger changes neither cores nor contexts. -/
theorem State.killEntered_same (s : State) (x : Ctx) : (s.killEntered x).cores = s.cores ∧ (s.killEntered x).ctxs = s.ctxs := by
  unfold State.killEntered
  split
  · next f _ =>
    have only : s.faultEntry x f = { s with fns := _, nv := _, led := _, out := _, rnd := _ } := s.faultEntry_only x f
    rw [only]
    exact ⟨rfl, rfl⟩
  · exact ⟨rfl, rfl⟩

/-- A watchdog that is due faults its context (R171). -/
theorem exec_watchdogExpired {hw : Bool} {gr : Nat × Group} (ctx : s.ctxOf c = some (n, x)) (kernel : x.kind = .kernel) (running : x.st = .running)
    (mode : s.timerMode = 0) (set : fld (s.stall x.stall).qTimer 23 0 ≠ 0) (mem : gr ∈ (s.core c).groups) (live : gr.2.live ≠ 0)
    (due : (s.core c).lastRetire + 256 * fld (s.stall x.stall).qTimer 23 0 ≤ s.clock) (free : ∀ i ∈ x.cores, s.heldOn i = false) :
    let t := s.ctxFault n { cause := 0x14, core := c }
    exec (.watchdogExpired c hw) s = .next (if hw then t.interruption 1 else t) := by
  have some_ : ((s.core c).groups.any fun g => g.2.live != 0) = true := List.any_eq_true.mpr ⟨gr, mem, bne_iff_ne.mpr live⟩
  have none_ : ¬ x.cores.any s.heldOn = true := fun held => by
    obtain ⟨i, at_, holds⟩ := List.any_eq_true.mp held
    rw [free i at_] at holds
    cases holds
  show execWatchdogExpired c hw s = _
  unfold execWatchdogExpired
  rw [ctx, mode]
  exact if_pos ⟨kernel, running, set, by decide, some_, due, fun three => absurd three (by decide), none_⟩

theorem exec_streamEntriesDone (ctx : s.ctxOf c = some (n, x)) (stream : x.kind = .vecStream) (running : x.st = .running) (all : x.entriesLeft = [])
    (free : c.val ∉ x.copyHeld) (idle : (s.core c).idle = true) (tokens : s.group? c 0 = none ∨ ∃ gr, s.group? c 0 = some gr ∧ gr.tokens = [])
    (store : wf x.store 4 39 16 = 0) : exec (.streamEntriesDone c) s = .next (s.ctxFinish n x (if x.mismatch then 0x23 else 0)) := by
  have none_ : (match s.group? c 0 with
      | some g => g.tokens
      | none => []) = [] := by
    obtain gone | ⟨gr, stands, empty⟩ := tokens
    · rw [gone]
    · rw [stands]
      exact empty
  show execStreamEntriesDone c s = _
  unfold execStreamEntriesDone
  rw [ctx]
  dsimp only
  rw [if_pos ⟨.inl stream, running, all, none_, idle⟩, if_neg (by simpa using free), if_pos store]

end

end Sys2Proof.Machine

open Sys2Proof Sys2Proof.Machine

/-- Settles O21: the groups of a block stand in their slots, a context that ends leaves its cores, and its fault takes a number in the ledger. -/
theorem blocksAndContexts : Obligations.BlocksAndContexts := by
  unfold Obligations.BlocksAndContexts
  intro s c n x wf ctx
  have cores := State.wf_cores wf
  have ctxs := State.wf_ctxs wf
  refine ⟨?start, ?finish, ?kill, ?watchdog, ?stream⟩
  case start =>
    intro b kernel running free inside new fits room
    obtain ⟨same, stands⟩ := State.placeBlock_spec (c := c) (b := b) (x := x) cores ((s.core c).freeSlots_nodup x.ngrp)
    refine ⟨_, exec_blockStart ctx kernel running free inside new fits room, ⟨_, (State.ctx?_setCtx (same ▸ ctxs) n _).trans (if_pos rfl), rfl⟩, fun i k slot => ?_⟩
    obtain ⟨m, group⟩ := stands i k slot
    exact ⟨startedGroup x b m k, group, rfl, rfl, rfl, rfl, rfl, rfl, rfl⟩
  case finish =>
    intro i kernel running all colls idle mem here
    obtain ⟨gone, -, left⟩ := State.ctxFinish_spec cores ctxs n x (if x.mismatch then 0x23 else 0)
    obtain ⟨ctx', empty, groups, near⟩ := left i mem here
    exact ⟨_, exec_contextEnd ctx kernel running all colls idle, gone, ctx', empty, groups, near⟩
  case kill =>
    intro i killing mem here
    obtain ⟨sameCores, sameCtxs⟩ := s.killEntered_same x
    obtain ⟨gone, led, left⟩ := State.ctxFinish_spec (sameCores ▸ cores) (sameCtxs ▸ ctxs) n x (x.status.getD 0x20)
    obtain ⟨ctx', empty, groups, -⟩ := left i mem ((congrArg Core.ctx (State.core_congr sameCores i)).trans here)
    refine ⟨_, exec_contextKillDone ctx killing, gone, ctx', empty, groups, fun f fault => ?_⟩
    rw [led, State.killEntered, fault]
    exact s.faultEntry_seq x f
  case watchdog =>
    intro gr hw kernel running first mode set mem live due free
    obtain ⟨y, f, now, killing, fault, cause, -⟩ := State.ctxFault_kills ctxs (State.ctx?_of_ctxOf ctx) first { cause := 0x14, core := c }
    refine ⟨_, y, f, exec_watchdogExpired ctx kernel running mode set mem live due free, ?_, killing, fault, cause⟩
    cases hw with
    | false => exact now
    | true => exact now
  case stream =>
    intro stream running all free idle tokens store mem here
    obtain ⟨gone, -, left⟩ := State.ctxFinish_spec cores ctxs n x (if x.mismatch then 0x23 else 0)
    exact ⟨_, exec_streamEntriesDone ctx stream running all free idle tokens store, gone, (left c mem here).ctx⟩

end

section
/-! PROOF. What a write to device memory leaves where no unit is poisoned and HBM holds every clean line as its slice does (R195, R198, R206, R217). -/

namespace Sys2Proof.Machine

variable {s t u : State}

/-! ### What a byte reads as -/

theorem byteAt_table {a b i : Nat} (h : s.tableByte a = some (b, i)) : s.byteAt a = ((toBytes 2 (s.ownerEnt b).toNat)[i]?).getD 0 := by
  have go : ∀ f : State → Nat → Byte, State.byteAt = f → f s a = ((toBytes 2 (s.ownerEnt b).toNat)[i]?).getD 0 := by
    delta State.byteAt
    intro f hf
    subst hf
    beta_reduce
    rw [h]
  exact go _ rfl

/-- A byte outside the owner table. -/
theorem byteAt_outside {a : Nat} (h : s.tableByte a = none) : s.byteAt a =
    if tget 0 s.mem.blkKey (a / 4096) = s.blockKey (a / 4096) then tget 0 s.mem.cells a
    else Config.foreignByte s.keyEra (tget 0 s.mem.blkKey (a / 4096)) (s.blockKey (a / 4096)) (a / 128) (tgetMany 0 s.mem.cells (a / 128 * 128) 128) (a % 128) := by
  have go : ∀ f : State → Nat → Byte, State.byteAt = f → f s a =
      if tget 0 s.mem.blkKey (a / 4096) = s.blockKey (a / 4096) then tget 0 s.mem.cells a
      else Config.foreignByte s.keyEra (tget 0 s.mem.blkKey (a / 4096)) (s.blockKey (a / 4096)) (a / 128) (tgetMany 0 s.mem.cells (a / 128 * 128) 128) (a % 128) := by
    delta State.byteAt
    intro f hf
    subst hf
    beta_reduce
    rw [h]
  exact go _ rfl

theorem bytesAt_eq (s : State) : ∀ (n a : Nat), bytesAt s a n = (List.range n).map fun i => s.byteAt (a + i)
  | 0, _ => rfl
  | n + 1, a => by
    rw [bytesAt, bytesAt_eq s n, List.range_succ_eq_map, List.map_cons, List.map_map]
    simp [Function.comp_def, Nat.add_comm, Nat.add_left_comm]

/-! ### Memory without poison -/

/-- No unit is poisoned, no stack failed, and no clean line of the slices lies over a unit of HBM that differs from it. -/
structure State.Sound (s : State) : Prop where
  wf : Memory.wf s.mem = true
  poison : s.mem.poison = []
  under : s.slices.under = []
  stks : (s.mem.stks.all fun k => k.2.st != .failed) = true

/-- From `s` to `t` of the memory only the slices, what the stacks count, and the bytes of blocks with the keys that they lie under changed. -/
def State.Beside (s t : State) : Prop := t = { s with
  slices := t.slices, rnd := t.rnd, mem := { s.mem with cells := t.mem.cells, blkKey := t.mem.blkKey, stks := t.mem.stks } }

theorem State.Beside.trans (h : s.Beside t) (k : t.Beside u) : s.Beside u := by
  unfold State.Beside at *
  rw [k, h]

/-- Only the slices and the stacks' counts changed. -/
def State.Cached (s t : State) : Prop := t = { s with slices := t.slices, rnd := t.rnd, mem := { s.mem with stks := t.mem.stks } }

theorem State.Cached.trans (h : s.Cached t) (k : t.Cached u) : s.Cached u := by
  unfold State.Cached at *
  rw [k, h]

theorem State.Cached.beside (h : s.Cached t) : s.Beside t := by
  unfold State.Cached at h
  unfold State.Beside
  rw [h]

theorem State.Beside.tableByte (h : s.Beside t) : t.tableByte = s.tableByte := by rw [h]; rfl
theorem State.Beside.blockKey (h : s.Beside t) : t.blockKey = s.blockKey := by rw [h]; rfl
theorem State.Beside.ownerEnt (h : s.Beside t) : t.ownerEnt = s.ownerEnt := by rw [h]; rfl
theorem State.Beside.keyEra (h : s.Beside t) : t.keyEra = s.keyEra := by rw [h]

theorem State.Cached.byteAt (h : s.Cached t) (a : Nat) : t.byteAt a = s.byteAt a := by
  have mem : t.mem = { s.mem with stks := t.mem.stks } := congrArg State.mem h
  have tables := congrFun h.beside.tableByte a
  by_cases table : s.tableByte a = none
  · rw [byteAt_outside table, byteAt_outside (tables.trans table), h.beside.blockKey, h.beside.keyEra, mem]
  · obtain ⟨⟨b, i⟩, there⟩ := Option.ne_none_iff_exists'.mp table
    rw [byteAt_table there, byteAt_table (tables.trans there), h.beside.ownerEnt]

/-! ### What a read and a line brought in leave -/

theorem mem_tset {α : Type} [DecidableEq α] {d : α} : ∀ {m : List (Nat × α)} {k : Nat} {v : α} {q : Nat × α}, q ∈ tset d m k v → q = (k, v) ∨ q ∈ m
  | [], k, v, q, h => by
    unfold tset at h
    split at h
    · exact .inr h
    · exact .inl (List.mem_singleton.mp h)
  | (i, x) :: m, k, v, q, h => by
    unfold tset at h
    split at h
    · next own =>
      split at h
      · exact .inr (.tail _ h)
      · exact (List.mem_cons.mp h).imp (own ▸ ·) (.tail _)
    · split at h
      · split at h
        · exact .inr h
        · exact List.mem_cons.mp h
      · obtain rfl | h := List.mem_cons.mp h
        · exact .inr (.head _)
        · exact (mem_tset h).imp_right (.tail _)

/-- A state that stays sound as only its slices and counts change. -/
theorem State.Cached.sound (h : s.Cached t) (sound : s.Sound) (under : t.slices.under = []) (wf : twf {} t.mem.stks = true)
    (stks : (t.mem.stks.all fun k => k.2.st != .failed) = true) : t.Sound := by
  have mem : t.mem = { s.mem with stks := t.mem.stks } := congrArg State.mem h
  obtain ⟨table, poison, -, -⟩ := sound
  refine ⟨?_, by rw [mem]; exact poison, under, stks⟩
  simp only [Memory.wf, Bool.and_eq_true] at table ⊢
  rw [mem]
  exact ⟨⟨⟨table.1.1.1, table.1.1.2⟩, table.1.2⟩, wf⟩

theorem State.Sound.stks_wf (h : s.Sound) : twf {} s.mem.stks = true := by
  have wf := h.wf
  simp only [Memory.wf, Bool.and_eq_true] at wf
  exact wf.2

theorem setFixed_cached (k n : Nat) (h : s.Sound) : s.Cached (s.setFixed k n) ∧ (s.setFixed k n).Sound :=
  ⟨rfl, State.Cached.sound (s := s) rfl h h.under h.stks_wf h.stks⟩

theorem readPlain_cached (k : Nat) (h : s.Sound) : s.Cached (s.readPlain k) ∧ (s.readPlain k).Sound := by
  unfold State.readPlain
  dsimp only
  split
  · exact ⟨rfl, h⟩
  · split
    · next q l _ =>
      split
      · exact setFixed_cached k 0 h
      · obtain ⟨cached, sound⟩ := setFixed_cached k (q.2 + 1) h
        refine ⟨cached.trans rfl, State.Cached.sound (s := s.setFixed k (q.2 + 1)) rfl sound sound.under (tset_wf _ _ _ sound.stks_wf) ?_⟩
        refine List.all_eq_true.mpr fun p mem => ?_
        obtain rfl | mem := mem_tset mem
        · obtain e | e := tget_mem ({} : Stack) (s.setFixed k (q.2 + 1)).mem.stks (s.dpaStack (32 * k)).1
          · rw [e]
            rfl
          · exact (show _ from List.all_eq_true.mp sound.stks (_, tget {} (s.setFixed k (q.2 + 1)).mem.stks _) e)
        · exact List.all_eq_true.mp sound.stks p mem
    · exact setFixed_cached k 0 h

/-- A line that leaves its slice leaves nothing behind in HBM. -/
theorem evict_cached (line : Nat) (h : s.Sound) : s.Cached (s.evict line) ∧ (s.evict line).Sound := by
  have gone : s.Cached { s with slices := { s.slices with lines := tset .absent s.slices.lines line .absent, under := tclear (4 * line) (4 * line + 4) s.slices.under } } := rfl
  have sound := gone.sound h (by show tclear _ _ s.slices.under = []; rw [h.under]; rfl) h.stks_wf h.stks
  have none_ (k : Nat) : tget 0 s.slices.under k = 0 := by rw [h.under]; rfl
  unfold State.evict
  dsimp only
  split
  · refine forEach_inv (P := fun t => s.Cached t ∧ t.Sound) (fun k t ht => ?_) _ ⟨gone, sound⟩
    rw [none_]
    exact ht
  · exact ⟨gone, sound⟩

theorem makeWay_cached (line : Nat) (h : s.Sound) : s.Cached (s.makeWay line) ∧ (s.makeWay line).Sound := by
  unfold State.makeWay
  dsimp only
  split
  · exact ⟨rfl, h⟩
  · split
    · exact ⟨rfl, h⟩
    · split
      · exact evict_cached _ h
      · exact ⟨rfl, h⟩

theorem touch_cached (dirty : Bool) (line : Nat) (h : s.Sound) : s.Cached (s.touch dirty line) ∧ (s.touch dirty line).Sound := by
  unfold State.touch
  dsimp only
  split
  · exact ⟨rfl, h⟩
  · obtain ⟨cached, sound⟩ := makeWay_cached line h
    have brought : s.Cached (if tget .absent s.slices.lines line = .absent then (s.makeWay line).fresh else s) ∧
        (if tget .absent s.slices.lines line = .absent then (s.makeWay line).fresh else s).Sound := by
      split
      · exact ⟨cached.trans rfl, State.Cached.sound (s := s.makeWay line) rfl sound sound.under sound.stks_wf sound.stks⟩
      · exact ⟨rfl, h⟩
    generalize (if tget .absent s.slices.lines line = .absent then (s.makeWay line).fresh else s) = v at brought
    exact ⟨brought.1.trans rfl, State.Cached.sound (s := v) rfl brought.2 brought.2.under brought.2.stks_wf brought.2.stks⟩

/-! ### What a write leaves -/

theorem State.Sound.cells_wf (h : s.Sound) : twf 0 s.mem.cells = true := by
  have wf := h.wf
  simp only [Memory.wf, Bool.and_eq_true] at wf
  exact wf.1.1.1

theorem State.Sound.blkKey_wf (h : s.Sound) : twf 0 s.mem.blkKey = true := by
  have wf := h.wf
  simp only [Memory.wf, Bool.and_eq_true] at wf
  exact wf.1.2

/-- The memory with other bytes and keys of blocks. -/
def State.withBytes (s : State) (cells : List Host.Cell) (keys : Tbl Nat) : State := { s with mem := { s.mem with cells := cells, blkKey := keys } }

theorem State.withBytes_beside (s : State) (cells : List Host.Cell) (keys : Tbl Nat) : s.Beside (s.withBytes cells keys) := rfl

theorem State.withBytes_sound (h : s.Sound) {cells : List Host.Cell} {keys : Tbl Nat} (hc : twf 0 cells = true) (hk : twf 0 keys = true) :
    (s.withBytes cells keys).Sound := by
  have wf := h.wf
  simp only [Memory.wf, Bool.and_eq_true] at wf
  refine ⟨?_, h.poison, h.under, h.stks⟩
  simp only [Memory.wf, Bool.and_eq_true]
  exact ⟨⟨⟨hc, wf.1.1.2⟩, hk⟩, wf.2⟩

/-- The bytes of a line lie in one block. -/
theorem line_block (a : Nat) {i : Nat} (h : i < 128) : (a / 128 * 128 + i) / 4096 = a / 4096 := by
  rw [show 4096 = 128 * 32 from rfl, ← Nat.div_div_eq_div_mul, ← Nat.div_div_eq_div_mul, Nat.mul_comm, Nat.mul_add_div (by decide), Nat.div_eq_of_lt h, Nat.add_zero]

/-- A byte whose block keeps its key, and whose line its bytes, reads as before. -/
theorem State.withBytes_byteAt {cells : List Host.Cell} {keys : Tbl Nat} {a : Nat} (key : tget 0 keys (a / 4096) = tget 0 s.mem.blkKey (a / 4096))
    (same : ∀ x, x / 4096 = a / 4096 → tget 0 cells x = tget 0 s.mem.cells x) : (s.withBytes cells keys).byteAt a = s.byteAt a := by
  have beside := s.withBytes_beside cells keys
  have tables := congrFun beside.tableByte a
  by_cases table : s.tableByte a = none
  · have line : tgetMany 0 cells (a / 128 * 128) 128 = tgetMany 0 s.mem.cells (a / 128 * 128) 128 := by
      rw [tgetMany_eq, tgetMany_eq]
      exact List.map_congr_left fun i mem => same _ (line_block a (List.mem_range.mp mem))
    rw [byteAt_outside table, byteAt_outside (tables.trans table), beside.blockKey, beside.keyEra]
    show (if tget 0 keys _ = _ then tget 0 cells a else Config.foreignByte _ (tget 0 keys _) _ _ (tgetMany 0 cells _ _) _) = _
    rw [key, line, same a rfl]
  · obtain ⟨⟨b, i⟩, there⟩ := Option.ne_none_iff_exists'.mp table
    rw [byteAt_table there, byteAt_table (tables.trans there), beside.ownerEnt]

/-- A byte of a block that lies under its owner's present key. -/
theorem byteAt_keyed {a : Nat} (table : s.tableByte a = none) (key : tget 0 s.mem.blkKey (a / 4096) = s.blockKey (a / 4096)) :
    s.byteAt a = tget 0 s.mem.cells a := by
  rw [byteAt_outside table, if_pos key]

/-- A byte of the owner table is none of the bytes and keys. -/
theorem State.Beside.byteAt_table (h : s.Beside t) {a : Nat} (table : s.tableByte a ≠ none) : t.byteAt a = s.byteAt a := by
  obtain ⟨⟨b, i⟩, there⟩ := Option.ne_none_iff_exists'.mp table
  rw [Machine.byteAt_table there, Machine.byteAt_table ((congrFun h.tableByte a).trans there), h.ownerEnt]

/-- A block brought under its owner's key reads as before (R217). -/
theorem rekeyBlock_sound (b : Nat) (h : s.Sound) : s.Beside (s.rekeyBlock b) ∧ (s.rekeyBlock b).Sound ∧
    tget 0 (s.rekeyBlock b).mem.blkKey b = s.blockKey b ∧ ∀ a, (s.rekeyBlock b).byteAt a = s.byteAt a := by
  by_cases key : tget 0 s.mem.blkKey b = s.blockKey b
  · have stays : s.rekeyBlock b = s := if_pos key
    rw [stays]
    exact ⟨rfl, h, key, fun _ => rfl⟩
  · have moves : s.rekeyBlock b = s.withBytes (tsetMany 0 s.mem.cells (4096 * b) (bytesAt s (4096 * b) 4096)) (tset 0 s.mem.blkKey b (s.blockKey b)) := if_neg key
    have cell (a : Nat) := tget_tsetMany 0 (bytesAt s (4096 * b) 4096) (4096 * b) a h.cells_wf
    have keys (k : Nat) := tget_tset 0 b (s.blockKey b) k h.blkKey_wf
    rw [moves]
    generalize hc : tsetMany 0 s.mem.cells (4096 * b) (bytesAt s (4096 * b) 4096) = cells at cell
    generalize hk : tset 0 s.mem.blkKey b (s.blockKey b) = ks at keys
    have beside := s.withBytes_beside cells ks
    refine ⟨beside, s.withBytes_sound h (hc ▸ tsetMany_wf _ _ _ h.cells_wf) (hk ▸ tset_wf _ _ _ h.blkKey_wf), (keys b).trans (if_pos rfl), fun a => ?_⟩
    by_cases table : s.tableByte a = none
    · by_cases here : a / 4096 = b
      · rw [byteAt_keyed ((congrFun beside.tableByte a).trans table) (by rw [beside.blockKey, here]; exact (keys b).trans (if_pos rfl))]
        refine (cell a).trans ?_
        rw [if_pos (by omega), bytesAt_eq, List.getElem?_map, List.getElem?_range (by omega), Option.map_some, Option.getD_some,
          Nat.add_sub_cancel' (by omega)]
      · refine State.withBytes_byteAt ((keys _).trans (if_neg here)) fun x same => ?_
        rw [cell, bytesAt_eq]
        split
        · rw [List.getElem?_eq_none (by rw [List.length_map, List.length_range]; omega)]
          rfl
        · rfl
    · exact beside.byteAt_table table

/-- Bytes written to a block that lies under its owner's key. -/
theorem writeBytes_sound {a : Nat} {bs : List Byte} (h : s.Sound) (key : tget 0 s.mem.blkKey (a / 4096) = s.blockKey (a / 4096))
    (inside : ∀ x, Covers (a, bs) x → x / 4096 = a / 4096) :
    let t := s.withBytes (tsetMany 0 s.mem.cells a bs) s.mem.blkKey
    t.Sound ∧ (∀ x, ¬ Covers (a, bs) x → t.byteAt x = s.byteAt x) ∧ ∀ x, Covers (a, bs) x → s.tableByte x = none → some (t.byteAt x) = bs[x - a]? := by
  have off {x : Nat} (out : ¬ Covers (a, bs) x) : tget 0 (tsetMany 0 s.mem.cells a bs) x = tget 0 s.mem.cells x := tget_write_off h.cells_wf out
  have on {x : Nat} (cov : Covers (a, bs) x) : some (tget 0 (tsetMany 0 s.mem.cells a bs) x) = bs[x - a]? := by
    have le : a ≤ x := cov.1
    have lt : x < a + bs.length := cov.2
    rw [tget_tsetMany 0 bs _ _ h.cells_wf, if_pos le, List.getElem?_eq_getElem (by omega)]
    rfl
  have wf := tsetMany_wf (d := 0) bs a h.cells_wf
  generalize tsetMany 0 s.mem.cells a bs = cells at off on wf
  have beside := s.withBytes_beside cells s.mem.blkKey
  refine ⟨s.withBytes_sound h wf h.blkKey_wf, fun x out => ?_, fun x cov table => ?_⟩
  · by_cases table : s.tableByte x = none
    · by_cases here : x / 4096 = a / 4096
      · rw [byteAt_keyed table (here ▸ key), byteAt_keyed ((congrFun beside.tableByte x).trans table) (by rw [beside.blockKey]; exact here ▸ key)]
        exact off out
      · exact State.withBytes_byteAt rfl fun y same => off fun cov => here (same ▸ inside y cov)
    · exact beside.byteAt_table table
  · rw [byteAt_keyed ((congrFun beside.tableByte x).trans table) (by rw [beside.blockKey, inside x cov]; exact key)]
    exact on cov

/-- A state behind a write of `bs` at `a`: it is sound, and the bytes of the write are all that changed of what memory reads as. -/
structure Wrote (s t : State) (a : Nat) (bs : List Byte) : Prop where
  beside : s.Beside t
  sound : t.Sound
  off : ∀ x, ¬ Covers (a, bs) x → t.byteAt x = s.byteAt x
  on : ∀ x, Covers (a, bs) x → some (t.byteAt x) = bs[x - a]?

/-- A write within one unit, outside the owner table. -/
theorem wrUnit_wrote {a : Nat} {bs : List Byte} (h : s.Sound) (some_ : bs ≠ []) (one : a % 32 + bs.length ≤ 32)
    (outside : ∀ x, Covers (a, bs) x → s.tableByte x = none) : Wrote s (s.wrUnit a bs) a bs := by
  have length : 0 < bs.length := List.length_pos_iff.mpr some_
  have standing : s.mem.stks.any (fun e => e.2.st == .failed) = false := by
    rw [List.any_eq_false]
    intro k mem failed
    have ok := List.all_eq_true.mp h.stks k mem
    rw [bne_iff_ne] at ok
    exact ok (beq_iff_eq.mp failed)
  have read : s.Cached (if bs.length = 32 then s else s.readPlain (a / 32)) ∧ (if bs.length = 32 then s else s.readPlain (a / 32)).Sound := by
    split
    · exact ⟨rfl, h⟩
    · exact readPlain_cached _ h
  unfold State.wrUnit
  rw [standing, h.poison]
  generalize (if bs.length = 32 then s else s.readPlain (a / 32)) = u at read
  obtain ⟨cached, sound⟩ := read
  have clear : u.clearPoison (a / 32) = u := by
    unfold State.clearPoison
    rw [sound.poison]
    exact congrArg (fun p => { u with mem := { u.mem with poison := p } }) sound.poison.symm
  rw [clear]
  obtain ⟨cached', sound'⟩ := touch_cached true (a / 128) sound
  generalize u.touch true (a / 128) = v at cached' sound'
  have cached := cached.trans cached'
  have first : v.tableByte a = none := (congrFun cached.beside.tableByte a).trans (outside a ⟨Nat.le_refl _, Nat.lt_add_of_pos_right length⟩)
  obtain ⟨beside, keyed, key, same⟩ := rekeyBlock_sound (a / 4096) sound'
  dsimp only
  rw [Bool.false_and, if_neg Bool.false_ne_true, List.contains_nil, Bool.false_and, if_neg Bool.false_ne_true, first, if_neg (by simp)]
  generalize v.rekeyBlock (a / 4096) = k at beside keyed key same
  obtain ⟨wrote, off, on⟩ := writeBytes_sound (a := a) (bs := bs) keyed (by rw [beside.blockKey]; exact key) fun x cov => by
    have le : a ≤ x := cov.1
    have lt : x < a + bs.length := cov.2
    omega
  have reaches := cached.beside.trans beside
  exact ⟨reaches.trans rfl, wrote, fun x out => (off x out).trans ((same x).trans (cached.byteAt x)),
    fun x cov => on x cov ((congrFun reaches.tableByte x).trans (outside x cov))⟩

theorem wrote_nothing (h : s.Sound) (a : Nat) : Wrote s s a [] :=
  ⟨rfl, h, fun _ _ => rfl, fun _ ⟨le, lt⟩ => absurd lt (Nat.not_lt.mpr le)⟩

/-- Two writes, the second behind the first. -/
theorem Wrote.append {a : Nat} {x y : List Byte} (h : Wrote s t a x) (k : Wrote t u (a + x.length) y) : Wrote s u a (x ++ y) := by
  refine ⟨h.beside.trans k.beside, k.sound, fun z out => ?_, fun z cov => ?_⟩
  · have first : ¬ Covers (a, x) z := fun ⟨le, lt⟩ => out ⟨le, by rw [List.length_append]; exact lt.trans_le (Nat.add_le_add_left (Nat.le_add_right _ _) _)⟩
    have second : ¬ Covers (a + x.length, y) z := fun ⟨le, lt⟩ =>
      out ⟨(Nat.le_add_right _ _).trans le, by rw [List.length_append, ← Nat.add_assoc]; exact lt⟩
    rw [k.off z second, h.off z first]
  · have le : a ≤ z := cov.1
    have lt : z < a + (x ++ y).length := cov.2
    rw [List.length_append] at lt
    by_cases early : z < a + x.length
    · rw [k.off z fun ⟨late, _⟩ => absurd early (Nat.not_lt.mpr late), h.on z ⟨le, early⟩, List.getElem?_append_left (by omega)]
    · rw [k.on z ⟨Nat.le_of_not_lt early, by show z < a + x.length + y.length; omega⟩, List.getElem?_append_right (by omega)]
      exact congrArg (y[·]?) (by omega)

theorem wrPieces_wrote : ∀ (fuel : Nat) {a : Nat} {bs : List Byte} {s : State}, bs.length < fuel → s.Sound →
    (∀ x, Covers (a, bs) x → s.tableByte x = none) → Wrote s (forEach (unitPieces fuel a bs) s fun p s => s.wrUnit p.1 p.2) a bs
  | 0, _, _, _, short, _, _ => absurd short (Nat.not_lt_zero _)
  | fuel + 1, a, bs, s, short, h, outside => by
    unfold unitPieces
    by_cases none_ : bs = []
    · subst none_
      exact wrote_nothing h a
    · have some_ : 0 < bs.length := List.length_pos_iff.mpr none_
      have room : 0 < 32 - a % 32 := by omega
      rw [if_neg (by simpa using none_)]
      generalize hk : 32 - a % 32 = k at room
      have first : Wrote s (s.wrUnit a (bs.take k)) a (bs.take k) := by
        refine wrUnit_wrote h (by simp [none_]; omega) (by rw [List.length_take]; omega) fun x cov => outside x ⟨cov.1, ?_⟩
        have lt : x < a + (bs.take k).length := cov.2
        rw [List.length_take] at lt
        show x < a + bs.length
        omega
      by_cases all : bs.length ≤ k
      · have last : bs.drop k = [] := List.drop_eq_nil_of_le all
        have rest : unitPieces fuel (a + k) (bs.drop k) = [] := by
          rw [last]
          cases fuel <;> rfl
        dsimp only
        rw [rest]
        rw [List.take_of_length_le all] at first ⊢
        exact first
      · have length : (bs.take k).length = k := by rw [List.length_take]; omega
        have more := wrPieces_wrote fuel (a := a + k) (bs := bs.drop k) (by rw [List.length_drop]; omega) first.sound fun x cov => by
          rw [first.beside.tableByte]
          have le : a + k ≤ x := cov.1
          have lt : x < a + k + (bs.drop k).length := cov.2
          rw [List.length_drop] at lt
          exact outside x ⟨by show a ≤ x; omega, by show x < a + bs.length; omega⟩
        have both := first.append (y := bs.drop k) (u := forEach (unitPieces fuel (a + k) (bs.drop k)) (s.wrUnit a (bs.take k)) fun p s => s.wrUnit p.1 p.2)
          (by rw [length]; exact more)
        rw [List.take_append_drop] at both
        exact both

/-- A write outside the owner table. -/
theorem wrDpa_wrote {a : Nat} {bs : List Byte} (h : s.Sound) (outside : ∀ x, Covers (a, bs) x → s.tableByte x = none) : Wrote s (s.wrDpa a bs) a bs :=
  wrPieces_wrote _ (Nat.lt_succ_self _) h outside

/-- The writes of a list, in its order. -/
def State.wrDpas (s : State) (ws : List (Nat × List Byte)) : State := forEach ws s fun w s => s.wrDpa w.1 w.2

theorem wrDpas_off : ∀ (ws : List (Nat × List Byte)) {s : State}, s.Sound → (∀ w ∈ ws, ∀ x, Covers w x → s.tableByte x = none) →
    s.Beside (s.wrDpas ws) ∧ (s.wrDpas ws).Sound ∧ ∀ x, (∀ w ∈ ws, ¬ Covers w x) → (s.wrDpas ws).byteAt x = s.byteAt x
  | [], _, h, _ => ⟨rfl, h, fun _ _ => rfl⟩
  | w :: ws, s, h, outside => by
    have first := wrDpa_wrote h (outside w (.head _))
    obtain ⟨beside, sound, off⟩ := wrDpas_off ws first.sound fun v mem x cov => (congrFun first.beside.tableByte x).trans (outside v (.tail _ mem) x cov)
    exact ⟨first.beside.trans beside, sound, fun x out => (off x fun v mem => out v (.tail _ mem)).trans (first.off x (out w (.head _)))⟩

/-- Of several writes the last that covers a byte remains. -/
theorem wrDpas_last {pre post : List (Nat × List Byte)} {w : Nat × List Byte} (h : s.Sound)
    (outside : ∀ v ∈ pre ++ w :: post, ∀ x, Covers v x → s.tableByte x = none) {x : Nat} (cov : Covers w x) (later : ∀ v ∈ post, ¬ Covers v x) :
    some ((s.wrDpas (pre ++ w :: post)).byteAt x) = w.2[x - w.1]? := by
  have split : s.wrDpas (pre ++ w :: post) = ((s.wrDpas pre).wrDpa w.1 w.2).wrDpas post := by
    unfold State.wrDpas forEach
    rw [List.foldl_append, List.foldl_cons]
  obtain ⟨beside, sound, -⟩ := wrDpas_off pre h fun v mem => outside v (List.mem_append_left _ mem)
  have own := wrDpa_wrote (a := w.1) (bs := w.2) sound fun y cov =>
    (congrFun beside.tableByte y).trans (outside w (List.mem_append_right _ (.head _)) y cov)
  obtain ⟨-, -, off⟩ := wrDpas_off post own.sound fun v mem y cov =>
    (congrFun (beside.trans own.beside).tableByte y).trans (outside v (List.mem_append_right _ (.tail _ mem)) y cov)
  rw [split, off x later]
  exact own.on x cov

end Sys2Proof.Machine

end

section
/-! PROOF. Local memory under the loads and stores of a group: registers filled from bytes, and writes that stay within one unit (R161, R164, R206). -/

namespace Sys2Proof.Machine

/-! ### Sizes and the words that a load makes (R161) -/

theorem memSize_cases (m : Nat) : memSize m = 1 ∨ memSize m = 2 ∨ memSize m = 4 ∨ memSize m = 8 ∨ memSize m = 16 := by
  unfold memSize
  split <;> simp

theorem memSize_pos (m : Nat) : 0 < memSize m := by
  have := memSize_cases m
  omega

/-- An access at a multiple of its size lies within one unit. -/
theorem aligned_one {m a : Nat} (aligned : a % memSize m = 0) : a % 32 + memSize m ≤ 32 := by
  obtain h | h | h | h | h := memSize_cases m <;> rw [h] at aligned ⊢ <;> omega

theorem append_byte {n : Nat} (x : BitVec n) (y : Byte) : (x ++ y).toNat = 256 * x.toNat + y.toNat := by
  rw [BitVec.toNat_append, Nat.shiftLeft_eq, Nat.mul_comm, ← Nat.two_pow_add_eq_or_of_lt y.isLt]

/-- Four bytes as a word, least significant first. -/
theorem word_of_bytes (p q r t : Byte) : BitVec.ofNat 32 (ofBytes [p, q, r, t]) = t ++ r ++ q ++ p := by
  refine BitVec.eq_of_toNat_eq ?_
  have fits : (t ++ r ++ q ++ p).toNat < 2 ^ 32 := (t ++ r ++ q ++ p).isLt
  rw [BitVec.toNat_ofNat, append_byte, append_byte, append_byte] at *
  simp only [ofBytes]
  omega

/-- The word of a value extended without its sign. -/
theorem word_zero (v : Nat) (h : v < 2 ^ 32) : BitVec.ofNat 32 (ofBytes ((toBytes 4 v).take 4)) = BitVec.ofNat 32 v := by
  rw [List.take_of_length_le (by rw [toBytes_length]), ofBytes_toBytes, Nat.mod_eq_of_lt (by omega)]

/-- The word of a value extended by its sign. -/
theorem word_sign {n : Nat} (v : BitVec (n + 1)) : BitVec.ofNat 32 (ofBytes ((toBytes 4 (sext (n + 1) v.toNat % (2 ^ 32 : Int)).toNat).take 4)) = v.signExtend 32 := by
  rw [word_zero _ (by omega), ofNat_toNat_emod, sext_toNat]
  rfl

/-- Each word of a loaded value is the word of R161. -/
theorem memExtend_word {m i : Nat} (b : Nat → Byte) (listed : m ≤ 6) (inside : 4 * i < memSize m) :
    BitVec.ofNat 32 (ofBytes (((memExtend m ((List.range (memSize m)).map b)).drop (4 * i)).take 4)) = loadedWord m b i := by
  have low (lt : memSize m ≤ 4) : i = 0 := by omega
  have byte := (b 0).isLt
  have both := (b 1 ++ b 0).isLt
  have half : ofBytes [b 0, b 1] = (b 1 ++ b 0).toNat := by rw [append_byte]; simp only [ofBytes]; omega
  have word (i : Nat) : BitVec.ofNat 32 (ofBytes [b (4 * i), b (4 * i + 1), b (4 * i + 2), b (4 * i + 3)]) = b (4 * i + 3) ++ b (4 * i + 2) ++ b (4 * i + 1) ++ b (4 * i) :=
    word_of_bytes ..
  have zero (v : Nat) (lt : v < 2 ^ 32) : BitVec.ofNat 32 (ofBytes (((toBytes 4 v).drop (4 * 0)).take 4)) = BitVec.ofNat 32 v := word_zero v lt
  match m, listed with
  | 0, _ =>
    obtain rfl := low (by decide)
    show BitVec.ofNat 32 (ofBytes (((toBytes 4 (ofBytes [b 0])).drop (4 * 0)).take 4)) = (b 0).zeroExtend 32
    rw [zero _ (by simp only [ofBytes]; omega)]
    exact BitVec.eq_of_toNat_eq (by simp [ofBytes])
  | 1, _ =>
    obtain rfl := low (by decide)
    show BitVec.ofNat 32 (ofBytes (((toBytes 4 (ofBytes [b 0, b 1])).drop (4 * 0)).take 4)) = (b 1 ++ b 0).zeroExtend 32
    rw [half, zero _ (by omega)]
    exact BitVec.eq_of_toNat_eq (by simp)
  | 2, _ =>
    obtain rfl := low (by decide)
    show BitVec.ofNat 32 (ofBytes (((toBytes 4 (ofBytes [b 0, b 1, b 2, b 3])).drop (4 * 0)).take 4)) = b (4 * 0 + 3) ++ b (4 * 0 + 2) ++ b (4 * 0 + 1) ++ b (4 * 0)
    rw [zero _ (by have := ofBytes_lt [b 0, b 1, b 2, b 3]; simpa using this)]
    exact word 0
  | 3, _ =>
    have few : i < 2 := by change 4 * i < 8 at inside; omega
    match i, few with
    | 0, _ => exact word 0
    | 1, _ => exact word 1
  | 4, _ =>
    have few : i < 4 := by change 4 * i < 16 at inside; omega
    match i, few with
    | 0, _ => exact word 0
    | 1, _ => exact word 1
    | 2, _ => exact word 2
    | 3, _ => exact word 3
  | 5, _ =>
    obtain rfl := low (by decide)
    have one : ofBytes [b 0] = (b 0).toNat := by simp [ofBytes]
    show BitVec.ofNat 32 (ofBytes ((toBytes 4 (sext 8 (ofBytes [b 0]) % (2 ^ 32 : Int)).toNat).take 4)) = (b 0).signExtend 32
    rw [one]
    exact word_sign (b 0)
  | 6, _ =>
    obtain rfl := low (by decide)
    show BitVec.ofNat 32 (ofBytes ((toBytes 4 (sext 16 (ofBytes [b 0, b 1]) % (2 ^ 32 : Int)).toNat).take 4)) = (b 1 ++ b 0).signExtend 32
    rw [half]
    exact word_sign (b 1 ++ b 0)

/-- As many words as registers (Table 7.3). -/
theorem memExtend_words {m : Nat} (b : Nat → Byte) (listed : m ≤ 6) : cdiv (memExtend m ((List.range (memSize m)).map b)).length 4 = max 1 (memSize m / 4) := by
  match m, listed with
  | 0, _ | 1, _ | 2, _ | 3, _ | 4, _ | 5, _ | 6, _ => simp [memExtend, memSize, toBytes_length, cdiv]

/-! ### Registers filled from bytes -/

/-- The register file after `setWords`: the words stand from register `d` of the lane on. -/
theorem Group.setWords_reg (x : Group) (l d : Nat) (bs : List Byte) (fits : d + cdiv bs.length 4 ≤ 256) :
    ∃ rs, x.setWords l d bs = { x with regs := rs } ∧ ∀ m r, r < 256 → ({ x with regs := rs } : Group).reg m r =
      if m = l ∧ d ≤ r ∧ r < d + cdiv bs.length 4 then BitVec.ofNat 32 (ofBytes ((bs.drop (4 * (r - d))).take 4)) else x.reg m r := by
  unfold Group.setWords
  generalize cdiv bs.length 4 = n at fits
  induction n with
  | zero => exact ⟨x.regs, rfl, fun m r _ => by rw [if_neg (by omega)]⟩
  | succ n ih =>
    obtain ⟨rs, fold, regs⟩ := ih (by omega)
    rw [List.range_succ, List.foldl_append, fold]
    refine ⟨_, rfl, fun m r lt => ?_⟩
    refine (Group.setReg_reg { x with regs := rs } l (d + n) (ofBytes ((bs.drop (4 * n)).take 4)) m r (by omega) lt).trans ?_
    rw [regs m r lt]
    by_cases last : m = l ∧ r = d + n
    · obtain ⟨rfl, rfl⟩ := last
      rw [if_pos ⟨rfl, rfl⟩, if_pos ⟨rfl, by omega, by omega⟩, Nat.add_sub_cancel_left]
    · rw [if_neg last]
      exact if_congr (by omega) rfl rfl

/-- The same for each lane of a list, each with bytes of its own. -/
theorem Group.foldl_setWords (d k : Nat) (B : Nat → List Byte) (fits : d + k ≤ 256) (length : ∀ l, cdiv (B l).length 4 = k) : ∀ (ls : List Nat) (x : Group),
    ∃ rs, ls.foldl (fun gr l => gr.setWords l d (B l)) x = { x with regs := rs } ∧ ∀ m r, r < 256 → ({ x with regs := rs } : Group).reg m r =
      if m ∈ ls ∧ d ≤ r ∧ r < d + k then BitVec.ofNat 32 (ofBytes (((B m).drop (4 * (r - d))).take 4)) else x.reg m r
  | [], x => ⟨x.regs, rfl, fun m r _ => by rw [if_neg (by simp)]⟩
  | l :: ls, x => by
    obtain ⟨rs, first, regs⟩ := Group.setWords_reg x l d (B l) (by rw [length]; exact fits)
    obtain ⟨rs', rest, regs'⟩ := foldl_setWords d k B fits length ls (x.setWords l d (B l))
    refine ⟨rs', by rw [List.foldl_cons, rest, first], fun m r lt => ?_⟩
    have := regs' m r lt
    rw [first] at this
    refine this.trans ?_
    rw [regs m r lt, length]
    by_cases later : m ∈ ls ∧ d ≤ r ∧ r < d + k
    · rw [if_pos later, if_pos ⟨.tail _ later.1, later.2⟩]
    · rw [if_neg later]
      by_cases own : m = l ∧ d ≤ r ∧ r < d + k
      · rw [if_pos own, if_pos ⟨own.1 ▸ .head _, own.2⟩, own.1]
      · rw [if_neg own, if_neg]
        rintro ⟨mem, range⟩
        obtain rfl | mem := List.mem_cons.mp mem
        · exact own ⟨rfl, range⟩
        · exact later ⟨mem, range⟩

theorem Group.bytes_length (x : Group) (l r n : Nat) : (x.bytes l r n).length = n := by
  have all : (((List.range (cdiv n 4)).flatMap fun i => toBytes 4 (x.reg l (r + i)).toNat)).length = 4 * cdiv n 4 := by
    rw [List.length_flatMap]
    simp [toBytes_length, Nat.mul_comm]
  unfold Group.bytes
  rw [List.length_take, all]
  unfold cdiv
  omega

/-! ### Writes within one unit of local memory -/

theorem unitPieces_one {a : Nat} {bs : List Byte} (some_ : bs ≠ []) (one : a % 32 + bs.length ≤ 32) : unitPieces (bs.length + 1) a bs = [(a, bs)] := by
  have length := List.length_pos_iff.mpr some_
  have all : bs.length ≤ 32 - a % 32 := by omega
  unfold unitPieces
  rw [if_neg (by simpa using some_)]
  dsimp only
  rw [List.take_of_length_le all, List.drop_eq_nil_of_le all]
  match bs.length, length with
  | n + 1, _ => rfl

theorem unitsOf_one {a n : Nat} (pos : 0 < n) (one : a % 32 + n ≤ 32) : unitsOf a n = [a / 32] := by
  unfold unitsOf
  rw [if_neg (by omega), show (a + n - 1) / 32 + 1 - a / 32 = 1 by omega]
  simp

/-- The words of an access are those that it has a first byte of. -/
theorem memSize_word {m i : Nat} (inside : 4 * i < memSize m) : i < max 1 (memSize m / 4) := by
  obtain size | size | size | size | size := memSize_cases m
  all_goals
    rw [size] at inside ⊢
    omega

/-- An access within one unit meets poison where that unit is poisoned. -/
theorem Core.poisoned_one (k : Core) {a n : Nat} (pos : 0 < n) (one : a % 32 + n ≤ 32) : k.poisoned a n = k.poison.contains (a / 32) := by
  unfold Core.poisoned anyIn
  rw [unitsOf_one pos one]
  cases h : k.poison <;> simp

variable {s : State} {c : Nat}

/-- A write within a unit that is not poisoned. -/
theorem Core.wr_one {k : Core} {a : Nat} {bs : List Byte} (some_ : bs ≠ []) (one : a % 32 + bs.length ≤ 32) (clean : a / 32 ∉ k.poison) :
    ∃ hits, k.wr a bs = (k.written (tsetMany 0 k.mem a bs) hits, []) := by
  refine ⟨(widePairs k.wide a bs.length).foldl (fun l i => insertSorted i l) k.hits, ?_⟩
  unfold Core.wr
  dsimp only
  rw [unitPieces_one some_ one, List.foldl_cons, List.foldl_nil]
  dsimp only
  rw [if_neg (by simpa using clean)]
  rfl

/-- A write within one unit, of a part of it: poison stays, and every byte of another unit. -/
theorem Core.wr_part {k : Core} {a : Nat} {bs : List Byte} (wf : twf 0 k.mem = true) (some_ : bs ≠ []) (one : a % 32 + bs.length ≤ 32) (part : bs.length ≠ 32) :
    ∃ m hits drops, k.wr a bs = (k.written m hits, drops) ∧ twf 0 m = true ∧ ∀ x, x / 32 ≠ a / 32 → tget 0 m x = tget 0 k.mem x := by
  by_cases clean : a / 32 ∈ k.poison
  · refine ⟨k.mem, (widePairs k.wide a bs.length).foldl (fun l i => insertSorted i l) k.hits, [a], ?_, wf, fun _ _ => rfl⟩
    unfold Core.wr
    dsimp only
    rw [unitPieces_one some_ one, List.foldl_cons, List.foldl_nil]
    dsimp only
    rw [if_pos (by simpa using clean), if_neg part]
    rfl
  · obtain ⟨hits, wr⟩ := Core.wr_one some_ one clean
    refine ⟨_, hits, [], wr, tsetMany_wf _ _ _ wf, fun x other => tget_write_off (w := (a, bs)) wf fun ⟨le, lt⟩ => other ?_⟩
    dsimp only at le lt
    omega

end Sys2Proof.Machine

end

section
/-! PROOF. Local loads and stores (the local half of O16; R161, R164, R201, R206). -/

namespace Sys2Proof.Machine

variable {s : State} {c : Nat}

/-! ### Writes of several lanes -/

/-- A write of a lane to local memory that lies within one unit. -/
def OneUnit (w : Nat × List Byte) : Prop := w.2 ≠ [] ∧ w.1 % 32 + w.2.length ≤ 32

/-- Writes within units that are not poisoned: of the state only their core changed, and of that only memory and what is noted of the wide buffer. -/
theorem State.wrLocals_one : ∀ (ws : List (Nat × List Byte)) {s : State}, twf {} s.cores = true → (∀ w ∈ ws, OneUnit w ∧ w.1 / 32 ∉ (s.core c).poison) →
    let t := forEach ws s fun w s => s.wrLocal c w.1 w.2
    (∃ hits, t.core c = (s.core c).written (setBytes (s.core c).mem ws) hits) ∧ t = { s with cores := t.cores } ∧ ∀ i, i ≠ c → t.core i = s.core i
  | [], s, w, _ => ⟨⟨(s.core c).hits, rfl⟩, rfl, fun _ _ => rfl⟩
  | x :: ws, s, w, clean => by
    obtain ⟨⟨some_, one⟩, sound⟩ := clean x (.head _)
    obtain ⟨hits, wr⟩ := Core.wr_one some_ one sound
    have first : s.wrLocal c x.1 x.2 = s.setCore c ((s.core c).written (tsetMany 0 (s.core c).mem x.1 x.2) hits) := by
      unfold State.wrLocal
      rw [wr]
      rfl
    have core : (s.wrLocal c x.1 x.2).core c = (s.core c).written (tsetMany 0 (s.core c).mem x.1 x.2) hits := by
      rw [first]
      exact State.core_setCore_self w _
    obtain ⟨⟨hits', end_⟩, only, others⟩ := State.wrLocals_one ws (s := s.wrLocal c x.1 x.2) (by rw [first]; exact State.setCore_cores_wf w _)
      fun v mem => ⟨(clean v (.tail _ mem)).1, by rw [core]; exact (clean v (.tail _ mem)).2⟩
    refine ⟨⟨hits', end_.trans (by rw [core]; rfl)⟩, only.trans ?_, fun i other => (others i other).trans ?_⟩
    · show _ = { s with cores := (forEach ws (s.wrLocal c x.1 x.2) fun w s => s.wrLocal c w.1 w.2).cores }
      generalize (forEach ws (s.wrLocal c x.1 x.2) fun w s => s.wrLocal c w.1 w.2).cores = cores
      rw [first]
      rfl
    · rw [first, State.core_setCore w, if_neg other]

/-- Entries of the ledger leave the cores. -/
theorem forEach_ledger_cores {α : Type} (f : State → α → State) (keeps : ∀ s x, (f s x).cores = s.cores) (l : List α) (s : State) :
    (forEach l s fun x s => f s x).cores = s.cores :=
  forEach_inv (P := fun t => t.cores = s.cores) (fun x t h => (keeps t x).trans h) l rfl

/-- Writes of parts of units: poison stays, and so does every byte of a unit that no lane writes. -/
theorem State.wrLocals_part : ∀ (ws : List (Nat × List Byte)) {s : State}, twf {} s.cores = true → twf 0 (s.core c).mem = true →
    (∀ w ∈ ws, OneUnit w ∧ w.2.length ≠ 32) →
    let t := forEach ws s fun w s => s.wrLocal c w.1 w.2
    (t.core c).poison = (s.core c).poison ∧ ∀ x, (∀ w ∈ ws, w.1 / 32 ≠ x / 32) → tget 0 (t.core c).mem x = tget 0 (s.core c).mem x
  | [], _, _, _, _ => ⟨rfl, fun _ _ => rfl⟩
  | x :: ws, s, w, wm, parts => by
    obtain ⟨⟨some_, one⟩, part⟩ := parts x (.head _)
    obtain ⟨m, hits, drops, wr, wf, same⟩ := Core.wr_part wm some_ one part
    have cores : (s.wrLocal c x.1 x.2).cores = (s.setCore c ((s.core c).written m hits)).cores := by
      unfold State.wrLocal
      rw [wr]
      exact forEach_ledger_cores (fun s d => s.ledger 0x0508 0 0x03 c none (d / 32 * 32) 2) (fun _ _ => State.ledger_cores ..) drops _
    have core : (s.wrLocal c x.1 x.2).core c = (s.core c).written m hits := (State.core_congr cores c).trans (State.core_setCore_self w _)
    obtain ⟨poison, kept⟩ := State.wrLocals_part ws (s := s.wrLocal c x.1 x.2) (cores ▸ State.setCore_cores_wf w _) (by rw [core]; exact wf)
      fun v mem => parts v (.tail _ mem)
    refine ⟨poison.trans (by rw [core]; rfl), fun y off => (kept y fun v mem => off v (.tail _ mem)).trans ?_⟩
    rw [core]
    exact same y (off x (.head _)).symm

/-! ### The store of one instruction -/

theorem mem_laneUnits {ls : List (Nat × List Byte)} (ones : ∀ w ∈ ls, OneUnit w) {u : Nat} : u ∈ laneUnits ls ↔ ∃ w ∈ ls, w.1 / 32 = u := by
  unfold laneUnits
  rw [List.mem_dedup, List.mem_flatMap]
  refine exists_congr fun w => and_congr_right fun mem => ?_
  obtain ⟨some_, one⟩ := ones w mem
  rw [unitsOf_one (List.length_pos_iff.mpr some_) one, List.mem_singleton, eq_comm]

theorem lanesCover_iff {ls : List (Nat × List Byte)} {u : Nat} : lanesCover ls u = true ↔ ∀ i, i < 32 → ∃ w ∈ ls, Covers w (32 * u + i) := by
  simp only [lanesCover, List.all_eq_true, List.mem_range, List.any_eq_true, Bool.and_eq_true, decide_eq_true_eq, Covers]

/-- A store none of whose units is poisoned writes its lanes in order. -/
theorem State.storeLocal_clean {ls : List (Nat × List Byte)} (ones : ∀ w ∈ ls, OneUnit w) (clean : ∀ w ∈ ls, w.1 / 32 ∉ (s.core c).poison) :
    s.storeLocal c ls = forEach ls s fun w s => s.wrLocal c w.1 w.2 := by
  have none_ : (laneUnits ls).filter (s.core c).poison.contains = [] := List.filter_eq_nil_iff.mpr fun u mem => by
    obtain ⟨w, at_, rfl⟩ := (mem_laneUnits ones).mp mem
    simpa using clean w at_
  unfold State.storeLocal
  rw [none_]
  rfl

/-- What a store leaves of a poisoned unit: its poison goes where the lanes cover it, else it stays with its bytes (R206). -/
theorem State.storeLocal_poisoned {ls : List (Nat × List Byte)} (w : twf {} s.cores = true) (wm : twf 0 (s.core c).mem = true)
    (ones : ∀ w ∈ ls, OneUnit w ∧ w.2.length ≠ 32) {u : Nat} (bad : u ∈ (s.core c).poison) :
    (lanesCover ls u = true → u ∉ ((s.storeLocal c ls).core c).poison) ∧
      (lanesCover ls u = false → u ∈ ((s.storeLocal c ls).core c).poison ∧
        ∀ a, a / 32 = u → tget 0 ((s.storeLocal c ls).core c).mem a = tget 0 (s.core c).mem a) := by
  have units {v : Nat} := mem_laneUnits (u := v) fun w mem => (ones w mem).1
  have touched (covered : lanesCover ls u = true) : u ∈ laneUnits ls := by
    obtain ⟨x, mem, le, lt⟩ := lanesCover_iff.mp covered 0 (by decide)
    have one := (ones x mem).1.2
    exact units.mpr ⟨x, mem, by omega⟩
  unfold State.storeLocal
  dsimp only
  by_cases none_ : ((laneUnits ls).filter (s.core c).poison.contains).isEmpty = true
  · have apart : u ∉ laneUnits ls := fun mem => by
      have here : u ∈ (laneUnits ls).filter (s.core c).poison.contains := List.mem_filter.mpr ⟨mem, by simpa using bad⟩
      rw [List.isEmpty_iff.mp none_] at here
      exact absurd here List.not_mem_nil
    rw [if_pos none_]
    obtain ⟨poison, kept⟩ := State.wrLocals_part ls w wm ones
    refine ⟨fun covered => absurd (touched covered) apart, fun _ => ⟨poison ▸ bad, fun a here => kept a fun x mem same => apart (units.mpr ⟨x, mem, same.trans here⟩)⟩⟩
  · rw [if_neg none_]
    have listed {v : Nat} : v ∈ (laneUnits ls).filter (s.core c).poison.contains ↔ v ∈ laneUnits ls ∧ v ∈ (s.core c).poison := by simp
    generalize (laneUnits ls).filter (s.core c).poison.contains = bads at listed
    generalize hp : (bads.filter fun u => !lanesCover ls u) = part
    have parts {v : Nat} : v ∈ part ↔ v ∈ bads ∧ lanesCover ls v = false := by rw [← hp]; simp
    generalize hf : (fun k : Core => { k with poison := k.poison.filter fun u => !(bads.contains u && lanesCover ls u) }) = f
    have freed : (f (s.core c)).poison = (s.core c).poison.filter fun u => !(bads.contains u && lanesCover ls u) := by rw [← hf]
    have same : (f (s.core c)).mem = (s.core c).mem := by rw [← hf]
    generalize hv : forEach part (s.modCore c f) _ = v
    have cores : v.cores = (s.modCore c f).cores := by
      rw [← hv]
      exact forEach_ledger_cores (fun s u => s.ledger 0x0508 0 0x03 c none (32 * u) 2) (fun _ _ => State.ledger_cores ..) part _
    have core : v.core c = f (s.core c) := (State.core_congr cores c).trans (State.core_modCore w f)
    obtain ⟨poison, kept⟩ := State.wrLocals_part (c := c) (ls.filter fun e => !part.contains (e.1 / 32)) (s := v) (cores ▸ State.modCore_cores_wf w f)
      (by rw [core, same]; exact wm) fun x mem => ones x (List.mem_filter.mp mem).1
    rw [poison, core, freed]
    refine ⟨fun covered mem => ?_, fun uncovered => ⟨?_, fun a here => ?_⟩⟩
    · have gone := (List.mem_filter.mp mem).2
      rw [covered, List.contains_iff_mem.mpr (listed.mpr ⟨touched covered, bad⟩)] at gone
      cases gone
    · exact List.mem_filter.mpr ⟨bad, by rw [uncovered, Bool.and_false]; rfl⟩
    · refine (kept a fun x mem same => ?_).trans (by rw [core, same])
      obtain ⟨lane, apart⟩ := List.mem_filter.mp mem
      have inPart : x.1 / 32 ∈ part := parts.mpr ⟨listed.mpr ⟨units.mpr ⟨x, lane, rfl⟩, by rw [same, here]; exact bad⟩, by rw [same, here]; exact uncovered⟩
      rw [List.contains_iff_mem.mpr inPart] at apart
      cases apart

/-! ### The checks of the lanes -/

/-- The first lane that fails its check. -/
theorem firstErr_local (ad : Nat → Nat) (n : Nat) : ∀ ls : List Nat, firstErr (fun l => localCheck (ad l) n) ls =
    (ls.find? fun l => decide (0x300000 ≤ ad l) || ad l % n != 0).map fun l => (if 0x300000 ≤ ad l then causeBounds else causeAlign, ad l)
  | [] => rfl
  | l :: ls => by
    have ih := firstErr_local ad n ls
    unfold firstErr at *
    rw [List.findSome?_cons, List.find?_cons, ih]
    unfold localCheck
    by_cases bounds : 0x300000 ≤ ad l
    · simp [bounds]
    · by_cases aligned : ad l % n = 0
      · simp [bounds, aligned]
      · have off : (ad l % n != 0) = true := bne_iff_ne.mpr aligned
        rw [off]
        simp [bounds, aligned]

theorem firstErr_sound {ad : Nat → Nat} {n : Nat} {ls : List Nat} (sound : ∀ l ∈ ls, ad l < 0x300000 ∧ ad l % n = 0) :
    firstErr (fun l => localCheck (ad l) n) ls = none := by
  have none_ : (ls.find? fun l => decide (0x300000 ≤ ad l) || ad l % n != 0) = none := List.find?_eq_none.mpr fun l mem => by
    obtain ⟨inside, aligned⟩ := sound l mem
    simp [aligned]
    omega
  rw [firstErr_local, none_]
  rfl

section
variable {c : CoreNo} {g : SlotNo} {w : W64} {e : IEnv}

/-- The fields of a load or store of local memory. -/
def localUses (w : W64) : Uses := { form := .fM, listed := true, d := memUse (wMod w), a := .reg }

/-- The unit that the lowest lane of a local load reads, with its symbols in error. -/
def IEnv.readLowest (e : IEnv) (errs : SymErrs) (s : State) : State :=
  match e.ex with
  | l :: _ => s.readLocalUnit e.c (e.localAddr (wOffM e.w) l / 32) errs
  | [] => s

theorem exec_ldl_bad (m : wMod w ≤ 6) (h : Issues s c g w 0x40 (localUses w) e) (some_ : e.ex ≠ []) (errs : SymErrs) :
    exec (.ldl c g w true errs) s = .next (e.fault 0x12 0 s) := by
  show execLdl c g w true errs s = _
  unfold execLdl
  dsimp only
  rw [decide_eq_true m]
  refine (congrArg Host.Outcome.next (State.issue_of h _)).trans ?_
  unfold IEnv.addressed
  rw [if_pos (by simpa using some_)]

theorem exec_ldl_check (m : wMod w ≤ 6) (h : Issues s c g w 0x40 (localUses w) e) {cause a : Nat}
    (fails : firstErr (fun l => localCheck (e.localAddr (wOffM w) l) (memSize (wMod w))) e.ex = some (cause, a)) (errs : SymErrs) :
    exec (.ldl c g w false errs) s = .next (e.fault cause a s) := by
  show execLdl c g w false errs s = _
  unfold execLdl
  dsimp only
  rw [decide_eq_true m]
  refine (congrArg Host.Outcome.next (State.issue_of h _)).trans ?_
  unfold IEnv.addressed
  dsimp only
  rw [fails]
  rfl

theorem exec_ldl_reads (m : wMod w ≤ 6) (h : Issues s c g w 0x40 (localUses w) e)
    (sound : firstErr (fun l => localCheck (e.localAddr (wOffM w) l) (memSize (wMod w))) e.ex = none) (errs : SymErrs) :
    let ad := e.localAddr (wOffM w)
    let t := e.readLowest errs s
    (∀ l, e.ex.find? (fun l => (t.core c).poisoned (ad l) (memSize (wMod w))) = some l → exec (.ldl c g w false errs) s = .next (e.fault 0x11 (ad l) t)) ∧
      (e.ex.find? (fun l => (t.core c).poisoned (ad l) (memSize (wMod w))) = none → exec (.ldl c g w false errs) s =
        .next (e.retire (e.ex.foldl (fun gr l => gr.setWords l (wD w) (memExtend (wMod w) ((t.core c).rd (ad l) (memSize (wMod w))))) e.gr) t)) := by
  have run : exec (.ldl c g w false errs) s = .next (match ((e.readLowest errs s).core c).poisonedLane (memSize (wMod w)) (e.ex.map (e.localAddr (wOffM w))) with
      | some a => e.fault causePoison a (e.readLowest errs s)
      | none => e.retire (e.ex.foldl (fun gr l => gr.setWords l (wD w) (memExtend (wMod w)
          (((e.readLowest errs s).core c).rd (e.localAddr (wOffM w) l) (memSize (wMod w))))) e.gr) (e.readLowest errs s)) := by
    show execLdl c g w false errs s = _
    unfold execLdl
    dsimp only
    rw [decide_eq_true m]
    refine (congrArg Host.Outcome.next (State.issue_of h _)).trans ?_
    unfold IEnv.addressed
    dsimp only
    rw [sound]
    unfold IEnv.readLowest
    rw [h.core, h.word]
    rfl
  dsimp only
  rw [run]
  unfold Core.poisonedLane
  rw [List.find?_map]
  refine ⟨fun l found => ?_, fun none_ => ?_⟩
  · have at_ : e.ex.find? ((fun a => ((e.readLowest errs s).core c).poisoned a (memSize (wMod w))) ∘ e.localAddr (wOffM w)) = some l := found
    rw [at_]
    rfl
  · have at_ : e.ex.find? ((fun a => ((e.readLowest errs s).core c).poisoned a (memSize (wMod w))) ∘ e.localAddr (wOffM w)) = none := none_
    rw [at_]
    rfl

theorem exec_stl_bad (m : wMod w ≤ 6) (h : Issues s c g w 0x41 (localUses w) e) (some_ : e.ex ≠ []) :
    exec (.stl c g w true) s = .next (e.fault 0x12 0 s) := by
  show execStl c g w true s = _
  unfold execStl
  dsimp only
  rw [decide_eq_true m]
  refine (congrArg Host.Outcome.next (State.issue_of h _)).trans ?_
  unfold IEnv.addressed
  rw [if_pos (by simpa using some_)]

theorem exec_stl_check (m : wMod w ≤ 6) (h : Issues s c g w 0x41 (localUses w) e) {cause a : Nat}
    (fails : firstErr (fun l => localCheck (e.localAddr (wOffM w) l) (memSize (wMod w))) e.ex = some (cause, a)) :
    exec (.stl c g w false) s = .next (e.fault cause a s) := by
  show execStl c g w false s = _
  unfold execStl
  dsimp only
  rw [decide_eq_true m]
  refine (congrArg Host.Outcome.next (State.issue_of h _)).trans ?_
  unfold IEnv.addressed
  dsimp only
  rw [fails]
  rfl

/-- What the lanes of a local store write. -/
def IEnv.localWrites (e : IEnv) (w : W64) : List (Nat × List Byte) :=
  e.ex.map fun l => (e.localAddr (wOffM w) l, e.gr.bytes l (wD w) (memSize (wMod w)))

theorem exec_stl_writes (m : wMod w ≤ 6) (h : Issues s c g w 0x41 (localUses w) e)
    (sound : firstErr (fun l => localCheck (e.localAddr (wOffM w) l) (memSize (wMod w))) e.ex = none) :
    exec (.stl c g w false) s = .next (e.retire e.gr (s.storeLocal c (e.localWrites w))) := by
  show execStl c g w false s = _
  unfold execStl
  dsimp only
  rw [decide_eq_true m]
  refine (congrArg Host.Outcome.next (State.issue_of h _)).trans ?_
  unfold IEnv.addressed
  dsimp only
  rw [sound, h.core]
  rfl

/-- Each lane of a store that passes its check writes a part of one unit. -/
theorem IEnv.localWrites_one (sound : ∀ l ∈ e.ex, e.localAddr (wOffM w) l < 0x300000 ∧ e.localAddr (wOffM w) l % memSize (wMod w) = 0) :
    ∀ q ∈ e.localWrites w, OneUnit q ∧ q.2.length ≠ 32 := by
  intro q mem
  obtain ⟨l, lane, rfl⟩ := List.mem_map.mp mem
  have size := memSize_cases (wMod w)
  have one := aligned_one (sound l lane).2
  have length := e.gr.bytes_length l (wD w) (memSize (wMod w))
  refine ⟨⟨fun none_ => ?_, by dsimp only; rw [length]; exact one⟩, by dsimp only; rw [length]; omega⟩
  dsimp only at none_
  rw [none_] at length
  have := memSize_pos (wMod w)
  rw [← length] at this
  exact absurd this (by decide)

/-! ### Symbols in error -/

/-- A unit whose symbols decode is read as it stands. -/
theorem readLocalUnit_decodes {k v : Nat} {errs : SymErrs} (ok : decodeSyms (symTable errs) = .good ∨ ∃ i, decodeSyms (symTable errs) = .corrected i) :
    s.readLocalUnit k v errs = s := by
  unfold State.readLocalUnit
  dsimp only
  obtain h | ⟨i, h⟩ := ok <;> rw [h] <;> exact ite_self s

theorem mem_insertSorted_self (x : Nat) : ∀ l : List Nat, x ∈ insertSorted x l
  | [] => .head _
  | y :: l => by
    unfold insertSorted
    split
    · next same => exact same ▸ .head _
    · split
      · exact .head _
      · exact .tail _ (mem_insertSorted_self x l)

/-- A unit with too many symbols in error is poisoned. -/
theorem readLocalUnit_lost (wf : twf {} s.cores = true) {k v : Nat} {errs : SymErrs} (bad : decodeSyms (symTable errs) = .uncorrectable)
    (clean : v ∉ (s.core k).poison) :
    v ∈ ((s.readLocalUnit k v errs).core k).poison ∧ ((s.readLocalUnit k v errs).core k).mem = (s.core k).mem := by
  have some_ : ¬ (errs.isEmpty = true ∨ (s.core k).poison.contains v = true) := by
    rintro (none_ | there)
    · rw [List.isEmpty_iff.mp none_] at bad
      exact absurd bad (by decide)
    · exact clean (by simpa using there)
  unfold State.readLocalUnit
  dsimp only
  rw [if_neg some_, bad]
  dsimp only
  rw [State.core_congr (State.ledger_cores ..) k, State.core_setCore_self wf]
  exact ⟨mem_insertSorted_self _ _, rfl⟩

end

end Sys2Proof.Machine

end

section
/-! PROOF. Loads and stores of thread groups (O16; R161, R163, R164, R169, R206). -/

namespace Sys2Proof.Machine

variable {s : State} {c : CoreNo} {g : SlotNo} {w : W64} {e : IEnv} {opc : Nat} {u : Uses}

/-! ### Lanes in ascending order -/

theorem Issues.ascend (h : Issues s c g w opc u e) : e.ex.Pairwise (· < ·) := by
  rw [h.lanes]
  exact (List.pairwise_lt_range.filter _).filter _

/-- A list in ascending order, cut at one of its lanes: what follows lies above. -/
theorem split_above {ls : List Nat} (ascend : ls.Pairwise (· < ·)) {l : Nat} (mem : l ∈ ls) : ∃ pre post, ls = pre ++ l :: post ∧ ∀ m ∈ post, m ∈ ls ∧ l < m := by
  obtain ⟨pre, post, rfl⟩ := List.append_of_mem mem
  exact ⟨pre, post, rfl, fun m later => ⟨by simp [later], (List.pairwise_cons.mp (List.pairwise_append.mp ascend).2.1).1 m later⟩⟩

/-- The registers of D hold the words of an access. -/
theorem Issues.words_fit (m : wMod w ≤ 6) (h : Issues s c g w opc u e) (mem : (memUse (wMod w), wD w) ∈ u.fields w) : wD w + max 1 (memSize (wMod w) / 4) ≤ 256 := by
  have lt := wD_lt w
  have range := (h.field mem).1
  generalize wMod w = k at m range
  match k, m with
  | 0, _ | 1, _ | 2, _ | 5, _ | 6, _ => simpa [memSize] using lt
  | 3, _ =>
    have even : wD w % 2 = 0 := bne_eq_false_iff_eq.mp (Bool.or_eq_false_iff.mp range).2
    show wD w + 2 ≤ 256
    omega
  | 4, _ =>
    have quad : wD w % 4 = 0 := bne_eq_false_iff_eq.mp (Bool.or_eq_false_iff.mp range).2
    show wD w + 4 ≤ 256
    omega

/-! ### Local accesses -/

/-- A load of sound units fills its registers (R161). -/
theorem exec_ldl_loads (m : wMod w ≤ 6) (h : Issues s c g w 0x40 (localUses w) e)
    (sound : ∀ l ∈ e.ex, e.localAddr (wOffM w) l < 0x300000 ∧ e.localAddr (wOffM w) l % memSize (wMod w) = 0)
    (clean : ∀ l ∈ e.ex, (s.core c).poisoned (e.localAddr (wOffM w) l) (memSize (wMod w)) = false) {errs : SymErrs} (decodes : e.readLowest errs s = s) :
    ∃ rs, exec (.ldl c g w false errs) s = .next (e.retire { e.gr with regs := rs } s) ∧
      (∀ l ∈ e.ex, ∀ i, 4 * i < memSize (wMod w) →
        ({ e.gr with regs := rs } : Group).reg l (wD w + i) = loadedWord (wMod w) (fun k => tget 0 (s.core c).mem (e.localAddr (wOffM w) l + k)) i) ∧
      ∀ l r, r < 256 → ¬ (l ∈ e.ex ∧ wD w ≤ r ∧ r < wD w + max 1 (memSize (wMod w) / 4)) → ({ e.gr with regs := rs } : Group).reg l r = e.gr.reg l r := by
  have fits := h.words_fit m (.head _)
  have bytes (l : Nat) : (s.core c).rd (e.localAddr (wOffM w) l) (memSize (wMod w)) =
      (List.range (memSize (wMod w))).map fun k => tget 0 (s.core c).mem (e.localAddr (wOffM w) l + k) := tgetMany_eq _ _ _ _
  have none_ : e.ex.find? (fun l => (s.core c).poisoned (e.localAddr (wOffM w) l) (memSize (wMod w))) = none :=
    List.find?_eq_none.mpr fun l mem => by rw [clean l mem]; exact Bool.false_ne_true
  have run := (exec_ldl_reads m h (firstErr_sound sound) errs).2
  rw [decodes] at run
  obtain ⟨rs, fold, regs⟩ := Group.foldl_setWords (wD w) (max 1 (memSize (wMod w) / 4))
    (fun l => memExtend (wMod w) ((s.core c).rd (e.localAddr (wOffM w) l) (memSize (wMod w)))) fits (fun l => by rw [bytes]; exact memExtend_words _ m) e.ex e.gr
  refine ⟨rs, (run none_).trans (by rw [fold]), fun l mem i inside => ?_, fun l r lt out => (regs l r lt).trans (if_neg out)⟩
  have within : wD w + i < wD w + max 1 (memSize (wMod w) / 4) := Nat.add_lt_add_left (memSize_word inside) _
  rw [regs l (wD w + i) (Nat.lt_of_lt_of_le within fits), if_pos ⟨mem, Nat.le_add_right _ _, within⟩, Nat.add_sub_cancel_left, bytes]
  exact memExtend_word _ m inside

/-- A load of which the lowest lane's unit cannot be corrected poisons it and faults (R201). -/
theorem exec_ldl_lost (wf : s.wf = true) (m : wMod w ≤ 6) (h : Issues s c g w 0x40 (localUses w) e)
    (sound : ∀ l ∈ e.ex, e.localAddr (wOffM w) l < 0x300000 ∧ e.localAddr (wOffM w) l % memSize (wMod w) = 0)
    (clean : ∀ l ∈ e.ex, (s.core c).poisoned (e.localAddr (wOffM w) l) (memSize (wMod w)) = false) {errs : SymErrs} {l : Nat} {ls : List Nat} (first : e.ex = l :: ls)
    (bad : decodeSyms (symTable errs) = .uncorrectable) :
    ∃ t, exec (.ldl c g w false errs) s = .next (e.fault 0x11 (e.localAddr (wOffM w) l) t) ∧ e.localAddr (wOffM w) l / 32 ∈ (t.core c).poison ∧
      (t.core c).mem = (s.core c).mem := by
  have lane : l ∈ e.ex := first ▸ .head _
  have pos := memSize_pos (wMod w)
  have one := aligned_one (sound l lane).2
  have apart : e.localAddr (wOffM w) l / 32 ∉ (s.core c).poison := by
    have none_ := clean l lane
    rw [Core.poisoned_one _ pos one] at none_
    simpa using none_
  obtain ⟨poison, mem⟩ := readLocalUnit_lost (State.wf_cores wf) bad apart
  have read : e.readLowest errs s = s.readLocalUnit c (e.localAddr (wOffM w) l / 32) errs := by
    unfold IEnv.readLowest
    rw [first, h.core, h.word]
  refine ⟨_, (exec_ldl_reads m h (firstErr_sound sound) errs).1 l ?_, by rw [read]; exact poison, by rw [read]; exact mem⟩
  rw [first, read]
  exact List.find?_cons_of_pos (by rw [Core.poisoned_one _ pos one]; simpa using poison)

/-- A store to sound units leaves the highest lane's bytes (R164). -/
theorem exec_stl_stores (wf : s.wf = true) (m : wMod w ≤ 6) (h : Issues s c g w 0x41 (localUses w) e)
    (sound : ∀ l ∈ e.ex, e.localAddr (wOffM w) l < 0x300000 ∧ e.localAddr (wOffM w) l % memSize (wMod w) = 0)
    (clean : ∀ l ∈ e.ex, (s.core c).poisoned (e.localAddr (wOffM w) l) (memSize (wMod w)) = false) :
    ∃ t, exec (.stl c g w false) s = .next (e.retire e.gr t) ∧ t = { s with cores := t.cores } ∧ (∀ i, i ≠ c.val → t.core i = s.core i) ∧
      ∃ hits, t.core c = (s.core c).written (setBytes (s.core c).mem (e.localWrites w)) hits := by
  have ones := e.localWrites_one (w := w) sound
  have apart : ∀ q ∈ e.localWrites w, q.1 / 32 ∉ (s.core c).poison := fun q mem => by
    obtain ⟨l, lane, rfl⟩ := List.mem_map.mp mem
    have none_ := clean l lane
    rw [Core.poisoned_one _ (memSize_pos _) (aligned_one (sound l lane).2)] at none_
    simpa using none_
  obtain ⟨core, only, others⟩ := State.wrLocals_one (c := c) (e.localWrites w) (State.wf_cores wf) fun q mem => ⟨(ones q mem).1, apart q mem⟩
  rw [← State.storeLocal_clean (fun q mem => (ones q mem).1) apart] at core only others
  exact ⟨_, exec_stl_writes m h (firstErr_sound sound), only, others, core⟩

/-- Of the writes of a store the highest lane's remain. -/
theorem Issues.setBytes_highest {mem : List Host.Cell} (wm : twf 0 mem = true) (h : Issues s c g w opc u e) {l i : Nat} (lane : l ∈ e.ex) (inside : i < memSize (wMod w))
    (highest : ∀ m ∈ e.ex, l < m → ¬ (e.localAddr (wOffM w) m ≤ e.localAddr (wOffM w) l + i ∧ e.localAddr (wOffM w) l + i < e.localAddr (wOffM w) m + memSize (wMod w))) :
    some (tget 0 (setBytes mem (e.localWrites w)) (e.localAddr (wOffM w) l + i)) = (e.gr.bytes l (wD w) (memSize (wMod w)))[i]? := by
  obtain ⟨pre, post, split, above⟩ := split_above h.ascend lane
  have length (m : Nat) := e.gr.bytes_length m (wD w) (memSize (wMod w))
  unfold IEnv.localWrites
  rw [split, List.map_append, List.map_cons, setBytes_append]
  generalize hm : setBytes mem _ = mem'
  have wm' : twf 0 mem' = true := hm ▸ setBytes_wf _ wm
  show some (tget 0 (setBytes (tsetMany 0 mem' (e.localAddr (wOffM w) l) _) _) _) = _
  rw [setBytes_off _ (tsetMany_wf _ _ _ wm')]
  · rw [tget_tsetMany 0 _ _ _ wm', if_pos (Nat.le_add_right _ _), Nat.add_sub_cancel_left, List.getElem?_eq_getElem (by rw [length]; exact inside)]
    rfl
  · intro q mem_ cov
    obtain ⟨k, later, rfl⟩ := List.mem_map.mp mem_
    refine highest k (above k later).1 (above k later).2 ⟨cov.1, ?_⟩
    have lt := cov.2
    dsimp only at lt
    rwa [length] at lt

/-! ### Global accesses -/

/-- The fields of a load or store of device memory. -/
def globalUses (w : W64) : Uses := { form := .fM, listed := true, d := memUse (wMod w), a := .pair }

theorem exec_ldg (m : wMod w % 8 ≤ 6) (h : Issues s c g w 0x42 (globalUses w) e) :
    exec (.ldg c g w false) s = .next (match s.checkLanes e.x.stall (memSize (wMod w)) .read (e.globalAddr (wOffM w)) e.ex with
      | .error m => e.fails m s
      | .ok [] => e.retire e.gr s
      | .ok ls => e.retire e.gr (s.modCore c fun k =>
          { k with loads := k.loads ++ [{ slot := g, serial := e.gr.serial, d := wD w, pc := e.pc, mode := wMod w, act := e.act, lanes := ls }] })) := by
  show execLdg c g w false s = _
  unfold execLdg
  dsimp only
  rw [decide_eq_true m]
  refine (congrArg Host.Outcome.next (State.issue_of h _)).trans ?_
  unfold IEnv.addressed
  rw [h.core, h.slot]
  rfl

theorem exec_ldg_bad (m : wMod w % 8 ≤ 6) (h : Issues s c g w 0x42 (globalUses w) e) (some_ : e.ex ≠ []) : exec (.ldg c g w true) s = .next (e.fault 0x12 0 s) := by
  show execLdg c g w true s = _
  unfold execLdg
  dsimp only
  rw [decide_eq_true m]
  refine (congrArg Host.Outcome.next (State.issue_of h _)).trans ?_
  unfold IEnv.addressed
  rw [if_pos (by simpa using some_)]

theorem exec_stg_bad (m : wMod w ≤ 6) (h : Issues s c g w 0x43 (globalUses w) e) (some_ : e.ex ≠ []) : exec (.stg c g w true) s = .next (e.fault 0x12 0 s) := by
  show execStg c g w true s = _
  unfold execStg
  dsimp only
  rw [decide_eq_true m]
  refine (congrArg Host.Outcome.next (State.issue_of h _)).trans ?_
  unfold IEnv.addressed
  rw [if_pos (by simpa using some_)]

/-- What the lanes of a global store write. -/
def IEnv.globalWrites (e : IEnv) (w : W64) (ls : List (Nat × Nat × Nat)) : List (Nat × List Byte) :=
  ls.map fun q => (q.2.2, e.gr.bytes q.1 (wD w) (memSize (wMod w)))

/-- The state behind a global store. -/
def IEnv.stored (e : IEnv) (w : W64) (ls : List (Nat × Nat × Nat)) (s : State) : State :=
  (forEach (e.globalWrites w ls) (s.storeGlobal (e.globalWrites w ls)) fun p s => s.modCore e.c fun k => k.nearWrite p.1 p.2).tally e.x.stall 0x20 (memSize (wMod w) * ls.length)

theorem exec_stg (m : wMod w ≤ 6) (h : Issues s c g w 0x43 (globalUses w) e) :
    exec (.stg c g w false) s = .next (match s.checkLanes e.x.stall (memSize (wMod w)) .write (e.globalAddr (wOffM w)) e.ex with
      | .error m => e.fails m s
      | .ok ls => match regionBars (s.stall e.x.stall) (memSize (wMod w)) ls with
        | some a => e.fault causeProt a s
        | none => if e.waits ls (memSize (wMod w)) s then s else e.retire e.gr (e.stored w ls s)) := by
  show execStg c g w false s = _
  unfold execStg
  dsimp only
  rw [decide_eq_true m]
  exact congrArg Host.Outcome.next (State.issue_of h _)

/-- The context's fault of an access that fails, but for poison of a golden block. -/
theorem Issues.fails_eq (h : Issues s c g w opc u e) {m : MemErr} (golden : m.cause = 0x11 → s.goldenHolds (m.addr / 32) = false) :
    e.fails m s = s.ctxFault e.n
      { cause := m.cause, pc := e.pc, mask := e.act, slot := g, arg2 := m.addr, core := c, opc := opc, level := m.level, src := s.poisonSource (m.addr / 32) } := by
  unfold IEnv.fails
  rw [if_neg fun both => absurd both.2 (by rw [golden both.1]; exact Bool.false_ne_true), h.core, h.slot, h.word, h.opcode]

/-- The lanes of a checked access are the executing lanes. -/
theorem checkLanes_lanes {st n : Nat} {k : Acc} {ad : Nat → Nat} : ∀ {ls : List Nat} {qs : List (Nat × Nat × Nat)}, s.checkLanes st n k ad ls = .ok qs → qs.map (·.1) = ls
  | [], qs, h => by
    cases h
    rfl
  | l :: ls, qs, h => by
    unfold State.checkLanes at h
    split at h
    · cases h
    · split at h
      · cases h
      · next rest =>
        cases h
        rw [List.map_cons, checkLanes_lanes rest]

theorem regionBars_none {x : Stall} (none_ : x.regions = []) (n : Nat) (ls : List (Nat × Nat × Nat)) : regionBars x n ls = none := by
  unfold regionBars
  rw [List.find?_eq_none.mpr]
  · rfl
  · intro q _
    unfold Stall.regionHit
    rw [none_]
    exact Bool.false_ne_true

/-- Changes of cores and counts of a stall change no byte of memory. -/
theorem byteAt_of_cores {t : State} (stalls : twf {} s.stalls = true) (st off n : Nat) {cores : List (Nat × Core)} (same : t = { s with cores := cores }) (a : Nat) :
    (t.tally st off n).byteAt a = s.byteAt a := by
  have key : (t.tally st off n).blockKey = s.blockKey := by
    funext b
    unfold State.blockKey
    have owner : (t.tally st off n).owner b = s.owner b := by rw [same]; rfl
    rw [owner, same]
    show ((({ s with cores := cores } : State).setStall st _).stall _).memKey = _
    rw [State.stall_setStall (s := { s with cores := cores }) stalls]
    split
    · next own => rw [own]; rfl
    · rfl
  exact byteAt_congr (by rw [same]; rfl) key (by rw [same]; rfl) (by rw [same]; rfl) (by rw [same]; rfl) a

theorem nearWrites_only (c : Nat) (ws : List (Nat × List Byte)) (s : State) :
    (forEach ws s fun p s => s.modCore c fun k => k.nearWrite p.1 p.2) = { s with cores := (forEach ws s fun p s => s.modCore c fun k => k.nearWrite p.1 p.2).cores } := by
  refine forEach_inv (P := fun t => t = { s with cores := t.cores }) (fun p t h => ?_) ws rfl
  conv_lhs => rw [h]
  rfl

/-- Without poison a store writes its lanes in order. -/
theorem storeGlobal_sound (h : s.Sound) (ws : List (Nat × List Byte)) : s.storeGlobal ws = s.wrDpas ws := by
  have none_ : ((laneUnits ws).filter fun u => s.mem.poison.contains u && !s.stackFailed (32 * u)) = [] :=
    List.filter_eq_nil_iff.mpr fun u _ => by rw [h.poison]; exact Bool.false_ne_true
  unfold State.storeGlobal
  rw [none_]
  rfl

theorem State.wf_mem (wf : s.wf = true) : Memory.wf s.mem = true := by
  simp only [State.wf, Bool.and_eq_true] at wf
  exact wf.1.1.1

/-- What memory reads as behind a store of sound units (R164). -/
theorem Issues.stored_reads (wf : s.wf = true) (h : Issues s c g w opc u e) (sound : s.Sound) {ls : List (Nat × Nat × Nat)} {ad : Nat → Nat} {k : Acc}
    (checked : s.checkLanes e.x.stall (memSize (wMod w)) k ad e.ex = .ok ls) (outside : ∀ q ∈ ls, ∀ i, i < memSize (wMod w) → s.tableByte (q.2.2 + i) = none) :
    (∀ q ∈ ls, ∀ i, i < memSize (wMod w) → (∀ p ∈ ls, q.1 < p.1 → ¬ (p.2.2 ≤ q.2.2 + i ∧ q.2.2 + i < p.2.2 + memSize (wMod w))) →
      some ((e.stored w ls s).byteAt (q.2.2 + i)) = (e.gr.bytes q.1 (wD w) (memSize (wMod w)))[i]?) ∧
      ∀ a, (∀ q ∈ ls, ¬ (q.2.2 ≤ a ∧ a < q.2.2 + memSize (wMod w))) → (e.stored w ls s).byteAt a = s.byteAt a := by
  have length (q : Nat × Nat × Nat) := e.gr.bytes_length q.1 (wD w) (memSize (wMod w))
  have covers {q : Nat × Nat × Nat} {x : Nat} : Covers (q.2.2, e.gr.bytes q.1 (wD w) (memSize (wMod w))) x ↔ q.2.2 ≤ x ∧ x < q.2.2 + memSize (wMod w) := by
    unfold Covers
    dsimp only
    rw [length]
  have free : ∀ v ∈ e.globalWrites w ls, ∀ x, Covers v x → s.tableByte x = none := fun v mem x cov => by
    obtain ⟨q, lane, rfl⟩ := List.mem_map.mp mem
    obtain ⟨le, lt⟩ := covers.mp cov
    have here := outside q lane (x - q.2.2) (by omega)
    rwa [Nat.add_sub_cancel' le] at here
  obtain ⟨beside, -, off⟩ := wrDpas_off (e.globalWrites w ls) sound free
  have reads (a : Nat) : (e.stored w ls s).byteAt a = (s.wrDpas (e.globalWrites w ls)).byteAt a := by
    have stalls : (s.wrDpas (e.globalWrites w ls)).stalls = s.stalls := by rw [beside]
    unfold IEnv.stored
    rw [storeGlobal_sound sound]
    exact byteAt_of_cores (by rw [stalls]; exact (State.wf_units wf).1) _ _ _ (nearWrites_only _ _ _) a
  refine ⟨fun q mem i inside highest => ?_, fun a out => ?_⟩
  · have ascend : ls.Pairwise fun p q => p.1 < q.1 := by
      rw [← List.pairwise_map, checkLanes_lanes checked]
      exact h.ascend
    obtain ⟨pre, post, split⟩ := List.append_of_mem mem
    rw [split] at ascend
    have writes : e.globalWrites w ls = e.globalWrites w pre ++ (q.2.2, e.gr.bytes q.1 (wD w) (memSize (wMod w))) :: e.globalWrites w post := by
      rw [split]
      exact List.map_append
    have last := wrDpas_last (x := q.2.2 + i) sound (writes ▸ free) (covers.mpr ⟨Nat.le_add_right _ _, Nat.add_lt_add_left inside _⟩) fun v later cov => by
      obtain ⟨p, at_, rfl⟩ := List.mem_map.mp later
      exact highest p (by rw [split]; simp [at_]) ((List.pairwise_cons.mp (List.pairwise_append.mp ascend).2.1).1 p at_) (covers.mp cov)
    rw [reads, writes, last]
    exact congrArg (_[·]?) (Nat.add_sub_cancel_left _ _)
  · rw [reads]
    refine off a fun v mem cov => ?_
    obtain ⟨q, lane, rfl⟩ := List.mem_map.mp mem
    exact out q lane (covers.mp cov)

end Sys2Proof.Machine

open Sys2Proof Sys2Proof.Machine

/-- Settles O16: the lanes of an access are checked first, lie within one unit each, and write in ascending order. -/
theorem localAndGlobalAccesses : Obligations.LocalAndGlobalAccesses := by
  unfold Obligations.LocalAndGlobalAccesses
  refine ⟨fun s c g w e wf m => ⟨fun some => ⟨fun h => exec_ldl_bad m h some, fun h => exec_stl_bad m h some⟩, fun l fails => ?checks, fun sound => ⟨?poisoned, ?clears, fun clean => ⟨fun h => ⟨?lost, ?loads⟩, ?stores⟩⟩⟩,
    fun s c g w e wf => ⟨fun some => ⟨fun m h => exec_ldg_bad m h some, fun m h => exec_stg_bad m h some⟩, fun m h => ⟨?ldgFails, ?ldg⟩, fun m h => ⟨?stgFails, ?waits, ?stg⟩⟩⟩
  case checks =>
    have first := (firstErr_local (e.localAddr (wOffM w)) (memSize (wMod w)) e.ex).trans (congrArg _ fails)
    exact ⟨fun h errs => exec_ldl_check m h first errs, fun h => exec_stl_check m h first⟩
  case poisoned =>
    intro l found h
    have read : e.readLowest [] s = s := by
      unfold IEnv.readLowest
      split
      · exact readLocalUnit_decodes (.inl (by decide))
      · rfl
    have run := (exec_ldl_reads m h (firstErr_sound sound) []).1 l
    rw [read] at run
    exact run found
  case clears =>
    intro h
    refine ⟨_, exec_stl_writes m h (firstErr_sound sound), fun u bad => ?_⟩
    obtain ⟨clears, stays⟩ := State.storeLocal_poisoned (State.wf_cores wf) (State.wf_core wf c).mem (e.localWrites_one (w := w) sound) bad
    have covered : (∀ i, i < 32 → ∃ l ∈ e.ex, e.localAddr (wOffM w) l ≤ 32 * u + i ∧ 32 * u + i < e.localAddr (wOffM w) l + memSize (wMod w)) ↔
        lanesCover (e.localWrites w) u = true := by
      rw [lanesCover_iff]
      unfold IEnv.localWrites Covers
      simp only [List.mem_map, exists_exists_and_eq_and, Group.bytes_length]
    exact ⟨fun all => clears (covered.mp all), fun part => stays (Bool.eq_false_iff.mpr fun all => part (covered.mpr all))⟩
  case lost => exact fun errs l ls first bad => exec_ldl_lost wf m h sound clean first bad
  case loads =>
    intro errs ok
    refine exec_ldl_loads m h sound clean ?_
    unfold IEnv.readLowest
    split
    · exact readLocalUnit_decodes ok
    · rfl
  case stores =>
    intro h
    obtain ⟨t, run, only, others, hits, core⟩ := exec_stl_stores wf m h sound clean
    have wm := (State.wf_core wf c).mem
    refine ⟨t, run, only, others, by rw [core]; rfl, fun l lane i inside highest => ?_, fun a out => ?_⟩
    · rw [core]
      exact h.setBytes_highest wm lane inside highest
    · rw [core]
      refine setBytes_off _ wm fun q mem cov => ?_
      obtain ⟨l, lane, rfl⟩ := List.mem_map.mp mem
      refine out l lane ⟨cov.1, ?_⟩
      have lt := cov.2
      dsimp only at lt
      rwa [Group.bytes_length] at lt
  case ldgFails =>
    intro r failed golden
    rw [exec_ldg m h, failed]
    exact congrArg Host.Outcome.next (h.fails_eq golden)
  case ldg =>
    intro ls some checked
    rw [exec_ldg m h, checked]
    cases ls with
    | nil => exact absurd (checkLanes_lanes checked).symm some
    | cons q ls => rfl
  case stgFails =>
    intro r failed golden
    rw [exec_stg m h, failed]
    exact congrArg Host.Outcome.next (h.fails_eq golden)
  case waits =>
    intro ls checked free waits
    rw [exec_stg m h, checked]
    dsimp only
    rw [regionBars_none free]
    exact congrArg Host.Outcome.next (if_pos waits)
  case stg =>
    intro ls checked free goes poison under stks outside
    have sound : s.Sound := ⟨State.wf_mem wf, poison, under, stks⟩
    refine ⟨e.stored w ls s, ?_, h.stored_reads wf sound checked outside⟩
    rw [exec_stg m h, checked]
    dsimp only
    rw [regionBars_none free]
    exact congrArg Host.Outcome.next (if_neg (by rw [goes]; exact Bool.false_ne_true))

end

section
/-! PROOF. An entry of the ledger changes no translation of a stall (R345, R374): of the functions it changes their ledgers and pending interrupts alone. -/

namespace Sys2Proof.Machine

variable {s t u : State}

/-- What an entry of the ledger leaves: the rest of the state, and the table blocks that each function records. -/
structure Logged (s t : State) : Prop where
  only : LedgerOnly s t
  fns : twf {} t.fns = true
  blocks : ∀ k, (t.fn k).tdiBlocks = (s.fn k).tdiBlocks

theorem Logged.trans (h : Logged s t) (g : Logged t u) : Logged s u := ⟨h.only.trans g.only, g.fns, fun k => (g.blocks k).trans (h.blocks k)⟩

/-- A change outside the functions. -/
theorem logged_same (w : twf {} s.fns = true) (only : LedgerOnly s t) (same : t.fns = s.fns) : Logged s t :=
  ⟨only, same ▸ w, fun k => congrArg (fun m => (tget ({} : Fn) m k).tdiBlocks) same⟩

theorem modFn_logged (w : twf {} s.fns = true) (f : Nat) (x : Fn → Fn) (keeps : ∀ y, (x y).tdiBlocks = y.tdiBlocks) : Logged s (s.modFn f x) := by
  refine ⟨rfl, tset_wf _ _ _ w, fun k => ?_⟩
  have read : (s.modFn f x).fn k = if k = f then x (s.fn f) else s.fn k := tget_tset ({} : Fn) f _ k w
  rw [read]
  split
  · next own => rw [own, keeps]
  · rfl

theorem msix_logged (w : twf {} s.fns = true) (f v : Nat) : Logged s (s.msix f v) := by
  unfold State.msix
  dsimp only
  split
  · exact modFn_logged w f _ fun _ => rfl
  · exact logged_same w (drive_only _) rfl

theorem ledgerTo_logged (w : twf {} s.fns = true) (op : Bool) (f : Nat) (e : Entry) : Logged s (s.ledgerTo op f e).1 := by
  unfold State.ledgerTo
  generalize (if op then s.led.op else (s.fn f).led) = r
  dsimp only
  obtain ⟨r', k⟩ := ledgerPut (s.ledgerCause f) r
  have put : Logged s (if op then { s with rnd := s.rnd + 1, led := { s.led with op := r' } }
      else { s.modFn f (fun x => { x with led := r' }) with rnd := s.rnd + 1 }) := by
    cases op with
    | true => exact logged_same w rfl rfl
    | false => exact (modFn_logged w f (fun x => { x with led := r' }) fun _ => rfl).trans (logged_same (tset_wf _ _ _ w) rfl rfl)
  generalize (if op then { s with rnd := s.rnd + 1, led := { s.led with op := r' } }
      else { s.modFn f (fun x => { x with led := r' }) with rnd := s.rnd + 1 }) = v at put
  cases k with
  | off => exact put
  | dropped => exact put
  | failed c => exact put
  | written =>
    have driven (o : Out) : Logged s (v.drive o) := put.trans (logged_same put.fns (drive_only o) rfl)
    dsimp only
    split
    · exact (driven _).trans (msix_logged (driven _).fns _ _)
    · exact driven _

theorem sendAll_logged (w : twf {} s.fns = true) (ps : List (Bool × Nat)) (e : Entry) : Logged s (s.sendAll ps e).1 := by
  have from_ : ∀ (ps : List (Bool × Nat)) (acc : State × List ((Bool × Nat) × Nat × Nat)), Logged s acc.1 → ∀ t, t = ps.foldl (fun acc p =>
      match acc.1.ledgerTo p.1 p.2 e with
      | (s, some c) => (s, acc.2 ++ [(p, c)])
      | (s, none) => (s, acc.2)) acc → Logged s t.1 := by
    intro ps
    induction ps with
    | nil =>
      rintro acc h _ rfl
      exact h
    | cons p ps ih =>
      intro acc h t ht
      have next := h.trans (ledgerTo_logged h.fns p.1 p.2 e)
      rw [List.foldl_cons] at ht
      refine ih _ ?_ t ht
      revert next
      rcases acc.1.ledgerTo p.1 p.2 e with ⟨v, _ | c⟩ <;> exact id
  exact from_ ps (s, []) (logged_same w rfl rfl) _ rfl

theorem deliverEntry_logged : ∀ (n : Nat) (ps : List (Bool × Nat)) (e : Entry) {s : State}, twf {} s.fns = true → Logged s (s.deliverEntry n ps e)
  | 0, ps, e, _, w => sendAll_logged w ps e
  | n + 1, ps, e, s, w => by
    unfold State.deliverEntry
    exact forEach_inv (P := Logged s) (fun _ _ h => (h.trans (logged_same h.fns (failEntry_only _ _ _) rfl)).trans (deliverEntry_logged n _ _ h.fns)) _ (sendAll_logged w ps e)

theorem platformEvent_fns (e : Entry) : (s.platformEvent e).fns = s.fns := by
  unfold State.platformEvent
  split
  · split <;> rfl
  · rfl

theorem entered_fns (e : Entry) : (s.entered e).fns = s.fns := by
  unfold State.entered State.buffered
  dsimp only
  split <;> split <;> rfl

theorem ledgerEntry_logged (w : twf {} s.fns = true) (e : Entry) : Logged s (s.ledgerEntry e) := by
  have first : Logged s (s.entered (s.stamped e)) := logged_same w (entered_only _) (entered_fns _)
  have sent (n : Nat) (ps : List (Bool × Nat)) := first.trans (deliverEntry_logged n ps (s.stamped e) first.fns)
  rw [ledgerEntry_eq]
  exact (sent _ _).trans (logged_same (sent _ _).fns (platformEvent_only _) (platformEvent_fns _))

theorem ledger_logged (w : twf {} s.fns = true) (event sev kind unit : Nat) (stall : Option Nat) (a0 a1 a2 a3 oper count : Nat) :
    Logged s (s.ledger event sev kind unit stall a0 a1 a2 a3 oper count) :=
  ledgerEntry_logged w _

/-! ### Translation -/

/-- A property of some listed value is one of some key's value, where the default lacks it. -/
theorem any_value {α : Type} [DecidableEq α] {d : α} {m : List (Nat × α)} (w : twf d m = true) {p : α → Bool} (lacks : p d = false) :
    (m.any fun e => p e.2) = true ↔ ∃ k, p (tget d m k) = true := by
  rw [List.any_eq_true]
  constructor
  · rintro ⟨q, mem, has⟩
    exact ⟨q.1, by rw [tget_of_mem d w mem]; exact has⟩
  · rintro ⟨k, has⟩
    obtain e | e := tget_mem d m k
    · rw [e, lacks] at has
      cases has
    · exact ⟨_, e, has⟩

theorem Logged.byteAt (h : Logged s t) (a : Nat) : t.byteAt a = s.byteAt a := by
  have only : t = { s with fns := _, nv := _, led := _, out := _, rnd := _ } := h.only
  exact byteAt_congr (by rw [only]; rfl) (by rw [only]; rfl) (by rw [only]) (by rw [only]) (by rw [only]; rfl) a

theorem Logged.bytesAt (h : Logged s t) (a n : Nat) : bytesAt t a n = bytesAt s a n := by
  rw [bytesAt_eq, bytesAt_eq]
  exact List.map_congr_left fun i _ => h.byteAt _

theorem Logged.ownerOk (w : twf {} s.fns = true) (h : Logged s t) : t.ownerOk = s.ownerOk := by
  have only : t = { s with fns := _, nv := _, led := _, out := _, rnd := _ } := h.only
  have owner : t.owner = s.owner := by rw [only]; rfl
  have shared : t.shared = s.shared := by rw [only]; rfl
  have recorded (b : Nat) : (t.fns.any fun f => f.2.tdiBlocks.contains b) = s.fns.any fun f => f.2.tdiBlocks.contains b := by
    rw [Bool.eq_iff_iff, any_value (p := fun f : Fn => f.tdiBlocks.contains b) h.fns rfl, any_value (p := fun f : Fn => f.tdiBlocks.contains b) w rfl]
    exact exists_congr fun k => by rw [show (tget {} t.fns k).tdiBlocks = _ from h.blocks k]; rfl
  funext st a k
  simp only [State.ownerOk, owner, shared, recorded]

/-- No translation of a stall changes. -/
theorem Logged.xlate (w : twf {} s.fns = true) (h : Logged s t) : t.xlate = s.xlate := by
  have only : t = { s with fns := _, nv := _, led := _, out := _, rnd := _ } := h.only
  have mapped : t.dpaMapped = s.dpaMapped := by rw [only]; rfl
  have reserved : t.dpaReserved = s.dpaReserved := by rw [only]; rfl
  have poisoned : t.memPoisoned = s.memPoisoned := by rw [only]; rfl
  have owner : t.owner = s.owner := by rw [only]; rfl
  have root (st : Nat) : (t.stall st).ptRoot = (s.stall st).ptRoot := by rw [only]; rfl
  have pte : t.pte = s.pte := by
    funext dva x level
    simp only [State.pte, mapped, owner, poisoned, h.bytesAt]
  have walk : t.walk = s.walk := by
    funext st dva
    simp only [State.walk, State.walkTable, pte, root]
  funext st dva k
  simp only [State.xlate, walk, mapped, reserved, h.ownerOk w]

theorem Logged.globalCheck (w : twf {} s.fns = true) (h : Logged s t) (st a n : Nat) (k : Acc) : t.globalCheck st a n k = s.globalCheck st a n k := by
  unfold State.globalCheck
  rw [h.xlate w]

end Sys2Proof.Machine

end

section
/-! PROOF. Atomics (O18; R166, R167, R386). -/

namespace Sys2Proof.Machine

variable {s t : State} {c : CoreNo} {g : SlotNo} {w : W64} {e : IEnv} {opc : Nat} {u : Uses}

/-! ### The serial order of one address (R167) -/

/-- The value behind operands taken one by one. -/
def atomSeen (op old : Nat) (ops : List (Nat × Nat)) : Nat := ops.foldl (fun v q => atomStep op v q.1 q.2) old

/-- The value that remains: the last lane's, or of the two float adds the old value with the tree (R166). -/
def atomLeft (op old : Nat) (ops : List (Nat × Nat)) : Nat :=
  if op = 2 ∨ op = 3 then atomStep op old (atomTree op (ops.map (·.1))) 0 else atomSeen op old ops

theorem atomSerial_eq (op : Nat) : ∀ (ops : List (Nat × Nat)) (old : Nat),
    atomSerial op old ops = ((List.range ops.length).map fun j => atomSeen op old (ops.take j), atomSeen op old ops)
  | [], _ => rfl
  | q :: ops, old => by
    rw [atomSerial, atomSerial_eq op ops, List.length_cons, List.range_succ_eq_map, List.map_cons, List.map_map]
    rfl

theorem atomRequest_eq (op old : Nat) (ops : List (Nat × Nat)) :
    atomRequest op old ops = ((List.range ops.length).map fun j => atomSeen op old (ops.take j), atomLeft op old ops) := by
  unfold atomRequest atomLeft
  rw [atomSerial_eq]
  exact (apply_ite (Prod.mk _) _ _ _).symm

/-- Values numbered from 0, given to the lanes of a list without a double. -/
theorem zip_range {ls : List Nat} (nodup : ls.Nodup) (f : Nat → Nat) : List.zip ls ((List.range ls.length).map f) = ls.map fun l => (l, f (ls.idxOf l)) := by
  refine List.ext_getElem (by simp) fun i _ hi => ?_
  rw [List.length_map] at hi
  simp [nodup.idxOf_getElem i hi]

/-- The returns of an atomic fill D of each lane. -/
theorem setReturns_zip {op d : Nat} (fits : atomSize op = 8 → d + 1 < 256) (lt : d < 256) {ls : List Nat} (nodup : ls.Nodup) (f : Nat → Nat) (gr : Group) :
    ∃ rs, setReturns op d gr (List.zip ls ((List.range ls.length).map f)) = { gr with regs := rs } ∧ ∀ j l, ls[j]? = some l →
      ({ gr with regs := rs } : Group).reg l d = BitVec.ofNat 32 (f j) ∧
      (atomSize op = 8 → ({ gr with regs := rs } : Group).reg l (d + 1) = BitVec.ofNat 32 (f j / 2 ^ 32)) := by
  have place {j l : Nat} (at_ : ls[j]? = some l) : l ∈ ls ∧ ls.idxOf l = j := by
    obtain ⟨inside, rfl⟩ := List.getElem?_eq_some_iff.mp at_
    exact ⟨List.getElem_mem _, nodup.idxOf_getElem j inside⟩
  unfold setReturns
  rw [zip_range nodup, List.foldl_map]
  by_cases wide : atomSize op = 8
  · simp only [wide, if_true]
    obtain ⟨rs, fold, regs⟩ := Group.foldl_setPair d (fun l => f (ls.idxOf l)) (fits wide) ls gr
    refine ⟨rs, fold, fun j l at_ => ?_⟩
    obtain ⟨mem, rfl⟩ := place at_
    rw [regs l d lt, regs l (d + 1) (fits wide), if_pos ⟨mem, rfl⟩, if_neg (by omega), if_pos ⟨mem, rfl⟩]
    exact ⟨rfl, fun _ => rfl⟩
  · simp only [wide, if_false]
    obtain ⟨rs, fold, regs⟩ := Group.foldl_setReg d (fun l => f (ls.idxOf l)) lt ls gr
    refine ⟨rs, fold, fun j l at_ => ?_⟩
    obtain ⟨mem, rfl⟩ := place at_
    rw [regs l d lt, if_pos ⟨mem, rfl⟩]
    exact ⟨rfl, fun no => no.elim⟩

/-- The one request of an atomic whose lanes name one address, on the bytes there: what each lane receives, and the value that remains. -/
def IEnv.atomOf (e : IEnv) (w : W64) (bytes : List Byte) : List Nat × Nat := atomRequest (wMod w) (ofBytes bytes) (e.ex.map (e.atomArgs (wMod w)))

theorem IEnv.atomOf_left (e : IEnv) (w : W64) (bytes : List Byte) :
    let ops := e.ex.map (e.atomArgs (wMod w))
    (e.atomOf w bytes).2 = if wMod w = 2 ∨ wMod w = 3 then atomStep (wMod w) (ofBytes bytes) (atomTree (wMod w) (ops.map (·.1))) 0
      else atomSeen (wMod w) (ofBytes bytes) (ops.take ops.length) := by
  dsimp only
  rw [List.take_length]
  exact congrArg Prod.snd (atomRequest_eq _ _ _)

theorem Issues.nodup (h : Issues s c g w opc u e) : e.ex.Nodup := h.ascend.imp Nat.ne_of_lt

/-- D of an atomic that returns 64 bits is a pair of the lane. -/
theorem Issues.returns_fit {a : FieldUse} (h : Issues s c g w opc (atomUses (wMod w) a true) e) (wide : atomSize (wMod w) = 8) : wD w + 1 < 256 := by
  have first : (FieldUse.pair, wD w) ∈ (atomUses (wMod w) a true).fields w := by
    unfold atomUses
    rw [if_pos wide]
    exact .head _
  exact h.word ▸ h.pair_fits first

/-- Each lane receives what it would have seen had the lanes executed one by one (R167). -/
theorem Issues.atomOf_returns {a : FieldUse} (h : Issues s c g w opc (atomUses (wMod w) a true) e) (bytes : List Byte) :
    ∃ rs, setReturns (wMod w) (wD w) e.gr (List.zip e.ex (e.atomOf w bytes).1) = { e.gr with regs := rs } ∧ ∀ j l, e.ex[j]? = some l →
      ({ e.gr with regs := rs } : Group).reg l (wD w) = BitVec.ofNat 32 (atomSeen (wMod w) (ofBytes bytes) ((e.ex.map (e.atomArgs (wMod w))).take j)) ∧
      (atomSize (wMod w) = 8 → ({ e.gr with regs := rs } : Group).reg l (wD w + 1) =
        BitVec.ofNat 32 (atomSeen (wMod w) (ofBytes bytes) ((e.ex.map (e.atomArgs (wMod w))).take j) / 2 ^ 32)) := by
  unfold IEnv.atomOf
  rw [atomRequest_eq, List.length_map]
  exact setReturns_zip h.returns_fit (wD_lt w) h.nodup _ e.gr

/-! ### Local memory -/

theorem exec_atoml_bad (h : Issues s c g w 0x52 (atomUses (wMod w) .reg true) e) (some_ : e.ex ≠ []) : exec (.atoml c g w true) s = .next (e.fault 0x12 0 s) := by
  refine (congrArg Host.Outcome.next (State.issue_of h _)).trans ?_
  unfold IEnv.addressed
  rw [if_pos (by simpa using some_)]

/-- One local address: one request for all lanes. -/
theorem exec_atoml_one (h : Issues s c g w 0x52 (atomUses (wMod w) .reg true) e) (some_ : e.ex ≠ []) {a : Nat} (one : ∀ l ∈ e.ex, e.localAddr (wOffA w) l = a)
    (inside : a < 0x300000) (aligned : a % atomSize (wMod w) = 0) (clean : (s.core c).poison = []) :
    let q := e.atomOf w ((s.core c).rd a (atomSize (wMod w)))
    exec (.atoml c g w false) s = .next (e.retire (setReturns (wMod w) (wD w) e.gr (List.zip e.ex q.1)) (s.wrLocal c a (toBytes (atomSize (wMod w)) q.2))) := by
  have sound : firstErr (fun l => localCheck (e.localAddr (wOffA w) l) (atomSize (wMod w))) e.ex = none :=
    firstErr_sound fun l mem => by rw [one l mem]; exact ⟨inside, aligned⟩
  have good : (s.core c).poisonedLane (atomSize (wMod w)) (e.ex.map (e.localAddr (wOffA w))) = none :=
    List.find?_eq_none.mpr fun b _ => by rw [Core.poisoned_clean clean]; exact Bool.false_ne_true
  have addresses : (e.ex.map (e.localAddr (wOffA w))).dedup = [a] := by
    rw [List.map_congr_left one, List.map_const', List.replicate_dedup (by simpa using some_)]
  have mine : (e.ex.filter fun l => e.localAddr (wOffA w) l = a) = e.ex := List.filter_eq_self.mpr fun l mem => decide_eq_true (one l mem)
  refine (congrArg Host.Outcome.next (State.issue_of h _)).trans ?_
  unfold IEnv.addressed
  dsimp only
  rw [h.core, sound]
  dsimp only
  rw [good]
  dsimp only
  rw [addresses, List.foldl_cons, List.foldl_nil, mine]
  rfl

/-- What local memory holds behind the request (R167). -/
theorem State.wrLocal_reads (wf : s.wf = true) (clean : (s.core c).poison = []) (a n fin : Nat) :
    ((s.wrLocal c a (toBytes n fin)).core c).rd a n = toBytes n fin ∧
      ∀ b, ¬ (a ≤ b ∧ b < a + n) → tget 0 ((s.wrLocal c a (toBytes n fin)).core c).mem b = tget 0 (s.core c).mem b := by
  obtain ⟨hits, wr⟩ := State.wrLocal_clean clean a (toBytes n fin)
  have wm := (State.wf_core wf c).mem
  have length := toBytes_length n fin
  rw [wr, State.core_setCore_self (State.wf_cores wf)]
  refine ⟨?_, fun b off => ?_⟩
  · have read := tgetMany_tsetMany 0 (toBytes n fin) a wm
    rwa [length] at read
  · show tget 0 (tsetMany 0 (s.core c).mem a (toBytes n fin)) b = _
    by_cases le : a ≤ b
    · rw [tget_tsetMany 0 _ _ _ wm, if_pos le, List.getElem?_eq_none (by omega)]
      rfl
    · rw [tget_tsetMany 0 _ _ _ wm, if_neg le]

/-! ### The memory-side cache -/

/-- The executing lanes of an atomic name one address of sound memory, in no open region and outside the owner table. -/
structure AtomAt (s : State) (e : IEnv) (w : W64) (v d : Nat) : Prop where
  lanes : ∀ l ∈ e.ex, s.globalCheck e.x.stall (e.globalAddr (wOffA w) l) (atomSize (wMod w)) .write = .ok (v, d)
  regions : (s.stall e.x.stall).regions = []
  pins : s.slices.pins = []
  sound : s.Sound
  stalls : twf {} s.stalls = true
  outside : ∀ i, i < atomSize (wMod w) → s.tableByte (d + i) = none

theorem checkLanes_same {st n : Nat} {k : Acc} {ad : Nat → Nat} {p : Nat × Nat} : ∀ {ls : List Nat}, (∀ l ∈ ls, s.globalCheck st (ad l) n k = .ok p) →
    s.checkLanes st n k ad ls = .ok (ls.map fun l => (l, p))
  | [], _ => rfl
  | l :: ls, same => by
    rw [State.checkLanes, same l (.head _), checkLanes_same fun m mem => same m (.tail _ mem)]
    rfl

theorem distinctAt_same (v d : Nat) : ∀ {ls : List Nat}, ls ≠ [] → distinctAt (ls.map fun l => (l, v, d)) = [(v, d)]
  | [], some_ => absurd rfl some_
  | [_], _ => rfl
  | l :: m :: ls, _ => by
    rw [List.map_cons, distinctAt, distinctAt_same v d (List.cons_ne_nil m ls)]
    simp

/-- A read of sound memory outside any pinned line meets no poison. -/
theorem readPoison_none (h : s.Sound) (pins : s.slices.pins = []) (st dva a n : Nat) : s.readPoison st dva a n = none := by
  have standing : s.mem.stks.any (fun k => k.2.st == .failed) = false := by
    rw [List.any_eq_false]
    intro k mem
    have st := List.all_eq_true.mp h.stks k mem
    simpa using st
  refine List.find?_eq_none.mpr fun x _ => ?_
  unfold State.unitPoisoned State.pin
  rw [h.poison, pins, standing]
  exact Bool.false_ne_true

theorem regionHit_none {x : Stall} (none_ : x.regions = []) (dva n : Nat) : x.regionHit dva n = false := by
  unfold Stall.regionHit
  rw [none_]
  rfl

theorem byteAt_tally (stalls : twf {} s.stalls = true) (st off n a : Nat) : (s.tally st off n).byteAt a = s.byteAt a :=
  byteAt_of_cores stalls st off n (s := s) (t := s) (cores := s.cores) rfl a

theorem byteAt_modCore (k : Nat) (f : Core → Core) (a : Nat) : (s.modCore k f).byteAt a = s.byteAt a :=
  byteAt_congr (s := s) (t := s.modCore k f) (by rfl) (by rfl) (by rfl) (by rfl) (by rfl) a

/-- Without units in error a read leaves memory as it is. -/
theorem readDpas_nil (ps : List (Nat × Nat)) : s.readDpas ps [] = s := rfl

/-- The state behind the one request of an atomic at the memory-side cache. -/
def IEnv.atomPut (e : IEnv) (w : W64) (d fin : Nat) (s : State) : State :=
  (((s.readPlain (d / 32)).wrDpa d (toBytes (atomSize (wMod w)) fin)).tally e.x.stall 0x20 (atomSize (wMod w))).tally e.x.stall 0x18 (atomSize (wMod w))

/-- The same, where the core's own line is dropped as well. -/
def IEnv.atomDone (e : IEnv) (w : W64) (d fin : Nat) (s : State) : State :=
  (e.atomPut w d fin s).modCore e.c fun k => { k with near := tset [] k.near (d / 128) [] }

/-- Memory behind the request: the new word at its address, and every other byte as it was. -/
theorem AtomAt.done_reads {v d : Nat} (m : AtomAt s e w v d) (fin : Nat) :
    bytesAt (e.atomDone w d fin s) d (atomSize (wMod w)) = toBytes (atomSize (wMod w)) fin ∧
      ∀ b, ¬ (d ≤ b ∧ b < d + atomSize (wMod w)) → (e.atomDone w d fin s).byteAt b = s.byteAt b := by
  have length := toBytes_length (atomSize (wMod w)) fin
  generalize hb : toBytes (atomSize (wMod w)) fin = bs at length
  have covers {x : Nat} : Covers (d, bs) x ↔ d ≤ x ∧ x < d + atomSize (wMod w) := by rw [← length]; rfl
  obtain ⟨cached, sound⟩ := readPlain_cached (d / 32) m.sound
  have wrote : Wrote (s.readPlain (d / 32)) _ d bs := wrDpa_wrote sound fun x cov => by
    obtain ⟨le, lt⟩ := covers.mp cov
    have here := m.outside (x - d) (by omega)
    rw [Nat.add_sub_cancel' le] at here
    rw [cached.beside.tableByte, here]
  have same : ((s.readPlain (d / 32)).wrDpa d bs).stalls = s.stalls := by rw [cached.beside.trans wrote.beside]
  have reads (a : Nat) : (e.atomDone w d fin s).byteAt a = ((s.readPlain (d / 32)).wrDpa d bs).byteAt a := by
    have first : twf {} ((s.readPlain (d / 32)).wrDpa d bs).stalls = true := same ▸ m.stalls
    unfold IEnv.atomDone IEnv.atomPut
    rw [hb, byteAt_modCore, byteAt_tally (tset_wf _ _ _ first), byteAt_tally first]
  refine ⟨List.ext_getElem (by rw [bytesAt_eq, List.length_map, List.length_range, length]) fun i _ hi => ?_, fun b off => ?_⟩
  · have on := wrote.on (d + i) (covers.mpr ⟨Nat.le_add_right _ _, by omega⟩)
    rw [Nat.add_sub_cancel_left, List.getElem?_eq_getElem hi] at on
    simp only [bytesAt_eq, List.getElem_map, List.getElem_range, reads]
    exact Option.some.inj on
  · rw [reads, wrote.off b fun cov => off (covers.mp cov), cached.byteAt]

/-- One request performs the atomic, unless it waits (R167). -/
theorem AtomAt.atomG {v d : Nat} (m : AtomAt s e w v d) (word : e.w = w) (some_ : e.ex ≠ []) (ret : Bool) :
    let q := e.atomOf w (bytesAt s d (atomSize (wMod w)))
    e.atomG ret [] s = if e.waits (e.ex.map fun l => (l, v, d)) (atomSize (wMod w)) s then s else
      e.retire (if ret then setReturns (wMod w) (wD w) e.gr (List.zip e.ex q.1) else e.gr) (e.atomDone w d q.2 s) := by
  have unbarred : (if wMod w = 2 then none else regionBars (s.stall e.x.stall) (atomSize (wMod w)) (e.ex.map fun l => (l, v, d))) = none := by
    rw [regionBars_none m.regions]
    exact ite_self none
  have sound : (e.ex.map fun l => (l, v, d)).findSome? (fun q => if ret || !(s.stall e.x.stall).regionHit q.2.1 (atomSize (wMod w)) then
      s.readPoison e.x.stall q.2.1 q.2.2 (atomSize (wMod w)) else none) = none :=
    List.findSome?_eq_none_iff.mpr fun q _ => by rw [readPoison_none m.sound m.pins]; exact ite_self none
  have mine : ((e.ex.map fun l => (l, v, d)).filter fun q => q.2.2 = d).map (·.1) = e.ex := by
    rw [List.filter_eq_self.mpr fun q mem => by obtain ⟨l, _, rfl⟩ := List.mem_map.mp mem; exact decide_eq_true rfl, List.map_map]
    exact List.map_id _
  have request : s.atomAt e (wMod w) (e.ex.map fun l => (l, v, d)) v d =
      .ok (e.atomPut w d (e.atomOf w (bytesAt s d (atomSize (wMod w)))).2 s, List.zip e.ex (e.atomOf w (bytesAt s d (atomSize (wMod w)))).1) := by
    have old : bytesAt (s.readPlain (d / 32)) d (atomSize (wMod w)) = bytesAt s d (atomSize (wMod w)) := by
      rw [bytesAt_eq, bytesAt_eq]
      exact List.map_congr_left fun i _ => (readPlain_cached _ m.sound).1.byteAt _
    unfold State.atomAt
    dsimp only
    rw [regionHit_none m.regions, mine, old]
    rfl
  dsimp only
  unfold IEnv.atomG
  dsimp only
  rw [word, checkLanes_same m.lanes]
  dsimp only
  rw [unbarred]
  dsimp only
  rw [readDpas_nil, sound]
  dsimp only
  refine if_congr Iff.rfl rfl ?_
  rw [distinctAt_same v d some_, State.atomAll, request]
  dsimp only
  rw [State.atomAll]
  dsimp only
  rw [List.append_nil]
  rfl

/-! ### The residue check of the slice adder (R386) -/

/-- The state behind a first failure: an entry of the ledger. -/
def IEnv.residue (e : IEnv) (w : W64) (d : Nat) (twice : Bool) (s : State) : State :=
  s.sliceResidue e.x.stall (0x1000 * e.x.kind.type + wOpc w) (wMod w) d twice

theorem AtomAt.atomRes {v d : Nat} (m : AtomAt s e w v d) (word : e.w = w) (some_ : e.ex ≠ []) (ret : Bool) (res : Nat) (us : UnitErrs) :
    e.atomRes ret res us s = if res = 0 then e.atomG ret us s else
      if res = 2 then e.fault 0x11 (d / 32 * 32) (e.residue w d (decide (res = 2)) s) 4 else e.atomG ret us (e.residue w d (decide (res = 2)) s) := by
  have first (l : Nat) (ls : List Nat) (here : e.ex = l :: ls) := m.lanes l (here ▸ .head _)
  unfold IEnv.atomRes
  split
  · next none_ => exact absurd none_ some_
  · next l ls here =>
    rw [word, first l ls here]
    rfl

theorem residue_logged (w : twf {} s.fns = true) (e : IEnv) (v : W64) (d : Nat) : Logged s (e.residue v d false s) := ledger_logged w _ _ _ _ _ _ _ _ _ _ _

/-- The repetition meets the same memory and the same checks. -/
theorem AtomAt.logged {v d : Nat} (fns : twf {} s.fns = true) (h : Logged s t) (m : AtomAt s e w v d) :
    AtomAt t e w v d ∧ e.waits (e.ex.map fun l => (l, v, d)) (atomSize (wMod w)) t = e.waits (e.ex.map fun l => (l, v, d)) (atomSize (wMod w)) s := by
  have only : t = { s with fns := t.fns, nv := t.nv, led := t.led, out := t.out, rnd := t.rnd } := h.only
  have lanes (l : Nat) (mem : l ∈ e.ex) := (h.globalCheck fns _ _ _ _).trans (m.lanes l mem)
  obtain ⟨-, regions, pins, ⟨wf, poison, under, stks⟩, stalls, outside⟩ := m
  refine ⟨⟨lanes, ?_, ?_, ⟨?_, ?_, ?_, ?_⟩, ?_, fun i inside => ?_⟩, ?_⟩
  · rw [only]; exact regions
  · rw [only]; exact pins
  · rw [only]; exact wf
  · rw [only]; exact poison
  · rw [only]; exact under
  · rw [only]; exact stks
  · rw [only]; exact stalls
  · rw [only]; exact outside i inside
  · rw [only]; rfl

/-- Where the repetition fails as well, the unit is poisoned. -/
theorem residue_poisons (e : IEnv) (w : W64) (d : Nat) (s : State) : d / 32 ∈ (e.residue w d true s).mem.poison := by
  unfold IEnv.residue State.sliceResidue
  dsimp only
  rw [if_pos rfl]
  generalize s.ledger _ _ _ _ _ _ _ _ _ _ = t
  have marked := ledger_only (s := { t with mem := { t.mem with poison := insertSorted (d / 32) t.mem.poison } }) 0x0505 1 0x08 (t.dpaStack (32 * (d / 32))).1 none
    (32 * (d / 32)) (t.unitPlace (d / 32)) 0 0 0 0
  show d / 32 ∈ (t.poisonUnit (d / 32)).mem.poison
  have same : (t.poisonUnit (d / 32)).mem.poison = insertSorted (d / 32) t.mem.poison := congrArg (fun s : State => s.mem.poison) marked
  rw [same]
  exact mem_insertSorted_self _ _

/-! ### The two instructions -/

theorem exec_atomg (h : Issues s c g w 0x50 (atomUses (wMod w) .pair true) e) (res : Fin 3) (us : UnitErrs) :
    exec (.atomg c g w false res us) s = .next (e.atomRes true res.val us s) := congrArg Host.Outcome.next (State.issue_of h _)

theorem exec_redg (h : Issues s c g w 0x51 (atomUses (wMod w) .pair false) e) (res : Fin 3) (us : UnitErrs) :
    exec (.redg c g w false res us) s = .next (e.atomRes false res.val us s) := congrArg Host.Outcome.next (State.issue_of h _)

theorem exec_atomg_bad (h : Issues s c g w 0x50 (atomUses (wMod w) .pair true) e) (some_ : e.ex ≠ []) (res : Fin 3) (us : UnitErrs) :
    exec (.atomg c g w true res us) s = .next (e.fault 0x12 0 s) := by
  refine (congrArg Host.Outcome.next (State.issue_of h _)).trans ?_
  unfold IEnv.addressed
  rw [if_pos (by simpa using some_)]

theorem exec_redg_bad (h : Issues s c g w 0x51 (atomUses (wMod w) .pair false) e) (some_ : e.ex ≠ []) (res : Fin 3) (us : UnitErrs) :
    exec (.redg c g w true res us) s = .next (e.fault 0x12 0 s) := by
  refine (congrArg Host.Outcome.next (State.issue_of h _)).trans ?_
  unfold IEnv.addressed
  rw [if_pos (by simpa using some_)]

/-- An atomic that does not wait and whose check holds, at once or on its repetition, performs its one request. -/
theorem AtomAt.performs {v d : Nat} (m : AtomAt s e w v d) (fns : twf {} s.fns = true) (word : e.w = w) (some_ : e.ex ≠ [])
    (goes : e.waits (e.ex.map fun l => (l, v, d)) (atomSize (wMod w)) s = false) (ret : Bool) {res : Nat} (holds : res ≤ 1) :
    let q := e.atomOf w (bytesAt s d (atomSize (wMod w)))
    ∃ t, e.atomRes ret res [] s = e.retire (if ret then setReturns (wMod w) (wD w) e.gr (List.zip e.ex q.1) else e.gr) t ∧
      bytesAt t d (atomSize (wMod w)) = toBytes (atomSize (wMod w)) q.2 ∧ ∀ b, ¬ (d ≤ b ∧ b < d + atomSize (wMod w)) → t.byteAt b = s.byteAt b := by
  dsimp only
  have run {u : State} (m : AtomAt u e w v d) (goes : e.waits (e.ex.map fun l => (l, v, d)) (atomSize (wMod w)) u = false) :=
    (m.atomG word some_ ret).trans (if_neg (by rw [goes]; exact Bool.false_ne_true))
  rw [m.atomRes word some_]
  obtain rfl | rfl : res = 0 ∨ res = 1 := by omega
  · exact ⟨_, run m goes, m.done_reads _⟩
  · have entry := residue_logged fns e w d
    obtain ⟨again, same⟩ := m.logged fns entry
    obtain ⟨word_, off⟩ := again.done_reads (e.atomOf w (bytesAt s d (atomSize (wMod w)))).2
    have done := run again (same.trans goes)
    rw [entry.bytesAt] at done
    exact ⟨_, done, word_, fun b out => (off b out).trans (entry.byteAt b)⟩

end Sys2Proof.Machine

open Sys2Proof Sys2Proof.Machine

/-- Settles O18: all lanes name one address, so the atomic is one request, whose returns are the serial prefixes. -/
theorem atomicInstructions : Obligations.AtomicInstructions := by
  unfold Obligations.AtomicInstructions
  intro s c g w e wf some_
  refine ⟨⟨fun h => exec_atoml_bad h some_, fun h res us => exec_atomg_bad h some_ res us, fun h res us => exec_redg_bad h some_ res us⟩,
    fun a one inside aligned clean h => ?local_, fun v d lanes regions pins under poison stks _ outside => ?global⟩
  case local_ =>
    have run := exec_atoml_one h some_ one inside aligned clean
    obtain ⟨rs, regs, returns⟩ := h.atomOf_returns ((s.core c).rd a (atomSize (wMod w)))
    obtain ⟨word, off⟩ := State.wrLocal_reads wf clean a (atomSize (wMod w)) (e.atomOf w ((s.core c).rd a (atomSize (wMod w)))).2
    dsimp only at run
    rw [regs] at run
    exact ⟨_, rs, run, returns, word.trans (congrArg _ (e.atomOf_left w _)), off⟩
  case global =>
    have fns : twf {} s.fns = true := by
      simp only [State.wf, State.tablesWf, Bool.and_eq_true] at wf
      tauto
    have m : AtomAt s e w v d := ⟨lanes, regions, pins, ⟨State.wf_mem wf, poison, under, stks⟩, (State.wf_units wf).1, outside⟩
    have poisons (word : e.w = w) (ret : Bool) : e.atomRes ret 2 [] s = e.fault 0x11 (d / 32 * 32) (e.residue w d true s) 4 := m.atomRes word some_ ret 2 []
    refine ⟨fun waits => ?_, fun h => ⟨_, (exec_atomg h 2 []).trans (congrArg _ (poisons h.word true)), residue_poisons e w d s⟩,
      fun h => ⟨_, (exec_redg h 2 []).trans (congrArg _ (poisons h.word false)), residue_poisons e w d s⟩, fun goes => ?_⟩
    · have holds (word : e.w = w) (ret : Bool) : e.atomRes ret 0 [] s = s := (m.atomRes word some_ ret 0 []).trans ((m.atomG word some_ ret).trans (if_pos waits))
      exact ⟨fun h => (exec_atomg h 0 []).trans (congrArg _ (holds h.word true)), fun h => (exec_redg h 0 []).trans (congrArg _ (holds h.word false))⟩
    · have left := congrArg (toBytes (atomSize (wMod w))) (e.atomOf_left w (bytesAt s d (atomSize (wMod w))))
      refine ⟨fun h res holds => ?_, fun h res holds => ?_⟩
      · obtain ⟨t, run, word, off⟩ := m.performs fns h.word some_ goes true holds
        obtain ⟨rs, regs, returns⟩ := h.atomOf_returns (bytesAt s d (atomSize (wMod w)))
        rw [if_pos rfl, regs] at run
        exact ⟨t, rs, (exec_atomg h res []).trans (congrArg _ run), returns, word.trans left, off⟩
      · obtain ⟨t, run, word, off⟩ := m.performs fns h.word some_ goes false holds
        exact ⟨t, (exec_redg h res []).trans (congrArg _ run), word.trans left, off⟩

end
